-- ==== Sys2Proof/Word.lean ====
section
/-! DEFINITION. Words, bytes and the sparse tables the state is made of. -/

namespace Sys2Proof

/-- A byte of memory. -/
abbrev Byte := BitVec 8

/-- A 64-bit register of the map (R439) or word of a record (R326). -/
abbrev Word := BitVec 64

/-- A table by number: rising keys, and no entry equal to what an unlisted number reads as. -/
abbrev Sparse (α : Type) := List (Nat × α)

end Sys2Proof
end

