-- ==== Sys2Proof/Syntax.lean ====
section
/-! DEFINITION. The commands of the block, one constructor for each row of spec/opcode_table.json in its
order, with the operands the row's event brings with it. -/

namespace Sys2Proof

/-- Who accesses the map of BAR0: the host through the link, or a core through its image (R440, R444). -/
inductive Port where
  | host | core
  deriving DecidableEq, Repr

/-- Which part of a 64-bit register an access addresses (R439): all of it, bits [31:0] or bits [63:32]. The
value written by a 4-byte access is in the low 32 bits of the operand. -/
inductive Part where
  | whole | low | high
  deriving DecidableEq, Repr

/-- How a host read that the module issued ends (R290). -/
inductive ReadReply where
  | data (bytes : List Byte)
  | poisoned (bytes : List Byte)
  | ur
  | ca
  deriving DecidableEq, Repr

/-- Capabilities of the endpoint (Table 3 of chapter 11). -/
inductive Capability where
  | pciExpress | powerManagement | msix | aer | doe | resizableBar | deviceSerialNumber | dataLinkFeature
  | physicalLayer16 | physicalLayer32 | physicalLayer64 | laneMargining
  deriving DecidableEq, Repr

/-- Registers of configuration space (R286): a double word of the Type 0 header, and those of the PCIe capabilities whose
contents the rules give. -/
inductive CfgItem where
  | header (dword : Nat)
  | capability (k : Nat)
  | powerStatus
  | deviceCapabilities
  | deviceControl
  | deviceControl2
  | linkCapabilities
  | linkStatus
  | msixControl
  | msixTable
  | msixPba
  | rebarCapability
  | rebarControl
  | serial (high : Bool)
  deriving DecidableEq, Repr

/-- A configuration request that the rules read (R211, R286, R289, R290, R298, R331), and a read of BAR4 (R287), for which the
table has no row of its own (log entry 87). -/
inductive CfgWrite where
  | busMaster (on : Bool)
  | d3hot (on : Bool)
  | msixEnable (on : Bool)
  | msixMask (on : Bool)
  | atomicRequester (on : Bool)
  | maxPayload (log2 : Nat)
  | timeoutRange (code : BitVec 4)
  | bar2Size (log2Gib : Nat)
  | headerDword (dword : Nat) (val : BitVec 32)
  | read (item : CfgItem)
  | bar4Read (offset size : Nat)
  deriving DecidableEq, Repr

/-- A memory request of a downstream device in root-port mode (R293). -/
inductive DownReq where
  | read (addr len : Nat)
  | write (addr : Nat) (bytes : List Byte) (ep : Bool)
  | peer
  deriving DecidableEq, Repr

/-- Privilege modes of a core (R195). -/
inductive CoreMode where
  | u | s | m
  deriving DecidableEq, Repr

/-- A PMP entry of a core (Table 10 of chapter 07): its configuration byte and its address register. -/
structure PmpEntry where
  cfg : Nat := 0
  addr : Nat := 0
  deriving DecidableEq, Repr

/-- What a core's own instructions have left in the registers that rule its accesses (R190, R195): its privilege mode, the two
envcfg registers and the PMP entries, at most 16. -/
structure CoreEnv where
  mode : CoreMode := .m
  menvcfg : Nat := 0
  senvcfg : Nat := 0
  pmp : List PmpEntry := []
  deriving DecidableEq, Repr

/-- An access of a core as its own MMU presents it: bytes, whether the page has the NC or IO type (R182, R209), whether it is
an instruction fetch, and the registers that rule it. -/
structure CoreAcc where
  size : Nat
  uncached : Bool := false
  fetch : Bool := false
  env : CoreEnv := {}
  deriving DecidableEq, Repr

/-- Kinds of atomic at the home (Table 6 of chapter 06, R210). -/
inductive AtomKind where
  | add | and | or | xor | swap | min | max | minu | maxu | cas | fadd | fmin | fmax | exactAdd
  deriving DecidableEq, Repr

/-- One atomic on a naturally aligned target: its size in bytes, operand and compare value. -/
structure AtomReq where
  kind : AtomKind
  size : Nat
  operand : Nat
  compare : Nat
  /-- Operands and compare values of the further lanes of a combined operation, in ascending lane order (R160). -/
  more : List (Nat × Nat) := []
  deriving DecidableEq, Repr

/-- An atomic of a core: the access as its MMU presents it, whose size is the atomic's, and the atomic (R210). -/
structure CoreAmoReq where
  acc : CoreAcc
  atom : AtomReq
  deriving DecidableEq, Repr

/-- A maintenance instruction of a core: its address, the registers that rule it (R190), and whether its page has the NC or IO type
(R182). -/
structure CboReq where
  addr : Nat
  env : CoreEnv := {}
  uncached : Bool := false
  deriving DecidableEq, Repr

/-- Where a response or notice of the fabric comes from: the module that sent it and the port it arrives on (R278, R284). -/
structure AckSrc where
  peer : Nat
  port : Nat
  deriving DecidableEq, Repr

/-- A handshake of an end-to-end context: its sender, the port it arrives on, and whether it answers one of this module (R278). -/
structure Handshake where
  peer : Nat
  port : Nat
  reply : Bool
  deriving DecidableEq, Repr

/-- What a frame of a Dembet link brings (R277): packets, or the neighbour's request for a retry. -/
inductive FrameKind where
  | packets | retry
  deriving DecidableEq, Repr

/-- How training of a Dembet port ends (R254). -/
inductive TrainResult where
  | up (lanes : BitVec 2) (node : BitVec 14) (port : BitVec 6)
  | failed
  deriving DecidableEq, Repr

/-- Why a port goes down (R282). -/
inductive DownCause where
  | linkFailure | disabled | rung
  deriving DecidableEq, Repr

/-- Kinds of fabric packet (R269-R275, R281). -/
inductive PktKind where
  | get | put | deliver | flag | atomic (op : AtomReq)
  deriving DecidableEq, Repr

/-- A fabric request packet as it arrives (R252, R266, R267, R278). -/
structure Packet where
  port : Nat
  src : Nat
  dst : Nat
  seq : Nat
  kind : PktKind
  ordered : Bool
  offset : Nat
  length : Nat
  data : List Byte
  /-- Poisoned sectors of the 256-byte block of its offset (R193, R261). -/
  poisoned : BitVec 4
  bank : Bool
  response : Bool
  hops : Nat
  crcOk : Bool
  /-- The sender's operation that it belongs to (R260, R276). -/
  op : Nat := 0
  deriving DecidableEq, Repr

/-- A 10 us and 100 us sample of the power manager (R365): input power in mW, its average over the last
500 us, the power of each domain in mW, the hottest junction of each die in 0.1 degC. -/
structure PowerReading where
  inputMw : Nat
  avg500Mw : Nat
  domainMw : List Nat
  junctions : List Int
  deriving DecidableEq, Repr

/-- What wakes the module (R385). -/
inductive Wake where
  | doorbell | bar2 | d0 | perst | coreInterrupt | fabricPacket | managementBus
  deriving DecidableEq, Repr

/-- Where an SRAM word stands that fails (R191): in the staging or the accumulators of a pair, in its register file, or in a TLB. -/
inductive SramSpot where
  | other
  /-- A byte of a slice buffer, by (buffer × 2 + operand) × 2^20 + byte. -/
  | staging (byte : Nat)
  | accumulator (tile : Nat)
  | register (slot lane reg : Nat)
  | tlb (agent va : Nat)
  /-- A byte of the scratch of ring n's grant. -/
  | scratch (ring byte : Nat)
  /-- A line of a private cache: an engine's L1, a core's L1 or L2. -/
  | cache (cache line sector : Nat)
  deriving DecidableEq, Repr

/-- An error event counted by R391: its rule class, its item, and what its action acts on. -/
structure ErrEvent where
  cls : Nat
  item : Nat
  die : Nat
  unit : Nat
  pa : Nat
  injected : Bool
  structural : Bool
  /-- Wrong bits of the SRAM word: more than one cannot be corrected (R191). -/
  wrong : Nat := 1
  spot : SramSpot := .other
  /-- Further granules with a piece in the row of an HBM4 error (class 6 of R391). -/
  rowGranules : List Nat := []
  /-- Wires of the group charged by a flit that failed at the die's end, with their errors (class 1; R347). -/
  charges : List (Nat × Nat) := []
  deriving DecidableEq, Repr

/-- A firmware image: its 832-byte header and its body (R409). -/
structure Image where
  header : List Byte
  body : List Byte
  deriving DecidableEq, Repr

/-- Outcome of a unit's treatment on the sideshow (R398). -/
inductive SideResult where
  | passed | failed (outputs : Nat) | untreatable (reason : Nat)
  deriving DecidableEq, Repr

/-- Fence predecessor and successor sets of a core (R216). -/
structure FenceSets where
  predI : Bool
  predO : Bool
  predR : Bool
  predW : Bool
  succI : Bool := true
  succO : Bool := true
  succR : Bool := true
  succW : Bool := true
  /-- FENCE.I (R198), which orders nothing else. -/
  fencei : Bool := false
  deriving DecidableEq, Repr

/-- The bindings of the management bus (R419). -/
inductive Binding where
  | i3c | smbus | pcieVdm
  deriving DecidableEq, Repr

/-- An MCTP control message (R419). -/
inductive MctpControl where
  | setEndpointId (eid : BitVec 8)
  | getEndpointId
  | getMessageTypes
  | other (code : BitVec 8)
  /-- Requests of the management bus beside MCTP control for which the table has no row (log entry 41): the assignment of a dynamic
  address on I3C, PLDM base, and the request that opens a firmware update. -/
  | i3cAddress (addr : BitVec 7)
  | pldmSetTid (tid : BitVec 8)
  | pldmGetTid
  | pldmGetTypes
  | pldmRequestUpdate
  deriving DecidableEq, Repr

/-- A flit on a die link: 128 data bytes and the 128-bit sideband of Table 2 of chapter 13 (R345). -/
structure Flit where
  data : List Byte
  side : BitVec 128
  deriving DecidableEq, Repr

/-- A die's identity frame (R355). -/
structure Identity where
  kind : Nat
  stepping : Nat
  uid : Nat
  groups : Nat
  crcOk : Bool
  deriving DecidableEq, Repr

/-- Kinds of access that a translation is checked for (R225). -/
inductive Access where
  | read | write | atomic | fetch
  deriving DecidableEq, Repr

/-- The commands. -/
inductive Instr where
  | powerOn (lid : BitVec 3) (rolePins : BitVec 2) (addrSel : BitVec 3) (slotId : BitVec 6)
  | deviceReady (memTrained : Bool)
  | powerLoss
  | perstAssert
  | perstDeassert
  | hotReset
  | flr
  | linkLoss
  | retrain (speed width : BitVec 4)
  | freezeComplete
  | pickleDescend
  | pickleResume (ring : Nat)
  | pickleDiscard (ring : Nat)
  | scrubFillDone
  | configWrite (w : CfgWrite)
  | bmeWaitExpire
  | hostReadCompletion (tag : Nat) (reply : ReadReply)
  | completionTimeout (tag : Nat)
  | postedWriteAck
  | hostAtomicopReceive (bar : Nat)
  | inboundMsiWrite (addr : Nat) (data : BitVec 32)
  | inboundDownstreamRequest (req : DownReq)
  | bar2Read (v len : Nat)
  | bar2Write (v : Nat) (data : List Byte) (ep : Bool)
  | registerWrite (src : Port) (offset size : Nat) (val : Word)
  | setupCommit (val : Word)
  | srIndexWrite (ch : Port) (part : Part) (val : Word)
  | srSnapshotDone (ch : Port)
  | ringCfgWrite (ring : Nat) (part : Part) (val : Word)
  | eventRingCfgWrite (part : Part) (val : Word)
  | ringDb (ring : Nat) (part : Part) (val : Word)
  | abort (ring : Nat)
  | restartNext (ring : Nat)
  | restartSame (ring : Nat)
  | clrErr (ring : Nat)
  | descReadReturn (ring : Nat)
  | descReread (ring : Nat)
  | descNop (ring : Nat)
  | chain (ring : Nat)
  | transform (ring : Nat)
  | program (ring : Nat)
  | maintClean (ring : Nat)
  | maintInvalidate (ring : Nat)
  | maintCleanInvalidate (ring : Nat)
  | invalidateRange (ring : Nat)
  | invalidateAll (ring : Nat)
  | setRoot (ring : Nat)
  | hold (ring : Nat)
  | release (ring : Nat)
  | xltOpDrained (ring : Nat)
  | holdLimitExpire (start : Nat)
  | fabricPut (ring : Nat)
  | fabricGet (ring : Nat)
  | deliver (ring : Nat)
  | fabricAtomic (ring : Nat)
  | fabricFence (ring : Nat)
  | routeLoad (ring : Nat)
  | flagSend (ring : Nat)
  | push (ring : Nat)
  | census (ring : Nat)
  | powerHint (ring : Nat)
  | test (ring : Nat)
  | descWait (ring : Nat)
  | ringWaitSatisfied (ring : Nat)
  | waitExpired (ring : Nat)
  | operationAdmit (ring : Nat)
  | operationComplete (ring : Nat)
  | msixModerationExpire (ring : Option Nat)
  | arrayBeat (array : Nat)
  | passStart (array : Nat)
  | passEnd (array : Nat)
  | sliceArrive (array : Nat) (operandB : Bool) (bytes : Nat)
  | arrivalTimeout (array : Nat)
  | tileDrain (array : Nat)
  | tileCommit (ring : Nat)
  | bandFinish (ring rowGroup : Nat)
  | partialChunkReceive (ring sender : Nat) (chunk : List Byte)
  | wTreeReceive (ring position : Nat) (tile : Nat) (values : List (BitVec 80))
  | transformTurn (ring : Nat)
  | nop (engine group : Nat)
  | iadd (engine group : Nat)
  | isub (engine group : Nat)
  | imul (engine group : Nat)
  | imulh (engine group : Nat)
  | and (engine group : Nat)
  | or (engine group : Nat)
  | xor (engine group : Nat)
  | shl (engine group : Nat)
  | shr (engine group : Nat)
  | icmp (engine group : Nat)
  | sel (engine group : Nat)
  | mov (engine group : Nat)
  | sreg (engine group : Nat)
  | limm (engine group : Nat)
  | br (engine group : Nat)
  | brz (engine group : Nat)
  | brnz (engine group : Nat)
  | jmp (engine group : Nat)
  | join (engine group : Nat)
  | sleep (engine group : Nat)
  | sleepExpire (engine group : Nat)
  | exit (engine group : Nat)
  | wrelu (engine group : Nat)
  | fadd (engine group : Nat)
  | fsub (engine group : Nat)
  | fmul (engine group : Nat)
  | ffma (engine group : Nat)
  | fmin (engine group : Nat)
  | fmax (engine group : Nat)
  | fcmp (engine group : Nat)
  | fdiv (engine group : Nat)
  | fsqrt (engine group : Nat)
  | frcp (engine group : Nat)
  | frsqrt (engine group : Nat)
  | fexp2 (engine group : Nat)
  | flog2 (engine group : Nat)
  | fsin (engine group : Nat)
  | fcos (engine group : Nat)
  | cvt (engine group : Nat)
  | wadd (engine group : Nat)
  | wmul (engine group : Nat)
  | wfma (engine group : Nat)
  | wmin (engine group : Nat)
  | wmax (engine group : Nat)
  | wcmp (engine group : Nat)
  | wclamp (engine group : Nat)
  | wcvtin (engine group : Nat)
  | wcvtout (engine group : Nat)
  | wround (engine group : Nat)
  | ld (engine group : Nat)
  | st (engine group : Nat)
  | atom (engine group : Nat)
  | exactAdd (pa : Nat) (fp64 : Bool) (values : List Nat)
  | exrd (engine group : Nat)
  | copy (engine group : Nat)
  | tcopy (engine group : Nat)
  | tstore (engine group : Nat)
  | copyDataArrive (engine copyId bytes : Nat)
  | rdcnt (engine group : Nat)
  | setcnt (engine group : Nat)
  | wait (engine group : Nat)
  | waitSatisfied (engine group : Nat)
  | waitTimeout (engine group : Nat)
  | fence (engine group : Nat)
  | groupStart (ring engine : Nat)
  | recoveryModeExit (engine : Nat)
  | engineCheckDone (engine : Nat)
  | rds (cache line : Nat)
  | rdu (cache line : Nat)
  | upg (cache line : Nat)
  | rdonce (agent line : Nat)
  | wrline (agent addr : Nat) (data : List Byte)
  | atomRequest (agent addr : Nat) (req : AtomReq)
  | wb (cache line : Nat)
  | ev (cache line : Nat)
  | slotLock (slot line : Nat)
  | snoopReceive (cache line : Nat)
  | coherenceDataReceive (line : Nat)
  | finalAckReceive (line : Nat)
  | loanReturn (granule : Nat)
  | lrSnoopDelayExpire (core : Nat)
  | cboClean (core : Nat) (req : CboReq)
  | cboFlush (core : Nat) (req : CboReq)
  | cboInval (core addr : Nat) (env : CoreEnv)
  | cboZero (core : Nat) (req : CboReq)
  | patrolScrub (sector wrong : Nat)
  | hotpageDecay
  | hotpageMuteExpire (region : Nat)
  | portPartnerDetect (port : Nat)
  | portTrainDone (port : Nat) (result : TrainResult)
  | portDown (port : Nat) (cause : DownCause)
  | fabPortEnWrite (part : Part) (val : Word)
  | frameReceive (port : Nat) (crcOk : Bool) (kind : FrameKind)
  | packetForward (port : Nat) (pkt : Packet)
  | fabricGetReceive (pkt : Packet)
  | fabricPutReceive (pkt : Packet)
  | fabricFlagReceive (pkt : Packet)
  | fabricAtomicReceive (pkt : Packet)
  | deliveryReceive (pkt : Packet)
  | receivedAck (src : AckSrc) (seq : Nat)
  | performedAck (src : AckSrc) (seq : Nat) (data : List Byte) (poisoned : BitVec 4)
  | negativeAckReceive (src : AckSrc) (seq reason : Nat)
  | gapNoticeSend (peer seq : Nat)
  | gapNoticeReceive (src : AckSrc) (seq : Nat)
  | rtoExpire (peer seq : Nat)
  | e2eTimeout (peer : Nat)
  | busyNoticeReceive (src : AckSrc) (seq : Nat)
  | busyResend (peer seq : Nat)
  | fabWinWrite (window word : Nat) (part : Part) (val : Word)
  | winDrainDone
  | fabRtDataWrite (part : Part) (val : Word)
  | routeCommit (part : Part) (val : Word)
  | routeHoldExpire
  | dodgemCtlWrite (part : Part) (val : Word)
  | dodgemReorderRelease
  | flitReceive (port lane : Nat) (flit : Flit)
  | nakReceive (port lane seq : Nat)
  | wireRecentre (port group wire : Nat)
  | wireRemap (port group : Nat) (toDie : Bool)
  | laneRetire (port lane : Nat) (toDie : Bool)
  | discoveryFrame (port : Nat) (frame : Identity)
  | powerSample (reading : PowerReading)
  | powerStep
  | domainIdleLower (domain : Nat)
  | creditUpdate (avgMw : Nat)
  | thermalLimitStep (die : Nat) (junction : Int)
  | thermalTrip (die : Nat) (junction : Int)
  | thermalShutdown (die : Nat) (junction : Int)
  | coldJunctionHold (die : Nat) (junction : Int)
  | lidRecheck (code : BitVec 3)
  | safetyNetAssert (regulator : Nat)
  | safetyNetRelease
  | coolantLoss
  | coolantLossEnd
  | ageingCheck (unit : Nat) (short : Bool)
  | wearLedgerWrite
  | forecastPublish
  | pwrFixedWrite (part : Part) (val : Word)
  | rung1Enter
  | rung2Enter
  | rung3Enter
  | rungWake (wake : Wake)
  | enterRung4
  | enterRung5
  | memInitDone
  | correctedError (ev : ErrEvent)
  | pairSubstitute (die unit : Nat)
  | retirePendingDone (die unit : Nat)
  | retire (kind die unit : Nat)
  | restore (kind die unit : Nat)
  | clearPages
  | repCmdDone (passed : Bool)
  | sideshowBegin (ring : Nat)
  | sideshowEnd (ring : Nat) (result : SideResult)
  | controllerWatchdog (controller : Nat)
  | svnCommit
  | imageTransferDone (image : Image)
  | activateFirmware
  | getVersion
  | getCapabilities
  | negotiateAlgorithms (asym hash : Nat)
  | getDigests
  | getCertificate (slot offset length : Nat)
  | challenge (slot nonce : Nat)
  | getMeasurements (index : Nat) (sign : Bool)
  | spdmUnsupportedRequest (code : BitVec 8)
  | sensorRead (id : Nat)
  | coolantEffecter (state : Nat)
  | inletEffecter (value : Nat)
  | powerCapEffecter (watts : Nat)
  | rungRequestEffecter (state : Nat)
  | pcieRoleEffecter (role : Nat)
  | linkUp (speed width : BitVec 4) (flit : Bool)
  | msixTableWrite (offset size : Nat) (val : Word)
  | rootPortErrorReceive (port : Nat) (status : BitVec 32)
  | bar0Read (src : Port) (offset size : Nat)
  | eventRingHeadWrite (part : Part) (val : Word)
  | setupCommitDone
  | thermalTripClear (die : Nat) (junction : Int)
  | coldJunctionEnd (die : Nat) (junction : Int)
  | snoopResponseReceive (line cache : Nat)
  | wbAckReceive (cache line : Nat)
  | memoryReadReturn (sector wrong : Nat)
  | pageWalkDone (agent va : Nat) (access : Access) (began : BitVec 32)
  | coreSubstitute (core : Nat)
  | firmwareHandoverDone
  | controllerRestartDone (controller : Nat)
  | mctpControlRequest (binding : Binding) (req : MctpControl)
  | e2eHandshake (shake : Handshake)
  | coreLoad (core pa : Nat) (acc : CoreAcc)
  | coreStore (core pa : Nat) (acc : CoreAcc) (val : Nat)
  | coreAmo (core pa : Nat) (req : CoreAmoReq)
  | coreLr (core pa : Nat) (acc : CoreAcc)
  | coreSc (core pa : Nat) (acc : CoreAcc) (val : Nat)
  | coreFence (core : Nat) (sets : FenceSets)
  | coreWfi (core : Nat)
  deriving DecidableEq, Repr

end Sys2Proof
end

