-- ==== Sys2Proof/Config.lean ====
section
/-! DEFINITION. What the module fixes for every run: the free values the manual leaves open (no body:
nothing can evaluate them) and the figures of its tables that a command's effect uses. -/

namespace Sys2Proof.Config

/-- A fresh free value: applied to the counter State.free (log entry 1). -/
opaque freeValue : Nat → BitVec 64

/-- The value the XCN pipe returns for an operation (opcode), operand type and operands: one value for a
given input (R151). Where R151 bounds the result, the model keeps the bound (log entry 8). -/
opaque xcn (op ty : Nat) (a b : BitVec 64) : BitVec 64

/-- The W result of a transcendental epilogue operation for an input (R91): one value for a given input,
held to the bound of R91 by the model (log entry 8). -/
opaque epilogue (op : Nat) (x : BitVec 80) : BitVec 80

/-- Payload, header and returned credits of a flit that carries messages, for a draw (R343, R345): the manual gives no encoding. -/
opaque flitPayload : BitVec 64 → BitVec 1024
opaque flitHeader : BitVec 64 → BitVec 64
opaque flitCredit : BitVec 64 → BitVec 8

/-- mhartid of the core whose interrupt file a 4 KiB page of the inbound MSI range is, none above 151, and the number of interrupt
identities that a file implements (R293): the manual gives neither. -/
opaque interruptFile : Nat → BitVec 8
opaque interruptIdentities : BitVec 11

/-- SPARES_USED of HUB_DLINK_STATUS where more than 255 groups use their spare (R353). -/
opaque sparesOver : Nat → BitVec 8

/-- Bytes of a signature, certificate or digest that the Ticket Booth returns (R416-R418): free. -/
opaque trustByte (what index : Nat) : BitVec 8

/-- The certificates of slot 0 (R416): their bytes and lengths. Pieces 0 and 1 are the root and the intermediate certificate, 2 and
3 the identity certificate before and after its subject's serialNumber. -/
opaque certByte (piece i : Nat) : BitVec 8
opaque certLength (piece : Nat) : BitVec 12

/-- Letters of the serialNumber's hexadecimal digits are lower case (R416 does not say). -/
opaque serialLower : Bool

/-- Key hash of a one-time-programmable slot (R409), and the bytes of a shipped image's digest (R418). -/
opaque otpKeyHash (slot : Nat) : BitVec 256
opaque shippedDigest (component i : Nat) : BitVec 8

/-- A double word of configuration space that the manual does not give (R286): the position of the capability list, what
identifies a root port, and the rest. -/
opaque configWord : Nat → BitVec 32

/-- Double word of a root port's configuration space that holds its link control and status (R291). -/
opaque rootLinkDword : Nat

/-- The highest point whose full-load current the remaining phases of a rail carry, by rail and phases retired
(R395): the manual gives no figures of phases or currents. -/
opaque phaseCap (rail retired : Nat) : BitVec 3

/-- Q(h) in W (R381), of the work expected to run, as die and units of each chain or program, and of each domain's power predicted at
its target: the manual does not say what power a declared unit adds. -/
opaque forecastWatts (work : List (Nat × Nat)) (domainMw : List Nat) : BitVec 16

/-- Power in mW, averaged over the 10 ms before a tick of H, of a consumer group of Table 8 of chapter 01 that has no domain: HBM4,
LPDDR5X, and the losses (R365). -/
opaque groupMw (group ticks : Nat) : BitVec 32

/-- Array beat rate in Mbeat/s by operating point, typical at 70 degC (Table 4 of chapter 01, R25). -/
def beatRate : List Nat := [1300, 1500, 1700, 1900, 2150, 2400, 2650, 2900]

/-- Guaranteed array beat rate in Mbeat/s by operating point (Table 7 of chapter 01, R28). -/
def beatRateMin : List Nat := [1190, 1380, 1560, 1740, 1970, 2200, 2430, 2660]

/-- Core turns in Mturn/s by operating point (Table 4 of chapter 01, R25). -/
def coreRate : List Nat := [1950, 2250, 2550, 2850, 3230, 3600, 3980, 4350]

/-- Rail in mV by operating point (Table 4 of chapter 01, R25). -/
def railMv : List Nat := [550, 590, 630, 670, 710, 750, 800, 850]

/-- System-cache hit latency in ns by operating point, typical (Table 4 of chapter 01). -/
def hitNs : List Nat := [63, 54, 47, 42, 38, 34, 31, 29]

/-- MACs per array per beat by element format code (Table 2 of chapter 01, R18): FP64, FP32, BF16, FP16,
E5M2, E4M3, E2M1, INT8. -/
def macsPerBeat : List Nat := [256, 1024, 4096, 4096, 8192, 8192, 16384, 8192]

/-- Sustained envelope in W by PROFILE code (Table 1 of chapter 14, R357). -/
def envelopeW : List Nat := [0, 1600, 3000, 2500]
/-- Electrical ceiling in W by PROFILE code. -/
def ceilingW : List Nat := [0, 2000, 3800, 3000]
/-- Credit capacity at the reference inlet in J by PROFILE code. -/
def creditJ : List Nat := [0, 800, 4600, 6000]
/-- Reference inlet in 0.1 degC by PROFILE code. -/
def inletRef : List Nat := [0, 250, 300, 350]
/-- Maximum inlet in 0.1 degC by PROFILE code. -/
def inletMax : List Nat := [0, 350, 400, 450]

/-- Idle power of a rung in mW (Table 13 of chapter 14, R383); rung 0 has no idle figure and takes rung 1's. -/
def rungMw : List Nat := [300000, 300000, 30000, 3000, 300, 30]

/-- Default rules of Table 3 of chapter 15 (R391): COUNT, WINDOW, UNIT (0 ms, 1 s, 2 h) of classes 0-11. -/
def ruleDefault : List (Nat × Nat × Nat) :=
  [(3, 24, 2), (16, 1, 1), (2, 1, 2), (8, 1, 2), (8, 24, 2), (3, 24, 2), (4, 24, 2), (4, 24, 2),
   (1, 1, 0), (64, 1, 1), (1, 1, 0), (2, 1, 2)]

end Sys2Proof.Config
end

