-- ==== Sys2Proof/Machine/Operands.lean ====
section
/-! DEFINITION. Number formats, exact values, rounding and conversion (chapter 02), and the bit-field and
byte-order helpers of the operands. -/

namespace Sys2Proof.Machine

/-! ### Bits and bytes -/

/-- Bits [lo + w - 1 : lo] of a number. -/
def bits (x lo w : Nat) : Nat := (x >>> lo) % 2 ^ w

/-- Bit i of a number. -/
def bit (x i : Nat) : Bool := bits x i 1 == 1

/-- The n bytes of x, least significant first (R35). -/
def toBytes : Nat → Nat → List Byte
  | 0, _ => []
  | n + 1, x => BitVec.ofNat 8 x :: toBytes n (x / 256)

/-- The number that little-endian bytes spell (R35). -/
def ofBytes : List Byte → Nat
  | [] => 0
  | b :: bs => b.toNat + 256 * ofBytes bs

/-- Two's complement reading of the low w bits. -/
def toSigned (w x : Nat) : Int :=
  let y := x % 2 ^ w
  if y < 2 ^ (w - 1) then (y : Int) else (y : Int) - (2 ^ w : Nat)

/-- Two's complement encoding in w bits. -/
def ofSigned (w : Nat) (x : Int) : Nat := (x % (2 ^ w : Nat)).toNat

/-- Ceiling division. -/
def cdiv (a b : Nat) : Nat := (a + b - 1) / b

/-- The number formats of Table 1 of chapter 02 (R34) and W. -/
inductive Fmt where
  | fp64 | fp32 | bf16 | fp16 | e5m2 | e4m3 | e2m1 | int8 | int32 | code4 | w
  deriving DecidableEq, Repr

/-- Element format codes (Table 1 of chapter 02, R34); the others are reserved. -/
def fmtOfCode : Nat → Option Fmt
  | 0 => some .fp64 | 1 => some .fp32 | 2 => some .bf16 | 3 => some .fp16 | 4 => some .e5m2
  | 5 => some .e4m3 | 6 => some .e2m1 | 7 => some .int8 | 8 => some .int32 | 9 => some .code4
  | _ => none

/-- Width in bits (Table 1 of chapter 02; a W value is 80 bits, R35). -/
def fmtBits : Fmt → Nat
  | .fp64 => 64 | .fp32 => 32 | .bf16 => 16 | .fp16 => 16 | .e5m2 => 8 | .e4m3 => 8 | .e2m1 => 4
  | .int8 => 8 | .int32 => 32 | .code4 => 4 | .w => 80

/-- Exponent bits, fraction bits and bias (Table 3 of chapter 02, R36); 0 for the integers. -/
def fmtParts : Fmt → Nat × Nat × Nat
  | .fp64 => (11, 52, 1023) | .fp32 => (8, 23, 127) | .bf16 => (8, 7, 127) | .fp16 => (5, 10, 15)
  | .e5m2 => (5, 2, 15) | .e4m3 => (4, 3, 7) | .e2m1 => (2, 1, 1) | .w => (16, 63, 32767)
  | _ => (0, 0, 0)

/-- The format is an integer format or an index. -/
def fmtIsInt : Fmt → Bool
  | .int8 => true | .int32 => true | .code4 => true | _ => false

/-- Scale formats (Table 2 of chapter 02, R34). -/
inductive ScaleFmt where
  | none | e8m0 | e4m3
  deriving DecidableEq, Repr

def scaleOfCode : Nat → Option ScaleFmt
  | 0 => some .none | 1 => some .e8m0 | 2 => some .e4m3 | _ => Option.none

/-- Rounding modes (Table 5 of chapter 02, R47). -/
inductive Rm where
  | rne | rtz | ru | rd | sr
  deriving DecidableEq, Repr

def rmOfCode : Nat → Option Rm
  | 0 => some .rne | 1 => some .rtz | 2 => some .ru | 3 => some .rd | 4 => some .sr | _ => none

/-- Overflow modes (Table 6 of chapter 02, R49). -/
inductive Ov where
  | dflt | sat | ieee
  deriving DecidableEq, Repr

def ovOfCode : Nat → Option Ov
  | 0 => some .dflt | 1 => some .sat | 2 => some .ieee | _ => none

/-- A value that a format can hold: NaN, an infinity, or ± m × 2^e exactly (m = 0 is a signed zero). -/
inductive Num where
  | nan
  | inf (neg : Bool)
  | fin (neg : Bool) (m : Nat) (e : Int)
  deriving DecidableEq, Repr

/-- An exact magnitude: m × 2^e, or strictly between m × 2^e and (m + 1) × 2^e where sticky. -/
structure Ex where
  neg : Bool
  m : Nat
  e : Int
  sticky : Bool := false
  deriving DecidableEq, Repr

/-- The zero of a sign. -/
def numZero (neg : Bool) : Num := .fin neg 0 0

/-- Value of a bit pattern (R36, R38, R39): every pattern of every format. -/
def decodeNum (f : Fmt) (x : Nat) : Num :=
  match f with
  | .int8 => let v := toSigned 8 x; .fin (v < 0) v.natAbs 0
  | .int32 => let v := toSigned 32 x; .fin (v < 0) v.natAbs 0
  | .code4 => .fin false (x % 16) 0
  | _ =>
    let (eb, fb, bias) := fmtParts f
    let neg := bit x (eb + fb)
    let ex := bits x fb eb
    let fr := bits x 0 fb
    if ex == 0 then .fin neg fr (1 - (bias : Int) - fb)
    else if ex == 2 ^ eb - 1 && f != .e2m1 && !(f == .e4m3 && fr != 2 ^ fb - 1) then
      if f != .e4m3 && fr == 0 then .inf neg else .nan
    else .fin neg (2 ^ fb + fr) ((ex : Int) - bias - fb)

/-- floor(log2 m) of a nonzero m. -/
def topBit (m : Nat) : Nat := m.log2

/-- Smallest exponent weight of a format's last place (R36, R37). -/
def minQ (f : Fmt) : Int := let (_, fb, bias) := fmtParts f; 1 - (bias : Int) - fb

/-- Largest finite magnitude of a format as m × 2^e (Table 3 of chapter 02). -/
def maxFin (f : Fmt) : Nat × Int :=
  match f with
  | .e4m3 => (14, 5)
  | .e2m1 => (3, 1)
  | .int8 => (127, 0)
  | .int32 => (2147483647, 0)
  | .code4 => (15, 0)
  | _ => let (eb, fb, bias) := fmtParts f
         (2 ^ (fb + 1) - 1, (2 ^ eb - 2 : Nat) - (bias : Int) - fb)

/-- m × 2^e at least n × 2^g. -/
def magGe (m : Nat) (e : Int) (n : Nat) (g : Int) : Bool :=
  if e ≥ g then decide (m <<< (e - g).toNat ≥ n) else decide (m ≥ n <<< (g - e).toNat)

/-- m × 2^e above n × 2^g. -/
def magGt (m : Nat) (e : Int) (n : Nat) (g : Int) : Bool := !(magGe n g m e)

/-- Canonical pattern of a value that the format holds exactly (R38 gives the NaN). The integers take the
two's complement of the value. -/
def encodeNum (f : Fmt) (v : Num) : Nat :=
  match f with
  | .int8 | .int32 | .code4 =>
    match v with
    | .fin neg m e =>
      let mag := if e ≥ 0 then m <<< e.toNat else m >>> (-e).toNat
      ofSigned (fmtBits f) (if neg then -(mag : Int) else mag)
    | _ => 0
  | _ =>
    let (eb, fb, bias) := fmtParts f
    let sg (neg : Bool) := if neg then 2 ^ (eb + fb) else 0
    match v with
    | .nan =>
      match f with
      | .e4m3 => 0x7F
      | .e2m1 => 0
      | _ => (2 ^ eb - 1) * 2 ^ fb + 2 ^ (fb - 1)
    | .inf neg => sg neg + (2 ^ eb - 1) * 2 ^ fb
    | .fin neg m e =>
      if m == 0 then sg neg
      else
        let q : Int := max ((topBit m : Int) + e - fb) (minQ f)
        let n := if e ≥ q then m <<< (e - q).toNat else m >>> (q - e).toNat
        if n < 2 ^ fb then sg neg + n
        else sg neg + (q + fb + bias).toNat * 2 ^ fb + (n - 2 ^ fb)

/-- The draw of stochastic rounding (R48). -/
def srDraw (seed index : Nat) : Nat :=
  let w := 2 ^ 64
  let z := (seed + (index + 1) * 0x9E3779B97F4A7C15) % w
  let z := (z ^^^ (z >>> 30)) * 0xBF58476D1CE4E5B9 % w
  let z := (z ^^^ (z >>> 27)) * 0x94D049BB133111EB % w
  let z := z ^^^ (z >>> 31)
  z >>> 40

/-- Rounding of a magnitude to a multiple of 2^q: the integer multiple chosen (R47, R48). -/
def roundAt (rm : Rm) (draw : Nat) (x : Ex) (q : Int) : Nat :=
  if x.e ≥ q then
    let n := x.m <<< (x.e - q).toNat
    if x.sticky then
      match rm with
      | .ru => if x.neg then n else n + 1
      | .rd => if x.neg then n + 1 else n
      | _ => n
    else n
  else
    let k := (q - x.e).toNat
    let n := x.m >>> k
    let rem := x.m % 2 ^ k
    let half := 2 ^ (k - 1)
    if rem == 0 && !x.sticky then n
    else
      match rm with
      | .rne => if rem > half || (rem == half && (x.sticky || n % 2 == 1)) then n + 1 else n
      | .rtz => n
      | .ru => if x.neg then n else n + 1
      | .rd => if x.neg then n + 1 else n
      | .sr => if rem * 2 ^ 24 / 2 ^ k + draw ≥ 2 ^ 24 then n + 1 else n

/-- The overflow mode in force for a destination (Table 6 of chapter 02). -/
def ovFor (f : Fmt) : Ov → Ov
  | .dflt => match f with
    | .fp64 | .fp32 | .bf16 | .fp16 | .w => .ieee
    | _ => .sat
  | o => o

/-- What an overflow of a sign gives (R49). -/
def overflowNum (f : Fmt) (rm : Rm) (ov : Ov) (neg : Bool) : Num :=
  let top : Num := .fin neg (maxFin f).1 (maxFin f).2
  match ovFor f ov with
  | .sat => top
  | _ =>
    if f == .e4m3 then .nan
    else
      match rm with
      | .rtz => top
      | .ru => if neg then top else .inf neg
      | .rd => if neg then .inf neg else top
      | _ => .inf neg

/-- One rounding of an exact value to a floating-point format (R47-R49, R54). -/
def roundFloat (f : Fmt) (rm : Rm) (ov : Ov) (draw : Nat) (x : Ex) : Num :=
  let (_, fb, _) := fmtParts f
  if x.m == 0 && !x.sticky then .fin x.neg 0 0
  else
    let q : Int := max ((topBit x.m : Int) + x.e - fb) (minQ f)
    let n := roundAt rm draw x q
    if magGt n q (maxFin f).1 (maxFin f).2 then overflowNum f rm ov x.neg
    else .fin x.neg n q

/-- One rounding of an exact value to an integer, clamped to lo .. hi (R47, R54). -/
def roundInt (rm : Rm) (draw : Nat) (lo hi : Int) (x : Ex) : Num :=
  let n : Int := roundAt rm draw x 0
  let v := if x.neg then -n else n
  let c := max lo (min hi v)
  .fin (c < 0) c.natAbs 0

/-- Range of a plain integer destination (R39, R50). -/
def intRange : Fmt → Int × Int
  | .int8 => (-128, 127)
  | .int32 => (-2147483648, 2147483647)
  | _ => (0, 15)

/-- Conversion of a value to a stored format under a rounding and an overflow mode (R49, R50, R54). -/
def convertNum (f : Fmt) (rm : Rm) (ov : Ov) (draw : Nat) (v : Num) : Num :=
  if fmtIsInt f then
    let (lo, hi) := intRange f
    match v with
    | .nan => numZero false
    | .inf neg => let c := if neg then lo else hi; .fin neg c.natAbs 0
    | .fin neg m e => roundInt rm draw lo hi ⟨neg, m, e, false⟩
  else
    match v with
    | .nan => if f == .e2m1 then numZero false else .nan
    | .inf neg =>
      match ovFor f ov with
      | .sat => .fin neg (maxFin f).1 (maxFin f).2
      | _ => if f == .e4m3 then .nan else .inf neg
    | .fin neg m e => roundFloat f rm ov draw ⟨neg, m, e, false⟩

/-- Round-to-odd into W (R40): truncation with bit 0 forced where anything was discarded; an overflow is an
infinity, and nothing nonzero becomes a zero. -/
def roundOdd (x : Ex) : Num :=
  if x.m == 0 && !x.sticky then .fin x.neg 0 0
  else
    let q : Int := max ((topBit x.m : Int) + x.e - 63) (minQ .w)
    let n := roundAt .rtz 0 x q
    let exact := !x.sticky && (decide (x.e ≥ q) || x.m % 2 ^ (q - x.e).toNat == 0)
    let n := if exact then n else n ||| 1
    if magGt n q (maxFin .w).1 (maxFin .w).2 then .inf x.neg else .fin x.neg n q

/-! ### Exact arithmetic -/

/-- A value without its special cases, for rounding. -/
def exOf : Num → Ex
  | .fin neg m e => ⟨neg, m, e, false⟩
  | _ => ⟨false, 0, 0, false⟩

/-- Sign of an exact zero sum of two zeros or of a cancellation (R52). -/
def zeroSign (rm : Rm) (a b : Bool) : Bool := if a == b then a else rm == .rd

/-- Exact sum of two finite values; an exact zero takes the sign of R52. -/
def addFin (rm : Rm) (n1 : Bool) (m1 : Nat) (e1 : Int) (n2 : Bool) (m2 : Nat) (e2 : Int) : Num :=
  if m1 == 0 && m2 == 0 then .fin (zeroSign rm n1 n2) 0 0
  else
    let g := min e1 e2
    let a : Int := (m1 <<< (e1 - g).toNat : Nat)
    let b : Int := (m2 <<< (e2 - g).toNat : Nat)
    let s := (if n1 then -a else a) + (if n2 then -b else b)
    if s == 0 then .fin (rm == .rd) 0 0 else .fin (s < 0) s.natAbs g

/-- Exact sum (R51, R52). -/
def addNum (rm : Rm) : Num → Num → Num
  | .nan, _ => .nan
  | _, .nan => .nan
  | .inf a, .inf b => if a == b then .inf a else .nan
  | .inf a, _ => .inf a
  | _, .inf b => .inf b
  | .fin n1 m1 e1, .fin n2 m2 e2 => addFin rm n1 m1 e1 n2 m2 e2

/-- The value of opposite sign. -/
def negNum : Num → Num
  | .nan => .nan
  | .inf a => .inf (!a)
  | .fin n m e => .fin (!n) m e

/-- Exact product (R51, R52). -/
def mulNum : Num → Num → Num
  | .nan, _ => .nan
  | _, .nan => .nan
  | .inf a, .inf b => .inf (a != b)
  | .inf a, .fin n m _ => if m == 0 then .nan else .inf (a != n)
  | .fin n m _, .inf b => if m == 0 then .nan else .inf (n != b)
  | .fin n1 m1 e1, .fin n2 m2 e2 => .fin (n1 != n2) (m1 * m2) (e1 + e2)

/-- Exact quotient to 160 bits and a sticky bit, of finite values with a nonzero divisor. -/
def divFin (n1 : Bool) (m1 : Nat) (e1 : Int) (n2 : Bool) (m2 : Nat) (e2 : Int) : Ex :=
  let k := 160 + topBit m2
  let num := m1 <<< k
  ⟨n1 != n2, num / m2, e1 - e2 - k, num % m2 != 0⟩

/-- Exact square root to 128 bits and a sticky bit, of a finite value not below zero. -/
def sqrtFin (m : Nat) (e : Int) : Ex :=
  let k : Nat := 256 + (if (e % 2) == 0 then 0 else 1)
  let x := m <<< k
  let r := Nat.sqrt x
  ⟨false, r, (e - k) / 2, r * r != x⟩

/-- Strict order of the values, with -0 below +0 (R53). NaN is below nothing. -/
def numLt : Num → Num → Bool
  | .nan, _ => false
  | _, .nan => false
  | .inf a, .inf b => a && !b
  | .inf a, _ => a
  | _, .inf b => !b
  | .fin n1 m1 e1, .fin n2 m2 e2 =>
    if m1 == 0 && m2 == 0 then n1 && !n2
    else if m1 == 0 then !n2
    else if m2 == 0 then n1
    else if n1 != n2 then n1
    else if n1 then magGt m1 e1 m2 e2 else magGt m2 e2 m1 e1

/-- Numeric equality: +0 equals -0. -/
def numEq : Num → Num → Bool
  | .inf a, .inf b => a == b
  | .fin n1 m1 e1, .fin n2 m2 e2 =>
    (m1 == 0 && m2 == 0) || (n1 == n2 && magGe m1 e1 m2 e2 && magGe m2 e2 m1 e1)
  | _, _ => false

/-- IEEE 754-2019 maximum (R53). -/
def maxNum (a b : Num) : Num :=
  match a, b with
  | .nan, _ => .nan
  | _, .nan => .nan
  | _, _ => if numLt a b then b else a

/-- IEEE 754-2019 minimum (R53). -/
def minNum (a b : Num) : Num :=
  match a, b with
  | .nan, _ => .nan
  | _, .nan => .nan
  | _, _ => if numLt b a then b else a

/-- Magnitude. -/
def absNum : Num → Num
  | .nan => .nan
  | .inf _ => .inf false
  | .fin _ m e => .fin false m e

/-- Round-to-odd of an exact value into W, special values kept (R40, R78). -/
def wOf : Num → Num
  | .fin n m e => roundOdd ⟨n, m, e, false⟩
  | v => v

/-! ### Scales (R44, R46) -/

/-- Value of a scale byte (R44). -/
def scaleNum : ScaleFmt → Nat → Num
  | .none, _ => .fin false 1 0
  | .e8m0, x => if x % 256 == 255 then .nan else .fin false 1 ((x % 256 : Nat) - 127)
  | .e4m3, x => decodeNum .e4m3 x

/-- Value of an element of a tensor: its own value, or scaled (R39, R44). -/
def scaledNum (f : Fmt) (sf : ScaleFmt) (elem scale : Nat) : Num :=
  match sf with
  | .none => decodeNum f elem
  | _ =>
    let v := match decodeNum f elem with
      | .fin n m e => if f == .int8 then .fin n m (e - 6) else .fin n m e
      | v => v
    match scaleNum sf scale with
    | .nan => .nan
    | s => mulNum v s

/-- emax of R46. -/
def scaleEmax : Fmt → Int
  | .e4m3 => 8 | .e5m2 => 15 | .e2m1 => 2 | _ => 0

/-- Largest element magnitude of R46. -/
def scaleMaxElem : Fmt → Nat × Int
  | .int8 => (127, -6)
  | f => maxFin f

/-- The shared scale of a block of values, as a scale byte (R46). -/
def blockScale (f : Fmt) (sf : ScaleFmt) (vs : List Num) : Nat :=
  let special := vs.any fun v => match v with | .fin _ _ _ => false | _ => true
  let amax := vs.foldl (fun a v => maxNum a (absNum v)) (numZero false)
  match sf with
  | .none => 0
  | .e8m0 =>
    if special then 0xFF
    else match amax with
      | .fin _ 0 _ => 0x7F
      | .fin _ m e => (max (-127) (min 127 ((topBit m : Int) + e - scaleEmax f)) + 127).toNat
      | _ => 0xFF
  | .e4m3 =>
    if special then 0x7F
    else match amax with
      | .fin _ 0 _ => 0x38
      | .fin n m e =>
        let (mm, me) := scaleMaxElem f
        match roundFloat .e4m3 .ru .sat 0 (divFin n m e false mm me) with
        | .fin _ 0 _ => 1
        | v => encodeNum .e4m3 v
      | _ => 0x7F

/-- An element under its block's scale: the value divided by the scale, converted with SAT (R46). DESIGN CHOICE (log entry 100): the
INT8 elements of a ROWQUANT output, whose descriptor names no scale format, are the MX-INT8 codes of R46 too (R104). -/
def quantElem (f : Fmt) (sf : ScaleFmt) (scale : Nat) (rm : Rm) (draw : Nat) (v : Num) : Nat :=
  match scaleNum sf scale with
  | .nan => 0
  | .inf _ => 0
  | .fin sn sm se =>
    if sm == 0 then 0
    else match v with
      | .fin n m e =>
        if m == 0 then encodeNum f (.fin (n != sn) 0 0)
        else
          let x := divFin n m e sn sm se
          if f == .int8 then encodeNum .int8 (roundInt rm draw (-127) 127 { x with e := x.e + 6 })
          else encodeNum f (roundFloat f rm .sat draw x)
      | _ => 0

/-- A block quantised into a scaled format: its scale byte and its elements (R46). A block of zeros holds +0
in every element. -/
def quantBlock (f : Fmt) (sf : ScaleFmt) (rm : Rm) (draws : List Nat) (vs : List Num) : Nat × List Nat :=
  let s := blockScale f sf vs
  let zero := vs.all fun v => match v with | .fin _ 0 _ => true | _ => false
  if zero then (s, vs.map fun _ => 0)
  else (s, (vs.zip (draws ++ vs.map fun _ => 0)).map fun p => quantElem f sf s rm p.2 p.1)

end Sys2Proof.Machine
end

