-- ==== Sys2Proof/Machine/Flags.lean ====
section
/-! DEFINITION. Fields of registers and status words: reading a field, writing it, merging a 4-byte write,
writing under a mask, counters that wrap, integer comparisons and the results an ICMP or FCMP gives. -/

namespace Sys2Proof.Machine

/-- Field [lo + w - 1 : lo] of a register. -/
def field (r : Word) (lo w : Nat) : Nat := bits r.toNat lo w

/-- One bit of a register. -/
def flag (r : Word) (i : Nat) : Bool := bit r.toNat i

/-- A word of fields, each (value, lowest bit). -/
def pack : List (Nat × Nat) → Word
  | [] => 0
  | (v, lo) :: t => BitVec.ofNat 64 (v <<< lo) ||| pack t

/-- A Bool as a bit. -/
def one (b : Bool) : Nat := if b then 1 else 0

/-- Mask of field [lo + w - 1 : lo]. -/
def fieldMask (lo w : Nat) : Word := BitVec.ofNat 64 ((2 ^ w - 1) <<< lo)

/-- A write of the bits of a mask; the other bits keep their value (R9, R12). -/
def maskWrite (old mask val : Word) : Word := (old &&& ~~~mask) ||| (val &&& mask)

/-- The bits of a register that an access addresses (R439). -/
def partMask : Part → Word
  | .whole => 0xFFFFFFFFFFFFFFFF
  | .low => 0x00000000FFFFFFFF
  | .high => 0xFFFFFFFF00000000

/-- The value written, in its place in the register (R439): a 4-byte value is in the low half of the operand. -/
def partVal : Part → Word → Word
  | .whole, v => v
  | .low, v => v &&& 0x00000000FFFFFFFF
  | .high, v => v <<< 32

/-- The register after the fields of a mask have taken an access's value (R9, R439). -/
def partWrite (old mask : Word) (p : Part) (v : Word) : Word := maskWrite old (mask &&& partMask p) (partVal p v)

/-- The word that WO fields see: 0 in the half not addressed (R439). -/
def partWo (p : Part) (v : Word) : Word := partVal p v &&& partMask p

/-- A counter that wraps advances by n (R79). -/
def advance (c : Word) (n : Nat) : Word := c + BitVec.ofNat 64 n

/-- Difference of 32-bit counts modulo 2^32 (R309, R313). -/
def countDiff (a b : BitVec 32) : Nat := (a - b).toNat

/-- Relation codes of ICMP (R171): equal, not equal, less, less or equal. -/
def icmpHolds (code : Nat) (lt eq : Bool) : Bool :=
  match code with
  | 0 => eq
  | 1 => !eq
  | 2 => lt
  | _ => lt || eq

/-- Relation codes of FCMP and WCMP (R171): equal, less, less or equal, unordered. -/
def fcmpHolds (code : Nat) (unordered lt eq : Bool) : Bool :=
  match code with
  | 0 => !unordered && eq
  | 1 => !unordered && lt
  | 2 => !unordered && (lt || eq)
  | _ => unordered

end Sys2Proof.Machine
end

