-- ==== Sys2Proof/Machine/State.lean ====
section
/-! DEFINITION. The state of the module: plain data, every field with the value it has after a cold reset.
Registers the map numbers (chapter 18) are words with their fields in the map's places; what lives only
inside the module is typed by what it is. -/

namespace Sys2Proof.Machine

/-! ### Completion records, events -/

/-- The figures of a completion record, whatever its form (R326-R328, Table 15 of chapter 12). -/
structure Res where
  status : Nat := 0
  atom : Nat := 0
  progress : Nat := 0
  second : Nat := 0
  role : Nat := 0
  reason : Nat := 0
  element : Nat := 0
  address : Nat := 0
  node : Nat := 0
  unk : Bool := false
  unkLo : Nat := 0
  unkHi : Nat := 0
  fabricForm : Bool := false
  deriving DecidableEq, Repr

/-- The four words of a completion record (R326). -/
structure Rec where
  w0 : Nat := 0
  w1 : Nat := 0
  w2 : Nat := 0
  w3 : Nat := 0
  deriving DecidableEq, Repr

/-- An onion record before its phase and sequence are known (R335). Unit and die layers are optional. -/
structure Onion where
  cls : Nat
  reason : Nat := 0
  addr : Nat := 0
  param : Nat := 0
  ticks : Nat := 0
  die : Option Nat := none
  dieTicks : Nat := 0
  domain : Nat := 0
  unitKind : Option Nat := none
  unit : Nat := 0
  unitDetail : Nat := 0
  unitCount : Nat := 0
  deriving DecidableEq, Repr

/-! ### Tensors, chains, transforms, programs as loaded -/

/-- A dimension of a tensor descriptor (Table 3 of chapter 05). -/
structure TDim where
  size : Nat := 0
  stride : Int := 0
  padLo : Nat := 0
  padHi : Nat := 0
  deriving DecidableEq, Repr

/-- A blocked dimension in use (Table 2 of chapter 05): the dimension and its block extent. -/
structure TBlk where
  dim : Nat
  ext : Nat
  deriving DecidableEq, Repr

/-- A tensor descriptor as loaded (Table 1 of chapter 05). -/
structure TDesc where
  at_ : Nat := 0
  raw : List Byte := []
  base : Nat := 0
  scaleBase : Nat := 0
  padValue : Nat := 0
  blks : List TBlk := []
  padKind : Nat := 0
  shareDim : Nat := 0
  blockSize : Nat := 0
  scaleFmt : ScaleFmt := .none
  fmt : Fmt := .fp64
  rank : Nat := 0
  dims : List TDim := []
  deriving DecidableEq, Repr

/-- A prologue operation (Table 2 of chapter 04). -/
structure ProOp where
  op : Nat := 0
  operandB : Bool := false
  round : Nat := 0
  target : Nat := 0
  slot : Nat := 0
  slot2 : Nat := 0
  group : Nat := 0
  deriving DecidableEq, Repr

/-- An epilogue operation (Table 4 of chapter 04). -/
structure EpiOp where
  op : Nat := 0
  src : Nat := 0
  slot : Nat := 0
  fmt : Nat := 0
  imm0 : Nat := 0
  imm1 : Nat := 0
  deriving DecidableEq, Repr

/-- A remote slice entry (Table 8 of chapter 04). -/
structure SliceEntry where
  source : Nat := 0
  kFirst : Nat := 0
  push : Bool := false
  operandB : Bool := false
  counter : Nat := 0
  deriving DecidableEq, Repr

/-- A partial plan as loaded (Table 9 of chapter 04). -/
structure Plan where
  nodes : List Nat := []
  senders : Nat := 0
  senderTerms : Nat := 0
  rxOffset : Nat := 0
  rxCounter : Nat := 0
  deriving DecidableEq, Repr

/-- A chain descriptor as loaded (Table 1 of chapter 04). -/
structure ChainDesc where
  shareB : Bool := false
  share : Nat := 0
  rowGroup : Nat := 0
  rowScale : Nat := 0
  rowOps : Nat := 0
  splitFmt : Nat := 0
  stepFmt : Nat := 0
  overflow : Nat := 0
  round : Nat := 0
  partialMode : Nat := 0
  holdRows : Nat := 0
  split : Bool := false
  stepwise : Bool := false
  twoBufs : Bool := false
  product : Bool := false
  seed : Nat := 0
  m : Nat := 0
  n : Nat := 0
  k : Nat := 0
  ks : Nat := 0
  aDesc : Nat := 0
  bDesc : Nat := 0
  cDesc : Nat := 0
  operands : Nat := 0
  statsDesc : Nat := 0
  slices : Nat := 0
  partials : Nat := 0
  creditAddr : Nat := 0
  arrivalMs : Nat := 0
  scratchKib : Nat := 0
  regs : Nat := 0
  groups : Nat := 0
  arrays : Nat := 0
  die : Nat := 0
  pro : List ProOp := []
  epi : List EpiOp := []
  deriving DecidableEq, Repr

/-- A long accumulator with the window of the pass in progress: the exact sum in units of 2^L, the status bits of Table 5
of chapter 03, the window's anchor bin and its signed 48-bit bins, which the sum does not hold yet (R62, R64, R66). -/
structure Lacc where
  sum : Int := 0
  status : Nat := 0
  anchor : Option Nat := none
  window : List (BitVec 48) := []
  deriving DecidableEq, Repr

/-- A tile in flight on an array (R58, R62). -/
structure TileRun where
  tile : Nat
  passes : Nat := 0
  accs : List Lacc := []
  deriving DecidableEq, Repr

/-- Row statistics of one row (R99): maximum of y, exact sums, and the maximum magnitude for ROWQUANT. -/
structure RowStat where
  max : Option Num := none
  maxMag : Option Num := none
  sum : Lacc := {}
  sumsq : Lacc := {}
  smsum : Lacc := {}
  deriving DecidableEq, Repr

/-- A fault met by an operation: status, role, reason, element and address (R245). -/
structure Flt where
  status : Nat
  role : Nat
  reason : Nat
  element : Nat
  address : Nat
  deriving DecidableEq, Repr

/-- A write of a commit: an element of C, a scale of C or an entry of the statistics tensor, with its bits (R101, R115). -/
inductive CWrite where
  | data (idx : List Nat) (raw : Nat)
  | scale (idx : List Nat) (raw : Nat)
  | stat (idx : List Nat) (raw : Nat)
  deriving DecidableEq, Repr

/-- A chain in a ring, from its load to its record (R83, R116). -/
structure ChainRun where
  d : ChainDesc := {}
  a : Option TDesc := none
  b : Option TDesc := none
  c : Option TDesc := none
  stats : Option TDesc := none
  opnds : Sparse TDesc := []
  slices : List SliceEntry := []
  plan : Option Plan := none
  admitted : Bool := false
  arrays : List Nat := []
  first : Nat := 0
  committed : Nat := 0
  bytes : Nat := 0
  /-- W values of drained tiles that are not committed (R75). -/
  ready : Sparse (List Num) := []
  rows : Sparse RowStat := []
  /-- Exact partials by tile: merged from senders, or waiting to be sent (R112, R113). -/
  rx : Sparse (List Lacc) := []
  /-- Chunks taken from each sender; chunks or values of the tile in commit already sent. -/
  rxChunks : Sparse Nat := []
  sentChunks : Nat := 0
  /-- W values received for a tile at a level of the tree, by tile × 16 + level (R114). -/
  tree : Sparse (List Num) := []
  /-- The commit in progress (R115): the writes still to go out, the tiles that it commits (0 where none is in progress), and
  the elements of C that it has written. -/
  todo : List CWrite := []
  todoTiles : Nat := 0
  todoDone : Nat := 0
  /-- Credits that wait to be written, in order: the chain's array, the slice buffer and the value (R109). -/
  credits : List (Nat × Nat × Nat) := []
  /-- Element format for which a split chain's ROWQUANT scale is computed (R105; log entry 90). -/
  quantElem : Fmt := .e4m3
  stop : Option Res := none
  deriving DecidableEq, Repr

/-- A transform in a ring (R132, R135, R137). -/
structure TransformRun where
  round : Nat := 0
  overflow : Nat := 0
  perm : List Nat := []
  seed : Nat := 0
  die : Nat := 0
  src : TDesc := {}
  dst : TDesc := {}
  inPlace : Bool := false
  admitted : Bool := false
  engine : Nat := 0
  /-- Elements written in write order, or pairs of regions transposed (R135, R137). -/
  done : Nat := 0
  /-- Elements of the destination written. -/
  written : Nat := 0
  /-- Elements of the destination blocks in progress, by scale index (R46, R135). -/
  blocks : Sparse (List Nat) := []
  /-- Source sectors in the read-ahead buffer, by address / 64, with their poison, and the row of the destination at which the
  panel was last looked at (R131). -/
  buf : Sparse (List (Byte × Bool)) := []
  row : Option Nat := none
  /-- Elements of the pair in progress that are still to be written, with their bits (R137). -/
  todo : List (List Nat × Nat) := []
  stop : Option Res := none
  deriving DecidableEq, Repr

/-- An engine program in a ring (R163, R164, R166). -/
structure ProgramRun where
  die : Nat := 0
  groups : Nat := 0
  regs : Nat := 0
  engines : Nat := 0
  scratchKib : Nat := 0
  stagingKib : Nat := 0
  counters : Nat := 0
  waitMs : Nat := 0
  entry : Nat := 0
  args : Nat := 0
  grid : Nat := 0
  seed : Nat := 0
  admitted : Bool := false
  used : List Nat := []
  first : Nat := 0
  next : Nat := 0
  live : List Nat := []
  finished : Nat := 0
  stop : Option Res := none
  deriving DecidableEq, Repr

/-- A fabric transfer in a ring (R269, R276). -/
structure FabricRun where
  op : Nat := 0
  unordered : Bool := false
  flag : Bool := false
  all : Bool := false
  aop : Nat := 0
  node : Nat := 0
  offset : Nat := 0
  localVa : Nat := 0
  length : Nat := 0
  value : Nat := 0
  compare : Nat := 0
  flagOffset : Nat := 0
  /-- The number that its packets carry (R260). -/
  opNo : Nat := 0
  sent : Nat := 0
  acked : Sparse Nat := []
  flagSent : Bool := false
  flagAcked : Bool := false
  timedOut : Bool := false
  fenceSeqs : List (Nat × Nat) := []
  /-- What came back and waits to be stored in LOCAL: offset, length, bytes, poison (R270, R272, R298). -/
  waiting : List (Nat × Nat × List (Byte × Bool)) := []
  stop : Option Res := none
  deriving DecidableEq, Repr

/-- A push in a ring (R323, R296). -/
structure PushRun where
  src : Nat := 0
  dst : Nat := 0
  length : Nat := 0
  issued : Nat := 0
  acked : Nat := 0
  poisonAt : Option Nat := none
  stop : Option Res := none
  deriving DecidableEq, Repr

/-- A census in a ring (R324, R337): the buffer's contents and how many of its bytes are written. -/
structure CensusRun where
  buf : Nat := 0
  bytes : List Byte := []
  written : Nat := 0
  stop : Option Res := none
  deriving DecidableEq, Repr

/-- A self-test or calibration in a ring (R397-R400). -/
structure TestRun where
  kind : Nat := 0
  die : Nat := 0
  op : Nat := 0
  units : List Nat := []
  treated : Nat := 0
  failed : Nat := 0
  onSide : Option Nat := none
  standIn : Nat := 0xFFFF
  retest : Bool := false
  stop : Option Res := none
  deriving DecidableEq, Repr

/-- A translation operation in progress (R241). -/
structure XltRun where
  op : Nat := 0
  start : Nat := 0
  length : Nat := 0
  root : Nat := 0
  holdMs : Nat := 0
  epochAfter : BitVec 32 := 0
  started : Bool := false
  deriving DecidableEq, Repr

/-- The operation of a ring: from its acceptance to its record. -/
inductive Op where
  | chain (c : ChainRun)
  | transform (t : TransformRun)
  | program (p : ProgramRun)
  | fabric (f : FabricRun)
  | push (p : PushRun)
  | census (c : CensusRun)
  | test (t : TestRun)
  | xlt (x : XltRun)
  | wait (target : BitVec 32) (ringW timeoutMs : Nat)
  | finished (r : Res)
  deriving DecidableEq, Repr

/-! ### Rings (chapter 12) -/

/-- States of a ring (STATE of Table 15 of chapter 12), in code order 0 to 7. -/
inductive RingState where
  | disabled | idle | running | waiting | stopped | frozen | rereading | aborting
  deriving DecidableEq, Repr

/-- One submission ring, its set-up registers and its state entry (R310, R336). -/
structure Ring where
  /-- RING_SQ (Table 1), 64 bits. -/
  sq : Word := 0
  /-- RING_CQ. -/
  cq : Word := 0
  /-- RING_CFG (Table 2), EN included. -/
  cfg : Word := 0
  tail : BitVec 32 := 0
  head : BitVec 32 := 0
  completed : BitVec 32 := 0
  state : RingState := .disabled
  dbErr : Bool := false
  cfgErr : Bool := false
  unk : Bool := false
  held : Bool := false
  sdesc : Bool := false
  kind : Nat := 0
  rereads : Nat := 0
  /-- LOG2 of the ring when it was last enabled, 0 before: it tells the phase expected at HEAD (R309, R336). -/
  log2 : Nat := 0
  startTicks : Word := 0
  last : Rec := {}
  dbTag : BitVec 32 := 0
  dbTicks : Word := 0
  node : Nat := 0
  role : Nat := 0
  reason : Nat := 0
  progress : Nat := 0
  second : Nat := 0
  element : Nat := 0
  address : Nat := 0
  unkLo : Nat := 0
  unkHi : Nat := 0
  /-- A descriptor read is in flight (R317); for a host ring, with this tag. -/
  reading : Bool := false
  readTag : Option Nat := none
  /-- The 64 bytes of the accepted descriptor (R317). -/
  desc : Option (List Byte) := none
  op : Option Op := none
  /-- Records no message has covered (R332). -/
  unsignalled : Nat := 0
  /-- A fetch waits for the host (R298). -/
  fetchWaits : Bool := false
  /-- An FLR stopped the ring while its operation runs to completion: the record is kept in the ring (R299). -/
  flr : Bool := false
  deriving DecidableEq, Repr

/-- The event ring (R333, R334). -/
structure EventRing where
  base : Word := 0
  cfg : Word := 0
  head : BitVec 32 := 0
  produced : BitVec 32 := 0
  lost : BitVec 32 := 0
  /-- Records held internally, oldest first, at most 256. -/
  held : List Onion := []
  /-- Records lost since the last record of class 0xF0. -/
  lostSince : Nat := 0
  unsignalled : Nat := 0
  deriving DecidableEq, Repr

/-! ### Host link (chapter 11) -/

/-- Who issued a host request (R296). -/
inductive Owner where
  | ring (n : Nat)
  | fetch (n : Nat)
  | record (n : Nat)
  | engine (e slot : Nat)
  | core (k : Nat)
  | event
  | vector (v : Nat)
  deriving DecidableEq, Repr

/-- A posted write issued and not acknowledged (R296). -/
structure Posted where
  owner : Owner
  hio : Nat
  bytes : List Byte
  ep : Bool := false
  deriving DecidableEq, Repr

/-- A host read outstanding (R288), with the epoch of the translation it used (R241). -/
structure HostRead where
  tag : Nat
  owner : Owner
  hio : Nat
  len : Nat
  va : Nat := 0
  epoch : BitVec 32 := 0
  /-- log2 of the bytes of the page it used (R241). -/
  page : Nat := 12
  /-- The request is a PCIe AtomicOp (R211). -/
  atom : Option AtomReq := none
  deriving DecidableEq, Repr

/-- The end of a read or atomic that left the module (R275, R288, R290): what it brought, or how it failed
(status 0 where it did not), for the access of an owner at a physical address; its poisoned sectors of the 256-byte block of that
address, and the operation of its packet. -/
structure Arrived where
  owner : Owner
  pa : Nat
  bytes : List Byte
  poisoned : BitVec 4 := 0
  status : Nat := 0
  reason : Nat := 0
  op : Nat := 0
  deriving DecidableEq, Repr

/-- The completion given to a host or downstream request: the model's output. -/
inductive HostAnswer where
  | none
  | data (bytes : List Byte) (ep : Bool)
  | unsupported
  | discarded
  deriving DecidableEq, Repr

/-- An MSI-X table entry (R331). -/
structure Msix where
  addr : Word := 0
  data : BitVec 32 := 0
  masked : Bool := true
  deriving DecidableEq, Repr

/-- A BAR2 access that waits on a held range (R249). -/
structure HeldAccess where
  va : Nat
  len : Nat
  data : Option (List Byte) := Option.none
  ep : Bool := false
  deriving DecidableEq, Repr

/-- An episode in which the module may send nothing to the host (R298). -/
structure Episode where
  limitPassed : Bool := false
  /-- Rings that have waited in it, and those of them whose record 0x22 is still to be placed. -/
  rings : List Nat := []
  unplaced : List Nat := []
  deriving DecidableEq, Repr

/-- A root port (R291): its link, and the bus numbers of its Type 1 header. -/
structure RootPort where
  up : Bool := false
  speed : BitVec 4 := 0
  width : BitVec 4 := 0
  flit : Bool := false
  primary : BitVec 8 := 0
  secondary : BitVec 8 := 0
  subordinate : BitVec 8 := 0
  deriving DecidableEq, Repr

/-- The host link. -/
structure Link where
  /-- HUB_PORT_ROLE.ROLE, SOURCE (R285). -/
  role : BitVec 2 := 0
  source : BitVec 2 := 2
  up : Bool := false
  speed : BitVec 4 := 0
  width : BitVec 4 := 0
  flit : Bool := false
  losses : BitVec 16 := 0
  retrains : BitVec 32 := 0
  bme : Bool := false
  d3hot : Bool := false
  msixEn : Bool := false
  /-- Function Mask of the MSI-X capability (R331). -/
  msixMask : Bool := false
  atomicEn : Bool := false
  mpsLog2 : Nat := 7
  ctRange : BitVec 4 := 0
  bar2Log2 : Nat := 36
  serial : Word := 1
  stepping : BitVec 8 := 1
  /-- The rest of the Type 0 header that the host writes (R286): Memory Space Enable, and the bases of BAR0, BAR2, BAR4. -/
  memSpace : Bool := false
  bars : Sparse Word := []
  /-- Root ports 0-3 (R291). -/
  rootPorts : Sparse RootPort := []
  /-- HUB_RESET_CTL: BME_WAIT_MS and SCRUB_FLR (R300). -/
  resetCtl : Word := 0x00640000
  scrubBusy : Bool := false
  /-- A scrub that waits for the operations an FLR lets run to completion (R300). -/
  scrubOwed : Bool := false
  /-- HUB_RP_CTL (R293). -/
  rpCtl : Word := 0
  episode : Option Episode := none
  posted : List Posted := []
  reads : List HostRead := []
  nextTag : Nat := 0
  /-- Rings whose operation has issued a host request, and rings whose operation waits at its next one (R297, R298, R304). -/
  used : List Nat := []
  waits : List Nat := []
  /-- By ring, the last byte of the highest host write that its operation has issued (R296). -/
  issuedHi : Sparse Nat := []
  /-- What reads and atomics of the host window and the fabric have brought and nothing has used yet. -/
  arrived : List Arrived := []
  msix : Sparse Msix := []
  pba : List Nat := []
  heldAccesses : List HeldAccess := []
  answer : HostAnswer := .none
  /-- The answers of the BAR2 accesses that the last end of a hold released, in their order of arrival. -/
  heldAnswers : List HostAnswer := []
  /-- Interrupts delivered to the cores' interrupt files in root-port mode (R293). -/
  msiIn : List (Nat × BitVec 32) := []
  deriving DecidableEq, Repr

/-! ### Pickle mode (chapter 11) -/

/-- A carry-over entry (Table 12 of chapter 11). -/
structure Carry where
  ring : Nat
  resumable : Bool
  unk : Bool := false
  status : Nat
  descIndex : Nat
  progress : Nat
  /-- SECOND of the record that a discard makes (R328). -/
  second : Nat := 0
  unkLo : Nat := 0
  unkHi : Nat := 0
  hasDesc : Bool := true
  op : Option Op := none
  deriving DecidableEq, Repr

structure Pickle where
  /-- HUB_PICKLE_CTL (Table 8). -/
  ctl : Word := 0x0003E830
  valid : Bool := false
  freezing : Bool := false
  cause : BitVec 2 := 0
  actErr : Bool := false
  freezeTicks : Word := 0
  rung : Nat := 0
  entries : List Carry := []
  deriving DecidableEq, Repr

/-! ### Set-up and readout (chapter 18) -/

/-- A channel of the state readout window (R444). -/
structure Readout where
  index : Word := 0
  busy : Bool := false
  err : Nat := 0
  entryBytes : Nat := 0
  entries : Nat := 0
  data : List Byte := []
  deriving DecidableEq, Repr

structure Setup where
  committed : Bool := false
  busy : Bool := false
  err : Bool := false
  errCause : BitVec 2 := 0
  fill : Bool := false
  /-- HUB_SHARE[i].WEIGHT (R352); unlisted entries read 32. -/
  share : Sparse (BitVec 8) := [(4, 8), (5, 8), (6, 25), (7, 25), (8, 64)]
  srHost : Readout := {}
  srCore : Readout := {}
  deriving DecidableEq, Repr

/-! ### Memory, caches, coherence (chapters 07, 08) -/

/-- The pool: DRAM bytes by physical address; an unlisted address reads 0 (R301). -/
structure Pool where
  mem : List Host.Cell := []
  /-- Poisoned 64-byte sectors, by sector number, rising (R193). -/
  poison : List Nat := []
  /-- MEM_PLACEMENT (R176) and the value in force. -/
  placement : Word := 48
  ilvForce : Nat := 48
  /-- MEM_SCRUB (R192). -/
  scrub : Word := 0x1803
  /-- Retired granules of tier 1 and tier 2, oldest first (R393). -/
  retired1 : List Nat := []
  retired2 : List Nat := []
  clearPages : Bool := false
  deriving DecidableEq, Repr

/-- A line of the system cache (R182): tag line address, per-sector valid, dirty, poisoned, and 128 bytes. -/
structure ScLine where
  line : Nat
  valid0 : Bool := false
  valid1 : Bool := false
  dirty0 : Bool := false
  dirty1 : Bool := false
  poison0 : Bool := false
  poison1 : Bool := false
  data : List Byte := []
  deriving DecidableEq, Repr

/-- States of a line in a private cache (Table 1 of chapter 08). -/
inductive LineState where
  | m | e | s | f
  deriving DecidableEq, Repr

/-- A line in a private cache. -/
structure PrivLine where
  cache : Nat
  line : Nat
  /-- Its way in the set of its cache (R142, R197). -/
  way : Nat := 0
  st : LineState
  data : List Byte := []
  poison0 : Bool := false
  poison1 : Bool := false
  deriving DecidableEq, Repr

/-- A directory entry (R199): exclusive (E or M), exact holders, domain bits beyond four, and the F holder. -/
structure DirEntry where
  line : Nat
  excl : Bool
  ids : List Nat := []
  doms : List Nat := []
  fwd : Option Nat := none
  deriving DecidableEq, Repr

/-- Requests to the home (Table 2 of chapter 08), slot locks included (R213). -/
inductive HomeReq where
  | rds | rdu | upg
  /-- The bytes of the line that are read. -/
  | rdonce (off len : Nat)
  | wrline (addr : Nat) (data : List Byte)
  | atom (addr : Nat) (req : AtomReq)
  | wb | ev
  | lock (slot : Nat)
  deriving DecidableEq, Repr

/-- Snoops (Table 3 of chapter 08). -/
inductive SnoopKind where
  | share | forward | unique | invalidate | clean
  deriving DecidableEq, Repr

/-- A snoop on its way to a cache, or delayed there by an LR (R206, R212). -/
structure Snoop where
  line : Nat
  cache : Nat
  kind : SnoopKind
  delayed : Bool := false
  deriving DecidableEq, Repr

/-- A snoop response on its way to the home, with dirty data or the supplied line. -/
structure SnoopResp where
  line : Nat
  cache : Nat
  hit : Bool
  dirty : Bool
  /-- Answered from the write-back buffer: the cache holds the line no more (R205). -/
  gone : Bool := false
  data : List Byte := []
  poison0 : Bool := false
  poison1 : Bool := false
  deriving DecidableEq, Repr

/-- A transaction that blocks its line (R204). -/
structure Txn where
  line : Nat
  req : HomeReq
  agent : Nat
  waitFor : List Nat := []
  data : List Byte := []
  poison0 : Bool := false
  poison1 : Bool := false
  granted : Bool := false
  acked : Bool := false
  result : Nat := 0
  deriving DecidableEq, Repr

/-- A request waiting for its line (R204). -/
structure Waiting where
  line : Nat
  req : HomeReq
  agent : Nat
  deriving DecidableEq, Repr

/-- Slice counters (Table 10 of chapter 08). -/
structure SliceCtr where
  snoops : Word := 0
  forwarded : Word := 0
  backInv : Word := 0
  blocked : Word := 0
  atomics : Word := 0
  exactAdds : Word := 0
  loans : Word := 0
  deriving DecidableEq, Repr

/-- A line of a core's L1 instruction cache (R197, R198): bytes as they were when it was filled. -/
structure CodeLine where
  line : Nat
  data : List Byte
  poison0 : Bool
  poison1 : Bool
  deriving DecidableEq, Repr

/-- A core as the coherence protocol, its caches and the power rules see it (R190, R193, R195-R197, R212, R384). -/
structure Core where
  wfi : Bool := false
  /-- Tick of H at which the WFI began (R396). -/
  wfiSince : Nat := 0
  /-- Privilege mode, envcfg registers and PMP entries of its last instruction (R190, R195). -/
  env : CoreEnv := {}
  reservation : Option Nat := none
  lrDelay : Bool := false
  /-- Value of the last load, LR, SC or atomic, and the exception it took, if any, with its trap value (R193). -/
  result : Nat := 0
  exception : Option Nat := none
  tval : Nat := 0
  /-- The last FENCE waits for the core's fabric stores; what it orders after them (R216). -/
  waitsFence : Bool := false
  fence : FenceSets := ⟨true, true, true, true, true, true, true, true, false⟩
  waitsHost : Bool := false
  waitsFabric : Bool := false
  /-- The access waits for the delay after another core's LR (R212). -/
  waitsLine : Bool := false
  /-- cycle and instret, and time as the core's last instruction reads it (R196). -/
  cycle : Word := 0
  instret : Word := 0
  time : Word := 0
  /-- mhartid, where another core's identity has moved here; pending bits of its interrupt files: page × 2,048 + identity (R293, R394). -/
  hart : Option Nat := none
  pending : List Nat := []
  /-- Lines of the L1 data cache, oldest first, and of the L1 instruction cache (R197). -/
  l1d : List Nat := []
  l1i : List CodeLine := []
  deriving DecidableEq, Repr

/-- A flit that waits in the switch for an output: the input and class it comes from, the lane that carries it, whether it holds
data with its header, and the messages it holds (R343, R344, R351). -/
structure XFlit where
  input : Nat
  cls : Nat
  lane : Nat
  data : Bool
  msgs : Nat
  deriving DecidableEq, Repr

/-- An output of the switch (R351): the flits that wait for it, oldest first; the deficit and the class served last of each input;
the input served last. -/
structure SwitchOut where
  waiting : List XFlit := []
  deficit : Sparse Nat := []
  lastCls : Sparse Nat := []
  lastInput : Nat := 8
  deriving DecidableEq, Repr

structure Coh where
  /-- The outputs of the Carousel switch: ports 0 to 7, and 8 the home side (R339, R351). -/
  outs : Sparse SwitchOut := []
  /-- Flits with messages of the protocol that H has received, by port (R354). -/
  rx : Sparse Word := []
  /-- System cache by (slice × 3,072 + set) × 16 + way (R182, R183). -/
  sc : Sparse ScLine := []
  scPlru : Sparse Nat := []
  /-- Victim caches by slice, oldest first, at most 256 lines each (R185). -/
  victim : Sparse (List ScLine) := []
  /-- Directory by set × 16 + way (R199). -/
  dir : Sparse DirEntry := []
  dirPlru : Sparse Nat := []
  priv : List PrivLine := []
  wbuf : List PrivLine := []
  txns : List Txn := []
  queue : List Waiting := []
  snoops : List Snoop := []
  resps : List SnoopResp := []
  wbAcks : List (Nat × Nat) := []
  /-- Granules on loan, oldest first (R208). -/
  loans : List Nat := []
  ctr : Sparse SliceCtr := []
  cores : Sparse Core := []
  /-- P1's copy of P0's interval counter, for the time CSR (R196). -/
  timeP1 : Word := 0
  deriving DecidableEq, Repr

/-! ### Translation (chapter 09) -/

/-- A TLB entry: the pages it covers, their physical base, the PTE's low flags, memory type, epoch (R229, R230). -/
structure TlbEntry where
  va : Nat
  log2 : Nat
  pa : Nat
  flags : Nat
  pbmt : Nat
  epoch : BitVec 32 := 0
  /-- log2 of the bytes of the page that its PTE maps (R226, R241). -/
  page : Nat := 12
  deriving DecidableEq, Repr

/-- A held range (R249). -/
structure HoldRange where
  slot : Nat
  start : Nat
  length : Nat
  limitMs : Nat
  /-- H ticks at which it began. -/
  since : Nat
  deriving DecidableEq, Repr

/-- A hot-page counter (R248): its region's address bits [55:16], class 1 host window or 2 tier 2. -/
structure HotCtr where
  region : Nat
  cls : Nat
  count : Nat
  muted : Bool := false
  deriving DecidableEq, Repr

/-- A non-leaf PTE of the walk cache: level, virtual prefix, PTE, and the epoch of its fill (R229). -/
structure WalkEntry where
  level : Nat
  pre : Nat
  pte : Nat
  epoch : BitVec 32 := 0
  deriving DecidableEq, Repr

structure Xlt where
  /-- XLT_ROOT as written; the root in force (R224). -/
  root : Word := 0
  epoch : BitVec 32 := 0
  /-- Rings with a translation operation in progress, at most 8 (R241). -/
  ops : List Nat := []
  holds : List HoldRange := []
  l1 : Sparse (List TlbEntry) := []
  l2 : Sparse TlbEntry := []
  l2Plru : Sparse Nat := []
  /-- Non-leaf PTEs, newest first, at most 4,096 (R229). -/
  walkCache : List WalkEntry := []
  hot : Sparse HotCtr := []
  /-- XLT_HOTPAGE (R248). -/
  hotpage : Word := 0x000A040000004000
  deriving DecidableEq, Repr

/-! ### Arrays and engines (chapters 03, 04, 06) -/

/-- Array counter record (Table 8 of chapter 03). -/
structure ArrayCtr where
  product : Word := 0
  range : Word := 0
  arrival : Word := 0
  epilogue : Word := 0
  drain : Word := 0
  tiles : Word := 0
  special : Word := 0
  deriving DecidableEq, Repr

/-- A matrix array (R56): the chain it runs, where it stands in it, its tiles in flight, staged slices. -/
structure Array where
  ring : Option Nat := none
  /-- Number of the share group in progress among the array's groups (R449). -/
  group : Nat := 0
  tiles : List TileRun := []
  /-- Pass of the group's product, and which tile of the group it serves (R97). -/
  pass : Nat := 0
  turn : Nat := 0
  /-- Passes ended on the array: the index of the pass that runs or comes next (R109). -/
  passNo : Nat := 0
  running : Bool := false
  beat : Nat := 0
  stall : Nat := 0
  /-- The staged slices after the prologue: by K-step, the elements of the rows of A or columns of B (R86). -/
  stagedA : List (List Num) := []
  stagedB : List (List Num) := []
  /-- Pass for which slice buffers 0 and 1 are open (R109). -/
  open0 : Option Nat := none
  open1 : Option Nat := none
  /-- Bytes landed, by buffer × 2 + operand (R109), and the bytes themselves, by (buffer × 2 + operand) × 2^20 + byte; those of the receive area
  follow from 2^22 on (R113). -/
  counts : Sparse Nat := []
  landed : List Host.Cell := []
  /-- Bytes of `landed` that are poisoned, by the same number (R76). -/
  landedBad : List Nat := []
  /-- The tables of LUT4 operations, read with the first slice of their operand, by the operation's number (R246). -/
  luts : Sparse (List Num) := []
  /-- The next pass waits for bytes that its staging has asked for (R72, R249). -/
  staging : Bool := false
  /-- Tiles whose last pass ended and that have not drained, and the drain beats of the first of them (R75). -/
  drainable : List TileRun := []
  drained : Nat := 0
  ctr : ArrayCtr := {}
  deriving DecidableEq, Repr

/-- What a path waits for (R153): nothing, an answer from outside or room for a copy or packet, a JOIN, a counter. -/
inductive PathState where
  | ready
  | asked
  | join
  | counter (c : Nat) (target : BitVec 32)
  deriving DecidableEq, Repr

/-- A path of a group (R153): a program counter and the lanes that share it. -/
structure Path where
  pc : Nat
  lanes : BitVec 32
  st : PathState := .ready
  /-- A TSTORE in progress: the tensor it has loaded, and the elements of its box that are stored (R119, R157). -/
  tstore : Option (TDesc × Nat) := none
  deriving DecidableEq, Repr

/-- A resident thread group (R143, R153): its registers by lane × 256 + register, paths in ring order with the
current one first. -/
structure Group where
  ring : Nat
  index : Nat
  regs : Sparse (BitVec 32) := []
  /-- Registers whose words are marked poisoned, by lane × 256 + register (R191). -/
  badRegs : List Nat := []
  paths : List Path := []
  /-- Consecutive issues from the current path (R154). -/
  issues : Nat := 0
  sleeping : Nat := 0
  deriving DecidableEq, Repr

/-- A reservation on an engine (R144, R145, R164). -/
structure Grant where
  ring : Nat
  isChain : Bool
  groups : Nat
  regs : Nat
  ways : Nat
  stagingKib : Nat
  counters : Nat
  scratch : List Host.Cell := []
  scratchPoison : List Nat := []
  staging : List Host.Cell := []
  stagingPoison : List Nat := []
  deriving DecidableEq, Repr

/-- A box of a tensor that a copy packs (R157): the descriptor, the padded origin and the extents. -/
structure CopyBox where
  d : TDesc
  origin : List Nat
  ext : List Nat
  deriving DecidableEq, Repr

/-- A copy in flight (R157): where its bytes come from and go to, and how many have landed. -/
structure CopyRun where
  id : Nat
  ring : Nat
  /-- Group index × 32 + lane that issued it. -/
  element : Nat
  toStaging : Bool
  dst : Nat
  counter : Nat
  va : Nat
  len : Nat
  done : Nat := 0
  box : Option CopyBox := none
  /-- Epoch of the translation at its issue (R241). -/
  epoch : BitVec 32 := 0
  deriving DecidableEq, Repr

/-- Engine counter record (Table 9 of chapter 06). -/
structure EngineCtr where
  slots : Word := 0
  rrTurns : Word := 0
  idle : Word := 0
  rotations : Word := 0
  atomics : Word := 0
  waitTurns : Word := 0
  rrEntries : Word := 0
  deriving DecidableEq, Repr

/-- The instruction that issued last on an engine: its slot, the lanes of its path, the slots and the pipe it took, and the register
words it writes, by which a second one may share its turn (R146, R147). -/
structure LastIssue where
  slot : Nat
  lanes : BitVec 32 := 0
  slots : Nat := 1
  pipe : Nat := 0
  writes : List Nat := []
  deriving DecidableEq, Repr

/-- A vector engine (R142). MODE and REASON are those of power-on (R149). -/
structure Engine where
  mode : Nat := 1
  reason : Nat := 1
  grants : List Grant := []
  slots : Sparse Group := []
  counters : Sparse (BitVec 32) := []
  copies : List CopyRun := []
  nextCopy : Nat := 0
  cleanTurns : Nat := 0
  /-- What issued last, and the consecutive issues of its slot (R147, R148). -/
  last : Option LastIssue := none
  streak : Nat := 0
  ctr : EngineCtr := {}
  deriving DecidableEq, Repr

/-! ### Fabric (chapter 10) -/

/-- A Dembet port (Table 3 of chapter 10) and its counters (Table 17). -/
structure FabPort where
  state : Nat := 0
  nbrNode : Nat := 0
  nbrPort : Nat := 0
  queued : Nat := 0
  /-- A forwarded packet was the last to leave (R255). -/
  lastFwd : Bool := false
  txPackets : Word := 0
  rxPackets : Word := 0
  txBytes : Word := 0
  rxBytes : Word := 0
  transit : Word := 0
  retries : Word := 0
  degrades : Word := 0
  deriving DecidableEq, Repr

/-- An export window (Table 5 of chapter 10), words W0 to W2 (W3 is reserved). -/
structure FabWin where
  w0 : Word := 0
  w1 : Word := 0
  w2 : Word := 0
  deriving DecidableEq, Repr

/-- A packet originated and not yet acknowledged as performed (R278). -/
structure TxPkt where
  peer : Nat
  seq : Nat
  kind : PktKind
  ordered : Bool
  offset : Nat
  length : Nat
  data : List Byte := []
  /-- Poisoned sectors of the 256-byte block of its offset (R193, R261). -/
  poisoned : BitVec 4 := 0
  owner : Owner
  localOff : Nat := 0
  va : Nat := 0
  epoch : BitVec 32 := 0
  page : Nat := 12
  /-- The operation it belongs to, and FAB_E2E when it was first sent (R260, R278). -/
  op : Nat := 0
  e2e : Word := 0
  received : Bool := false
  resends : Nat := 0
  busy : Bool := false
  isFlag : Bool := false
  /-- Its operation translated `va` for it (R241). -/
  xlt : Bool := true
  deriving DecidableEq, Repr

/-- What the module keeps of a peer's packets (R278-R280). -/
structure RxCtx where
  /-- Every sequence number below this has arrived. -/
  base : Nat := 0
  seen : List Nat := []
  held : List Packet := []
  atomics : List (Nat × Nat) := []
  /-- Operations that failed a check, and the reason; packets refused, by sequence number, and the reason (R260, R276, R280). -/
  faulted : List (Nat × Nat) := []
  refused : List (Nat × Nat) := []
  deriving DecidableEq, Repr

/-- What the module sends on its ports: requests, forwarded packets, answers and notices (R278-R282). -/
inductive FabMsg where
  | request (p : TxPkt)
  | transit (p : Packet)
  | recvAck (peer seq : Nat)
  | perfAck (peer seq : Nat) (data : List Byte) (poisoned : BitVec 4)
  | nak (peer seq reason : Nat)
  | gap (peer seq : Nat)
  | busy (peer seq : Nat)
  | handshake (peer : Nat) (reply : Bool)
  | linkRetry
  deriving DecidableEq, Repr

/-- A message queued on a port, with its payload and header bytes; `corrupt` where the Dodgem unit inverted a
bit under the end-to-end CRC (R403). -/
structure Sent where
  port : Nat
  msg : FabMsg
  len : Nat
  corrupt : Bool := false
  /-- Its class, the links it has crossed with this one, and the bank its route is looked up in (R266, R267). -/
  response : Bool := false
  hops : Nat := 1
  bank : Bool := false
  deriving DecidableEq, Repr

structure Fabric where
  /-- FAB_NODE, FAB_PORT_EN, FAB_E2E, FAB_ROUTE_CTL.HOLD_US, FAB_RT_INDEX. -/
  node : Word := 0
  portEn : Word := 0xFFFFFFFFFFFFFFFF
  e2e : Word := 0x0000600203E80014
  routeCtl : Word := 0x03E80000
  rtIndex : Word := 0
  active : Bool := false
  held : Bool := false
  winDraining : Bool := false
  ports : Sparse FabPort := []
  wins : Sparse FabWin := []
  /-- FAB_SRCLIST words by l × 16 + q (R264). -/
  src : Sparse Word := []
  /-- Routing entries by bank × 16,384 + node (R265, R267). -/
  routes : Sparse Word := []
  tx : List TxPkt := []
  nextSeq : Sparse Nat := []
  /-- Peers whose context waits for its handshake after a timeout (R278). -/
  broken : List Nat := []
  rx : Sparse RxCtx := []
  /-- What waits to leave on the ports, each port's in the order of its service (R255). -/
  out : List Sent := []
  /-- What has left and may have to be sent again on its link (R277). -/
  retryBuf : List Sent := []
  /-- Number of the next operation that sends packets (R260). -/
  nextOp : Nat := 0
  /-- H ticks of the last record 0x40 for a source node, plus 1 (R260). -/
  faultAt : Sparse Nat := []
  noRoute : Word := 0
  hopDrops : Word := 0
  crcDrops : Word := 0
  winFaults : Word := 0
  busyNacks : Word := 0
  gapNotices : Word := 0
  duplicates : Word := 0
  retransmits : Word := 0
  deriving DecidableEq, Repr

/-! ### Dodgem unit, repair (chapter 15) -/

structure Dodgem where
  ctl : Word := 0
  /-- DODGEM_MODE[k] (Table 11), k = 0-4; unlisted modes read 0x0000_0001_0100_0000. -/
  mode : Sparse Word := []
  seed : Word := 0
  index : Sparse Nat := []
  burst : Sparse Nat := []
  /-- Packets held by mode 4 with the later packets still to leave (R403). -/
  heldPkts : List (Nat × List Sent) := []
  deriving DecidableEq, Repr

/-- A repair map entry (Table 2 of chapter 15). -/
structure RepEntry where
  state : Nat := 0
  partner : Nat := 0xFFFF
  cause : Nat := 0
  cls : Nat := 0
  deriving DecidableEq, Repr

/-- Events counted by a rule class against an item of a die (R391). -/
structure ItemCount where
  cls : Nat
  item : Nat
  die : Nat
  /-- Ticks of H at which they fell, oldest first. -/
  times : List Nat
  deriving DecidableEq, Repr

structure Repair where
  /-- Repair map by die × 2^24 + UNIT_KIND × 2^16 + unit; shipment's free spares apart, unlisted units are
  in service. Pairs are kept under UNIT_KIND 1. -/
  map : Sparse RepEntry := []
  /-- REP_RULE[c] (Table 4); unlisted classes hold the defaults of Table 3. -/
  rules : Sparse Word := []
  /-- Events counted by class and item, oldest item first (R391). -/
  counts : List ItemCount := []
  busy : Bool := false
  err : Bool := false
  result : Nat := 0
  /-- The command in progress: OP, KIND, DIE, UNIT (R396). -/
  cmd : Option (Nat × Nat × Nat × Nat) := none
  /-- Units on the sideshow: die, kind, unit, stand-in (R398). -/
  side : List (Nat × Nat × Nat × Nat) := []
  /-- The unit of a RESTORE has failed once and is tested again (R396, R398). -/
  retest : Bool := false
  /-- The lane of a Dembet port that its repair map entry retires (R253). -/
  lanes : Sparse Nat := []
  /-- Spare rows used by macro, spare ways used by slice and set group, phases retired by rail. -/
  rowsUsed : Sparse Nat := []
  waysUsed : Sparse Nat := []
  phases : Sparse Nat := []
  deriving DecidableEq, Repr

/-! ### Die links (chapter 13) -/

/-- A lane of one direction from a die to H: receive side and transmit side (R345, R346). -/
structure Lane where
  lastGood : Nat := 255
  nak : Bool := false
  kept : Option Flit := none
  fails : Nat := 0
  /-- The retry buffer: the last 64 flits sent on the lane, oldest first; the next SEQ; the flits last sent again. -/
  retry : List Flit := []
  txSeq : Nat := 0
  resend : List Flit := []
  deriving DecidableEq, Repr

/-- A die-link port (R353, R354). -/
structure DlPort where
  state : Nat := 0
  kind : Nat := 0
  /-- A training since cold reset has applied the remaps that the repair map holds (R348, R355). -/
  applied : Bool := false
  /-- Groups × 2 + direction with a lasting fault that waits for its repair (R347-R349). -/
  due : List Nat := []
  /-- Errors charged: wire, by (group × 2 + direction) × 48 + wire; errors; tick of H (R347). -/
  errors : List (Nat × Nat × Nat) := []
  /-- Credits that the die's end has returned, by message class (R345, R206). -/
  credits : Sparse Nat := []
  /-- What H has answered in discovery: the die's designator as a die code, and the port's entries of the repair map (R355). -/
  designator : Option Nat := none
  entries : Sparse RepEntry := []
  lanesUp : Nat := 0
  lanesDn : Nat := 0
  /-- Groups whose spare wire is in use: group × 2 + direction (1 to the die), with the wire replaced. -/
  spares : Sparse Nat := []
  strobeUp : Bool := false
  strobeDn : Bool := false
  retired : List Nat := []
  lanes : Sparse Lane := []
  flitsTx : Word := 0
  flitsRx : Word := 0
  crcFails : Word := 0
  retries : Word := 0
  remaps : Word := 0
  laneRet : Word := 0
  metered : Word := 0
  deriving DecidableEq, Repr

/-! ### Power (chapter 14) -/

/-- A voltage domain (R360). -/
structure Domain where
  maxOp : Nat := 5
  inForce : Nat := 0
  wearCapped : Bool := false
  reason : Nat := 0
  /-- Reasons in force, bit r - 1 for reason r (R377). -/
  reasons : Nat := 0
  powerMw : Nat := 0
  /-- The domain was lowered because the draw exceeded the ceiling, and has not come back to its target (R368). -/
  overCeiling : Bool := false
  /-- Rate-not-held episode begun at this tick of H (R380). -/
  rnh : Option Nat := none
  /-- Wear seconds of the thirty buckets, newest first (R373), as flash holds them, and the ticks at OP6 or OP7
  since the ledger was last written. -/
  wear : List Nat := []
  wearTicks : Nat := 0
  deriving DecidableEq, Repr

/-- A heat hint (R382): its interval in ms from acceptance and its power. -/
structure Hint where
  startMs : Nat
  durationMs : Nat
  watts : Nat
  atTicks : Nat
  deriving DecidableEq, Repr

/-- Ticks and entries of a throttling reason (Table 9 of chapter 14). -/
structure Throttle where
  ticks : Word := 0
  entries : Word := 0
  deriving DecidableEq, Repr

/-- Junction state of a die (R372). -/
structure Therm where
  junction : Int := 250
  limit : Nat := 7
  tripped : Bool := false
  cold : Bool := false
  deriving DecidableEq, Repr

structure Power where
  domains : Sparse Domain := []
  profile : Nat := 2
  cap : Word := 0
  inlet : Word := 0
  /-- Inlet sensor of the management bus in 0.1 degC, and whether it was written last (R371). -/
  inletBus : Nat := 0
  inletLast : Nat := 0
  resumePct : Nat := 25
  /-- Credit balance B in uJ (R370). -/
  balanceUj : Nat := 2300000000
  limiter : Word := 0
  fixed : Word := 0
  fixErr : Bool := false
  rung : Nat := 1
  /-- DEEPEST_AUTO, IDLE3_MS and IDLE2_US of PWR_RUNG_CTL (Table 14). -/
  rungCtl : Word := 0x0000000100640064
  rungErr : Bool := false
  forecast : Word := 0
  creditMode : Bool := false
  coolantLoss : Bool := false
  /-- Active sources of coolant loss (R376). -/
  srcPin : Bool := false
  srcBus : Bool := false
  srcLid : Bool := false
  safetyNet : Bool := false
  safetySince : Nat := 0
  alerts : List Nat := []
  memInit : Bool := false
  therm : Sparse Therm := []
  /-- Record 0x67 owed after the next device-ready: die and junction (R372). -/
  shutdown : Option (Nat × Int) := none
  throttle : Sparse Throttle := []
  rnh : Throttle := {}
  hints : List Hint := []
  /-- Samples of the last 10 ms, newest first, at most 1,000 (R365). -/
  window : List PowerReading := []
  /-- Ticks since the wear ledger was last written (R373). -/
  ledgerTicks : Nat := 0
  /-- Dies powered off: compute and processor dies in rung 3 and below (R383), all before boot. -/
  dieOff : List Nat := [1, 2, 3, 4, 5, 6, 7, 8]
  deriving DecidableEq, Repr

/-! ### Control complex (chapter 16) -/

/-- A firmware slot of a component: the image it holds, whether that is the one written at manufacture, and whether it is marked
invalid (R408, R420; log entry 102). -/
structure Slot where
  image : Image := ⟨[], []⟩
  shipped : Bool := false
  invalid : Bool := false
  deriving DecidableEq, Repr

/-- What module flash keeps through every reset (R364, R373, R390, R408-R411). -/
structure Flash where
  /-- Slots by component × 2 + (1 for slot B). -/
  slots : Sparse Slot := []
  /-- Bit n: the boot record names slot B for component n. -/
  active : Nat := 0
  lastActivated : Nat := 0
  badBoots : Nat := 0
  minSvn : Sparse Nat := []
  /-- Key hashes of the one-time-programmable slots, where they are not those of Config (R409). -/
  otp : Sparse (BitVec 256) := []
  revoked : Nat := 0
  role : Option (BitVec 2) := none
  /-- Powered hours, and rated maxima and values at manufacture of the units of table 5 (unlisted: OP7). -/
  hours : Nat := 0
  /-- Ticks of powered time beyond those hours that a write outside the hourly ones has entered (R373). -/
  part : Nat := 0
  rated : Sparse Nat := []
  atMake : Sparse Nat := []
  deriving DecidableEq, Repr

/-- An activation in progress (R421): the components staged, the controllers in hand-over order done. -/
structure Activation where
  staged : Nat
  at_ : Nat := 0
  deriving DecidableEq, Repr

structure Boot where
  island : Bool := true
  lidFault : Bool := false
  ready : Bool := false
  stage : Nat := 4
  fail : Nat := 0
  failDie : Nat := 0
  comp : Nat := 0
  slots : Nat := 0
  act : Option Activation := none
  /-- How this boot began: 1 cold, 2 warm, 3 rung-5 exit (R423). -/
  kind : Nat := 1
  /-- No descriptor is accepted until a warm or cold reset (R194, R350). -/
  structural : Bool := false
  restarting : List Nat := []
  /-- Fault events that wait for their die's controller, at most 1,024, and one of the lost ones of each item (R415). -/
  queued : List ErrEvent := []
  queuedLost : List ErrEvent := []
  /-- Step 6 of the boot has completed (R412). -/
  trained : Bool := false
  deriving DecidableEq, Repr

/-- An answer of the management bus or of the SPDM responder: the model's output. -/
inductive MgmtAnswer where
  | none
  | value (x : Int)
  | ok
  | pldmError
  | spdmError (code : Nat)
  | spdm (code : Nat) (bytes : List Byte)
  | mctp (bytes : List Byte)
  deriving DecidableEq, Repr

structure Mgmt where
  /-- SPDM connection: 0 none, 1 version, 2 capabilities, 3 algorithms negotiated. -/
  spdm : Nat := 0
  eidI3c : BitVec 8 := 0
  eidSmb : BitVec 8 := 0
  eidPcie : BitVec 8 := 0
  /-- Dynamic address of the I3C target, none while it uses its static one; terminus ID of PLDM base (R419). -/
  i3cDynamic : Option (BitVec 7) := none
  tid : BitVec 8 := 0
  /-- State of sensor 35, and the components staged for an activation, one bit each (R419-R421). -/
  update : Nat := 1
  staged : Nat := 0
  answer : MgmtAnswer := .none
  deriving DecidableEq, Repr

/-- Pins and straps (R357, R426-R428). -/
structure Pins where
  lid : BitVec 3 := 2
  lidAtReset : BitVec 3 := 2
  rolePins : BitVec 2 := 3
  addrSel : BitVec 3 := 7
  slotId : BitVec 6 := 0x3F
  /-- PCIE_PERST_OUT#[3:0], levels (R291, R427). -/
  perstOut : BitVec 4 := 0
  coolantLow : Bool := false
  perst : Bool := true
  thermtrip : Bool := false
  pgood : Bool := true
  deriving DecidableEq, Repr

/-! ### The state -/

structure State where
  /-- H's interval counter and those of the other dies by die code 1-8 (R22). -/
  hTicks : Word := 0
  dieTicks : Sparse Word := []
  pins : Pins := {}
  boot : Boot := {}
  flash : Flash := {}
  mgmt : Mgmt := {}
  link : Link := {}
  pickle : Pickle := {}
  setup : Setup := {}
  pool : Pool := {}
  coh : Coh := {}
  xlt : Xlt := {}
  rings : Sparse Ring := []
  evt : EventRing := {}
  arrays : Sparse Array := []
  engines : Sparse Engine := []
  /-- Ring of the transform that each transform engine (die × 8 + n) runs (R131). -/
  transforms : Sparse (Option Nat) := []
  fab : Fabric := {}
  dod : Dodgem := {}
  rep : Repair := {}
  dl : Sparse DlPort := []
  pwr : Power := {}
  /-- Selects the next fresh free value (the model's own field, log entry 1). -/
  free : Nat := 0
  /-- The commands that wait, first in, first out. -/
  pending : List Instr := []
  deriving DecidableEq, Repr

/-- The module right after a cold reset: island power good, straps and lid read, PERST# asserted, the
Ticket Booth at step 4 of the boot, the controllers verified and released (R412), every field at its cold reset value. -/
def State.reset : State := {}

/-- No command of the block ends in a fault: a fault of the manual is a status, a record or an answer
(R14, R329). Safe: the type is empty of reasons but for the one that no meaning raises. -/
inductive Fault where
  /-- Raised by nothing; the block has no fault that ends it. Safe. -/
  | noFault
  deriving DecidableEq, Repr

/-- Refusals. -/
inductive Refusal where
  /-- Raised by an arm of exec whose command has no meaning yet, by the mnemonic of its row. Safe. -/
  | notModelled (mnemonic : String)
  deriving DecidableEq, Repr

end Sys2Proof.Machine
end

