-- ==== Sys2Proof/Machine/Ops.lean ====
section
/-! DEFINITION. Named operations over the tables, the memory of the pool, its placement, the sub-states and
the clocks. -/

namespace Sys2Proof.Machine

/-! ### Tables -/

/-- The entry listed under a number. -/
def tfind {α : Type} : Sparse α → Nat → Option α
  | [], _ => none
  | (k, v) :: t, n => if k = n then some v else tfind t n

/-- The entry of a number, the default where none is listed. -/
def tget {α : Type} (d : α) (t : Sparse α) (n : Nat) : α := (tfind t n).getD d

/-- Lists an entry at its place, replacing the one of its number. -/
def tins {α : Type} : Sparse α → Nat → α → Sparse α
  | [], n, v => [(n, v)]
  | (k, w) :: t, n, v =>
    if k = n then (n, v) :: t else if n < k then (n, v) :: (k, w) :: t else (k, w) :: tins t n v

/-- Takes every entry of a number out. -/
def tdel {α : Type} : Sparse α → Nat → Sparse α
  | [], _ => []
  | (k, w) :: t, n => if k = n then tdel t n else (k, w) :: tdel t n

/-- Gives a number a value: an entry equal to the default is not listed. -/
def tput {α : Type} [DecidableEq α] (d : α) (t : Sparse α) (n : Nat) (v : α) : Sparse α :=
  if v = d then tdel t n else tins t n v

/-- Keys rise strictly and each exceeds the bound. -/
def tRising {α : Type} : Option Nat → Sparse α → Bool
  | _, [] => true
  | b, (k, _) :: t => (match b with | none => true | some m => decide (m < k)) && tRising (some k) t

/-- The element at a place of a list, the default beyond its end. -/
def nth {α : Type} (d : α) (l : List α) (n : Nat) : α := (l[n]?).getD d

/-- The list with the element at a place replaced. -/
def setNth {α : Type} : List α → Nat → α → List α
  | [], _, _ => []
  | _ :: t, 0, v => v :: t
  | h :: t, n + 1, v => h :: setNth t n v

/-- The list without the elements equal to one. -/
def without (l : List Nat) (n : Nat) : List Nat := l.filter (fun x => x != n)

/-- The list with an element added at its end if it is not there. -/
def withElem (l : List Nat) (n : Nat) : List Nat := if l.contains n then l else l ++ [n]

/-- The numbers a .. a + n - 1. -/
def span (a n : Nat) : List Nat := (List.range n).map (a + ·)

/-- Lowest number below n that meets a condition. -/
def firstBelow (n : Nat) (p : Nat → Bool) : Option Nat := (List.range n).find? p

/-! ### Memory -/

/-- What an unlisted address reads as (R301). -/
def memDefault : Byte := 0

/-- One byte of the pool's memory. -/
def memByte (m : List Host.Cell) (a : Nat) : Byte := tget memDefault m a

/-- Stores one byte, keeping the canonical form. -/
def memPut (m : List Host.Cell) (a : Nat) (b : Byte) : List Host.Cell := tput memDefault m a b

/-- n bytes from an address. -/
def memRead (m : List Host.Cell) (a n : Nat) : List Byte := (span a n).map (memByte m)

/-- Stores bytes at rising addresses. -/
def memWrite (m : List Host.Cell) (a : Nat) : List Byte → List Host.Cell
  | [] => m
  | b :: bs => memWrite (memPut m a b) (a + 1) bs

/-- The canonical form of memory: addresses strictly rising, no entry equal to what an unlisted address reads. -/
abbrev Memory.wf (m : List Host.Cell) : Prop :=
  tRising none m = true ∧ ∀ c ∈ m, c.2 ≠ memDefault

/-- Takes every cell of a range out: the range then reads as unlisted memory does. -/
def memClear (m : List Host.Cell) (lo hi : Nat) : List Host.Cell :=
  m.filter (fun c => decide (c.1 < lo) || decide (hi ≤ c.1))

/-- Set of numbers kept as a rising list. -/
def setAdd (l : List Nat) (n : Nat) : List Nat :=
  match l with
  | [] => [n]
  | k :: t => if k = n then l else if n < k then n :: l else k :: setAdd t n

/-! ### Sub-states -/

def State.onCoh (s : State) (f : Coh → Coh) : State := { s with coh := f s.coh }
def State.onPool (s : State) (f : Pool → Pool) : State := { s with pool := f s.pool }
def State.onLink (s : State) (f : Link → Link) : State := { s with link := f s.link }
def State.onXlt (s : State) (f : Xlt → Xlt) : State := { s with xlt := f s.xlt }
def State.onFab (s : State) (f : Fabric → Fabric) : State := { s with fab := f s.fab }
def State.onPwr (s : State) (f : Power → Power) : State := { s with pwr := f s.pwr }
def State.onRep (s : State) (f : Repair → Repair) : State := { s with rep := f s.rep }
def State.onDod (s : State) (f : Dodgem → Dodgem) : State := { s with dod := f s.dod }
def State.onBoot (s : State) (f : Boot → Boot) : State := { s with boot := f s.boot }
def State.onFlash (s : State) (f : Flash → Flash) : State := { s with flash := f s.flash }
def State.onMgmt (s : State) (f : Mgmt → Mgmt) : State := { s with mgmt := f s.mgmt }
def State.onPickle (s : State) (f : Pickle → Pickle) : State := { s with pickle := f s.pickle }
def State.onSetup (s : State) (f : Setup → Setup) : State := { s with setup := f s.setup }
def State.onEvt (s : State) (f : EventRing → EventRing) : State := { s with evt := f s.evt }
def State.onPins (s : State) (f : Pins → Pins) : State := { s with pins := f s.pins }

/-- Ring n. -/
def State.ring (s : State) (n : Nat) : Ring := tget {} s.rings n
def State.setRing (s : State) (n : Nat) (r : Ring) : State := { s with rings := tput {} s.rings n r }
def State.onRing (s : State) (n : Nat) (f : Ring → Ring) : State := s.setRing n (f (s.ring n))
/-- Engine e: die × 136 + unit. -/
def State.engine (s : State) (e : Nat) : Engine := tget {} s.engines e
def State.onEngine (s : State) (e : Nat) (f : Engine → Engine) : State :=
  { s with engines := tput {} s.engines e (f (s.engine e)) }
/-- Array a: die × 136 + unit. -/
def State.array (s : State) (a : Nat) : Array := tget {} s.arrays a
def State.onArray (s : State) (a : Nat) (f : Array → Array) : State :=
  { s with arrays := tput {} s.arrays a (f (s.array a)) }
/-- Core k: 76 × processor die + number. -/
def State.core (s : State) (k : Nat) : Core := tget {} s.coh.cores k
def State.onCore (s : State) (k : Nat) (f : Core → Core) : State :=
  s.onCoh fun c => { c with cores := tput {} c.cores k (f (tget {} c.cores k)) }
/-- Counters of a slice (R222). -/
def State.onSlice (s : State) (i : Nat) (f : SliceCtr → SliceCtr) : State :=
  s.onCoh fun c => { c with ctr := tput {} c.ctr i (f (tget {} c.ctr i)) }
/-- A forwarded packet (R255). -/
def isTransit (m : Sent) : Bool := match m.msg with | .transit _ => true | _ => false
/-- Dembet port p. -/
def State.port (s : State) (p : Nat) : FabPort := tget {} s.fab.ports p
def State.onPort (s : State) (p : Nat) (f : FabPort → FabPort) : State :=
  s.onFab fun b => { b with ports := tput {} b.ports p (f (tget {} b.ports p)) }
/-- Die-link port p. -/
def State.dlPort (s : State) (p : Nat) : DlPort := tget {} s.dl p
def State.onDl (s : State) (p : Nat) (f : DlPort → DlPort) : State :=
  { s with dl := tput {} s.dl p (f (s.dlPort p)) }
/-- Voltage domain d. -/
def State.domain (s : State) (d : Nat) : Domain := tget {} s.pwr.domains d
def State.onDomain (s : State) (d : Nat) (f : Domain → Domain) : State :=
  s.onPwr fun p => { p with domains := tput {} p.domains d (f (tget {} p.domains d)) }

/-- A fresh free value and the state that has used it (log entry 1). -/
def State.draw (s : State) : Word × State := (Config.freeValue s.free, { s with free := s.free + 1 })

/-- Interval counter of a die by die code (R22). -/
def State.ticksOf (s : State) (die : Nat) : Nat :=
  if die = 0 then s.hTicks.toNat else (tget 0 s.dieTicks die).toNat

/-- A register of the pages that are served from device-ready on (R413). -/
def whenReady (f : State → State) (s : State) : State := if s.boot.ready then f s else s

/-- The port is an endpoint (R285). -/
def State.endpoint (s : State) : Bool := s.link.role == 0

/-- The set-up lock is held (R10, R441). -/
def State.locked (s : State) : Bool := s.setup.committed || s.setup.busy

/-! ### Physical addresses -/

/-- Regions of the physical map (R175, R234, R235, R292, R440). -/
inductive Region where
  | pool | unbacked | host | bar0 | ecam | fabric
  deriving DecidableEq, Repr

/-- The pool backs an address (Table 1 of chapter 07, R175). -/
def poolBacked (pa : Nat) : Bool :=
  decide (pa < 0x9000000000) || (decide (0x10000000000 ≤ pa) && decide (pa < 0x28000000000))

/-- The LPDDR5X package of a channel of an I/O die: L00-L23 of X0, L24-L47 of X1 (R178). -/
def t2Package (x c : Nat) : Nat := x * 24 + c / 4

/-- Memories of Table 7 of chapter 07. -/
inductive EccMem where
  | hbm | lpddr | sram | tags
  deriving DecidableEq, Repr

/-- What the code of a memory finds. -/
inductive EccFinding where
  | clean | corrected | uncorrectable
  deriving DecidableEq, Repr

/-- Wrong symbols, or bits, that the code of a memory corrects (Table 7 of chapter 07). -/
def eccCorrects : EccMem → Nat
  | .hbm => 8 | .lpddr => 2 | .sram => 1 | .tags => 2

/-- What a read finds in a word with wrong symbols. The patterns that miscorrect, fewer than 10^-10 of those of more than 8
symbols, are left out (R191; log entry 96). -/
def eccFinds (m : EccMem) (wrong : Nat) : EccFinding :=
  if wrong = 0 then .clean else if wrong ≤ eccCorrects m then .corrected else .uncorrectable

/-- An address of tier 2. -/
def inTier2 (pa : Nat) : Bool := decide (0x10000000000 ≤ pa) && decide (pa < 0x28000000000)

/-- Region of a physical address (R175, R234, R235). -/
def regionOf (pa : Nat) : Region :=
  if pa < 0x40000000000000 then if poolBacked pa then .pool else .unbacked
  else if pa < 0x7FE00000000000 then .host
  else if pa < 0x7FE00004000000 then .bar0
  else if pa < 0x7FF00000000000 then .unbacked
  else if pa < 0x7FF00010000000 then .ecam
  else if pa < 0x80000000000000 then .unbacked
  else if pa < 0x100000000000000 then .fabric else .unbacked

/-- First address of the host window (R234). -/
def hostBase : Nat := 0x40000000000000

/-- Host I/O address of a host-window address (R234). -/
def hioOf (pa : Nat) : Nat := pa - hostBase

/-- First host I/O address that cannot be reached (R235). -/
def hioTop : Nat := 0x3FE00000000000

/-- Placement of a tier-1 offset: stack and stack offset (R177). -/
def t1Place (o i : Nat) : Nat × Nat :=
  let gib := 2 ^ 30
  let ilv := gib * 12 * i
  if o < ilv then
    let g := o / 4096
    (g % 12, (g / 12) * 4096 + o % 4096)
  else
    let r := o - ilv
    let per := gib * 3 * (48 - i)
    let d := r / per
    let g := (r % per) / 4096
    (3 * d + g % 3, gib * i + (g / 3) * 4096 + r % 4096)

/-- Placement of a tier-2 offset: I/O die, channel and channel offset (R178). -/
def t2Place (o : Nat) : Nat × Nat × Nat :=
  let g := o / 4096
  (g % 2, (g / 2) % 96, (g / 2 / 96) * 4096 + o % 4096)

/-- Compute die whose die-local region holds an address (R176). -/
def dieLocal (s : State) (pa : Nat) : Option Nat :=
  let ilv := 2 ^ 30 * 12 * s.pool.ilvForce
  let per := 2 ^ 30 * 3 * (48 - s.pool.ilvForce)
  if ilv ≤ pa ∧ pa < 0x9000000000 then some ((pa - ilv) / per) else none

/-- Slice of a line (R183), from its line address. -/
def sliceOf (line : Nat) : Nat :=
  [0, 6, 12, 18, 24, 30, 36, 42, 48].foldl (fun a i => a ^^^ bits line i 6) 0

/-- Set of a line (R183), from its line address. -/
def scSetOf (line : Nat) : Nat :=
  let b := line / 64
  (b % 3) * 1024 + bits (b ^^^ (b >>> 10) ^^^ (b >>> 20) ^^^ (b >>> 30) ^^^ (b >>> 40)) 0 10

/-- Compute die of an agent: engines and arrays 0-543, transform engines 700-731; none for cores (544-695)
and for H, the PCIe port and the fabric (732 and up). -/
def agentDie (a : Nat) : Option Nat :=
  if a < 544 then some (a / 136) else if 700 ≤ a ∧ a < 732 then some ((a - 700) / 8) else none

/-- The PCIe port, the fabric and H as requesters. -/
def agentPcie : Nat := 732
def agentFabric : Nat := 733
def agentHub : Nat := 734

/-- Coherence domain of a private cache (R199, R23): 32 array domains, 8 core domains. -/
def cacheDomain (c : Nat) : Nat :=
  if c < 544 then (c / 136) * 8 + (c % 136) / 17 else 32 + (c - 544) / 19

/-- The caches of a coherence domain. -/
def domainCaches (d : Nat) : List Nat :=
  if d < 32 then span ((d / 8) * 136 + (d % 8) * 17) 17 else span (544 + (d - 32) * 19) 19

/-! ### Tree pseudo-LRU over 16 ways (R182, R199, R229) -/

/-- Way that the tree of a set points to; node 1 is the root, bit n of the word is node n. -/
def plruVictim (t : Nat) : Nat :=
  let step (n : Nat) := 2 * n + one (bit t n)
  step (step (step (step 1))) - 16

/-- The tree after a way has been used: each node on its path points away from it. -/
def plruTouch (t way : Nat) : Nat :=
  [(1, bit way 3), (2 + bits way 3 1, bit way 2), (4 + bits way 2 2, bit way 1), (8 + bits way 1 3, bit way 0)].foldl
    (fun t p => if p.2 then (if bit t p.1 then t - 2 ^ p.1 else t) else t ||| 2 ^ p.1) t

end Sys2Proof.Machine
end

