-- ==== Sys2Proof/Machine/Atoms.lean ====
section
/-! DEFINITION. Read-modify-write operations of atomics (R161, R210), exact-add slots (R213-R215) and the
conversion of a long accumulator (R78). -/

namespace Sys2Proof.Machine

/-- Floating format of an atomic target of a size in bytes. -/
def atomFmt (size : Nat) : Fmt := if size = 4 then .fp32 else .fp64

/-- What one lane's atomic writes over an old value (R161, R210); a compare-and-swap that fails writes the old value. -/
def atomOne (r : AtomReq) (old : Nat) : Nat :=
  let w := r.size * 8
  let b := r.operand % 2 ^ w
  let sOld := toSigned w old
  let sB := toSigned w b
  let f := atomFmt r.size
  match r.kind with
  | .add => (old + b) % 2 ^ w
  | .and => old &&& b
  | .or => old ||| b
  | .xor => old ^^^ b
  | .swap => b
  | .min => if sB < sOld then b else old
  | .max => if sB > sOld then b else old
  | .minu => if b < old then b else old
  | .maxu => if b > old then b else old
  | .cas => if old = r.compare % 2 ^ w then b else old
  | .fadd => encodeNum f (convertNum f .rne .ieee 0 (addNum .rne (decodeNum f old) (decodeNum f b)))
  | .fmin => encodeNum f (minNum (decodeNum f old) (decodeNum f b))
  | .fmax => encodeNum f (maxNum (decodeNum f old) (decodeNum f b))
  | .exactAdd => old

/-- What an atomic writes over an old value: a combined operation is its lanes' operations one after another (R160, R161). -/
def atomNew (r : AtomReq) (old : Nat) : Nat :=
  r.more.foldl (fun x p => atomOne { r with operand := p.1, compare := p.2 } x) (atomOne r old)

/-! ### Long accumulators and slots -/

/-- W value of a status, an exact sum in units of 2^lsb, under the zero-sign rule of a rounding mode (R78, R52). -/
def statusNum (rm : Rm) (status : Nat) (sum lsb : Int) : Num :=
  if bit status 0 || (bit status 1 && bit status 2) then .nan
  else if bit status 1 then .inf false
  else if bit status 2 then .inf true
  else if sum == 0 then
    if bit status 3 then .fin (rm == .rd) 0 0
    else if bit status 5 then (if bit status 4 then .fin (rm == .rd) 0 0 else .fin true 0 0)
    else .fin false 0 0
  else wOf (.fin (sum < 0) sum.natAbs lsb)

/-- Status bits that a term of a value sets (Table 5 of chapter 03, R214). -/
def termStatus : Num → Nat
  | .nan => 1
  | .inf neg => if neg then 4 else 2
  | .fin neg m _ => if m == 0 then (if neg then 32 else 16) else 8

/-- A finite value as an integer in units of 2^lsb; the value is a multiple of it. -/
def unitsOf (v : Num) (lsb : Int) : Int :=
  match v with
  | .fin neg m e =>
    let x : Int := if e ≥ lsb then (m <<< (e - lsb).toNat : Nat) else (m >>> (lsb - e).toNat : Nat)
    if neg then -x else x
  | _ => 0

/-- Bytes of an exact-add slot (R213). -/
def slotBytes (fp64 : Bool) : Nat := if fp64 then 512 else 64
/-- Weight of bit 0 of VALUE (Table 8 of chapter 08). -/
def slotLsb (fp64 : Bool) : Int := if fp64 then -1074 else -149
/-- Width of VALUE. -/
def slotWidth (fp64 : Bool) : Nat := if fp64 then 4032 else 448

/-- A slot after one exact add (R214). -/
def slotAdd (fp64 : Bool) (slot : List Byte) (v : Nat) : List Byte :=
  let x := ofBytes slot
  let n := decodeNum (if fp64 then .fp64 else .fp32) v
  let status := bits x 0 6 ||| termStatus n
  let count := min (bits x 16 48 + 1) (2 ^ 48 - 1)
  let w := slotWidth fp64
  let value := ofSigned w (toSigned w (x >>> 64) + unitsOf n (slotLsb fp64))
  toBytes (slotBytes fp64) (status + count * 2 ^ 16 + value * 2 ^ 64)

/-- The W value of a slot (R215 step 1). -/
def slotNum (rm : Rm) (fp64 : Bool) (slot : List Byte) : Num :=
  let x := ofBytes slot
  statusNum rm (bits x 0 6) (toSigned (slotWidth fp64) (x >>> 64)) (slotLsb fp64)

end Sys2Proof.Machine
end

