-- ==== Sys2Proof/Machine/Switch.lean ====
section
/-! DEFINITION. The switch of the Carousel: the flits of the die-to-die links (R343, R345), which lane carries a message (R344), the
messages about a line that cross it (R16, R206, R339), and the arbiters of its outputs (R351, R352). -/

namespace Sys2Proof.Machine

/-! ### Flits (R345, Table 2 of chapter 13) -/

/-- CRC-32C of bytes: reflected, from all ones, inverted at the end (log entry 43). -/
def crcByte (c : BitVec 32) (b : Byte) : BitVec 32 :=
  (List.range 8).foldl (fun (c : BitVec 32) _ => if c.getLsbD 0 then (c >>> 1) ^^^ 0x82F63B78 else c >>> 1) (c ^^^ b.setWidth 32)
def crc32c (b : List Byte) : BitVec 32 := ~~~(b.foldl crcByte 0xFFFFFFFF)

def sideField (f : Flit) (lo w : Nat) : Nat := bits f.side.toNat lo w
def flitSeq (f : Flit) : Nat := sideField f 88 8
def flitClass (f : Flit) : Nat := sideField f 76 3

/-- The CRC that a flit should carry: over its data, byte 0 first, then sideband bits [95:0]. -/
def flitCrc (data : List Byte) (side : Nat) : BitVec 32 := crc32c (data ++ toBytes 12 (side % 2 ^ 96))
def flitGood (f : Flit) : Bool := BitVec.ofNat 32 (sideField f 96 32) == flitCrc f.data f.side.toNat

/-- A flit of H with its CRC, from its sideband's lower 96 bits. -/
def madeFlit (data : List Byte) (side : Nat) : Flit :=
  { data := data, side := BitVec.ofNat 128 ((flitCrc data side).toNat * 2 ^ 96 + side) }

/-- An idle flit that carries an acknowledgement, or a NAK (R346). -/
def idleFlit (seq ack : Nat) (nak : Bool) : Flit :=
  madeFlit (List.replicate 128 0) (seq % 256 * 2 ^ 88 + ack % 256 * 2 ^ 80 + one nak * 2 ^ 79)

/-- A flit that carries messages of a class, of a kind: 1 header flit, 2 data with header. R343 and R345 give no encoding of the
messages and no rule for the credits returned: payload, header and credits are free values of a draw (log entry 97). -/
def messageFlit (seq ack cls kind : Nat) (nak : Bool) (x : Word) : Flit :=
  madeFlit (toBytes 128 (Config.flitPayload x).toNat)
    (seq % 256 * 2 ^ 88 + ack % 256 * 2 ^ 80 + one nak * 2 ^ 79 + cls % 8 * 2 ^ 76 + kind % 16 * 2 ^ 72
      + (Config.flitCredit x).toNat * 2 ^ 64 + (if kind = 2 then (Config.flitHeader x).toNat else 0))

/-! ### Lanes -/

/-- Lanes per direction of a switch port (Table 1 of chapter 13). -/
def dlLanes (p : Nat) : Nat := if p < 4 then 32 else if p < 6 then 8 else 25

def laneOf (x : DlPort) (l : Nat) : Lane := tget {} x.lanes l
def onLane (l : Nat) (f : Lane → Lane) (x : DlPort) : DlPort := { x with lanes := tput {} x.lanes l (f (laneOf x l)) }

/-- H sends a flit on a lane and keeps it among the last 64 (R346). -/
def keepSent (f : Flit) (l : Lane) : Lane :=
  let q := l.retry ++ [f]
  { l with retry := q.drop (q.length - 64), txSeq := (l.txSeq + 1) % 256 }

def sendIdle (ack : Nat) (nak : Bool) (l : Lane) : Lane := keepSent (idleFlit l.txSeq ack nak) l

/-- Lanes of a port in service towards its die, by number. -/
def downLanes (p : Nat) (x : DlPort) : List Nat := (List.range (dlLanes p)).filter fun l => !x.retired.contains (l * 2 + 1)

/-- WEIGHT of HUB_SHARE[i] (Table 4 of chapter 13). -/
def shareOf (s : State) (i : Nat) : BitVec 8 := tget 32 s.setup.share i

/-- The home side's lanes of 64 GB/s at an operating point of H: 13.1 TB/s at OP5, in proportion to the beat rate (R339, R340). -/
def homeLanes (op : Nat) : Nat := (20480 * nth 2400 Config.beatRate op / 2400 + 50) / 100

/-- Lanes of the output to a port, or of the home side at the point of H's domain (R339, R340; log entry 97). -/
def outLanes (s : State) (output : Nat) : Nat :=
  if output = 8 then homeLanes (s.domain 40).inForce else (s.dlPort output).lanesDn

/-- Lane of a message about a line (R344): of the lanes in service of its direction, those to the die of the output, or for the home
side those from the die of the input. -/
def lineLane (s : State) (input output line : Nat) : Nat :=
  sliceOf line % max 1 (if output = 8 then (s.dlPort input).lanesUp else outLanes s output)

/-- Lane of a transit packet (R344). -/
def transitLane (s : State) (output source dest : Nat) : Nat := (source * 64 + dest) % max 1 (outLanes s output)

/-! ### Messages enter the switch -/

/-- A message without data rides in a header flit of its input, class and lane that waits, at up to eight a flit; one with data
fills a flit of its own (R343). -/
def packFlit (x : XFlit) : List XFlit → List XFlit
  | [] => [x]
  | y :: t =>
    if !x.data ∧ !y.data ∧ y.input = x.input ∧ y.cls = x.cls ∧ y.lane = x.lane ∧ y.msgs + x.msgs ≤ 8 then
      { y with msgs := y.msgs + x.msgs } :: t
    else y :: packFlit x t

def switchOut (s : State) (output : Nat) : SwitchOut := tget {} s.coh.outs output
def onOut (output : Nat) (f : SwitchOut → SwitchOut) (s : State) : State :=
  s.onCoh fun c => { c with outs := tput {} c.outs output (f (tget {} c.outs output)) }

/-- A message waits in the switch for an output. -/
def switchIn (input output cls lane : Nat) (data : Bool) (s : State) : State :=
  onOut output (fun x => { x with waiting := packFlit ⟨input, cls, lane, data, 1⟩ x.waiting }) s

/-- The core whose private cache a cache number names. -/
def coreOfCache (cache : Nat) : Option Nat := if 544 ≤ cache ∧ cache < 696 then some (cache - 544) else none

/-- Port of the die of an agent: its engines, arrays and transform engines, its cores, or X0 for the PCIe port and the fabric. H has
none. -/
def agentPort (agent : Nat) : Option Nat :=
  match agentDie agent with
  | some d => some d
  | none => match coreOfCache agent with
    | some k => some (4 + k / 76)
    | none => if agent = agentPcie ∨ agent = agentFabric then some 6 else none

/-- A message about a line comes from an agent's die to the home side: a flit that H receives (R339, R354). -/
def fromAgent (agent line cls : Nat) (data : Bool) (s : State) : State :=
  match agentPort agent with
  | some p =>
    let n := (switchOut s 8).waiting.length
    let s := switchIn p 8 cls (lineLane s p 8 line) data s
    if n = (switchOut s 8).waiting.length then s
    else s.onCoh fun c => { c with rx := tput 0 c.rx p (advance (tget 0 c.rx p) 1) }
  | none => s

/-- A message about a line leaves the home side for an agent. -/
def toAgent (agent line cls : Nat) (data : Bool) (s : State) : State :=
  match agentPort agent with
  | some p => switchIn 8 p cls (lineLane s 8 p line) data s
  | none => s

/-- Data or a response pass from one agent's die to another's (R339): between the agents of one die they cross nothing, and to H
they go to the home side. -/
def betweenAgents (a b line cls : Nat) (data : Bool) (s : State) : State :=
  match agentPort a, agentPort b with
  | some p, some q =>
    if p = q then s
    else (switchIn p q cls (lineLane s p q line) data s).onCoh fun c => { c with rx := tput 0 c.rx p (advance (tget 0 c.rx p) 1) }
  | _, _ => fromAgent a line cls data s

/-! ### The arbiters (R351) -/

/-- Flit slots of an output in a tick: a lane carries a flit in 2 ns (R343). -/
def outSlots (s : State) (output : Nat) : Nat := 5 * outLanes s output

/-- An input has flits waiting. -/
def inputWaits (x : SwitchOut) (i : Nat) : Bool := x.waiting.any fun f => f.input == i

/-- The next input after the one served last that has flits waiting. -/
def nextInput (x : SwitchOut) : Nat := (((List.range 9).map fun k => (x.lastInput + 1 + k) % 9).find? (inputWaits x)).getD x.lastInput

/-- The flit of an input that goes next: the oldest of the next class, after the class served last, that has one (R351). -/
def nextFlit (x : SwitchOut) (i : Nat) : Option XFlit :=
  let last := tget 0 x.lastCls i
  ((List.range 8).map fun k => (last + 1 + k) % 8).findSome? fun c => x.waiting.find? fun f => f.input == i && f.cls == c

/-- What an output's arbitration sends, oldest first, and for each slot the inputs that waited in it. -/
structure Arbitrated where
  out : SwitchOut
  sent : List XFlit := []
  metered : List Nat := []

/-- An output's slots are divided by deficit round robin: an input whose turn comes gets its weight, and goes on while it has
deficit and flits; what it does not use goes to the others (R351). In each slot the other inputs with flits wait because their
share is used. -/
def arbitrate (weight : Nat → Nat) : Nat → Nat → Arbitrated → Arbitrated
  | 0, _, a => a
  | f + 1, slots, a =>
    let x := a.out
    if slots = 0 ∨ x.waiting = [] then a
    else
      let i := x.lastInput
      match (if tget 0 x.deficit i = 0 then none else nextFlit x i) with
      | some q =>
        let out := { x with
          waiting := x.waiting.erase q, lastCls := tput 0 x.lastCls i q.cls, deficit := tput 0 x.deficit i (tget 0 x.deficit i - 1) }
        let others := (List.range 9).filter fun k => k != i && tget 0 x.deficit k == 0 && inputWaits x k
        arbitrate weight f (slots - 1) { out := out, sent := a.sent ++ [q], metered := a.metered ++ others }
      | none =>
        let j := nextInput x
        arbitrate weight f slots { a with out := { x with
          lastInput := j, deficit := tput 0 (if inputWaits x i then x.deficit else tput 0 x.deficit i 0) j (tget 0 x.deficit j + weight j) } }

/-- A flit goes out to a die: it is kept for a retry, and FLITS_TX counts it (R346, R354). -/
def sendOut (output : Nat) (s : State) (q : XFlit) : State :=
  let (x, s) := s.draw
  let down := downLanes output (s.dlPort output)
  let l := nth 0 down (q.lane % max 1 down.length)
  s.onDl output fun d => onLane l (fun l => keepSent (messageFlit l.txSeq l.lastGood q.cls (if q.data then 2 else 1) l.nak x) l)
    { d with flitsTx := advance d.flitsTx 1 }

/-- METERED_FLITS of the inputs' ports (R351; log entry 97). -/
def meter (inputs : List Nat) (s : State) : State :=
  inputs.foldl (fun s i => if i < 8 then s.onDl i fun x => { x with metered := advance x.metered 1 } else s) s

/-- An output over a tick. -/
def outputTick (output : Nat) (s : State) : State :=
  let n := outSlots s output
  let a := arbitrate (fun i => (shareOf s i).toNat) (10 * n + 20) n { out := switchOut s output }
  let s := onOut output (fun _ => a.out) s
  meter a.metered (if output = 8 then s else a.sent.foldl (sendOut output) s)

/-- Every output with flits waiting over a tick. -/
def switchTick (s : State) : State :=
  ((s.coh.outs.filter fun p => !p.2.waiting.isEmpty).map (·.1)).foldl (fun s o => outputTick o s) s

end Sys2Proof.Machine
end

