-- ==== Sys2Proof/Machine/Home.lean ====
section
/-! DEFINITION. The home: the system cache (R182-R185), the directory (R199), the private caches (R200), the
transitions of Table 3 of chapter 08 (R202) as messages (R204-R206), loans (R208), and the same transitions
run to their end for an access that one command performs whole (R207). -/

namespace Sys2Proof.Machine

/-! ### Sectors and lines -/

/-- 128 bytes of zeros. -/
def zeroLine : List Byte := List.replicate 128 0

/-- A line's bytes with some of them replaced from an offset. -/
def patch (data : List Byte) (off : Nat) (new : List Byte) : List Byte :=
  data.take off ++ new ++ data.drop (off + new.length)

/-- Poison of a sector after bytes [off, off + n) of a line are written (R193): a whole-sector write takes the
poison of the data, a partial one leaves poison and adds the data's. -/
def sectorPoison (old : Bool) (sec off n : Nat) (ep : Bool) : Bool :=
  if off + n ≤ sec * 64 ∨ sec * 64 + 64 ≤ off then old
  else if off ≤ sec * 64 ∧ sec * 64 + 64 ≤ off + n then ep else old || ep

/-- Bytes [off, off + n) of a line touch a sector. -/
def touches (sec off n : Nat) : Bool := decide (off < sec * 64 + 64) && decide (sec * 64 < off + n)

/-- Bytes [off, off + n) of a line cover a sector whole. -/
def coversSector (sec off n : Nat) : Bool := decide (off ≤ sec * 64) && decide (sec * 64 + 64 ≤ off + n)

/-! ### DRAM -/

/-- The DRAM's copy of a line. -/
def dramLine (s : State) (line : Nat) : List Byte := memRead s.pool.mem (line * 128) 128

/-- Only some lines stay in the cores' L1 data and instruction caches (R187). -/
def coreCachesKeep (keep : Nat → Bool) (s : State) : State :=
  s.onCoh fun c => { c with cores := c.cores.map fun (k : Nat × Core) =>
    (k.1, { k.2 with l1d := k.2.l1d.filter keep, l1i := k.2.l1i.filter fun l => keep l.line }) }

/-- A sector of DRAM is poisoned; sectors are numbered by address / 64. -/
def dramPoison (s : State) (sector : Nat) : Bool := s.pool.poison.contains sector

/-- Writes a sector of DRAM with its poison (R193). -/
def dramWrite (sector : Nat) (bytes : List Byte) (ep : Bool) (s : State) : State :=
  s.onPool fun p => { p with
    mem := memWrite p.mem (sector * 64) bytes
    poison := if ep then setAdd p.poison sector else without p.poison sector }

/-! ### The system cache -/

def scBase (line : Nat) : Nat := (sliceOf line * 3072 + scSetOf line) * 16

/-- Place of a line in its set. -/
def scFind (s : State) (line : Nat) : Option Nat :=
  ((List.range 16).find? fun w => match tfind s.coh.sc (scBase line + w) with
    | some l => l.line == line
    | none => false).map (scBase line + ·)

/-- The victim entry of a line (R185). -/
def victimFind (s : State) (line : Nat) : Option ScLine :=
  (tget [] s.coh.victim (sliceOf line)).find? fun l => l.line == line

/-- The system cache's copy of a line, wherever it is. -/
def scCopy (s : State) (line : Nat) : Option ScLine :=
  match scFind s line with
  | some k => tfind s.coh.sc k
  | none => victimFind s line

def scSet (k : Nat) (l : ScLine) (s : State) : State := s.onCoh fun c => { c with sc := tins c.sc k l }

/-- Marks a place as used last. -/
def scTouch (k : Nat) (s : State) : State :=
  s.onCoh fun c => { c with scPlru := tput 0 c.scPlru (k / 16) (plruTouch (tget 0 c.scPlru (k / 16)) (k % 16)) }

/-- Writes the dirty sectors of a line to DRAM (R184). -/
def scWriteBack (l : ScLine) (s : State) : State :=
  let s := if l.valid0 && l.dirty0 then dramWrite (2 * l.line) (l.data.take 64) l.poison0 s else s
  if l.valid1 && l.dirty1 then dramWrite (2 * l.line + 1) (l.data.drop 64) l.poison1 s else s

/-- A line enters the victim cache of its slice; the oldest leaves a full one, written back if dirty (R185). -/
def victimPush (l : ScLine) (s : State) : State :=
  let v := tget [] s.coh.victim (sliceOf l.line) ++ [l]
  let put (v : List ScLine) (s : State) := s.onCoh fun c => { c with victim := tput [] c.victim (sliceOf l.line) v }
  match v with
  | old :: rest => if v.length > 256 then put rest (scWriteBack old s) else put v s
  | [] => s

/-- Takes a line's entry out of the victim cache. -/
def victimDrop (line : Nat) (s : State) : State :=
  s.onCoh fun c => { c with
    victim := tput [] c.victim (sliceOf line) ((tget [] c.victim (sliceOf line)).filter fun l => l.line != line) }

/-- Frees a way of a line's set: an empty one, else the pseudo-LRU one, whose line leaves for the victim cache. -/
def scFreeWay (line : Nat) (s : State) : Nat × State :=
  match firstBelow 16 fun w => (tfind s.coh.sc (scBase line + w)).isNone with
  | some w => (scBase line + w, s)
  | none =>
    let k := scBase line + plruVictim (tget 0 s.coh.scPlru (scBase line / 16))
    match tfind s.coh.sc k with
    | some l => (k, victimPush l (s.onCoh fun c => { c with sc := tdel c.sc k }))
    | none => (k, s)

/-- Gives a line a place in the system cache, recalled from the victim cache with its sectors and state
unchanged where it is there (R185), with no sector valid where it is new. -/
def scAlloc (line : Nat) (s : State) : Nat × State :=
  match scFind s line with
  | some k => (k, scTouch k s)
  | none =>
    let l := (victimFind s line).getD { line := line, data := zeroLine }
    let (k, s) := scFreeWay line (victimDrop line s)
    (k, scTouch k (scSet k l s))

/-- Fills an invalid sector of a line from DRAM (R184). -/
def scFillSector (k sec : Nat) (s : State) : State :=
  match tfind s.coh.sc k with
  | none => s
  | some l =>
    let bytes := memRead s.pool.mem (l.line * 128 + sec * 64) 64
    let ep := dramPoison s (2 * l.line + sec)
    if sec = 0 then
      if l.valid0 then s else scSet k { l with data := patch l.data 0 bytes, valid0 := true, dirty0 := false, poison0 := ep } s
    else
      if l.valid1 then s else scSet k { l with data := patch l.data 64 bytes, valid1 := true, dirty1 := false, poison1 := ep } s

/-- Reads a line at the home: allocated, and the sectors that the request needs filled (R184, R201). -/
def scFill (line : Nat) (need0 need1 : Bool) (s : State) : State :=
  let (k, s) := scAlloc line s
  let s := if need0 then scFillSector k 0 s else s
  if need1 then scFillSector k 1 s else s

/-- Writes bytes of a line at the home, held dirty (R184, R193): a sector written in part is filled first. -/
def scWrite (line off : Nat) (bytes : List Byte) (ep : Bool) (s : State) : State :=
  let n := bytes.length
  let (k, s) := scAlloc line s
  let s := if touches 0 off n && !coversSector 0 off n then scFillSector k 0 s else s
  let s := if touches 1 off n && !coversSector 1 off n then scFillSector k 1 s else s
  match tfind s.coh.sc k with
  | none => s
  | some l => scSet k { l with
      data := patch l.data off bytes
      valid0 := l.valid0 || touches 0 off n, dirty0 := l.dirty0 || touches 0 off n
      poison0 := sectorPoison l.poison0 0 off n ep
      valid1 := l.valid1 || touches 1 off n, dirty1 := l.dirty1 || touches 1 off n
      poison1 := sectorPoison l.poison1 1 off n ep } s

/-- Takes a whole dirty line into the system cache with its sectors' poison. -/
def scTake (line : Nat) (data : List Byte) (p0 p1 : Bool) (s : State) : State :=
  scWrite line 64 (data.drop 64) p1 (scWrite line 0 (data.take 64) p0 s)

/-- Writes a line's dirty sectors to memory and marks them clean (R187). -/
def scClean (line : Nat) (s : State) : State :=
  match scFind s line with
  | some k => match tfind s.coh.sc k with
    | some l => scSet k { l with dirty0 := false, dirty1 := false } (scWriteBack l s)
    | none => s
  | none => match victimFind s line with
    | some l =>
      let clean (x : ScLine) : ScLine := if x.line = line then { x with dirty0 := false, dirty1 := false } else x
      (scWriteBack l s).onCoh fun c => { c with
        victim := tput [] c.victim (sliceOf line) ((tget [] c.victim (sliceOf line)).map clean) }
    | none => s

/-- Discards the system cache's copies of a line without writing them (R185, R187). -/
def scDrop (line : Nat) (s : State) : State :=
  let s := match scFind s line with
    | some k => s.onCoh fun c => { c with sc := tdel c.sc k }
    | none => s
  victimDrop line s

/-! ### Private caches and the directory -/

def privOf (s : State) (cache line : Nat) : Option PrivLine :=
  s.coh.priv.find? fun p => p.cache == cache && p.line == line

def privDrop (cache line : Nat) (s : State) : State :=
  s.onCoh fun c => { c with priv := c.priv.filter fun p => !(p.cache == cache && p.line == line) }

def privSet (p : PrivLine) (s : State) : State :=
  (privDrop p.cache p.line s).onCoh fun c => { c with priv := c.priv ++ [p] }

/-- What the grants of an engine sum to. -/
def grantSum (e : Engine) (f : Grant → Nat) : Nat := e.grants.foldl (fun a g => a + f g) 0

/-- Sets of a private cache: 128 of an engine's L1, 1,024 of a core's L2 (R142, R197). -/
def privSets (cache : Nat) : Nat := if cache < 544 then 128 else 1024

/-- Ways that a private cache may use: 16, less those of an engine that grants take as scratch, the highest first (R144, R197;
log entry 15). -/
def privWays (s : State) (cache : Nat) : Nat := if cache < 544 then 16 - grantSum (s.engine cache) (·.ways) else 16

/-- A line of a cache stands in the set of another line. -/
def sameSet (cache line : Nat) (p : PrivLine) : Bool := p.cache == cache && p.line % privSets cache == line % privSets cache

/-- A way free for a line. -/
def privFreeWay (s : State) (cache line : Nat) : Option Nat :=
  firstBelow (privWays s cache) fun w => !(s.coh.priv.any fun p => sameSet cache line p && p.way == w)

/-- The line that gives up its way: of the set's lines, the one longest since its fill or its last write (log entry 15). -/
def privVictim (s : State) (cache line : Nat) : Option PrivLine :=
  s.coh.priv.find? fun p => sameSet cache line p && decide (p.way < privWays s cache)

def wbufOf (s : State) (cache line : Nat) : Option PrivLine :=
  s.coh.wbuf.find? fun p => p.cache == cache && p.line == line

def wbufDrop (cache line : Nat) (s : State) : State :=
  s.onCoh fun c => { c with wbuf := c.wbuf.filter fun p => !(p.cache == cache && p.line == line) }

/-- A granule leaves a cache: a reservation on it is lost, with the delay after its LR, and the core's L1 drops it (R212). -/
def loseReservation (cache line : Nat) (s : State) : State :=
  match coreOfCache cache with
  | some k =>
    let c := s.core k
    let s := if c.l1d.contains line then s.onCore k fun c => { c with l1d := c.l1d.erase line } else s
    if c.reservation = some line then s.onCore k fun c => { c with reservation := none, lrDelay := false } else s
  | none => s

def dirBase (line : Nat) : Nat := (sliceOf line * 6144 + line % 6144) * 16

def dirFind (s : State) (line : Nat) : Option Nat :=
  ((List.range 16).find? fun w => match tfind s.coh.dir (dirBase line + w) with
    | some d => d.line == line
    | none => false).map (dirBase line + ·)

def dirEntry (s : State) (line : Nat) : Option DirEntry :=
  match dirFind s line with
  | some k => tfind s.coh.dir k
  | none => none

/-- Caches a snoop of an entry goes to: the exact holders, or every cache of the domains marked (R199). -/
def dirHolders (d : DirEntry) : List Nat := if d.doms.isEmpty then d.ids else d.doms.flatMap domainCaches

/-- The entry with a holder added: by exact identity up to four, by domain bits beyond (R199). -/
def dirAdd (d : DirEntry) (cache : Nat) : DirEntry :=
  if d.doms.isEmpty then
    let ids := setAdd d.ids cache
    if ids.length ≤ 4 then { d with ids := ids }
    else { d with ids := [], doms := ids.foldl (fun a c => setAdd a (cacheDomain c)) [] }
  else { d with doms := setAdd d.doms (cacheDomain cache) }

/-- The cache that holds a line in E or M, or has it in its write-back buffer, as the directory knows (R202). -/
def ownerOf (s : State) (line : Nat) : Option Nat :=
  match dirEntry s line with
  | some d => if d.excl then d.ids.head? else none
  | none => none

/-- The dirty copy of a line outside the home: a private copy in M, or the write-back buffer of the cache that
the directory shows as the holder (R205). -/
def dirtyCopy (s : State) (line : Nat) : Option PrivLine :=
  match s.coh.priv.find? fun p => p.line == line && p.st == .m with
  | some p => some p
  | none => match ownerOf s line with
    | some o => wbufOf s o line
    | none => none

/-- The home's value of a line: a valid sector of the system cache, else DRAM (R198, R202). -/
def homeLine (s : State) (line : Nat) : List Byte × Bool × Bool :=
  let mem := dramLine s line
  let m0 := dramPoison s (2 * line)
  let m1 := dramPoison s (2 * line + 1)
  match scCopy s line with
  | some l =>
    ((if l.valid0 then l.data.take 64 else mem.take 64) ++ (if l.valid1 then l.data.drop 64 else mem.drop 64),
      if l.valid0 then l.poison0 else m0, if l.valid1 then l.poison1 else m1)
  | none => (mem, m0, m1)

/-- The one image of a line that every agent observes (R198, R200, R218). -/
def lineValue (s : State) (line : Nat) : List Byte × Bool × Bool :=
  match dirtyCopy s line with
  | some p => (p.data, p.poison0, p.poison1)
  | none => homeLine s line

def txnOf (s : State) (line : Nat) : Option Txn := s.coh.txns.find? fun t => t.line == line

/-- A request that waits for its line stands in the queue. -/
def lineQueued (s : State) (line : Nat) : Bool := s.coh.queue.any fun w => w.line == line

/-- The home takes a line from its holders (R199, R208): each gets a message of the snoop class, and answers with a response, or
with its dirty data (R206). -/
def recallCopies (d : DirEntry) (s : State) : State :=
  (dirHolders d).foldl (fun s c =>
    let dirty := match privOf s c d.line with
      | some p => p.st == .m
      | none => false
    fromAgent c d.line (if dirty then 4 else 3) dirty (toAgent c d.line 2 false s)) s

/-- Back-invalidation of a line's private copies (R199): dirty data return to the system cache, those on their way to a
requester among them. -/
def backInvalidate (d : DirEntry) (s : State) : State :=
  let s := recallCopies d s
  let s := match txnOf s d.line, dirtyCopy s d.line with
    | _, some p => scTake d.line p.data p.poison0 p.poison1 s
    | some t, none => if t.granted && !t.data.isEmpty && (t.req == .rdu || t.req == .upg) then scTake d.line t.data t.poison0 t.poison1 s else s
    | none, none => s
  let s := (dirHolders d).foldl (fun s c => loseReservation c d.line s) s
  let s := s.onCoh fun c => { c with priv := c.priv.filter fun p => p.line != d.line }
  s.onSlice (sliceOf d.line) fun c => { c with backInv := advance c.backInv 1 }

def dirTouch (k : Nat) (s : State) : State :=
  s.onCoh fun c => { c with dirPlru := tput 0 c.dirPlru (k / 16) (plruTouch (tget 0 c.dirPlru (k / 16)) (k % 16)) }

/-- The entry of a place belongs to a line that no transaction blocks. -/
def dirIdle (s : State) (k : Nat) : Bool :=
  match tfind s.coh.dir k with
  | some d => (txnOf s d.line).isNone
  | none => true

/-- The way of a full set that is evicted: the pseudo-LRU one, or the next whose line no transaction blocks (R199, R204). -/
def dirVictim (line : Nat) (s : State) : Nat :=
  let v := plruVictim (tget 0 s.coh.dirPlru (dirBase line / 16))
  ((span v 16).map (· % 16) |>.find? fun w => dirIdle s (dirBase line + w)).getD v

/-- Frees a way of a line's directory set, evicting by pseudo-LRU where the set is full (R199). -/
def dirFreeWay (line : Nat) (s : State) : Nat × State :=
  match firstBelow 16 fun w => (tfind s.coh.dir (dirBase line + w)).isNone with
  | some w => (dirBase line + w, s)
  | none =>
    let k := dirBase line + dirVictim line s
    match tfind s.coh.dir k with
    | some d => (k, (backInvalidate d s).onCoh fun c => { c with dir := tdel c.dir k })
    | none => (k, s)

/-- Writes a line's directory entry; an entry without holders leaves the directory (state I). -/
def dirSet (d : DirEntry) (s : State) : State :=
  let empty := d.ids.isEmpty && d.doms.isEmpty
  match dirFind s d.line with
  | some k =>
    if empty then s.onCoh fun c => { c with dir := tdel c.dir k }
    else dirTouch k (s.onCoh fun c => { c with dir := tins c.dir k d })
  | none =>
    if empty then s
    else
      let (k, s) := dirFreeWay d.line s
      dirTouch k (s.onCoh fun c => { c with dir := tins c.dir k d })

def dirClear (line : Nat) (s : State) : State := dirSet { line := line, excl := false } s

/-! ### Loans (R208) -/

def granuleOf (line : Nat) : Nat := line / 32

def onLoan (s : State) (line : Nat) : Bool := s.coh.loans.contains (granuleOf line)

/-- The home holds the line: in the system cache, in the directory, or in a transaction. -/
def homeHeld (s : State) (line : Nat) : Bool :=
  (scCopy s line).isSome || (dirEntry s line).isSome || (txnOf s line).isSome || lineQueued s line

/-- The granule is die-local to the requester's own die and not on loan, and the home does not hold the line: the die reaches
it directly (R180; log entry 94). -/
def direct (s : State) (agent line : Nat) : Bool :=
  match agentDie agent, dieLocal s (line * 128) with
  | some a, some d => a == d && !onLoan s line && !homeHeld s line
  | _, _ => false

/-- A line not handled through the home: the die's dirty copy is written to its stack and its engines' copies
are discarded. -/
def dieClean (line : Nat) (s : State) : State :=
  let s := match s.coh.priv.find? fun p => p.line == line && p.st == .m with
    | some p => dramWrite (2 * line + 1) (p.data.drop 64) p.poison1 (dramWrite (2 * line) (p.data.take 64) p.poison0 s)
    | none => s
  s.onCoh fun c => { c with priv := c.priv.filter fun p => p.line != line }

/-- Outside copies of a line are invalidated, dirty data and the system cache's copies written to memory. -/
def homeClean (line : Nat) (s : State) : State :=
  let s := match dirEntry s line with
    | some d => (dirHolders d).foldl (fun s c => loseReservation c line s) (recallCopies d s)
    | none => s
  let s := match dirtyCopy s line with
    | some p => scTake line p.data p.poison0 p.poison1 s
    | none => s
  let s := s.onCoh fun c => { c with priv := c.priv.filter fun p => p.line != line }
  scDrop line (scClean line (dirClear line s))

/-- A granule's lines. -/
def granuleLines (g : Nat) : List Nat := span (g * 32) 32

/-! ### Messages of a transaction (R202, R204, R206) -/

def txnSet (t : Txn) (s : State) : State :=
  s.onCoh fun c => { c with txns := c.txns.map fun x => if x.line = t.line then t else x }

def txnDrop (line : Nat) (s : State) : State :=
  s.onCoh fun c => { c with txns := c.txns.filter fun t => t.line != line }

/-- Snoops of a request from the directory state it finds (Table 3 of chapter 08). -/
def snoopsFor (s : State) (req : HomeReq) (agent line : Nat) : List (Nat × SnoopKind) :=
  match dirEntry s line with
  | none => []
  | some d =>
    let others := (dirHolders d).filter fun c => c != agent
    match req with
    | .rds => if d.excl then others.map (·, .share) else match d.fwd with
        | some f => if f == agent then [] else [(f, .forward)]
        | none => []
    | .rdu => others.map (·, if d.excl then .unique else .invalidate)
    | .upg => others.map (·, if d.excl then .unique else .invalidate)
    | .rdonce _ _ => if d.excl then (dirHolders d).map (·, .clean) else []
    | .wrline _ _ => (dirHolders d).map (·, .invalidate)
    | .atom _ _ => (dirHolders d).map (·, .invalidate)
    | .lock _ => (dirHolders d).map (·, .invalidate)
    | .wb => []
    | .ev => []

/-- The directory after a transaction (Table 3 of chapter 08). The holders that answered a miss were no holders; a holder whose
data came from its write-back buffer is one no more (R205). -/
def dirAfter (s : State) (t : Txn) : DirEntry :=
  let none_ : DirEntry := { line := t.line, excl := false }
  let alone : DirEntry := { line := t.line, excl := true, ids := [t.agent] }
  match t.req with
  | .rds => match dirEntry s t.line with
    | none => alone
    | some d =>
      let d := if d.excl then { d with excl := false, ids := d.ids.filter fun c => (privOf s c t.line).isSome } else d
      if d.ids.isEmpty && d.doms.isEmpty && t.data.isEmpty then alone
      else { dirAdd d t.agent with fwd := some t.agent }
  | .rdu => alone
  | .upg => alone
  | .rdonce _ _ => match dirEntry s t.line with
    | some d => if d.excl then { d with ids := d.ids.filter fun c => (privOf s c t.line).isSome } else d
    | none => none_
  | _ => none_

/-- A read-modify-write at the home on the line's value (R209). -/
def homeAtom (addr : Nat) (r : AtomReq) (s : State) : Nat × State :=
  let line := addr / 128
  let off := addr % 128
  let (data, _, _) := homeLine s line
  let old := ofBytes ((data.drop off).take r.size)
  let s := scWrite line off (toBytes r.size (atomNew r old)) false s
  (old, s.onSlice (sliceOf line) fun c => { c with atomics := advance c.atomics 1 })

/-- Sectors of a line that a read needs: of a RdOnce, those its bytes lie in; of a cache's request, both (R184). -/
def needs (t : Txn) (sec : Nat) : Bool :=
  match t.req with
  | .rdonce off n => touches sec off n
  | _ => true

/-- The home's grant leaves (R206): the line's data where no cache has supplied them, else a response without data, an atomic's
with its result. A slot lock's is H's own. -/
def sendGrant (t : Txn) (s : State) : State :=
  match t.req with
  | .wrline _ _ => toAgent t.agent t.line 3 false s
  | .atom _ _ => toAgent t.agent t.line 3 false s
  | .upg => toAgent t.agent t.line 3 false s
  | .lock _ => s
  | _ => if t.data.isEmpty then toAgent t.agent t.line 4 true s else s

/-- Every response has arrived: the home forms the grant, updates the directory, and performs a write or an
atomic (R202). -/
def homeFinish (t : Txn) (s : State) : State :=
  let s := if t.data.isEmpty then s
    else s.onSlice (sliceOf t.line) fun c => { c with forwarded := advance c.forwarded 1 }
  let s := sendGrant t s
  let dir := dirAfter s t
  match t.req with
  | .wrline addr data =>
    txnSet { t with granted := true } (scWrite t.line (addr % 128) data t.poison0 (dirSet dir s))
  | .atom addr r =>
    let (old, s) := homeAtom addr r (dirSet dir s)
    txnSet { t with granted := true, result := old } s
  | .lock _ => txnSet { t with granted := true, acked := true } (dirSet dir s)
  | .upg => txnSet { t with granted := true } (dirSet dir s)
  | _ =>
    let s := if t.data.isEmpty then scFill t.line (needs t 0) (needs t 1) s else s
    let (d, p0, p1) := if t.data.isEmpty then homeLine s t.line else (t.data, t.poison0, t.poison1)
    txnSet { t with granted := true, data := d, poison0 := p0, poison1 := p1 } (dirSet dir s)

/-- A core delays a snoop that would take the granule of its LR (R212). -/
def snoopDelayed (s : State) (n : Snoop) : Bool :=
  match coreOfCache n.cache with
  | some k => (s.core k).lrDelay && (s.core k).reservation == some n.line && (n.kind == .unique || n.kind == .invalidate)
  | none => false

/-- The response supplies the requester's data: every supplier but a sharer that is not the F holder. -/
def supplies (s : State) (t : Txn) (r : SnoopResp) : Bool :=
  r.hit && match t.req with
    | .rds => true
    | .rdonce _ _ => true
    | .rdu => r.dirty || (match dirEntry s t.line with
        | some d => d.excl || d.fwd == some r.cache
        | none => false)
    | _ => false

/-- The response's dirty data go to the home: for every request but one whose requester takes the line in M. -/
def returnsDirty (t : Txn) (r : SnoopResp) : Bool :=
  r.hit && r.dirty && match t.req with
    | .rdu => false
    | .upg => false
    | _ => true

/-- A snoop's answer on its way (R206, R339): the supplier's data and the other responses go to the requester, dirty data to the
home, and so does every answer where the home performs the request itself. -/
def sendResponse (r : SnoopResp) (s : State) : State :=
  match txnOf s r.line with
  | none => fromAgent r.cache r.line 3 false s
  | some t =>
    let back := returnsDirty t r
    let s := if back then fromAgent r.cache r.line 4 true s else s
    match t.req with
    | .wrline _ _ => if back then s else fromAgent r.cache r.line 3 false s
    | .atom _ _ => if back then s else fromAgent r.cache r.line 3 false s
    | .lock _ => if back then s else fromAgent r.cache r.line 3 false s
    | _ => if supplies s t r then betweenAgents r.cache t.agent r.line 4 true s else betweenAgents r.cache t.agent r.line 3 false s

/-- A cache answers a snoop from its own state, its write-back buffer included (Table 3 of chapter 08, R205). -/
def snoopAnswer (n : Snoop) (s : State) : State :=
  let s := s.onCoh fun c => { c with snoops := c.snoops.filter fun x => !(x.line == n.line && x.cache == n.cache) }
  let reply (r : SnoopResp) (s : State) := (sendResponse r s).onCoh fun c => { c with resps := c.resps ++ [r] }
  match privOf s n.cache n.line with
  | some p =>
    let hit : SnoopResp := { line := n.line, cache := n.cache, hit := true, dirty := p.st == .m,
                             data := p.data, poison0 := p.poison0, poison1 := p.poison1 }
    match n.kind with
    | .share => reply hit (privSet { p with st := .s } s)
    | .forward => reply hit (privSet { p with st := .s } s)
    | .clean => reply hit (if p.st == .m then privSet { p with st := .e } s else s)
    | .unique => reply hit (loseReservation n.cache n.line (privDrop n.cache n.line s))
    | .invalidate => reply hit (loseReservation n.cache n.line (privDrop n.cache n.line s))
  | none => match wbufOf s n.cache n.line with
    | some p =>
      if ownerOf s n.line = some n.cache then
        reply { line := n.line, cache := n.cache, hit := true, dirty := true, gone := true,
                data := p.data, poison0 := p.poison0, poison1 := p.poison1 } s
      else reply { line := n.line, cache := n.cache, hit := false, dirty := false } s
    | none => reply { line := n.line, cache := n.cache, hit := false, dirty := false } s

/-- A snoop response reaches the home (R202). -/
def homeResponse (r : SnoopResp) (s : State) : State :=
  let s := s.onCoh fun c => { c with resps := c.resps.filter fun x => !(x.line == r.line && x.cache == r.cache) }
  match txnOf s r.line with
  | none => s
  | some t =>
    let wait := t.waitFor.filter fun c => c != r.cache
    let s := if returnsDirty t r then scTake r.line r.data r.poison0 r.poison1 s else s
    let t := { t with waitFor := wait }
    let t := if supplies s t r && t.data.isEmpty then { t with data := r.data, poison0 := r.poison0, poison1 := r.poison1 } else t
    let s := txnSet t s
    if wait.isEmpty then homeFinish t s else s

/-! ### Lines that leave and come -/

/-- The home acknowledges a WB (R205): it takes the data of the holder, and of no one else, and a WB blocks
nothing. -/
def homeWb (agent line : Nat) (s : State) : State :=
  let s := toAgent agent line 5 false s
  let s := if ownerOf s line = some agent then
      match wbufOf s agent line with
      | some p => dirClear line (scTake line p.data p.poison0 p.poison1 s)
      | none => s
    else s
  s.onCoh fun c => { c with wbAcks := c.wbAcks ++ [(agent, line)] }

/-- The home learns that a line in E or F has been dropped (R202). -/
def homeEv (agent line : Nat) (s : State) : State :=
  match dirEntry s line with
  | none => s
  | some d =>
    if d.excl then (if d.ids.contains agent then dirClear line s else s)
    else dirSet { d with ids := without d.ids agent, fwd := if d.fwd = some agent then none else d.fwd } s

/-- A request leaves an agent for the home, and what it carries: the bytes of a write, an atomic's operands, or the line of a WB
(R206). A slot lock's is H's own. -/
def sendRequest (req : HomeReq) (agent line : Nat) (s : State) : State :=
  match req with
  | .wrline _ _ => fromAgent agent line 4 true (fromAgent agent line 1 false s)
  | .atom _ _ => fromAgent agent line 4 true (fromAgent agent line 1 false s)
  | .wb => fromAgent agent line 4 true (fromAgent agent line 1 false s)
  | .lock _ => s
  | _ => fromAgent agent line 1 false s

/-- A WB or an Ev reaches the home: it waits where a transaction blocks its line (R204), and blocks nothing itself. -/
def homeNotice (wb : Bool) (agent line : Nat) (s : State) : State :=
  let s := sendRequest (if wb then .wb else .ev) agent line s
  if (txnOf s line).isSome || lineQueued s line then
    let s := if (txnOf s line).isSome then s.onSlice (sliceOf line) fun c => { c with blocked := advance c.blocked 1 } else s
    s.onCoh fun c => { c with queue := c.queue ++ [{ line := line, req := if wb then .wb else .ev, agent := agent }] }
  else if wb then homeWb agent line s else homeEv agent line s

/-- Writes a line's two sectors to DRAM. -/
def dramLineWrite (p : PrivLine) (s : State) : State :=
  dramWrite (2 * p.line + 1) (p.data.drop 64) p.poison1 (dramWrite (2 * p.line) (p.data.take 64) p.poison0 s)

/-- A line leaves its cache (R180, R200, R205): one in M is written back, to the die's own stack or to the home, its data in the
write-back buffer until the acknowledgement; one in E or F is told of; one in S goes without notice. An older entry of the
buffer for the line has been accepted, for the cache has held the line again since. -/
def privLeave (p : PrivLine) (s : State) : State :=
  let s := loseReservation p.cache p.line (privDrop p.cache p.line s)
  if direct s p.cache p.line then (if p.st == .m then dramLineWrite p s else s)
  else match p.st with
    | .m => homeNotice true p.cache p.line ((wbufDrop p.cache p.line s).onCoh fun c => { c with
        wbuf := c.wbuf ++ [p], wbAcks := c.wbAcks.erase (p.cache, p.line) })
    | .s => s
    | _ => homeNotice false p.cache p.line s

/-- A line comes into a cache, in a free way of its set or in that of a line that leaves (R142, R197). Where grants have taken
every way, it leaves again at once (R144). -/
def privFill (p : PrivLine) (s : State) : State :=
  match privFreeWay s p.cache p.line with
  | some w => privSet { p with way := w } s
  | none => match privVictim s p.cache p.line with
    | some v => privSet { p with way := v.way } (privLeave v s)
    | none => privLeave p (privSet p s)

/-- The directory shows a cache as a holder of a line. -/
def dirShows (s : State) (cache line : Nat) : Bool :=
  match dirEntry s line with
  | some d => (dirHolders d).contains cache
  | none => false

/-- The requester receives its data or grant, takes the line in the state of Table 3, and sends the final
acknowledgement (R204). A line back-invalidated meanwhile does not stay (R199). -/
def requesterReceive (t : Txn) (s : State) : State :=
  let take (st : LineState) (s : State) :=
    if dirShows s t.agent t.line then
      privFill { cache := t.agent, line := t.line, st := st, data := t.data, poison0 := t.poison0, poison1 := t.poison1 } s
    else s
  let s := match t.req with
    | .rds => match dirEntry s t.line with
      | some d => take (if d.excl then .e else .f) s
      | none => s
    | .rdu => take .m s
    | .upg => match privOf s t.agent t.line with
      | some p => privSet { p with st := .m } s
      | none =>
        let (d, p0, p1) := homeLine s t.line
        if dirShows s t.agent t.line then
          privFill { cache := t.agent, line := t.line, st := .m, data := d, poison0 := p0, poison1 := p1 } s
        else s
    | _ => s
  txnSet { t with acked := true } (match t.req with
    | .lock _ => s
    | _ => fromAgent t.agent t.line 5 false s)

/-- Every snoop of a line is answered, a delayed one once its delay, of up to 200 ns, has passed (R212; log entry 95). -/
def answerSnoops (line : Nat) (s : State) : State :=
  (s.coh.snoops.filter fun n => n.line == line).foldl (fun s n => snoopAnswer n s) s

/-- Every response of a line reaches the home. -/
def takeResponses (line : Nat) (s : State) : State :=
  (s.coh.resps.filter fun n => n.line == line).foldl (fun s r => homeResponse r s) s

/-- The messages of a transaction on a line drain, its requests in the queue left there. -/
def drainLine (line : Nat) (s : State) : State :=
  match txnOf s line with
  | none => s
  | some _ =>
    let s := takeResponses line (answerSnoops line s)
    match txnOf s line with
    | some t => txnDrop line (requesterReceive t s)
    | none => s

/-! ### Loans begin and end (R208) -/

/-- Recall and return of a granule (R208): the transactions in flight on its lines end first. -/
def loanEnd (g : Nat) (s : State) : State :=
  let s := (granuleLines g).foldl (fun s l => homeClean l (drainLine l s)) s
  s.onCoh fun c => { c with loans := without c.loans g }

/-- Granules on loan from a die, oldest first. -/
def loansOf (s : State) (die : Nat) : List Nat := s.coh.loans.filter fun g => dieLocal s (g * 4096) == some die

/-- Granules of a die that may be on loan at once (R208). -/
def loanMax : Nat := 65536

/-- A full table recalls the granule longest on loan. -/
def roomForLoan (d : Nat) (s : State) : State :=
  match loansOf s d with
  | g :: rest => if rest.length + 1 ≥ loanMax then loanEnd g s else s
  | [] => s

/-- The copies of a line that the home holds leave the engines of a die: dirty data return to the home, and the directory shows
them no more. Transactions under way on the line end first. -/
def dieRecall (d line : Nat) (s : State) : State :=
  let s := drainLine line s
  let mine (c : Nat) : Bool := agentDie c == some d
  let s := match dirtyCopy s line with
    | some p => if mine p.cache then scTake line p.data p.poison0 p.poison1 s else s
    | none => s
  let s := s.onCoh fun c => { c with priv := c.priv.filter fun p => !(p.line == line && mine p.cache) }
  match dirEntry s line with
  | some e =>
    if e.doms.isEmpty then dirSet { e with ids := e.ids.filter fun c => !mine c, fwd := e.fwd.filter fun c => !mine c } s else s
  | none => s

/-- The granule of a line is placed on loan: a message to its die, whose engines' copies of the granule's lines are written back
and invalidated, and the die's answer. -/
def lend (d line : Nat) (s : State) : State :=
  let g := granuleOf line
  let s := switchIn d 8 3 (lineLane s d 8 line) false (switchIn 8 d 2 (lineLane s 8 d line) false s)
  let s := (granuleLines g).foldl (fun s l => if homeHeld s l then dieRecall d l s else dieClean l s) s
  let s := s.onCoh fun c => { c with loans := c.loans ++ [g] }
  s.onSlice (sliceOf line) fun c => { c with loans := advance c.loans 1 }

/-- An outside request first places a granule on loan (R208); a full table recalls the one longest on loan. One of the die's own
places none: its engines' copies go, and the home takes the line (log entry 94). -/
def loanFor (agent line : Nat) (s : State) : State :=
  match dieLocal s (line * 128) with
  | none => s
  | some d =>
    if onLoan s line then s
    else if agentDie agent == some d then (if homeHeld s line then s else dieClean line s)
    else lend d line (roomForLoan d s)

/-! ### Requests -/

/-- An upgrade whose requester has lost its copy is performed as RdU (R202). -/
def asAccepted (s : State) (req : HomeReq) (agent line : Nat) : HomeReq :=
  if req == .upg && (privOf s agent line).isNone then .rdu else req

/-- The home accepts a request for a line that no transaction blocks (R202, R204). -/
def homeAccept (req : HomeReq) (agent line : Nat) (ep : Bool) (s : State) : State :=
  match req with
  | .wb => homeWb agent line s
  | .ev => homeEv agent line s
  | _ =>
    let req := asAccepted s req agent line
    let s := loanFor agent line s
    let snoops := snoopsFor s req agent line
    let t : Txn := { line := line, req := req, agent := agent, waitFor := snoops.map (·.1), poison0 := ep }
    let s := s.onCoh fun c => { c with
      txns := c.txns ++ [t]
      snoops := c.snoops ++ snoops.map fun p => { line := line, cache := p.1, kind := p.2 } }
    let s := s.onSlice (sliceOf line) fun c => { c with snoops := advance c.snoops snoops.length }
    let s := snoops.foldl (fun s p => toAgent p.1 line 2 false s) s
    if snoops.isEmpty then homeFinish t s else s

/-- Transactions in flight at a slice, at most 256 (R204). -/
def sliceLoad (s : State) (slice : Nat) : Nat := (s.coh.txns.filter fun t => sliceOf t.line == slice).length

/-- The requests that wait are accepted in order of arrival, each once no transaction blocks its line and its slice has room
for it (R204). A WB or an Ev blocks nothing, so the next request is accepted with it. -/
def unblock : Nat → State → State
  | 0, s => s
  | n + 1, s =>
    match s.coh.queue.find? fun w => decide (sliceLoad s (sliceOf w.line) < 256) && (txnOf s w.line).isNone with
    | none => s
    | some w => unblock n (homeAccept w.req w.agent w.line false (s.onCoh fun c => { c with queue := c.queue.erase w }))

/-- A request reaches the home: accepted, or queued behind the transaction that blocks its line, or for one of the
256 transactions of its slice (R204). BLOCKED_WAITS counts those that found their line blocked. -/
def homeRequest (req : HomeReq) (agent line : Nat) (s : State) : State :=
  let s := sendRequest req agent line s
  let blocked := (txnOf s line).isSome
  let s := if blocked then s.onSlice (sliceOf line) fun c => { c with blocked := advance c.blocked 1 } else s
  if blocked || lineQueued s line || decide (sliceLoad s (sliceOf line) ≥ 256) then
    s.onCoh fun c => { c with queue := c.queue ++ [{ line := line, req := req, agent := agent }] }
  else unblock s.coh.queue.length (homeAccept req agent line false s)

/-- The final acknowledgement reaches the home: the line is unblocked. -/
def homeAck (line : Nat) (s : State) : State := unblock (s.coh.queue.length + 1) (txnDrop line s)

/-! ### A transaction run to its end -/

/-- The transaction on a line runs to its end: its snoops are answered, its answers arrive, and its final acknowledgement
unblocks the line (R207). -/
def endTxn (line : Nat) (s : State) : State :=
  let s := takeResponses line (answerSnoops line s)
  match txnOf s line with
  | some t => homeAck line (requesterReceive t s)
  | none => s

/-- The oldest transaction of a slice ends, and those that wait for its room are accepted in turn (R204). -/
def endOldest (slice : Nat) (s : State) : State :=
  match s.coh.txns.find? fun t => sliceOf t.line == slice with
  | some t => endTxn t.line s
  | none => unblock s.coh.queue.length s

/-- The transactions on a line end until none blocks it and no request for it waits (R207); a request for it that waits for room
in its slice comes after those before it (R204). -/
def settle (line : Nat) : Nat → State → State
  | 0, s => s
  | n + 1, s =>
    if (txnOf s line).isSome then settle line n (endTxn line s)
    else if lineQueued s line then settle line n (endOldest (sliceOf line) s)
    else s

/-- Messages that stand before a request on a line. -/
def settleAll (line : Nat) (s : State) : State := settle line (2 * (s.coh.queue.length + s.coh.txns.length) + 2) s

/-- A request waits until nothing before it blocks its line; BLOCKED_WAITS counts one that found it blocked (R204). -/
def homeWait (line : Nat) (s : State) : State :=
  if (txnOf s line).isSome then settleAll line (s.onSlice (sliceOf line) fun c => { c with blocked := advance c.blocked 1 })
  else if lineQueued s line then settleAll line s
  else s

/-- Transactions of a slice end, oldest first, until it has room for one more: the requests before it have been accepted
(R204). -/
def makeRoom (slice : Nat) : Nat → State → State
  | 0, s => s
  | n + 1, s => if sliceLoad s slice < 256 then s else makeRoom slice n (endOldest slice s)

/-- A request waits for one of the 256 transactions of its slice. -/
def homeRoom (line : Nat) (s : State) : State := makeRoom (sliceOf line) (s.coh.queue.length + s.coh.txns.length + 1) s

/-- A transaction performed whole: those before it end first, then its own messages run to its end (R204, R207). -/
def homeRun (req : HomeReq) (agent line : Nat) (ep : Bool) (s : State) : State :=
  endTxn line (homeAccept req agent line ep (homeRoom line (homeWait line (sendRequest req agent line s))))

end Sys2Proof.Machine
end

