-- ==== Sys2Proof/Machine/Events.lean ====
section
/-! DEFINITION. What leaves the module: accesses of H and other agents to the pool as bytes, hot-page counts,
posted writes and MSI-X messages to the host, and onion records on the event ring. -/

namespace Sys2Proof.Machine

/-! ### Pool accesses as bytes -/

/-- Pieces of a byte range that do not cross a multiple of g, as (address, length). -/
def pieces (g : Nat) : Nat → Nat → Nat → List (Nat × Nat)
  | 0, _, _ => []
  | f + 1, a, n =>
    if n = 0 then []
    else
      let k := min n (g - a % g)
      (a, k) :: pieces g f (a + k) (n - k)

/-- Pieces by line. -/
def linePieces (a n : Nat) : List (Nat × Nat) := pieces 128 (n / 128 + 2) a n

/-- How an access keeps what it reads (Table 2 of chapter 08): in the requester's cache, nowhere, or uncached
(R182, R227). -/
inductive Keep where
  | cache | once | uncached
  deriving DecidableEq, Repr

/-- Writes part of a line straight to DRAM, with its poison (R193). -/
def dramPatch (line off : Nat) (bytes : List Byte) (ep : Bool) (s : State) : State :=
  let n := bytes.length
  let d := patch (dramLine s line) off bytes
  let p0 := sectorPoison (dramPoison s (2 * line)) 0 off n ep
  let p1 := sectorPoison (dramPoison s (2 * line + 1)) 1 off n ep
  let s := if touches 0 off n then dramWrite (2 * line) (d.take 64) p0 s else s
  if touches 1 off n then dramWrite (2 * line + 1) (d.drop 64) p1 s else s

/-- A die's own line is read by one of its caches without the home (R180): a dirty copy is written to the
stack, and every other copy becomes S. -/
def dieShare (line : Nat) (s : State) : State :=
  let s := match dirtyCopy s line with
    | some p => dramWrite (2 * line + 1) (p.data.drop 64) p.poison1 (dramWrite (2 * line) (p.data.take 64) p.poison0 s)
    | none => s
  s.onCoh fun c => { c with priv := c.priv.map fun p => if p.line = line then { p with st := .s } else p }

/-- A line is brought to an agent for a read of n of its bytes (R180, R184, R200-R202). -/
def fetchLine (k : Keep) (agent line off n : Nat) (s : State) : State :=
  match k with
  | .uncached => homeWait line (if direct s agent line then s else toAgent agent line 4 true (fromAgent agent line 1 false s))
  | .once =>
    if direct s agent line then dieShare line s else homeRun (.rdonce off n) agent line false s
  | .cache =>
    if (privOf s agent line).isSome then s
    else if direct s agent line then
      let held := s.coh.priv.any fun p => p.line == line
      let s := dieShare line s
      let (d, p0, p1) := homeLine s line
      privFill { cache := agent, line := line, st := if held then .s else .e, data := d, poison0 := p0, poison1 := p1 } s
    else homeRun .rds agent line false s

/-- The delay after the LR of a core other than an agent holds a line: what would take it waits (R212; log entry 95). -/
def lrHolds (s : State) (agent line : Nat) : Bool :=
  s.coh.cores.any fun c => c.2.lrDelay && c.2.reservation == some line && 544 + c.1 != agent

/-- A line is brought to a cache for a write (R200-R202). -/
def ownLine (agent line : Nat) (s : State) : State :=
  match privOf s agent line with
  | some p =>
    match p.st with
    | .m => s
    | .e => privSet { p with st := .m } s
    | _ =>
      if direct s agent line then
        (s.onCoh fun c => { c with priv := c.priv.filter fun q => !(q.line == line && q.cache != agent) })
          |> privSet { p with st := .m }
      else homeRun .upg agent line false s
  | none =>
    if direct s agent line then
      let s := dieClean line s
      let (d, p0, p1) := homeLine s line
      privFill { cache := agent, line := line, st := .m, data := d, poison0 := p0, poison1 := p1 } s
    else homeRun .rdu agent line false s

/-- Bytes are stored to a line (R193, R200, R202, R209, R227). -/
def storeLine (k : Keep) (agent line off : Nat) (bytes : List Byte) (ep : Bool) (s : State) : State :=
  match k with
  | .uncached =>
    let s := if direct s agent line then s else toAgent agent line 3 false (fromAgent agent line 4 true (fromAgent agent line 1 false s))
    let s := homeWait line s
    dramPatch line off bytes ep (if direct s agent line then dieClean line s else homeClean line s)
  | .once =>
    if direct s agent line then dramPatch line off bytes ep (dieClean line s)
    else homeRun (.wrline (line * 128 + off) bytes) agent line ep s
  | .cache =>
    let s := ownLine agent line s
    match privOf s agent line with
    | some p => privSet { p with
        data := patch p.data off bytes
        poison0 := sectorPoison p.poison0 0 off bytes.length ep
        poison1 := sectorPoison p.poison1 1 off bytes.length ep } s
    | none => homeRun (.wrline (line * 128 + off) bytes) agent line ep s

/-- Bytes of a line's image with their sectors' poison. -/
def lineBytes (s : State) (pa n : Nat) : List (Byte × Bool) :=
  let (d, p0, p1) := lineValue s (pa / 128)
  let off := pa % 128
  (List.range n).map fun i => (nth 0 d (off + i), if off + i < 64 then p0 else p1)

/-! ### Hot pages (R248) -/

/-- Threshold of a class: 1 host window, 2 tier 2. -/
def hotThreshold (x : Xlt) (cls : Nat) : Nat := if cls = 1 then field x.hotpage 0 24 else field x.hotpage 24 24

/-- A counter of a region, taken from its set: its own, a free one, or the one of lowest count. DESIGN CHOICE: a counter that another
region takes is not muted, for the mute is of the records of a region (log entry 105). -/
def hotSlot (x : Xlt) (region : Nat) : Nat × HotCtr :=
  let base := (region % 4096) * 16
  let at_ (w : Nat) := tfind x.hot (base + w)
  let count (w : Nat) : Nat := match at_ w with | some h => h.count | none => 0
  match firstBelow 16 fun w => match at_ w with | some h => h.region == region | none => false with
  | some w => (base + w, (at_ w).getD ⟨region, 0, 0, false⟩)
  | none =>
    let w := match firstBelow 16 fun w => (at_ w).isNone with
      | some w => w
      | none => (List.range 16).foldl (fun b w => if count w < count b then w else b) 0
    (base + w, ⟨region, 0, 0, false⟩)

/-- Sectors of an access counted for the region of an address. -/
def hotBump (pa cls n : Nat) (s : State) : State :=
  let (k, h) := hotSlot s.xlt (pa / 65536)
  s.onXlt fun x => { x with hot := tins x.hot k { h with cls := cls, count := h.count + n } }

/-- 64-byte sectors that a range touches. -/
def sectorsOf (pa n : Nat) : Nat := if n = 0 then 0 else (pa + n - 1) / 64 - pa / 64 + 1

/-- Counts a pool access where it lies in tier 2. -/
def hotPool (pa n : Nat) (s : State) : State := if inTier2 pa then hotBump pa 2 (sectorsOf pa n) s else s

/-- A counter past its threshold restarts and is muted, and its record 0x30 is held for the event ring (R248). -/
def hotNote (k : Nat) (s : State) : State :=
  match tfind s.xlt.hot k with
  | none => s
  | some h =>
    let t := hotThreshold s.xlt h.cls
    if t ≠ 0 ∧ h.count > t ∧ !h.muted then
      let s := s.onXlt fun x => { x with hot := tins x.hot k { h with count := 0, muted := true } }
      if 256 ≤ s.evt.held.length then s.onEvt fun e => { e with lost := e.lost + 1, lostSince := e.lostSince + 1 }
      else s.onEvt fun e => { e with
        held := e.held ++ [{ cls := 0x30, reason := h.cls, addr := h.region * 65536, param := h.count, ticks := s.hTicks.toNat }] }
    else s

/-- Key of the counter of an address. -/
def hotKey (s : State) (pa : Nat) : Nat := (hotSlot s.xlt (pa / 65536)).1

/-- X0 counts an access to the host window. -/
def hotHost (hio n : Nat) (s : State) : State :=
  let s := hotBump (hostBase + hio) 1 (sectorsOf hio n) s
  hotNote (hotKey s (hostBase + hio)) s

/-! ### Reads and writes of physical ranges of the pool -/

/-- A cache serves a read, or a write, of a line that it holds: H sees nothing of it (R200, R248). -/
def servedHere (k : Keep) (agent line : Nat) (write : Bool) (s : State) : Bool :=
  k == .cache && match privOf s agent line with
    | some p => !write || p.st == .m || p.st == .e
    | none => false

/-- Reads a range line by line: the bytes with poison, and the state after. -/
def readPool (k : Keep) (agent pa n : Nat) (s : State) : List (Byte × Bool) × State :=
  (linePieces pa n).foldl (fun (acc : List (Byte × Bool) × State) p =>
    let here := servedHere k agent (p.1 / 128) false acc.2
    let s := fetchLine k agent (p.1 / 128) (p.1 % 128) p.2 acc.2
    let s := if here then s else hotPool p.1 p.2 s
    (acc.1 ++ lineBytes s p.1 p.2, s)) ([], s)

/-- Writes a range line by line. -/
def writePool (k : Keep) (agent : Nat) : List (Nat × Nat) → List Byte → Bool → State → State
  | [], _, _, s => s
  | (a, n) :: ps, bytes, ep, s =>
    let here := servedHere k agent (a / 128) true s
    let s := storeLine k agent (a / 128) (a % 128) (bytes.take n) ep s
    writePool k agent ps (bytes.drop n) ep (if here then s else hotPool a n s)

/-- Writes bytes at a physical address of the pool. -/
def storePool (k : Keep) (agent pa : Nat) (bytes : List Byte) (ep : Bool) (s : State) : State :=
  writePool k agent (linePieces pa bytes.length) bytes ep s

/-! ### The host (R289, R296, R298, R331) -/

/-- Requests may go to the host now: the link is up, an endpoint has Bus Master Enable in D0, and no freeze is
in progress (R297, R298, R303). -/
def canSend (s : State) : Bool :=
  s.link.up && !s.pickle.freezing && (!s.endpoint || (s.link.bme && !s.link.d3hot))

/-- An episode is in force: the link is up, and Bus Master Enable is 0 or the function is in D3hot (R298). -/
def inEpisode (s : State) : Bool := s.link.up && s.endpoint && (!s.link.bme || s.link.d3hot)

/-- Largest payload of an outbound write (R289). -/
def payloadMax (s : State) : Nat := min 512 (2 ^ s.link.mpsLog2)

/-- Pieces of an outbound write: none crosses a 4 KiB boundary, none exceeds the payload (R289). -/
def hostPieces (s : State) (hio n : Nat) : List (Nat × Nat) :=
  (pieces 4096 (n / 4096 + 2) hio n).flatMap fun p =>
    (pieces (payloadMax s) (p.2 / payloadMax s + 2) p.1 p.2)

/-- Ring of the operation that issues a request. -/
def ownerRing (s : State) (o : Owner) : Option Nat :=
  match o with
  | .ring n => some n
  | .engine e k =>
    if k < 8192 then (tfind (s.engine e).slots (k / 32)).map (·.ring)
    else ((s.engine e).copies.find? fun c => c.id + 8192 == k).map (·.ring)
  | _ => none

/-- The operation of ring n has used the host (R297, R304). -/
def State.hostUsed (s : State) (n : Nat) : Bool := s.link.used.contains n

/-- The operation of ring n waits at its next host request (R297, R298). -/
def State.hostWaits (s : State) (n : Nat) : Bool := s.link.waits.contains n

/-- The operation of a request's owner has used the host. -/
def markHost (o : Owner) (s : State) : State :=
  match ownerRing s o with
  | some n => s.onLink fun l => { l with used := withElem l.used n }
  | none => s

/-- The operation of ring n is over, or a new one begins: the account of its host requests is closed. -/
def clearHost (n : Nat) (s : State) : State :=
  s.onLink fun l => { l with used := without l.used n, waits := without l.waits n, issuedHi := tdel l.issuedHi n }

/-- The last byte of the highest write that ring n's operation has issued (R296). -/
def noteIssued (owner : Owner) (hi : Nat) (s : State) : State :=
  match owner with
  | .ring n => s.onLink fun l => { l with issuedHi := tins l.issuedHi n (max hi (tget 0 l.issuedHi n)) }
  | _ => s

/-- Issues posted writes of bytes to the host in rising address order; they wait for their acknowledgement, as writes of
the ring's operation that issued them. X0 counts them (R248). -/
def postWrite (owner : Owner) (hio : Nat) (bytes : List Byte) (ep : Bool) (s : State) : State :=
  let owner := match ownerRing s owner with | some n => .ring n | none => owner
  (noteIssued owner (hio + bytes.length - 1) (hotHost hio bytes.length (markHost owner s))).onLink fun l => { l with
    posted := l.posted ++ (hostPieces s hio bytes.length).map fun p =>
      { owner := owner, hio := p.1, bytes := (bytes.drop (p.1 - hio)).take p.2, ep := ep } }

/-- MSI-X messages may be sent (R331). -/
def canSignal (s : State) : Bool := s.endpoint && canSend s && s.link.msixEn

/-- A vector is masked, alone or with the whole function. -/
def vectorMasked (s : State) (v : Nat) : Bool := (tget {} s.link.msix v).masked || s.link.msixMask

/-- A message of a vector is sent, or sets its pending bit where the vector is masked (R331). -/
def sendVector (v : Nat) (s : State) : State :=
  let e := tget {} s.link.msix v
  if vectorMasked s v then s.onLink fun l => { l with pba := setAdd l.pba v }
  else postWrite (.vector v) e.addr.toNat (toBytes 4 e.data.toNat) false s

/-- MOD_COUNT, 0 acting as 1 (Table 2 of chapter 12). -/
def modCount (cfg : Word) : Nat := max 1 (field cfg 24 8)

/-- A condition of R332 holds for a ring that has just written a record. -/
def signalDue (cfg : Word) (unsignalled : Nat) (urgent : Bool) : Bool :=
  flag cfg 12 && (urgent || field cfg 32 12 == 0 || decide (unsignalled ≥ modCount cfg))

/-- One message covers every unsignalled record of ring n; it waits while none may be sent (R331, R332). -/
def signalRing (n : Nat) (s : State) : State :=
  let r := s.ring n
  if flag r.cfg 12 && decide (0 < r.unsignalled) && canSignal s then
    sendVector (field r.cfg 13 11) (s.onRing n fun r => { r with unsignalled := 0 })
  else s

/-- One message covers the unsignalled records of the event ring. -/
def signalEvents (s : State) : State :=
  if flag s.evt.cfg 12 && decide (0 < s.evt.unsignalled) && canSignal s then
    sendVector (field s.evt.cfg 13 11) (s.onEvt fun e => { e with unsignalled := 0 })
  else s

/-! ### Onion records (R333-R335) -/

/-- The 64 bytes of a record (Table 13 of chapter 12). -/
def onionBytes (o : Onion) (seq phase : Nat) : List Byte :=
  let f (v lo : Nat) : Nat := v <<< lo
  let dv := one o.die.isSome
  let uv := one o.unitKind.isSome
  toBytes 64 (
    f (o.cls % 256) 0 + f phase 8 + f dv 10 + f uv 11 + f (o.reason % 2 ^ 16) 16 + f (seq % 2 ^ 32) 32
    + f (o.ticks % 2 ^ 64) 64 + f (o.addr % 2 ^ 64) 128 + f (o.param % 2 ^ 64) 192
    + f (o.die.getD 0) 256 + f (dv * (o.domain % 256)) 264 + f (dv * (o.dieTicks % 2 ^ 64)) 320
    + f (o.unitKind.getD 0 % 256) 384 + f (uv * (o.unit % 2 ^ 16)) 392 + f (uv * (o.unitDetail % 2 ^ 32)) 416
    + f (uv * (o.unitCount % 2 ^ 64)) 448)

/-- Ring base and size fields of RING_SQ, RING_CQ and RING_EVT_BASE (Table 1 of chapter 12). -/
def ringHost (b : Word) : Bool := flag b 63
def ringBase (b : Word) : Nat := field b 12 44 * 4096
def ringLog2 (b : Word) : Nat := field b 0 5

/-- Phase of a count (R309). -/
def phaseOf (count log2 : Nat) : Nat := 1 - bits count log2 1

/-- The event ring can take a record now (R333, R334). -/
def evtCanTake (s : State) : Bool :=
  flag s.evt.cfg 0 && decide (countDiff s.evt.produced s.evt.head < 2 ^ ringLog2 s.evt.base)
    && (!ringHost s.evt.base || canSend s)

/-- Writes one record at PRODUCED (R333). -/
def evtWrite (o : Onion) (s : State) : State :=
  let log2 := ringLog2 s.evt.base
  let c := s.evt.produced.toNat
  let a := ringBase s.evt.base + 64 * (c % 2 ^ log2)
  let b := onionBytes o c (phaseOf c log2)
  let s := if ringHost s.evt.base then postWrite .event a b false s
    else
      let s := storePool .once agentHub a b false s
      if inTier2 a then hotNote (hotKey s a) s else s
  let s := s.onEvt fun e => { e with produced := e.produced + 1, unsignalled := e.unsignalled + 1 }
  if signalDue s.evt.cfg s.evt.unsignalled (o.cls == 0xF0 || o.cls == 0x11) then signalEvents s else s

/-- Writes the records held internally while the ring can take them; after a loss the next record written is of
class 0xF0 (R334). -/
def evtFlush : Nat → State → State
  | 0, s => s
  | f + 1, s =>
    if !evtCanTake s then s
    else if s.evt.lostSince > 0 then
      evtFlush f (evtWrite { cls := 0xF0, param := s.evt.lostSince, ticks := s.hTicks.toNat }
        (s.onEvt fun e => { e with lostSince := 0 }))
    else match s.evt.held with
      | [] => s
      | o :: rest => evtFlush f (evtWrite o (s.onEvt fun e => { e with held := rest }))

/-- Records held internally are written now if the ring can take them. -/
def evtPump (s : State) : State := evtFlush (s.evt.held.length + 4) s

/-- Places a record: written, held internally, or lost and counted (R334). -/
def placeOnion (o : Onion) (s : State) : State :=
  if s.evt.held.length ≥ 256 then s.onEvt fun e => { e with lost := e.lost + 1, lostSince := e.lostSince + 1 }
  else evtPump (s.onEvt fun e => { e with held := e.held ++ [{ o with ticks := s.hTicks.toNat }] })

/-- A record with the package layer only. -/
def event (cls reason addr param : Nat) (s : State) : State :=
  placeOnion { cls := cls, reason := reason, addr := addr, param := param } s

/-- A record with the die layer. DIE_TICKS and TICKS are read at the same moment (log entry 88). -/
def eventDie (cls reason addr param die domain : Nat) (s : State) : State :=
  placeOnion { cls := cls, reason := reason, addr := addr, param := param, die := some die, domain := domain,
               dieTicks := s.ticksOf die } s

/-- A record with the die and unit layers. -/
def eventUnit (cls reason addr param die domain kind unit detail count : Nat) (s : State) : State :=
  placeOnion { cls := cls, reason := reason, addr := addr, param := param, die := some die, domain := domain,
               dieTicks := s.ticksOf die, unitKind := some kind, unit := unit, unitDetail := detail,
               unitCount := count } s

/-- Once the module may send again, every ring with unsignalled records is signalled, and the held records go
to an event ring in host memory (R331, R334). -/
def resignal (s : State) : State :=
  if canSend s then
    let s := evtPump s
    signalEvents (s.rings.foldl (fun s r => signalRing r.1 s) s)
  else s

/-! ### Hot-page records and counted accesses -/

/-- Records held internally go to the event ring. -/
def hotPump (s : State) : State := if s.evt.held.isEmpty then s else evtPump s

/-- A count past its threshold places record 0x30 and restarts, unless it is muted (R248). -/
def hotCheckAt (k : Nat) (s : State) : State := hotPump (hotNote k s)

/-- Every counter against its threshold. -/
def hotCheck (s : State) : State := s.xlt.hot.foldl (fun s p => hotCheckAt p.1 s) s

/-- The counter of an address in tier 2 against its threshold. -/
def hotAfter (pa : Nat) (s : State) : State :=
  if inTier2 pa then hotCheckAt (hotKey s pa) s else s

/-- Reads the pool for an agent, hot-page records included. -/
def poolRead (k : Keep) (agent pa n : Nat) (s : State) : List (Byte × Bool) × State :=
  let (b, s) := readPool k agent pa n s
  (b, hotAfter (pa + n - 1) (hotAfter pa s))

/-- Stores to the pool for an agent, hot-page records included. -/
def poolWrite (k : Keep) (agent pa : Nat) (bytes : List Byte) (ep : Bool) (s : State) : State :=
  hotAfter (pa + bytes.length - 1) (hotAfter pa (storePool k agent pa bytes ep s))

/-- Performs an atomic on a pool target: at the home, or at the memory controller for an uncached page
(R209, R210): the old value and the state after. -/
def poolAtom (k : Keep) (agent pa : Nat) (r : AtomReq) (s : State) : Nat × State :=
  let line := pa / 128
  let s := homeWait line s
  let old := ofBytes ((lineBytes s pa r.size).map (·.1))
  let s := match k with
    | .uncached => storeLine .uncached agent line (pa % 128) (toBytes r.size (atomNew r old)) false s
    | _ => homeRun (.atom pa r) agent line false s
  (old, hotAfter pa (hotPool pa r.size s))

end Sys2Proof.Machine
end

