-- ==== Sys2Proof/Machine/Translate.lean ====
section
/-! DEFINITION. Address translation (chapter 09): TLBs and the walk cache (R229-R231), the checks of Table 3
(R225), holds (R249), and accesses of the module's agents at device virtual addresses. -/

namespace Sys2Proof.Machine

/-- How a translation ends. -/
inductive Xres where
  /-- Physical address, memory type, log2 of the bytes to the end of the page's alignment. -/
  | ok (pa pbmt log2 : Nat)
  /-- A check of Table 3 of chapter 09 failed. -/
  | fault (code : Nat)
  /-- A PTE read as poisoned (R228). -/
  | poison
  /-- The address lies in a held range: the access waits (R249). -/
  | held
  deriving DecidableEq, Repr

/-- Status of a check (Table 3 of chapter 09): XLT_FAULT or PROTECTION_FAULT. -/
def xltStatus (code : Nat) : Nat := if 8 ≤ code ∧ code ≤ 12 then 0x31 else 0x30

/-- PPN of a PTE: bits [53:10] (R225). -/
def ptePpn (p : Nat) : Nat := bits p 10 44
/-- A PTE is a leaf. -/
def pteLeaf (p : Nat) : Bool := bit p 1 || bit p 2 || bit p 3

/-- Reserved encodings of a PTE at a level (code 0x3 of Table 3 of chapter 09). -/
def pteReserved (p level : Nat) : Bool :=
  let ppn := ptePpn p
  let pbmt := bits p 61 2
  let n := bit p 63
  (bit p 2 && !bit p 1) || bits p 54 7 != 0 || pbmt == 3
    || (!pteLeaf p && (pbmt != 0 || n))
    || (pteLeaf p && n && (level > 0 || bits ppn 0 4 != 8))
    || (pteLeaf p && level == 1 && bits ppn 0 9 != 0)
    || (pteLeaf p && level == 2 && bits ppn 0 18 != 0)

/-- The permission checks 0x6 to 0xB on a leaf's flags, in code order. -/
def permFault (flags : Nat) (acc : Access) : Option Nat :=
  let w := acc == .write || acc == .atomic
  if !bit flags 6 then some 0x6
  else if w && !bit flags 7 then some 0x7
  else if !bit flags 4 then some 0x8
  else if acc == .read && !bit flags 1 then some 0x9
  else if w && !bit flags 2 then some 0xA
  else if acc == .fetch && !bit flags 3 then some 0xB
  else none

/-- The checks on a physical address: 0xC unbacked (R179, R292, R440), 0xE outside the pool for the PCIe port, which R440 does not
name for the BAR0 image. -/
def regionFault (s : State) (agent pa : Nat) : Option Nat :=
  let outside := if agent == agentPcie then some 0xE else none
  match regionOf pa with
  | .pool => none
  | .unbacked => some 0xC
  | .bar0 => if agent == agentPcie then some 0xE else some 0xC
  | .ecam => if s.endpoint then some 0xC else outside
  | _ => outside

/-- The agent has a first-level TLB of its own (Table 1 of chapter 09). -/
def hasL1 (agent : Nat) : Bool := decide (agent < 544) || (decide (700 ≤ agent) && decide (agent < 732))

def tlbCovers (e : TlbEntry) (va : Nat) : Bool := va / 2 ^ e.log2 == e.va / 2 ^ e.log2

/-- Two entries translate a page both. -/
def tlbOverlaps (a b : TlbEntry) : Bool := tlbCovers a b.va || tlbCovers b a.va

/-- The translation in an agent's own TLB, and the place of the one in the shared TLB (R229). -/
def l1Find (s : State) (agent va : Nat) : Option TlbEntry :=
  if hasL1 agent then (tget [] s.xlt.l1 agent).find? fun e => tlbCovers e va else none
def l2Find (s : State) (va : Nat) : Option (Nat × TlbEntry) := s.xlt.l2.find? fun p => tlbCovers p.2 va

/-- The cached translation an agent finds: in its own TLB, else in the shared one (R223, R229). -/
def tlbLookup (s : State) (agent va : Nat) : Option TlbEntry :=
  match l1Find s agent va with
  | some e => some e
  | none => (l2Find s va).map (·.2)

/-- Fills an agent's own TLB: 128 entries, least recently used replaced (R229). What it held for the same pages goes (R231). -/
def l1Fill (agent : Nat) (e : TlbEntry) (s : State) : State :=
  if hasL1 agent then
    s.onXlt fun x => { x with
      l1 := tput [] x.l1 agent ((e :: (tget [] x.l1 agent).filter fun o => !tlbOverlaps o e).take 128) }
  else s

/-- Set of an entry in the shared TLB: its virtual page number modulo 8,192 (log entry 9). -/
def l2Base (e : TlbEntry) : Nat := (e.va / 2 ^ e.log2 % 8192) * 16

/-- A place of the shared TLB is the one used last of its set. -/
def l2Touch (k : Nat) (s : State) : State :=
  s.onXlt fun x => { x with l2Plru := tput 0 x.l2Plru (k / 16) (plruTouch (tget 0 x.l2Plru (k / 16)) (k % 16)) }

/-- The translation found is used: the most recent of the agent's own TLB, or found in the shared TLB and filled into the agent's,
with the epoch now in force (R229). -/
def tlbUse (agent va : Nat) (e : TlbEntry) (s : State) : State :=
  match l1Find s agent va, l2Find s va with
  | none, some (k, _) => l1Fill agent { e with epoch := s.xlt.epoch } (l2Touch k s)
  | _, _ => l1Fill agent e s

/-- log2 of the bytes of the page that a cached translation of an address maps, 4 KiB where none is cached (R241). -/
def pageLog2 (s : State) (va : Nat) : Nat :=
  match l2Find s va with
  | some (_, e) => e.page
  | none => ((s.xlt.l1.findSome? fun p => p.2.find? fun e => tlbCovers e va).map (·.page)).getD 12

/-- Fills the shared TLB: 8,192 sets of 16 ways, tree pseudo-LRU (R229). What it held for the same pages goes (R231). -/
def l2Fill (e : TlbEntry) (s : State) : State :=
  let s := s.onXlt fun x => { x with l2 := x.l2.filter fun p => !tlbOverlaps p.2 e || (p.2.va == e.va && p.2.log2 == e.log2) }
  let b := l2Base e
  let same (w : Nat) := match tfind s.xlt.l2 (b + w) with | some o => o.va == e.va && o.log2 == e.log2 | none => false
  let w := match firstBelow 16 same with
    | some w => w
    | none => match firstBelow 16 fun w => (tfind s.xlt.l2 (b + w)).isNone with
      | some w => w
      | none => plruVictim (tget 0 s.xlt.l2Plru (b / 16))
  s.onXlt fun x => { x with
    l2 := tins x.l2 (b + w) e
    l2Plru := tput 0 x.l2Plru (b / 16) (plruTouch (tget 0 x.l2Plru (b / 16)) w) }

/-- Reads a PTE as one 8-byte read from its line's home (R228). -/
def pteRead (pa : Nat) (s : State) : (Nat × Bool) × State :=
  let (b, s) := poolRead .once agentHub pa 8 s
  ((ofBytes (b.map (·.1)), b.any (·.2)), s)

/-- Size and base of a leaf's page: 4 KiB, 64 KiB with N, 2 MiB, 1 GiB (R226). -/
def leafLog2 (p level : Nat) : Nat := if level = 0 then (if bit p 63 then 16 else 12) else if level = 1 then 21 else 30
def leafBase (p level : Nat) : Nat := ptePpn p * 4096 / 2 ^ leafLog2 p level * 2 ^ leafLog2 p level

/-- The run of PTEs that merge with a leaf (R230): the largest of 16, 8, 4 and 2, else 1. -/
def mergeRun (ptes : List Nat) (idx level : Nat) : Nat :=
  let p := nth 0 ptes idx
  let per := 2 ^ (leafLog2 p level - 12)
  let ok (n : Nat) : Bool :=
    let first := idx / n * n
    let q := nth 0 ptes first
    ptePpn q % (n * per) == 0 && (List.range n).all fun i =>
      let r := nth 0 ptes (first + i)
      ptePpn r == ptePpn q + i * per && bits r 0 10 == bits p 0 10 && bits r 54 10 == bits p 54 10
  if bit p 63 then 1 else if ok 16 then 16 else if ok 8 then 8 else if ok 4 then 4 else if ok 2 then 2 else 1

/-- The entry a leaf fills, merged with its neighbours in its 128-byte line (R230). A poisoned neighbour merges with nothing. -/
def leafEntry (s : State) (va pteAddr p level : Nat) : TlbEntry :=
  let (line, p0, p1) := lineValue s (pteAddr / 128)
  let ptes := (List.range 16).map fun i => if (if i < 8 then p0 else p1) then 0 else ofBytes ((line.drop (8 * i)).take 8)
  let log2 := leafLog2 p level
  let run := mergeRun ptes (pteAddr % 128 / 8) level
  let l := log2 + (if run = 1 then 0 else topBit run)
  let base := va / 2 ^ log2 * 2 ^ log2
  { va := va / 2 ^ l * 2 ^ l, log2 := l, pa := leafBase p level - (base - va / 2 ^ l * 2 ^ l),
    flags := bits p 0 10, pbmt := bits p 61 2, epoch := s.xlt.epoch, page := log2 }

/-- Virtual prefix that a PTE of a level translates. -/
def levelPrefix (va level : Nat) : Nat := bits va (12 + 9 * level) (45 - 9 * level)

/-- A walk from a table (R225, R229): the leaf's entry, or the first check that fails. Non-leaf PTEs whose table is backed are kept
in the walk cache; with 4,096 held the oldest fill leaves (DESIGN CHOICE, log entry 105). -/
def walkFrom (acc : Access) (va : Nat) : List Nat → Nat → State → (Xres × Option TlbEntry) × State
  | [], _, s => ((.fault 0x4, none), s)
  | level :: rest, ppn, s =>
    let a := ppn * 4096 + bits va (12 + 9 * level) 9 * 8
    match (if level = 0 then none else s.xlt.walkCache.find? fun c => c.level == level && c.pre == levelPrefix va level) with
    | some c => walkFrom acc va rest (ptePpn c.pte) s
    | none =>
      if !poolBacked a then ((.fault 0x5, none), s)
      else
        let ((p, bad), s) := pteRead a s
        if bad then ((.poison, none), s)
        else if !bit p 0 then ((.fault 0x2, none), s)
        else if pteReserved p level then ((.fault 0x3, none), s)
        else if pteLeaf p then
          if level ≥ 3 then ((.fault 0x4, none), s)
          else match permFault p acc with
            | some c => ((.fault c, none), s)
            | none =>
              let e := leafEntry s va a p level
              ((.ok (leafBase p level + va % 2 ^ leafLog2 p level) e.pbmt (leafLog2 p level), some e), s)
        else if level = 0 then ((.fault 0x4, none), s)
        else
          let s := if poolBacked (ptePpn p * 4096) then s.onXlt fun x => { x with
              walkCache := (⟨level, levelPrefix va level, p, x.epoch⟩ :: x.walkCache).take 4096 } else s
          walkFrom acc va rest (ptePpn p) s

/-- A walk of the tables under the root in force (R224, R225). -/
def walk (acc : Access) (va : Nat) (s : State) : (Xres × Option TlbEntry) × State :=
  if field s.xlt.root 60 4 ≠ 10 then ((.fault 0xD, none), s)
  else walkFrom acc va [4, 3, 2, 1, 0] (field s.xlt.root 0 44) s

/-- A walk that fills the TLBs where its access passes and its address is backed (R228, R229). -/
def walkFill (agent : Nat) (acc : Access) (va : Nat) (s : State) : Xres × State :=
  let ((r, e), s) := walk acc va s
  match r, e with
  | .ok pa pbmt n, some e =>
    match regionFault s agent pa with
    | some c => (.fault c, s)
    | none => (.ok pa pbmt n, l1Fill agent e (l2Fill e s))
  | r, _ => (r, s)

/-- The address is in canonical form: bits [63:57] equal bit 56 (code 0x1). -/
def canonical (va : Nat) : Bool := bits va 57 7 == (if bit va 56 then 127 else 0)

/-- The address lies in a held range (R249). -/
def isHeld (s : State) (va : Nat) : Bool := s.xlt.holds.any fun h => decide (h.start ≤ va) && decide (va < h.start + h.length)

/-- Translation of an access of an agent (R223, R225, R231, R249). -/
def translate (agent : Nat) (acc : Access) (va : Nat) (s : State) : Xres × State :=
  if isHeld s va then (.held, s)
  else if !canonical va then (.fault 0x1, s)
  else match tlbLookup s agent va with
    | some e =>
      if (permFault e.flags acc).isSome then walkFill agent acc va s
      else
        let pa := e.pa + va % 2 ^ e.log2
        match regionFault s agent pa with
        | some c => (.fault c, s)
        | none => (.ok pa e.pbmt 12, tlbUse agent va e s)
    | none => walkFill agent acc va s

/-- What an access of the module finds at a virtual address. -/
inductive Place where
  /-- In the pool, cached as the page's type allows (R227). -/
  | pool (pa : Nat) (uncached : Bool)
  /-- In the host window: host I/O address (R237), or a downstream bus address (R292). -/
  | host (hio : Nat)
  /-- In the fabric region: node and offset (R234). -/
  | fabric (node off : Nat)
  /-- Faults with a status and reason. -/
  | fault (status reason : Nat)
  | held
  deriving DecidableEq, Repr

/-- Translates an access of an engine, array, transform engine or H. An unbacked one of the first three places record 0x12 (R179).
One that would take the granule of another core's LR waits for its delay (R212; log entry 95). -/
def place (agent : Nat) (acc : Access) (va : Nat) (s : State) : Place × State :=
  let (r, s) := translate agent acc va s
  match r with
  | .ok pa pbmt _ =>
    match regionOf pa with
    | .pool => if (acc == .write || acc == .atomic) && lrHolds s agent (pa / 128) then (.held, s) else (.pool pa (pbmt != 0), s)
    | .fabric => (.fabric (bits pa 41 14) (bits pa 0 41), s)
    | _ => (.host (hioOf pa), s)
  | .fault c =>
    let s := if c = 0xC ∧ agent < agentPcie then
        let ((w, _), _) := walk acc va s
        let pa := match w with | .ok pa _ _ => pa | _ => 0
        event 0x12 0 pa 0 s
      else s
    (.fault (xltStatus c) c, s)
  | .poison => (.fault 0x50 0, s)
  | .held => (.held, s)

/-! ### Removal of translations -/

/-- Empties every TLB and the walk cache (R233, R441). -/
def tlbsEmpty (s : State) : State :=
  s.onXlt fun x => { x with l1 := [], l2 := [], l2Plru := [], walkCache := [] }

/-- Removes the translations whose page intersects a range, and empties the walk cache (R241). -/
def tlbsRemove (start length : Nat) (s : State) : State :=
  let keep (e : TlbEntry) : Bool := decide (e.va + 2 ^ e.log2 ≤ start) || decide (start + length ≤ e.va)
  s.onXlt fun x => { x with
    l1 := (x.l1.map fun p => (p.1, p.2.filter keep)).filter fun p => !p.2.isEmpty
    l2 := x.l2.filter fun p => keep p.2
    walkCache := [] }

end Sys2Proof.Machine
end

