-- ==== Sys2Proof/Machine/FabricOps.lean ====
section
/-! DEFINITION. Operations of the Dembet fabric: ports and routes (R254, R265), the Dodgem unit (R401-R403),
transmission, sequence numbers (R278), the window checks (R260) and what a packet does at its target (R261). -/

namespace Sys2Proof.Machine

/-! ### Ports and routes -/

def nodeId (s : State) : Nat := field s.fab.node 0 14
/-- Ports in state 3, 4 or 5 (Table 3 of chapter 10). -/
def portUp (s : State) (p : Nat) : Bool := let st := (s.port p).state; st == 3 || st == 4 || st == 5
/-- I/O die of a port by die code: X0 or X1. -/
def portDie (p : Nat) : Nat := if p < 32 then 7 else 8

/-- Port set of a node in a bank (R265). -/
def routeOf (s : State) (bank : Bool) (node : Nat) : Word := tget 0 s.fab.routes (one bank * 16384 + node)

/-- The up port of a node's set with the fewest bytes queued, ties to the lowest (R265). -/
def pickPort (s : State) (bank : Bool) (node : Nat) : Option Nat :=
  ((List.range 64).filter fun p => flag (routeOf s bank node) p && portUp s p).foldl
    (fun b p => match b with
      | none => some p
      | some q => if (s.port p).queued < (s.port q).queued then some p else some q) none

/-! ### Dodgem unit (R401-R403) -/

def dodMode (s : State) (k : Nat) : Word := tget 0x0000000101000000 s.dod.mode k
def State.setDodMode (s : State) (k : Nat) (w : Word) : State :=
  s.onDod fun d => { d with mode := tput 0x0000000101000000 d.mode k w }

/-- The decision of mode k on its i-th packet (R402). -/
def dodgemFire (s : State) (k i : Nat) : Bool :=
  let m := dodMode s k
  let rate := field m 0 22
  match field m 22 2 with
  | 1 => rate != 0 && i % rate == rate - 1
  | 2 => decide (srDraw ((s.dod.seed.toNat + k) % 2 ^ 64) i / 4 < rate)
  | _ => false

/-- Mode k considers a packet: it fires, or a firing in progress covers the packet (R402). -/
def dodgemAct (k : Nat) (s : State) : Bool × State :=
  let count (s : State) := s.setDodMode k (maskWrite (dodMode s k) 0xFFFFFF0000000000
    (BitVec.ofNat 64 (((field (dodMode s k) 40 24 + 1) % 2 ^ 24) * 2 ^ 40)))
  let left := tget 0 s.dod.burst k
  if left > 0 then (true, count (s.onDod fun d => { d with burst := tput 0 d.burst k (left - 1) }))
  else
    let i := tget 0 s.dod.index k
    let s := s.onDod fun d => { d with index := tput 0 d.index k (i + 1) }
    if dodgemFire s k i then
      (true, count (s.onDod fun d => { d with burst := tput 0 d.burst k (max 1 (field (dodMode s k) 24 8) - 1) }))
    else (false, s)

/-- The unit acts on a port's packets of a class to a node (R401). -/
def dodgemSees (s : State) (port : Nat) (isRequest : Bool) (dst : Nat) : Bool :=
  let c := s.dod.ctl
  flag c 62 && field c 0 6 == port && (!flag c 22 || field c 8 14 == dst)
    && (field c 23 2 == 0 || (field c 23 2 == 1) == isRequest)

/-! ### Transmission -/

/-- Forwarded and originated packets of a port in the order of their service, one of each in turn while both wait (R255). -/
def roundRobin (fwd : Bool) : Nat → List Sent → List Sent → List Sent
  | 0, fwd, own => fwd ++ own
  | _ + 1, [], own => own
  | _ + 1, f, [] => f
  | k + 1, f :: fs, o :: os => if fwd then f :: roundRobin false k fs (o :: os) else o :: roundRobin true k (f :: fs) os

/-- What waits at the ports once a message has come: its own port's in the order of service. -/
def serve (m : Sent) (s : State) : List Sent :=
  let mine := (s.fab.out.filter fun x => x.port == m.port) ++ [m]
  (s.fab.out.filter fun x => x.port != m.port)
    ++ roundRobin (!(s.port m.port).lastFwd) (mine.length + 1) (mine.filter fun x => isTransit x) (mine.filter fun x => !isTransit x)

/-- A message leaves on its port: queued, counted; each held packet of the port has one later packet fewer to
wait for, and leaves when none is left (R403). -/
def leave (m : Sent) (s : State) : State :=
  let s := s.onPort m.port fun p => { p with
    queued := p.queued + 12 + m.len, txPackets := advance p.txPackets 1, txBytes := advance p.txBytes m.len
    transit := advance p.transit (one (isTransit m)) }
  s.onFab fun f => { f with out := serve m s }

/-- Virtual channel of a message on its link: by class and hop count, 16 in all (R266). -/
def virtualChannel (m : Sent) : Nat := one m.response * 8 + (m.hops - 1) % 8

/-- A packet leaves, its duplicate immediately after it (R403). -/
def leaveAll (ms : List Sent) (s : State) : State := ms.foldl (fun s m => leave m s) s

/-- What is held is a packet of a port. -/
def heldOn (port : Nat) (h : Nat × List Sent) : Bool := h.2.any (·.port == port)

def releaseHeld (port : Nat) (s : State) : State :=
  let mine := s.dod.heldPkts.map fun h => if heldOn port h then (h.1 - 1, h.2) else h
  let ready := mine.filter fun h => heldOn port h && h.1 == 0
  let s := s.onDod fun d => { d with heldPkts := mine.filter fun h => !(heldOn port h && h.1 == 0) }
  ready.foldl (fun s h => leaveAll h.2 s) s

/-- Frame mode of the unit: an inverted bit fails the link CRC and the frame is sent again (R277, R403). -/
def frameMode (port : Nat) (s : State) : State :=
  if flag s.dod.ctl 62 && field s.dod.ctl 0 6 == port then
    let (hit, s) := dodgemAct 0 s
    if hit then s.onPort port fun p => { p with retries := advance p.retries 1 } else s
  else s

/-- Record 0x78: EN of the Dodgem unit has changed, with the die of its port (R405). -/
def dodgemRecord (reason port : Nat) (s : State) : State := eventDie 0x78 reason 0 port (portDie port) 0 s

/-- Sends a message on a port, through the Dodgem unit: mode 1 drops it, else modes 3, 2 and 4 apply. A duplicate is acted on by
no mode, and leaves immediately after the original (R403). -/
def transmit (m : Sent) (isRequest : Bool) (dst : Nat) (s : State) : State :=
  let sees := dodgemSees s m.port isRequest dst
  let (drop, s) := if sees then dodgemAct 1 s else (false, s)
  if drop then s
  else
    let s := frameMode m.port s
    if sees then
      let (dup, s) := dodgemAct 3 s
      let (bad, s) := dodgemAct 2 s
      let (hold, s) := dodgemAct 4 s
      let ms := { m with corrupt := m.corrupt || bad } :: (if dup then [m] else [])
      if hold then s.onDod fun d => { d with heldPkts := d.heldPkts ++ [(field (dodMode s 4) 32 8, ms)] }
      else ms.foldl (fun s m => releaseHeld m.port s) (leaveAll ms s)
    else releaseHeld m.port (leave m s)

/-- Sends an answer or notice to a peer on its route under the active bank; without a route it is lost, and the
peer's timers recover it (R265, R281). -/
def answer (peer len : Nat) (msg : FabMsg) (s : State) : State :=
  match pickPort s s.fab.active peer with
  | some p => transmit { port := p, msg := msg, len := len, response := true, bank := s.fab.active } false peer s
  | none => s

/-! ### Origination (R252, R278) -/

/-- How the origination of a packet ends. -/
inductive Issue where
  | sent
  /-- 1,024 packets to the peer are unacknowledged, or its context waits for its handshake (R278). -/
  | full
  /-- No port of the route is up (R282). -/
  | noRoute
  /-- The node is this module's own: the access is performed here (R257). -/
  | loopback
  deriving DecidableEq, Repr

/-- Packets to a peer that are not acknowledged as performed. -/
def unacked (s : State) (peer : Nat) : Nat := (s.fab.tx.filter fun t => t.peer == peer).length

/-- Payload bytes that a request carries. -/
def reqPayload (t : TxPkt) : Nat :=
  match t.kind with
  | .get => 0
  | .atomic r => if r.kind = .cas then 2 * r.size else r.size
  | _ => t.length

/-- Sends, or sends again, a packet on the route of its peer (R265). -/
def sendPacket (t : TxPkt) (s : State) : Option State :=
  match pickPort s s.fab.active t.peer with
  | some p => some (transmit { port := p, msg := .request t, len := reqPayload t, bank := s.fab.active } true t.peer s)
  | none => none

/-- A packet to a peer with a route must wait: its context waits for its handshake, or 1,024 are unacknowledged (R278). -/
def sendWaits (peer : Nat) (s : State) : Bool :=
  (pickPort s s.fab.active peer).isSome && (s.fab.broken.contains peer || decide (unacked s peer ≥ 1024))

/-- Originates a packet: it takes the next sequence number to its peer and waits in fab.tx for its
acknowledgements (R278); without a route its source places record 0x41 (R282). -/
def originate (t : TxPkt) (s : State) : Issue × State :=
  if t.peer = nodeId s then (.loopback, s)
  else if sendWaits t.peer s then (.full, s)
  else
    let seq := tget 0 s.fab.nextSeq t.peer
    let t := { t with seq := seq, page := pageLog2 s t.va, e2e := s.fab.e2e, op := if t.op = 0 then s.fab.nextOp + 1 else t.op }
    match sendPacket t s with
    | none => (.noRoute, event 0x41 0 0 t.peer s)
    | some s => (.sent, s.onFab fun f => { f with
        tx := f.tx ++ [t], nextSeq := tput 0 f.nextSeq t.peer ((seq + 1) % 2 ^ 24), nextOp := max f.nextOp t.op })

/-- Pieces of an operation that do not cross a 256-byte boundary of the remote offset (R252). -/
def packetPieces (off n : Nat) : List (Nat × Nat) := pieces 256 (n / 256 + 2) off n

/-! ### Windows (R258-R262) -/

def winOf (s : State) (n : Nat) : FabWin := tget {} s.fab.wins n
def winEn (w : FabWin) : Bool := flag w.w0 63
def winKind (w : FabWin) : Nat := field w.w0 61 2
def winBase (w : FabWin) : Nat := field w.w0 0 25
def winLimit (w : FabWin) : Nat := field w.w0 25 25

/-- The lowest-numbered enabled window that covers an offset (R258). -/
def findWindow (s : State) (off : Nat) : Option Nat :=
  firstBelow 64 fun n =>
    let w := winOf s n
    winEn w && decide (winBase w ≤ off / 65536) && decide (off / 65536 ≤ winLimit w)

/-- A source node passes a window's filter (Table 5 of chapter 10, R264). -/
def filterPasses (s : State) (w : FabWin) (src : Nat) : Bool :=
  match field w.w0 56 2 with
  | 0 => true
  | 1 => decide (field w.w2 0 14 ≤ src) && decide (src ≤ field w.w2 16 14)
  | _ => (List.range 16).any fun q =>
      let e := tget 0 s.fab.src (field w.w2 32 4 * 16 + q)
      (List.range 4).any fun i => flag e (16 * i + 15) && field e (16 * i) 14 == src

/-- The window permits a packet's kind (reason 3). A delivery window leaves R and A unused (R259). -/
def permits (w : FabWin) (k : PktKind) : Bool :=
  match k with
  | .get => winKind w == 1 || flag w.w0 60
  | .atomic _ => winKind w == 1 || flag w.w0 58
  | _ => flag w.w0 59

/-- The checks of Table 6 of chapter 10 that precede the target: the window, or the first failure's reason. -/
def windowCheck (s : State) (src : Nat) (k : PktKind) (off : Nat) : Except Nat FabWin :=
  match findWindow s off with
  | none => .error 1
  | some n =>
    let w := winOf s n
    if !filterPasses s w src then .error 2
    else if !permits w k then .error 3
    else if (winKind w == 1) != (k == .deliver) then .error 4
    else .ok w

/-- Physical address of an offset in a pool window (R261). -/
def poolTarget (w : FabWin) (off : Nat) : Nat := field w.w1 16 40 * 65536 + off - winBase w * 65536

/-- The home of a slot's first line takes a slot lock on each of its other lines, in ascending order (R213). -/
def slotLocks (agent pa n : Nat) (s : State) : State :=
  ((linePieces pa n).drop 1).foldl (fun s p => homeRun (.lock (pa / 128)) agent (p.1 / 128) false s) (homeWait (pa / 128) s)

/-- Bytes of a slot. -/
def slotRead (pa n : Nat) (s : State) : List Byte := (linePieces pa n).flatMap fun p => (lineBytes s p.1 p.2).map (·.1)

/-- A slot's new bytes, at the homes of its lines (R209, R213). -/
def slotWrite (agent : Nat) : List (Nat × Nat) → List Byte → State → State
  | [], _, s => s
  | (a, n) :: ps, bytes, s => slotWrite agent ps (bytes.drop n) (hotPool a n (homeRun (.wrline a (bytes.take n)) agent (a / 128) false s))

/-- An exact add of values into a slot at its home, under the locks of its lines: one operation (R213, R214). -/
def slotAddAll (agent pa : Nat) (fp64 : Bool) (vs : List Nat) (s : State) : State :=
  let n := slotBytes fp64
  let s := slotLocks agent pa n s
  let s := hotAfter (pa + n - 1) (hotAfter pa
    (slotWrite agent (linePieces pa n) (vs.foldl (fun b v => slotAdd fp64 b v) (slotRead pa n s)) s))
  s.onSlice (sliceOf (pa / 128)) fun c => { c with exactAdds := advance c.exactAdds vs.length }

/-- The slot or target of an access holds poison (Table 9 of chapter 07). -/
def rangePoisoned (s : State) (pa n : Nat) : Bool := (linePieces pa n).any fun p => (lineBytes s p.1 p.2).any (·.2)

/-- Sector of an offset in its 256-byte block. -/
def blockSector (off : Nat) : Nat := off % 256 / 64

/-- Poisoned sectors of bytes at an offset, as a packet carries them: a sector with a poisoned byte is poisoned (R193, R261). -/
def sectorMask : Nat → List (Byte × Bool) → BitVec 4
  | _, [] => 0
  | off, b :: t => (if b.2 then BitVec.ofNat 4 (2 ^ blockSector off) else 0) ||| sectorMask (off + 1) t

/-- Bytes at an offset with the poison that a packet carries for their sectors. -/
def withSectors (mask : BitVec 4) : Nat → List Byte → List (Byte × Bool)
  | _, [] => []
  | off, b :: t => (b, mask.getLsbD (blockSector off)) :: withSectors mask (off + 1) t

/-- Bytes that all have the same poison. -/
def allWith (bad : Bool) (b : List Byte) : List (Byte × Bool) := b.map fun x => (x, bad)

/-- Grain at which bytes are stored: by sector where only some are poisoned, so that each sector takes its own (R193). -/
def storeGrain (b : List (Byte × Bool)) : Nat := if (b.any (·.2)) && !(b.all (·.2)) then 64 else 128

/-- The pieces of bytes stored at an address: each piece with its bytes and their poison. -/
def storePieces : List (Nat × Nat) → List (Byte × Bool) → List (Nat × List Byte × Bool)
  | [], _ => []
  | (a, n) :: ps, b => (a, (b.take n).map (·.1), (b.take n).any (·.2)) :: storePieces ps (b.drop n)

/-- Stores bytes with their poison in the pool: in one store where they have all the same, else sector by sector. -/
def poolStore (agent pa : Nat) (b : List (Byte × Bool)) (s : State) : State :=
  if storeGrain b = 128 then poolWrite .once agent pa (b.map (·.1)) (b.any (·.2)) s
  else (storePieces (pieces 64 (b.length / 64 + 2) pa b.length) b).foldl (fun s p => poolWrite .once agent p.1 p.2.1 p.2.2 s) s

/-- What a packet does in a pool window, once the checks have passed (R261, R272, R274): the bytes it returns,
with poison. -/
def performPool (k : PktKind) (pa n : Nat) (data : List (Byte × Bool)) (s : State) : List (Byte × Bool) × State :=
  match k with
  | .get => poolRead .once agentFabric pa n s
  | .atomic r =>
    if r.kind = .exactAdd then ([], slotAddAll agentFabric pa (r.size == 8) (r.operand :: r.more.map (·.1)) s)
    else if rangePoisoned s pa r.size then (allWith true (toBytes r.size 0), s)
    else
      let (old, s) := poolAtom .once agentFabric pa r s
      (allWith false (toBytes r.size old), s)
  | _ => ([], poolStore agentFabric pa data s)

/-- A packet other than a delivery at its target: checked and performed, or the reason of its refusal (R260, R261). -/
def performHere (src : Nat) (k : PktKind) (off n : Nat) (data : List (Byte × Bool)) (s : State) :
    Except Nat (List (Byte × Bool)) × State :=
  match windowCheck s src k off with
  | .error r => (.error r, s)
  | .ok w =>
    let pa := poolTarget w off
    if !poolBacked pa then (.error 5, s)
    else
      let (r, s) := performPool k pa n data s
      (.ok r, s)

/-- A received operation failed a check: counted, with record 0x40 at most once per source and millisecond (R260). -/
def windowFault (src off reason : Nat) (s : State) : State :=
  let s := s.onFab fun f => { f with winFaults := advance f.winFaults 1 }
  let last := tget 0 s.fab.faultAt src
  let now := s.hTicks.toNat
  if last = 0 ∨ now + 1 ≥ last + 100000 then
    event 0x40 reason off src (s.onFab fun f => { f with faultAt := tput 0 f.faultAt src (now + 1) })
  else s

/-- The packet brings its sender something back: data, a previous value, or of an exact add that it is performed. -/
def txAnswers (t : TxPkt) : Bool :=
  match t.kind with
  | .get => true
  | .atomic _ => true
  | _ => false

end Sys2Proof.Machine
end

