-- ==== Sys2Proof/Machine/Access.lean ====
section
/-! DEFINITION. Accesses of the module's agents at device virtual addresses: pool, host window (R237, R288-R290)
and fabric region (R238, R275). What leaves the module waits in State until its answer comes; the command that
needed it then runs again and finds the answer (log entry 10). -/

namespace Sys2Proof.Machine

def hostPa (hio : Nat) : Nat := hio + 0x40000000000000
def fabricPa (node off : Nat) : Nat := 0x80000000000000 + node * 2 ^ 41 + off

/-- The answer that has come for an owner's access at a physical address. -/
def arrivedFor (s : State) (owner : Owner) (pa n : Nat) : Option Arrived :=
  s.link.arrived.find? fun a => a.owner == owner && a.pa == pa && (a.status != 0 || a.bytes.length == n)

def arrivedDrop (a : Arrived) (s : State) : State := s.onLink fun l => { l with arrived := l.arrived.erase a }

/-- An access of the owner at an address is outstanding on PCIe. -/
def asked (s : State) (owner : Owner) (hio n : Nat) : Bool :=
  s.link.reads.any fun r => r.owner == owner && r.hio == hio && r.len == n

/-- The episode's account of R298. -/
def episodeOf (s : State) : Episode := s.link.episode.getD {}
/-- BME_WAIT_MS has passed in the episode in force (R298). -/
def limitPassed (s : State) : Bool := inEpisode s && (episodeOf s).limitPassed

/-- The operation of a request's owner waits at its next host request; in an episode its first wait brings a record 0x22,
placed when its attempt ends (R297, R298). -/
def blockedWait (owner : Owner) (s : State) : State :=
  match ownerRing s owner with
  | some n =>
    let e := episodeOf s
    let s := s.onLink fun l => { l with waits := withElem l.waits n }
    if !inEpisode s || e.rings.contains n then s
    else s.onLink fun l => { l with episode := some { e with rings := e.rings ++ [n], unplaced := e.unplaced ++ [n] } }
  | none => s

/-- A wait of the owner's operation for the host ends it at once: the episode's limit has passed (R298). -/
def hostDenied (owner : Owner) (s : State) : Bool := limitPassed s && (ownerRing s owner).isSome

/-- Places the records 0x22 of the waits that have begun, where the event ring lies in device memory (R298). -/
def noteWaits (s : State) : State :=
  match (episodeOf s).unplaced with
  | [] => s
  | l =>
    let s := s.onLink fun k => { k with episode := k.episode.map fun (e : Episode) => { e with unplaced := [] } }
    if ringHost s.evt.base then s else l.foldl (fun s n => event 0x22 0 0 n s) s

/-- All 512 host reads are outstanding (R288). -/
def readsFull (s : State) : Bool := decide (512 ≤ s.link.reads.length)

/-- Issues a read of host memory, at most 512 being outstanding (R288), with a tag of 14 bits in FLIT mode and of 10 otherwise (R286). -/
def hostAsk (owner : Owner) (hio n va : Nat) (s : State) : State :=
  if asked s owner hio n then s
  else if !canSend s || readsFull s then blockedWait owner s
  else (markHost owner s).onLink fun l => { l with
    nextTag := (l.nextTag + 1) % (if l.flit then 16384 else 1024)
    reads := l.reads ++ [{ tag := l.nextTag, owner := owner, hio := hio, len := n, va := va, epoch := s.xlt.epoch, page := pageLog2 s va }] }

/-- X0 counts the reads and atomics that an attempt has sent, and the records of its waits are placed (R248, R298). -/
def countAsked (s0 s : State) : State :=
  noteWaits (hotPump ((s.link.reads.filter fun r => !s0.link.reads.contains r).foldl (fun s r => hotHost r.hio r.len s) s))

/-- The state before an attempt, with what the attempt has sent and asked for. -/
def sentOnly (s0 s1 : State) : State :=
  { s0 with
    link := { s0.link with
      reads := s1.link.reads, nextTag := s1.link.nextTag, episode := s1.link.episode, used := s1.link.used, waits := s1.link.waits }
    fab := s1.fab, dod := s1.dod }

/-- What a state keeps of an attempt that waits: what it asked for, and that it waits. -/
def keepAsked (s0 s1 : State) : State := countAsked s0 (sentOnly s0 s1)

/-- The owner has a packet to an offset outstanding. -/
def fabAsked (s : State) (owner : Owner) (node off n : Nat) : Bool :=
  s.fab.tx.any fun t => t.owner == owner && t.peer == node && t.offset == off && t.length == n

/-- What a read gives. -/
inductive Got where
  | data (b : List (Byte × Bool))
  /-- Status, reason and virtual address of the fault. -/
  | fault (status reason va : Nat)
  /-- The access waits: for a held range, or for an answer from outside. -/
  | wait
  deriving DecidableEq, Repr

/-- One answer of a remote access as data or fault; `k` asks for it where it has not come. -/
def takeArrived (owner : Owner) (pa n va : Nat) (ask : State → Got × State) (s : State) : Got × State :=
  match arrivedFor s owner pa n with
  | some a =>
    let s := arrivedDrop a s
    if a.status != 0 then (.fault a.status a.reason va, s)
    else (.data (withSectors a.poisoned pa a.bytes), s)
  | none => ask s

/-- The operation of a read of an owner: that of the packets it has sent already, or a new one (R275). -/
def readOp (owner : Owner) (s : State) : Nat :=
  match s.fab.tx.find? (fun t => t.owner == owner && t.kind == .get), s.link.arrived.find? (fun a => a.owner == owner && a.op != 0) with
  | some t, _ => t.op
  | none, some a => a.op
  | none, none => s.fab.nextOp + 1

/-- Reads one piece that stays within a page: the pool at once, the host window in requests of at most 128 bytes
that do not cross a multiple of 128, the fabric in packets (R252, R288). -/
def readPiece (k : Keep) (agent : Nat) (owner : Owner) (acc : Access) (op va n : Nat) (s : State) : Got × State :=
  let (p, s) := place agent acc va s
  match p with
  | .pool pa u =>
    let (b, s) := poolRead (if u then .uncached else k) agent pa n s
    (.data b, s)
  | .host hio =>
    takeArrived owner (hostPa hio) n va
      (fun s => if !s.link.up then (.fault 0x40 0 va, s)
        else if hostDenied owner s && !asked s owner hio n then (.fault 0x42 0 va, s)
        else (.wait, hostAsk owner hio n va s)) s
  | .fabric node off =>
    takeArrived owner (fabricPa node off) n va (fun s =>
      if fabAsked s owner node off n then (.wait, s)
      else
        let (r, s) := originate { peer := node, seq := 0, kind := .get, ordered := false, offset := off, length := n,
                                  owner := owner, va := va, epoch := s.xlt.epoch, op := op } s
        match r with
        | .sent => (.wait, s)
        | .full => (.wait, s)
        | .noRoute => (.fault 0x51 0 va, s)
        | .loopback =>
          let (r, s) := performHere node .get off n [] s
          match r with
          | .ok b => (.data b, s)
          | .error c => (.fault 0x32 c va, windowFault node off c s)) s
  | .fault st c => (.fault st c va, s)
  | .held => (.wait, s)

/-- Reads pieces in order; every piece that has to be asked for is asked for, and the first fault ends the read.
A read that waits leaves the state as it was but for what it asked. -/
def readPieces (k : Keep) (agent : Nat) (owner : Owner) (acc : Access) (op : Nat) : List (Nat × Nat) → State → Got × State
  | [], s => (.data [], s)
  | (va, n) :: ps, s =>
    match readPiece k agent owner acc op va n s with
    | (.data b, s1) =>
      match readPieces k agent owner acc op ps s1 with
      | (.data r, s2) => (.data (b ++ r), s2)
      | (.wait, s2) => (.wait, sentOnly s s2)
      | r => r
    | (.wait, s1) =>
      match readPieces k agent owner acc op ps s1 with
      | (.fault st c a, s2) => (.fault st c a, s2)
      | (_, s2) => (.wait, sentOnly s1 s2)
    | r => r

/-- Reads n bytes at a virtual address: one operation (R275). -/
def vaRead (k : Keep) (agent : Nat) (owner : Owner) (acc : Access) (va n : Nat) (s : State) : Got × State :=
  readPieces k agent owner acc (readOp owner s) (pieces 128 (n / 128 + 2) va n) s

/-- How a store ends. -/
inductive Put where
  | done
  | fault (status reason : Nat)
  | wait
  deriving DecidableEq, Repr

/-- Stores bytes that stay within a page at a virtual address, of an operation (R193, R221, R275, R289). -/
def vaWriteOp (k : Keep) (agent : Nat) (owner : Owner) (op va : Nat) (bytes : List Byte) (ep : Bool) (s : State) : Put × State :=
  let n := bytes.length
  let (p, s) := place agent .write va s
  match p with
  | .pool pa u => (.done, poolWrite (if u then .uncached else k) agent pa bytes ep s)
  | .host hio =>
    if canSend s then (.done, hotPump (postWrite owner hio bytes ep s))
    else if !s.link.up then (.fault 0x40 0, s)
    else if hostDenied owner s then (.fault 0x42 0, s)
    else (.wait, blockedWait owner s)
  | .fabric node off =>
    let (r, s) := originate { peer := node, seq := 0, kind := .put, ordered := true, offset := off, length := n,
                              data := bytes, poisoned := sectorMask off (allWith ep bytes), owner := owner, va := va
                              epoch := s.xlt.epoch, op := op } s
    match r with
    | .sent => (.done, s)
    | .full => (.wait, s)
    | .noRoute => (.fault 0x51 0, s)
    | .loopback =>
      let (r, s) := performHere node .put off n (allWith ep bytes) s
      match r with
      | .ok _ => (.done, s)
      | .error c => (.fault 0x32 c, windowFault node off c s)
  | .fault st c => (.fault st c, s)
  | .held => (.wait, s)

/-- Stores bytes that stay within a page at a virtual address: one operation. -/
def vaWrite (k : Keep) (agent : Nat) (owner : Owner) (va : Nat) (bytes : List Byte) (ep : Bool) (s : State) : Put × State :=
  vaWriteOp k agent owner (s.fab.nextOp + 1) va bytes ep s

/-- Stores pieces of an operation, each with its poison, up to its first fault: how it ends, and the bytes stored. -/
def vaWrites (k : Keep) (agent : Nat) (owner : Owner) (op : Nat) : List (Nat × List Byte × Bool) → State → (Put × Nat) × State
  | [], s => ((.done, 0), s)
  | (va, bytes, ep) :: ps, s =>
    match vaWriteOp k agent owner op va bytes ep s with
    | (.done, s) =>
      let ((r, m), s) := vaWrites k agent owner op ps s
      ((r, bytes.length + m), s)
    | (r, s) => ((r, 0), s)

/-- Stores bytes with their poison at a virtual address, as one operation, in pieces of at most 128 bytes (R193, R275). -/
def vaStore (k : Keep) (agent : Nat) (owner : Owner) (va : Nat) (b : List (Byte × Bool)) (s : State) : (Put × Nat) × State :=
  vaWrites k agent owner (s.fab.nextOp + 1)
    (storePieces (pieces (storeGrain b) (b.length / storeGrain b + 2) va b.length) b) s

/-- Reads a structure that a descriptor names, for H (R223, R322): its bytes, a fault with the address, or a wait. -/
def readStruct (ring va n : Nat) (s : State) : Got × State := vaRead .once agentHub (.ring ring) .read va n s

/-- The first address of a range that lies in the host window: no descriptor kind moves data from there (R288). -/
def hostSource (s : State) (va n : Nat) : Option Nat :=
  ((pieces 4096 (n / 4096 + 2) va n).find? fun p => match (place agentHub .read p.1 s).1 with | .host _ => true | _ => false).map (·.1)

/-- Reads the source of a push, or the local buffer of a fabric transfer, for H: one in the host window has the outcome of an
unbacked address, with reason 0xC (R288, R323; log entry 86). -/
def sourceRead (ring va n : Nat) (s : State) : Got × State :=
  match hostSource s va n with
  | some a => (.fault 0x31 0xC a, s)
  | none => vaRead .once agentHub (.ring ring) .read va n s

/-- Poison in what was read. -/
def anyPoison (b : List (Byte × Bool)) : Bool := b.any (·.2)
/-- The bytes of what was read. -/
def plain (b : List (Byte × Bool)) : List Byte := b.map (·.1)

end Sys2Proof.Machine
end

