-- ==== Sys2Proof/Machine/RingOps.lean ====
section
/-! DEFINITION. What every command on a ring shares: its records (R326-R330), its stops and restarts
(R315, R320, R450), its fetches (R317, R318) and the waits of R298. -/

namespace Sys2Proof.Machine

/-! ### Records -/

/-- The form of a record (R327). -/
def recForm (r : Res) : Nat :=
  if r.status = 0x40 ∨ r.unk then 2
  else if r.fabricForm && (r.status = 0x32 ∨ r.status = 0x51) then 3
  else if r.status = 0x30 ∨ r.status = 0x31 ∨ r.status = 0x50 ∨ r.status = 0x32 then 1
  else 0

/-- The words of a record (R326, Tables 9 and 10 of chapter 12). -/
def recWords (n : Nat) (r : Res) (tag index phase ticks : Nat) : Rec :=
  let form := recForm r
  let w0 := tag % 2 ^ 24 * 2 ^ 40 + index * 2 ^ 24 + n * 2 ^ 14 + r.atom * 2 ^ 12 + form * 2 ^ 9 + phase * 2 ^ 8 + r.status
  match form with
  | 1 => ⟨w0, r.reason % 16 * 2 ^ 60 + r.role % 16 * 2 ^ 56 + min r.element (2 ^ 48 - 1), r.progress, r.address⟩
  | 2 => ⟨w0, if r.unk then r.unkLo else 2 ^ 64 - 1, if r.unk then r.unkHi else 0, r.progress⟩
  | 3 => ⟨w0, r.reason % 16 * 2 ^ 60 + r.node % 2 ^ 14, r.progress, r.address % 2 ^ 41⟩
  | _ => ⟨w0, ticks, r.progress, r.second⟩

/-- The 32 bytes of a record. -/
def recBytes (r : Rec) : List Byte := toBytes 8 r.w0 ++ toBytes 8 r.w1 ++ toBytes 8 r.w2 ++ toBytes 8 r.w3

/-- Entries of a ring and the index of a count (R309). -/
def ringSize (r : Ring) : Nat := 2 ^ ringLog2 r.sq
def ringIndex (r : Ring) (count : Nat) : Nat := count % ringSize r
def ringEn (r : Ring) : Bool := flag r.cfg 0

/-- Header fields of a descriptor (Table 7 of chapter 12). -/
def descTag (d : List Byte) : Nat := ofBytes ((d.drop 5).take 3)
def descIrq (d : List Byte) : Bool := bit (ofBytes (d.take 8)) 17
/-- Bytes [off, off + n) of a descriptor as a number. -/
def descWord (d : List Byte) (off n : Nat) : Nat := ofBytes ((d.drop off).take n)

/-- The first wait of a ring in an episode places record 0x22, where the event ring lies in device memory (R298). -/
def bmeWait (n : Nat) (s : State) : State :=
  let e := episodeOf s
  if e.rings.contains n then s
  else
    let s := s.onLink fun l => { l with episode := some { e with rings := e.rings ++ [n] } }
    if ringHost s.evt.base then s else event 0x22 0 0 n s

/-- The record tells of a fault: of an address, an element or a fabric offset. -/
def tellsFault (r : Res) : Bool :=
  r.status == 0x30 || r.status == 0x31 || r.status == 0x32 || r.status == 0x50 || (r.fabricForm && r.status == 0x51)

/-- A record enters the ring state entry: every figure, whatever its form (R327, R336). One that tells of no fault leaves the last
fault's figures, and one that stops nothing the last stop's unknown range. -/
def keepRecord (n : Nat) (r : Res) (w : Rec) (held : Bool) (s : State) : State :=
  let f := tellsFault r
  s.onRing n fun q => { q with
    last := w, held := held, unk := if r.status ≤ 1 && !r.unk then q.unk else r.unk, progress := r.progress, second := r.second
    node := if r.fabricForm then r.node else q.node
    role := if f then r.role else q.role, reason := if f then r.reason else q.reason
    element := if f then r.element else q.element, address := if f then r.address else q.address
    unkLo := if r.unk then r.unkLo else q.unkLo, unkHi := if r.unk then r.unkHi else q.unkHi }

/-- Writes the record of a count to its slot of the completion ring, or keeps it with HELD = 1 where the host
cannot be reached or an FLR has stopped the ring (R219, R297, R299, R330), and signals it (R332). -/
def writeRecord (n count : Nat) (r : Res) (tag : Nat) (irqNow : Bool) (s : State) : State :=
  let q := s.ring n
  let w := recWords n r tag (ringIndex q count) (phaseOf count (ringLog2 q.sq)) s.hTicks.toNat
  let a := ringBase q.cq + 32 * ringIndex q count
  if ringHost q.cq && (!canSend s || q.flr) then keepRecord n r w true s
  else
    let s := if ringHost q.cq then hotPump (postWrite (.record n) a (recBytes w) false s)
      else poolWrite .once agentHub a (recBytes w) false s
    let s := (keepRecord n r w false s).onRing n fun q => { q with unsignalled := q.unsignalled + 1 }
    let q := s.ring n
    if signalDue q.cfg q.unsignalled (irqNow || decide (r.status > 1)) then signalRing n s else s

/-! ### Stops and fetches -/

/-- A result with the unknown range of a later one, where it has none itself (R296). -/
def addUnknown (x r : Res) : Res :=
  if r.unk && !x.unk then { x with unk := true, unkLo := r.unkLo, unkHi := r.unkHi } else x

/-- Reads in flight for a ring's fetch are forgotten: a read that returns later is discarded (R315). -/
def cancelFetch (n : Nat) (s : State) : State :=
  let s := s.onLink fun l => { l with
    reads := l.reads.filter fun r => r.owner != .fetch n
    arrived := l.arrived.filter fun a => a.owner != .fetch n }
  s.onRing n fun q => { q with reading := false, readTag := none, fetchWaits := false }

/-- Ring n stops (R320, R450). -/
def stopRing (n : Nat) (sdesc : Bool) (s : State) : State :=
  (clearHost n (cancelFetch n s)).onRing n fun q => { q with state := .stopped, sdesc := sdesc, op := none, flr := false }

/-- A completion record for a host ring is the ring's next host request: it waits in an episode whose limit has
not passed (R298). -/
def recordWaits (n : Nat) (s : State) : Bool :=
  ringHost (s.ring n).cq && !(s.ring n).flr && inEpisode s && !limitPassed s

/-- An operation stopped while it waited for its record: a status with no fault, no unknown range and the progress it had
(R297, R298). -/
def abortedRes (status : Nat) (r : Res) : Res := 
  { status := status, progress := r.progress, second := r.second, atom := r.atom }

/-- A descriptor that is not accepted stops its ring with a record for the count at HEAD, TAG 0 (R297, R298,
R318, Table 9 of chapter 07). In an episode a record in host memory waits, and its ring with it. -/
def failFetch (n : Nat) (r : Res) (s : State) : State :=
  let s := cancelFetch n s
  if recordWaits n s then bmeWait n (s.onRing n fun q => { q with state := .running, op := some (.finished r) })
  else if ringHost (s.ring n).cq && limitPassed s then
    stopRing n true (writeRecord n (s.ring n).head.toNat (abortedRes 0x42 r) 0 false (bmeWait n s))
  else stopRing n true (writeRecord n (s.ring n).head.toNat r 0 false s)

/-- Ring memory address of the descriptor at HEAD, and its form in R290's terms. -/
def descAddr (q : Ring) : Nat := ringBase q.sq + 64 * ringIndex q q.head.toNat

/-- Issues the read of the descriptor at HEAD (R317): at once from device memory; from host memory as one request,
after the waits and losses of R297 and R298, once fewer than 512 reads are outstanding (R288). -/
def issueRead (n : Nat) (s : State) : State :=
  let q := s.ring n
  if !ringHost q.sq then s.onRing n fun q => { q with reading := true, fetchWaits := false }
  else if !s.link.up then failFetch n { status := 0x40 } s
  else if limitPassed s then failFetch n { status := 0x42 } (bmeWait n s)
  else if inEpisode s then bmeWait n (s.onRing n fun q => { q with fetchWaits := true })
  else if readsFull s then s.onRing n fun q => { q with fetchWaits := true }
  else
    let tag := s.link.nextTag
    let s := countAsked s (hostAsk (.fetch n) (descAddr q) 64 0 s)
    s.onRing n fun q => { q with reading := true, readTag := some tag, fetchWaits := false }

/-- A ring may start a descriptor: it is enabled and idle with work, no freeze is in progress, and no structure
error stands (R194, R303, R317). -/
def canFetch (s : State) (q : Ring) : Bool :=
  ringEn q && q.state == .idle && q.head != q.tail && !s.pickle.freezing && !s.boot.structural

/-- An idle ring with work starts reading its descriptor at HEAD (R317). -/
def startFetch (n : Nat) (s : State) : State :=
  if canFetch s (s.ring n) then issueRead n (s.onRing n fun q => { q with state := .running, rereads := 0 }) else s

/-! ### The scrub of an FLR (R300) -/

/-- The pool reads zeros with no poison, and no cache holds anything of it. -/
def emptyPool (s : State) : State :=
  let s := coreCachesKeep (fun _ => false) s
  (s.onPool fun p => { p with mem := [], poison := [] }).onCoh fun c => { c with
    sc := [], scPlru := [], victim := [], dir := [], dirPlru := [], priv := [], wbuf := [], txns := [], queue := []
    snoops := [], resps := [], wbAcks := [], loans := []
    cores := c.cores.map fun (k : Nat × Core) => (k.1, { k.2 with reservation := none, lrDelay := false }) }

/-- A record with no progress: of a translation operation it tells the epoch, of any other kind 0 (R328). -/
def plainRes (n status : Nat) (s : State) : Res :=
  { status := status, second := if (s.ring n).kind = 5 then s.xlt.epoch.toNat else 0 }

/-- The figures of a discarded entry (R307, R328). -/
def discardRes (e : Carry) : Res :=
  { status := e.status, progress := e.progress, second := e.second, unk := e.unk, unkLo := e.unkLo, unkHi := e.unkHi }

/-- Count whose completion slot DESC_INDEX names. -/
def discardCount (q : Ring) : Nat := (if q.desc.isSome then q.completed else q.head).toNat

/-- The ring of a discarded entry is stopped; with a descriptor, that is its stopped descriptor (R450). -/
def discardStop (n : Nat) (e : Carry) (s : State) : State :=
  s.onRing n fun q => { q with state := .stopped, sdesc := e.hasDesc, desc := none, op := none }

/-- A carried ring under SCRUB_FLR: its entry's record is kept in the ring with HELD = 1 (R300). -/
def scrubRing (s : State) (e : Carry) : State :=
  let q := s.ring e.ring
  let d := q.desc.getD []
  let c := discardCount q
  let w := recWords e.ring (discardRes e) (descTag d) (ringIndex q c) (phaseOf c (ringLog2 q.sq)) s.hTicks.toNat
  discardStop e.ring e (if e.hasDesc then keepRecord e.ring (discardRes e) w true s else s)

/-- The scrub: the carry-over record is discarded, caches are invalidated, the pool is filled with zeros (R300). -/
def scrub (s : State) : State :=
  let s := s.pickle.entries.foldl scrubRing s
  let s := s.onPickle fun k => { k with entries := [], valid := false }
  (emptyPool s).onLink fun l => { l with scrubOwed := false }

/-- A scrub that is owed begins once the stops of the FLR are complete. -/
def scrubCheck (s : State) : State :=
  if s.link.scrubOwed && !(s.rings.any fun r => r.2.flr) then scrub s else s

/-- The record of an accepted descriptor is written (R219, R319, R320): the ring goes on after DONE and DEFERRED,
and stops after any other status or an abort. -/
def finishRing (n : Nat) (r : Res) (s : State) : State :=
  let q := s.ring n
  let d := q.desc.getD []
  let s := clearHost n (writeRecord n q.completed.toNat r (descTag d) (descIrq d) s)
  let final := r.status ≤ 1
  let s := s.onRing n fun q => { q with
    op := none, desc := none, flr := false
    completed := if final then q.completed + 1 else q.completed
    state := if final && q.state != .aborting then .idle else .stopped
    sdesc := !final }
  startFetch n (scrubCheck s)

/-- Completes a ring's operation with a record, or waits as R298 says, the record kept in the ring. Where the limit has
passed, the wait for a record in host memory ends at once (R298). -/
def complete (n : Nat) (r : Res) (s : State) : State :=
  if recordWaits n s then bmeWait n (s.onRing n fun q => { q with op := some (.finished r) })
  else if ringHost (s.ring n).cq && !(s.ring n).flr && limitPassed s then finishRing n (abortedRes 0x42 r) (bmeWait n s)
  else finishRing n r s

/-! ### Descriptors under a command -/

/-- The Ringmaster admits nothing: it is handing over, or it is being restarted (R415, R421). -/
def admissionPaused (s : State) : Bool :=
  s.boot.restarting.contains 0 || (match s.boot.act with | some a => a.at_ == 8 | none => false)

/-- Descriptors are admitted: no freeze, no structure error, no cold-junction hold, no pause of the Ringmaster
(R194, R303, R372, R415, R421). -/
def admitsXlt (s : State) : Bool :=
  !s.pickle.freezing && !s.boot.structural && !(s.pwr.therm.any fun t => t.2.cold) && !admissionPaused s

/-- For all but translation operations, none of those is in progress either (R241). -/
def admits (s : State) : Bool := admitsXlt s && s.xlt.ops.isEmpty

/-- The accepted descriptor of ring n, if its kind is the command's and no operation of it runs yet. -/
def descOf (s : State) (n kind : Nat) : Option (List Byte) :=
  let q := s.ring n
  if (q.state == .running || q.state == .waiting) && q.kind == kind && q.op.isNone then q.desc else none

/-- The ring's operation begins: running, with its start time. -/
def beginOp (n : Nat) (op : Op) (s : State) : State :=
  s.onRing n fun q => { q with op := some op, state := .running, startTicks := s.hTicks }

/-- The ring waits for admission (R117, R132, R164, R241). -/
def waitRing (n : Nat) (s : State) : State := s.onRing n fun q => { q with state := .waiting }

/-- A descriptor is refused at load: nothing executed, no progress (R117). -/
def refuse (n status : Nat) (s : State) : State := complete n (plainRes n status s) s

/-- A descriptor ends with a fault of a structure it names (role 13, R322). -/
def refuseFault (n status reason element address : Nat) (s : State) : State :=
  complete n { plainRes n status s with
    role := if status = 0x40 then 0 else 13, reason := reason, element := element, address := address } s

/-- Runs a command on the accepted descriptor of ring n once descriptors are admitted; it waits otherwise. -/
def onDesc (n kind : Nat) (run : List Byte → State → State) (s : State) : State :=
  match descOf s n kind with
  | none => s
  | some d => if admits s then run d s else waitRing n s

/-- A structure of a descriptor is read, and the command goes on with its bytes; it faults with role 13, or the
command waits for what it has asked (R322). -/
def withStruct (ring va n base : Nat) (run : List Byte → State → State) (s : State) : State :=
  match readStruct ring va n s with
  | (.data b, s) => if anyPoison b then refuseFault ring 0x50 0 (va - base) va s else run (plain b) s
  | (.fault st c a, s) => refuseFault ring st c (a - base) a s
  | (.wait, s1) => keepAsked s s1

/-! ### A census (R324, R337) -/

def setCensus (n : Nat) (c : CensusRun) (s : State) : State := s.onRing n fun q => { q with op := some (.census c) }

/-- Writes the buffer of a census in ascending order, in pieces of at most 128 bytes; a fault has role 14 (Table 10 of
chapter 09). -/
def censusSend (n : Nat) : Nat → State → State
  | 0, s => s
  | k + 1, s =>
    match (s.ring n).op with
    | some (.census c) =>
      let va := (c.buf + c.written) % 2 ^ 64
      let b := (c.bytes.drop c.written).take (128 - va % 128)
      if c.stop.isSome || b.isEmpty then s
      else match vaWrite .once agentHub (.ring n) va b false s with
        | (.done, s) => censusSend n k (setCensus n { c with written := c.written + b.length } s)
        | (.fault st r, s) => setCensus n { c with stop := some { status := st, role := if st = 0x40 then 0 else 14, reason := r, element := c.written, address := va } } s
        | (.wait, s1) => keepAsked s s1
    | _ => s

/-- A census goes on where it can. -/
def censusGo (n : Nat) (s : State) : State :=
  match (s.ring n).op with
  | some (.census c) => censusSend n ((c.bytes.length - c.written) / 64 + 2) s
  | _ => s

/-- The ADDR of a descriptor (Table 8 of chapter 12). -/
def descAddrOf (d : List Byte) : Nat := descWord d 8 8

end Sys2Proof.Machine
end

