-- ==== Sys2Proof/Machine/Tensor.lean ====
section
/-! DEFINITION. Tensor descriptors (chapter 05): their fields and checks (R119-R121), addresses (R122, R123),
ranges and the distinct-address test (R124, R138), padding (R126-R128), and reads and writes of elements
and scales (R125, R129, R245). -/

namespace Sys2Proof.Machine

/-! ### The descriptor -/

/-- The 12-byte dimension entry d (Table 3 of chapter 05). -/
def tensorDim (raw : List Byte) (d : Nat) : TDim :=
  let o := 0x20 + 12 * d
  ⟨descWord raw o 4, toSigned 48 (descWord raw (o + 4) 6), descWord raw (o + 10) 1, descWord raw (o + 11) 1⟩

/-- The three blocked-dimension entries (Table 2 of chapter 05), as (EN, DIM, EXT). -/
def tensorBlks (raw : List Byte) : List (Bool × Nat × Nat) :=
  let w := descWord raw 0x18 8
  [20, 32, 44].map fun lo => (bit w (lo + 11), bits w (lo + 8) 3, bits w lo 8)

/-- A tensor descriptor as its bytes give it (Table 1 of chapter 05). -/
def parseTensor (at_ : Nat) (raw : List Byte) : TDesc :=
  let w := descWord raw 0x18 8
  let rank := bits w 0 4
  let sf := bits w 9 2
  { at_ := at_, raw := raw, base := descWord raw 0 8, scaleBase := descWord raw 8 8, padValue := descWord raw 16 8
    blks := (tensorBlks raw).filterMap fun b => if b.1 then some ⟨b.2.1, b.2.2 + 1⟩ else none
    padKind := bits w 17 2, shareDim := bits w 14 3, blockSize := if sf = 0 then 0 else 8 * 2 ^ bits w 11 3
    scaleFmt := (scaleOfCode sf).getD .none, fmt := (fmtOfCode (bits w 4 5)).getD .fp64
    rank := rank, dims := (List.range rank).map (tensorDim raw) }

/-- Extent of a dimension's block, 1 where it is not blocked. -/
def blkExt (d : TDesc) (r : Nat) : Nat := match d.blks.find? fun b => b.dim == r with | some b => b.ext | none => 1

def tdim (d : TDesc) (r : Nat) : TDim := nth {} d.dims r
/-- Own extent and padded extent of a dimension (R126). -/
def tsize (d : TDesc) (r : Nat) : Nat := (tdim d r).size
def padExt (d : TDesc) (r : Nat) : Nat := (tdim d r).padLo + (tdim d r).size + (tdim d r).padHi
/-- Element width in bits. -/
def tbits (d : TDesc) : Nat := fmtBits d.fmt

/-- A descriptor that breaks R119, R120 or R34: REFUSED_DESCRIPTOR. DESIGN CHOICE (log entry 92): PAD_KIND, and PAD_VALUE of a
constant padding, count as used where every PAD_LO and PAD_HI is 0. -/
def tensorBad (d : TDesc) : Bool :=
  let w := descWord d.raw 0x18 8
  let blks := tensorBlks d.raw
  let w8 := tbits d / 8
  let span := d.blks.foldl (fun a b => a * b.ext) 1
  let used := d.blks.map (·.dim)
  d.at_ % 64 != 0 || bits w 56 8 != 0 || bit w 19
    || !(1 ≤ d.rank && d.rank ≤ 8)
    || (fmtOfCode (bits w 4 5)).isNone || bits w 9 2 == 3
    || (List.range 8).any (fun r => decide (d.rank ≤ r) && tensorDim d.raw r != {})
    || d.dims.any (fun x => x.size == 0)
    || blks.any (fun b => !b.1 && (b.2.1 != 0 || b.2.2 != 0))
    || (match blks with | [a, b, c] => (b.1 && !a.1) || (c.1 && !b.1) | _ => false)
    || used.any (fun r => decide (d.rank ≤ r)) || !used.Nodup
    || (tbits d ≥ 8 && (d.base % w8 != 0 || d.dims.any fun x => x.stride % (w8 : Int) != 0))
    || (tbits d == 4 && d.blks.isEmpty && (tdim d 0).stride != 0)
    || (tbits d == 4 && !d.blks.isEmpty && span % 2 == 1)
    || (d.scaleFmt == .none && (d.scaleBase != 0 || bits w 11 3 != 0 || d.shareDim != 0))
    || (d.scaleFmt != .none && (d.scaleBase == 0 || bits w 11 3 ≥ 6 || d.shareDim ≥ d.rank))
    || (d.padKind == 3 && d.dims.any fun x => x.padLo > x.size - 1 || x.padHi > x.size - 1)
    || (d.padKind != 1 && d.padValue != 0) || (d.padKind == 1 && d.padValue ≥ 2 ^ tbits d)

/-- A descriptor that breaks R121: REFUSED_FORMAT. -/
def tensorFmtBad (d : TDesc) : Bool :=
  d.scaleFmt != .none &&
    (!(d.fmt == .e4m3 || d.fmt == .e5m2 || d.fmt == .e2m1 || d.fmt == .int8) || d.padKind == 1)

/-! ### Indices and addresses -/

/-- Sizes of the own extent. -/
def ownExts (d : TDesc) : List Nat := d.dims.map (·.size)
/-- Elements of the own extent. -/
def tcount (d : TDesc) : Nat := (ownExts d).foldl (· * ·) 1

/-- Index tuple of a linear index, dimension 0 varying fastest (R48). -/
def unlinear : List Nat → Nat → List Nat
  | [], _ => []
  | n :: t, x => x % n :: unlinear t (x / n)

/-- Linear index of an index tuple. -/
def linear : List Nat → List Nat → Nat
  | n :: ns, i :: is => i + n * linear ns is
  | _, _ => 0

/-- Position of an element in units of 4 bits from address 0 (R122): exact, no wrap. -/
def nibPos (d : TDesc) (idx : List Nat) : Int :=
  let outer := ((List.range d.rank).map fun r => ((nth 0 idx r / blkExt d r : Nat) : Int) * (tdim d r).stride).foldl (· + ·) 0
  let inner := (d.blks.foldl (fun (acc : Nat × Nat) b => (acc.1 + nth 0 idx b.dim % b.ext * acc.2, acc.2 * b.ext)) (0, 1)).1
  let inner := if tbits d == 4 && d.blks.isEmpty then nth 0 idx 0 else inner
  2 * ((d.base : Int) + outer) + ((inner * (tbits d / 4) : Nat) : Int)

/-- Byte address of an element and its nibble (R122). -/
def elemAddr (d : TDesc) (idx : List Nat) : Int × Nat := (nibPos d idx / 2, (nibPos d idx % 2).toNat)

/-- Bytes an element's access touches. -/
def elemLen (d : TDesc) : Nat := max 1 (tbits d / 8)

/-- Extents of the scale tensor (R123). -/
def scaleExts (d : TDesc) : List Nat :=
  (List.range d.rank).map fun r => if r = d.shareDim then cdiv (tsize d r) d.blockSize else tsize d r

/-- Linear index of an element's scale in the scale tensor (R123). -/
def scaleLin (d : TDesc) (idx : List Nat) : Nat :=
  linear (scaleExts d) ((List.range d.rank).map fun r => if r = d.shareDim then nth 0 idx r / d.blockSize else nth 0 idx r)

/-- Address of an element's scale. -/
def scaleAddr (d : TDesc) (idx : List Nat) : Nat := d.scaleBase + scaleLin d idx

/-- Bounds, in units of 4 bits, of what one dimension adds to an element's position. -/
def dimBounds (d : TDesc) (r : Nat) : Int × Int :=
  let n := tsize d r
  let b := blkExt d r
  let spanBefore := (d.blks.takeWhile fun x => x.dim != r).foldl (fun a x => a * x.ext) 1
  let blocked := d.blks.any fun x => x.dim == r
  let f (i : Nat) : Int :=
    2 * ((i / b : Nat) : Int) * (tdim d r).stride
      + (if blocked then ((i % b * spanBefore * (tbits d / 4) : Nat) : Int)
         else if tbits d == 4 && d.blks.isEmpty && r == 0 then (i : Int) else 0)
  let last := (n - 1) / b * b
  let c := [0, min (b - 1) (n - 1), n - 1, last, last - 1].map f
  (c.foldl min 0, c.foldl max 0)

/-- The data range: lowest and highest byte of the own extent (R124). -/
def dataRange (d : TDesc) : Int × Int :=
  let bs := (List.range d.rank).map (dimBounds d)
  let lo := bs.foldl (fun a b => a + b.1) (2 * (d.base : Int))
  let hi := bs.foldl (fun a b => a + b.2) (2 * (d.base : Int))
  (lo / 2, (hi + ((tbits d / 4 : Nat) : Int) - 1) / 2)

/-- The scale range, where the tensor has scales (R124). -/
def scaleRange (d : TDesc) : Option (Int × Int) :=
  if d.scaleFmt == .none then none
  else some ((d.scaleBase : Int), (d.scaleBase : Int) + (((scaleExts d).foldl (· * ·) 1 : Nat) : Int) - 1)

def rangesMeet (a b : Int × Int) : Bool := decide (a.1 ≤ b.2) && decide (b.1 ≤ a.2)

/-- Data and scale ranges of a descriptor. -/
def tranges (d : TDesc) : List (Int × Int) := dataRange d :: (scaleRange d).toList

/-- Two descriptors overlap (R124). -/
def tensorsOverlap (a b : TDesc) : Bool := (tranges a).any fun x => (tranges b).any (rangesMeet x)

/-- Inserts into a list sorted by its first components. -/
def insertKey (x : Nat × Nat) : List (Nat × Nat) → List (Nat × Nat)
  | [] => [x]
  | y :: t => if x.1 ≤ y.1 then x :: y :: t else y :: insertKey x t

/-- The test of R138 for a destination's elements to be at distinct addresses. -/
def distinctOk (d : TDesc) : Bool :=
  let four := tbits d == 4 && d.blks.isEmpty
  let used := (List.range d.rank).filter fun r =>
    if four && r == 0 then false else decide (cdiv (tsize d r) (blkExt d r) > 1)
  let sorted := used.foldl (fun l r => insertKey ((tdim d r).stride.natAbs, cdiv (tsize d r) (blkExt d r)) l) []
  let start := if d.blks.isEmpty then (if four then cdiv (tsize d 0) 2 else elemLen d)
    else cdiv (d.blks.foldl (fun a b => a * b.ext) 1 * tbits d) 8
  (sorted.foldl (fun (acc : Bool × Nat) x =>
    (acc.1 && x.1 != 0 && decide (acc.2 ≤ x.1), acc.2 + (x.2 - 1) * x.1)) (true, start)).1

/-! ### Padding (R126, R127) -/

/-- What a padded coordinate reads. -/
inductive Source where
  | stored (idx : List Nat)
  | zero
  | const
  deriving DecidableEq, Repr

/-- Own index of a padded coordinate along a dimension, as an integer. -/
def ownIndex (d : TDesc) (r : Nat) (j : Nat) : Int := (j : Int) - ((tdim d r).padLo : Nat)

/-- The coordinate lies in the own extent. -/
def inOwn (d : TDesc) (coord : List Nat) : Bool :=
  (List.range d.rank).all fun r =>
    let i := ownIndex d r (nth 0 coord r)
    decide (0 ≤ i) && decide (i < (tsize d r : Nat))

/-- Reflection of a coordinate (Table 4 of chapter 05) leaves the own extent again, in some dimension. -/
def reflectsOut (d : TDesc) (coord : List Nat) : Bool :=
  d.padKind == 3 && !inOwn d coord && (List.range d.rank).any fun r =>
    let i := ownIndex d r (nth 0 coord r)
    let top : Int := (tsize d r : Nat) - 1
    decide (i < -top) || decide (i > 2 * top)

/-- The source of a padded coordinate (Table 4 of chapter 05). -/
def padSource (d : TDesc) (coord : List Nat) : Source :=
  if inOwn d coord then .stored ((List.range d.rank).map fun r => (ownIndex d r (nth 0 coord r)).toNat)
  else match d.padKind with
    | 0 => .zero
    | 1 => .const
    | 2 => .stored ((List.range d.rank).map fun r =>
        (max 0 (min ((tsize d r : Nat) - 1 : Int) (ownIndex d r (nth 0 coord r)))).toNat)
    | _ => .stored ((List.range d.rank).map fun r =>
        let i := ownIndex d r (nth 0 coord r)
        let top : Int := (tsize d r : Nat) - 1
        (if i < 0 then -i else if i > top then 2 * top - i else i).toNat)

/-! ### Reads -/

/-- What an element read gives. A fault says whether it met the scale, and its index and address (R245). -/
inductive TGot where
  | raw (x : Nat) (poisoned : Bool)
  | num (v : Num) (poisoned : Bool)
  | fault (status : Nat) (scale : Bool) (reason element address : Nat)
  | wait
  deriving DecidableEq, Repr

/-- Agent, owner and hold of a tensor access. -/
structure Who where
  agent : Nat
  owner : Owner
  deriving DecidableEq, Repr

/-- Reads the bits of a stored element (R122, R125). Addresses that are no 64-bit address fail check 0x1. -/
def readRaw (w : Who) (d : TDesc) (idx : List Nat) (s : State) : TGot × State :=
  let (a, nib) := elemAddr d idx
  let e := linear (ownExts d) idx
  if a < 0 ∨ a ≥ 2 ^ 64 then (.fault 0x30 false 0x1 e (ofSigned 64 a), s)
  else match vaRead .once w.agent w.owner .read a.toNat (elemLen d) s with
    | (.data b, s) =>
      let x := ofBytes (plain b)
      (.raw (if tbits d == 4 then bits x (4 * nib) 4 else x) (anyPoison b), s)
    | (.fault st c va, s) => (.fault st false c e va, s)
    | (.wait, s) => (.wait, s)

/-- Reads the scale byte of a stored element (R123). -/
def readScale (w : Who) (d : TDesc) (idx : List Nat) (s : State) : TGot × State :=
  let a := scaleAddr d idx
  if a ≥ 2 ^ 64 then (.fault 0x30 true 0x1 (scaleLin d idx) (a % 2 ^ 64), s)
  else match vaRead .once w.agent w.owner .read a 1 s with
    | (.data b, s) => (.raw (ofBytes (plain b)) (anyPoison b), s)
    | (.fault st c va, s) => (.fault st true c (scaleLin d idx) va, s)
    | (.wait, s) => (.wait, s)

/-- Reads the value of a stored element, its scale applied (R44). Poison in either poisons the value, and is
reported where it was met: a poisoned scale as a fault of status UNCORRECTABLE_DATA on the scale. -/
def readNum (w : Who) (d : TDesc) (idx : List Nat) (s : State) : TGot × State :=
  match readRaw w d idx s with
  | (.raw x bad, s) =>
    if bad then (.fault 0x50 false 0 (linear (ownExts d) idx) (ofSigned 64 (elemAddr d idx).1), s)
    else if d.scaleFmt == .none then (.num (decodeNum d.fmt x) false, s)
    else match readScale w d idx s with
      | (.raw sc bad, s) =>
        if bad then (.fault 0x50 true 0 (scaleLin d idx) (scaleAddr d idx), s)
        else (.num (scaledNum d.fmt d.scaleFmt x sc) false, s)
      | r => r
  | r => r

/-- Reads the value at a padded coordinate (R126, R127). -/
def readPadded (w : Who) (d : TDesc) (coord : List Nat) (s : State) : TGot × State :=
  match padSource d coord with
  | .zero => (.num (numZero false) false, s)
  | .const => (.num (decodeNum d.fmt d.padValue) false, s)
  | .stored idx => readNum w d idx s

/-- Reads the bits at a padded coordinate, poison as a fault. -/
def readPaddedRaw (w : Who) (d : TDesc) (coord : List Nat) (s : State) : TGot × State :=
  match padSource d coord with
  | .zero => (.raw 0 false, s)
  | .const => (.raw d.padValue false, s)
  | .stored idx =>
    match readRaw w d idx s with
    | (.raw _ true, s) => (.fault 0x50 false 0 (linear (ownExts d) idx) (ofSigned 64 (elemAddr d idx).1), s)
    | r => r

/-! ### Writes -/

/-- How an element write ends. -/
inductive TPut where
  | done
  | fault (status : Nat) (scale : Bool) (reason element address : Nat)
  | wait
  deriving DecidableEq, Repr

/-- Writes the bits of an element; a 4-bit one by a byte merge (R129). -/
def writeRaw (w : Who) (d : TDesc) (idx : List Nat) (x : Nat) (s : State) : TPut × State :=
  let (a, nib) := elemAddr d idx
  let e := linear (ownExts d) idx
  if a < 0 ∨ a ≥ 2 ^ 64 then (.fault 0x30 false 0x1 e (ofSigned 64 a), s)
  else
    let store (b : List Byte) (s : State) : TPut × State :=
      match vaWrite .once w.agent w.owner a.toNat b false s with
      | (.done, s) => (.done, s)
      | (.fault st c, s) => (.fault st false c e a.toNat, s)
      | (.wait, s) => (.wait, s)
    if tbits d == 4 then
      match vaRead .once w.agent w.owner .write a.toNat 1 s with
      | (.data b, s) =>
        let old := ofBytes (plain b)
        store (toBytes 1 (if nib = 0 then old / 16 * 16 + x % 16 else old % 16 + x % 16 * 16)) s
      | (.fault st c va, s) => (.fault st false c e va, s)
      | (.wait, s) => (.wait, s)
    else store (toBytes (elemLen d) x) s

/-- Writes a scale byte. -/
def writeScale (w : Who) (d : TDesc) (idx : List Nat) (x : Nat) (s : State) : TPut × State :=
  let a := scaleAddr d idx
  if a ≥ 2 ^ 64 then (.fault 0x30 true 0x1 (scaleLin d idx) (a % 2 ^ 64), s)
  else match vaWrite .once w.agent w.owner a (toBytes 1 x) false s with
    | (.done, s) => (.done, s)
    | (.fault st c, s) => (.fault st true c (scaleLin d idx) a, s)
    | (.wait, s) => (.wait, s)

/-- Bytes that a number of committed elements count as (R328). -/
def committedBytes (d : TDesc) (elements : Nat) : Nat := cdiv (elements * tbits d) 8

/-! ### Loading -/

/-- Loads a tensor descriptor for a ring's operation (R119), as `some`; a wait or fault ends the command with the
state given. -/
def loadTensor (ring va base : Nat) (s : State) : (Option TDesc) × Option State × State :=
  match readStruct ring va 128 s with
  | (.data b, s) =>
    if anyPoison b then (none, some (refuseFault ring 0x50 0 (va - base) va s), s)
    else (some (parseTensor va (plain b)), none, s)
  | (.fault st c a, s) => (none, some (refuseFault ring st c (a - base) a s), s)
  | (.wait, s) => (none, some s, s)

end Sys2Proof.Machine
end

