-- ==== Sys2Proof/Machine/Units.lean ====
section
/-! DEFINITION. Units and their repair map (R388-R390), and reservations on the engines of a die (R144, R145,
R164, R118). -/

namespace Sys2Proof.Machine

/-- Key of a unit in the repair map. -/
def repKey (kind die unit : Nat) : Nat := die * 2 ^ 24 + kind * 2 ^ 16 + unit

/-- A unit is a spare at shipment (R388): the highest pair of each array domain, the last core of each of the
four core domains. -/
def shipSpare (kind unit : Nat) : Bool := (kind == 1 && unit % 17 == 16) || (kind == 4 && unit % 19 == 18)

/-- Entry of the repair map (R390). -/
def repEntry (s : State) (kind die unit : Nat) : RepEntry :=
  (tfind s.rep.map (repKey kind die unit)).getD { state := one (shipSpare kind unit) }

def setRep (kind die unit : Nat) (e : RepEntry) (s : State) : State :=
  s.onRep fun r => { r with map := tins r.map (repKey kind die unit) e }

/-- A unit does work: in service, standing in, or with a retirement pending (R390, R394). -/
def unitWorks (s : State) (kind die unit : Nat) : Bool :=
  let st := (repEntry s kind die unit).state
  st == 0 || st == 2 || st == 5

/-- Rated maximum of a unit of table 5 of chapter 18 (R364). -/
def ratedOf (s : State) (unit : Nat) : Nat := tget 7 s.flash.rated unit

/-- Transform engine d (die × 8 + n) is in service: its rated maximum is OP5 or above (R364). It has no spare and no entry of the
repair map (R388, R390). -/
def txWorks (s : State) (d : Nat) : Bool := decide (5 ≤ ratedOf s (1088 + d))

/-- Pairs of compute die c (0 to 3) that new work may be placed on: in service, with no retirement decided, or
standing in (R394). -/
def pairsFor (s : State) (c : Nat) : List Nat :=
  (List.range 136).filter fun u => let e := repEntry s 1 (c + 1) u; (e.state == 0 && e.cause == 0) || e.state == 2

/-- Units of a kind in service on a die: in service or standing in, retirements pending among them. -/
def inService (s : State) (kind die : Nat) : Nat :=
  ((List.range (if kind = 1 then 136 else 76)).filter fun u => unitWorks s kind die u).length

/-- The grant of a ring on an engine. -/
def grantOf (e : Engine) (ring : Nat) : Option Grant := e.grants.find? fun g => g.ring == ring

def setGrant (g : Grant) (e : Engine) : Engine :=
  { e with grants := e.grants.map fun x => if x.ring = g.ring then g else x }

/-- A grant fits an engine beside those it has (R144, R145, R164). -/
def grantFits (e : Engine) (g : Grant) : Bool :=
  decide (grantSum e (·.groups) + g.groups ≤ 128)
    && decide (grantSum e (fun x => x.groups * x.regs) + g.groups * g.regs ≤ 4096)
    && decide (grantSum e (·.ways) + g.ways ≤ 16)
    && decide (grantSum e (·.stagingKib) + g.stagingKib ≤ 512)
    && e.grants.all (fun x => x.counters &&& g.counters == 0)

/-- The die of a compute die's units is powered. -/
def dieOn (s : State) (die : Nat) : Bool := !s.pwr.dieOff.contains die

/-- A cache gives up a line at once: what is under way on the line ends first, and a write-back is acknowledged (R180, R202,
R205). -/
def privEvict (p : PrivLine) (s : State) : State :=
  let s := if (txnOf s p.line).isSome || lineQueued s p.line then settleAll p.line s else s
  match privOf s p.cache p.line with
  | some p => (wbufDrop p.cache p.line (privLeave p s)).onCoh fun c => { c with wbAcks := c.wbAcks.erase (p.cache, p.line) }
  | none => s

/-- A private cache is cleaned and invalidated whole. -/
def privEmpty (cache : Nat) (s : State) : State :=
  (s.coh.priv.filter fun p => p.cache == cache).foldl (fun s p => privEvict p s) s

/-- Reserves a grant on an engine: its scratch and staging read as 0 (R144, R145). Before ways are granted the engine cleans and
invalidates their lines. The counters keep their values until a program sets them. -/
def giveGrant (eng : Nat) (g : Grant) (s : State) : State :=
  let s := s.onEngine eng fun e => { e with grants := e.grants ++ [g] }
  (s.coh.priv.filter fun p => p.cache == eng && decide (privWays s eng ≤ p.way)).foldl (fun s p => privEvict p s) s

/-- Ends the grants of a ring on an engine, with the groups and copies that used them. -/
def endGrant (eng ring : Nat) (s : State) : State :=
  s.onEngine eng fun e => { e with
    grants := e.grants.filter fun g => g.ring != ring
    slots := e.slots.filter fun p => p.2.ring != ring
    copies := e.copies.filter fun c => c.ring != ring }

end Sys2Proof.Machine
end

