-- ==== Sys2Proof/Machine/ChainLoad.lean ====
section
/-! DEFINITION. Loading a chain (R83, R117): its fields (Tables 1, 2, 4, 8 and 9 of chapter 04) and the checks of
Table 10 in their order. -/

namespace Sys2Proof.Machine

/-! ### Loads that can end early -/

/-- How a load ends before its end: it waits for what it has asked, or the descriptor has completed. -/
inductive LoadEnd where
  | wait (s : State)
  | done (s : State)

abbrev Load := Except LoadEnd

/-- Ends a load with a refusal where a condition holds. -/
def loadCheck (ring status : Nat) (bad : Bool) (s : State) : Load (Unit × State) :=
  if bad then .error (.done (refuse ring status s)) else .ok ((), s)

/-- Reads bytes of a structure whose first byte is at `base` (R322). -/
def loadBytes (ring va n base : Nat) (s : State) : Load (List Byte × State) :=
  match readStruct ring va n s with
  | (.data b, s) => if anyPoison b then .error (.done (refuseFault ring 0x50 0 (va - base) va s)) else .ok (plain b, s)
  | (.fault st c a, s) => .error (.done (refuseFault ring st c (a - base) a s))
  | (.wait, s) => .error (.wait s)

/-- Loads a tensor descriptor: misaligned or ill-formed, it is refused (R119, R120). -/
def loadDesc (ring va : Nat) (s : State) : Load (TDesc × State) := do
  let ((), s) ← loadCheck ring 0x13 (va % 64 != 0) s
  let (b, s) ← loadBytes ring va 128 va s
  let d := parseTensor va b
  let ((), s) ← loadCheck ring 0x13 (tensorBad d) s
  .ok (d, s)

/-- Loads a tensor descriptor where its address is not 0. -/
def loadOpt (ring va : Nat) (s : State) : Load (Option TDesc × State) :=
  if va = 0 then .ok (none, s) else (loadDesc ring va s).map fun p => (some p.1, p.2)

/-- Runs a load and what follows it. -/
def runLoad {α : Type} (s0 : State) (m : Load (α × State)) (k : α → State → State) : State :=
  match m with
  | .ok (a, s) => k a s
  | .error (.done s) => s
  | .error (.wait s) => keepAsked s0 s

/-! ### Fields -/

/-- A prologue operation (Table 2 of chapter 04). -/
def parsePro (w : Nat) : ProOp :=
  { op := bits w 0 4, operandB := bit w 4, round := bits w 5 3, target := bits w 8 5, slot := bits w 16 4,
    slot2 := bits w 20 4, group := bits w 32 3 }

/-- An epilogue operation (Table 4 of chapter 04). -/
def parseEpi (w : Nat) : EpiOp :=
  { op := bits w 0 8, src := bits w 8 4, slot := bits w 12 4, fmt := bits w 16 5, imm0 := bits w 64 32, imm1 := bits w 96 32 }

/-- The prologue and epilogue words of a chain descriptor. -/
def proWords (b : List Byte) : List Nat := (List.range 4).map fun i => descWord b (0x80 + 8 * i) 8
def epiWords (b : List Byte) : List Nat := (List.range 8).map fun i => descWord b (0xA0 + 16 * i) 16

/-- The fields of a chain descriptor (Table 1 of chapter 04). -/
def parseChain (b : List Byte) : ChainDesc :=
  let w := descWord b 0 8
  let v := descWord b 0x60 8
  { shareB := bit w 56, share := bits w 52 4, rowGroup := bits w 48 4, rowScale := bits w 45 2, rowOps := bits w 40 5
    splitFmt := bits w 26 5, stepFmt := bits w 21 5, overflow := bits w 19 2, round := bits w 16 3
    partialMode := bits w 14 2, holdRows := nth 0 [0, 16, 64, 0] (bits w 12 2), split := bit w 11, stepwise := bit w 10
    twoBufs := bit w 9, product := bit w 8, seed := descWord b 8 8, m := descWord b 0x10 4, n := descWord b 0x14 4
    k := descWord b 0x18 4, ks := descWord b 0x1C 2, aDesc := descWord b 0x20 8, bDesc := descWord b 0x28 8
    cDesc := descWord b 0x30 8, operands := descWord b 0x38 8, statsDesc := descWord b 0x40 8
    slices := descWord b 0x48 8, partials := descWord b 0x50 8, creditAddr := descWord b 0x58 8
    arrivalMs := bits v 48 16, scratchKib := bits v 32 16, regs := bits v 24 8, groups := bits v 16 8
    arrays := bits v 8 8, die := bits v 0 2
    pro := ((proWords b).map parsePro).take (bits w 36 3), epi := ((epiWords b).map parseEpi).take (bits w 32 4) }

/-! ### Order 1: the descriptor itself -/

/-- Reserved bits of Tables 1, 2 and 4 (R84), and operations past the counts. -/
def chainReserved (b : List Byte) : Bool :=
  let w := descWord b 0 8
  bits w 57 7 != 0 || bit w 47 || bit w 39 || bit w 31 || descWord b 0x1E 2 != 0 || bits (descWord b 0x60 8) 2 6 != 0
    || descWord b 0x68 24 != 0 || descWord b 0x120 32 != 0
    || (proWords b).any (fun p => bits p 35 29 != 0 || bits p 24 8 != 0 || bits p 13 3 != 0)
    || (epiWords b).any (fun e => bits e 21 43 != 0)
    || ((proWords b).drop (bits w 36 3)).any (· != 0) || ((epiWords b).drop (bits w 32 4)).any (· != 0)

def rowMax (c : ChainDesc) : Bool := bit c.rowOps 0
def rowSum (c : ChainDesc) : Bool := bit c.rowOps 1
def rowSumsq (c : ChainDesc) : Bool := bit c.rowOps 2
def rowSoftmax (c : ChainDesc) : Bool := bit c.rowOps 3
def rowQuant (c : ChainDesc) : Bool := bit c.rowOps 4
/-- SOFTMAX or ROWQUANT changes the outputs of whole rows. -/
def rowWide (c : ChainDesc) : Bool := rowSoftmax c || rowQuant c
/-- The chain uses a hold buffer (R102). -/
def usesHold (c : ChainDesc) : Bool := rowWide c && !c.split

/-- Epilogue operations that take an operand (Table 5 of chapter 04). -/
def epiTakes (e : EpiOp) : Bool := e.op == 1 || e.op == 2 || e.op == 4 || e.op == 5
/-- The operation reads an operand-table entry. -/
def epiSlot (e : EpiOp) : Bool := epiTakes e && e.src != 0

/-- A prologue operation breaks R85 or holds a field it does not use (R84). -/
def proBad (p : ProOp) : Bool :=
  if p.op = 0 then p != {}
  else decide (p.op > 4) || (fmtOfCode p.target).isNone || decide (p.round > 3)
    || (p.op != 2 && (p.group != 0 || p.slot2 != 0)) || (p.op == 2 && decide (p.group > 5)) || (p.op == 1 && p.slot != 0)
    || (p.op == 4 && p.round != 0)

/-- Numeric order of two FP32 immediates, zeros equal (R89). -/
def fp32Above (x y : Nat) : Bool :=
  let a := decodeNum .fp32 x
  let b := decodeNum .fp32 y
  numLt b a && !numEq a b

/-- An epilogue operation breaks R88 or R89 or holds a field it does not use (R84). -/
def epiBad (e : EpiOp) : Bool :=
  let nan (x : Nat) := decodeNum .fp32 x == .nan
  if e.op > 0x0E then true
  else if epiTakes e then
    decide (e.src > 3) || e.fmt != 0 || e.imm1 != 0 || (if e.src = 0 then e.slot != 0 else e.imm0 != 0)
  else if e.op = 3 then e.src != 0 || e.slot != 0 || e.fmt != 0 || nan e.imm0 || nan e.imm1 || fp32Above e.imm0 e.imm1
  else if e.op = 0x0D then e.src != 0 || e.slot != 0 || e.imm0 != 0 || e.imm1 != 0 || (fmtOfCode e.fmt).isNone
  else e.src != 0 || e.slot != 0 || e.fmt != 0 || e.imm0 != 0 || e.imm1 != 0

/-- Rules on row operations, holds, split and stepwise mode (R84, R93, R99, R102, R105, R106). -/
def rowBad (c : ChainDesc) (holdCode : Nat) : Bool :=
  (rowSoftmax c && rowQuant c) || (c.rowOps != 0 && c.epi.any (fun e => e.op == 0x0E))
    || (c.stepwise && rowWide c) || (c.rowScale != 0 && !rowQuant c) || c.rowScale == 3 || (c.statsDesc != 0 && c.rowOps == 0)
    || (c.split && (!rowWide c || c.statsDesc == 0))
    || (if usesHold c then holdCode == 0 else holdCode != 0 || c.rowGroup != 1)
    || (if c.stepwise then (fmtOfCode c.stepFmt).isNone else c.stepFmt != 0)
    || (if c.split then (fmtOfCode c.splitFmt).isNone else c.splitFmt != 0)

/-- The descriptor breaks a rule of order 1 by itself. Which fields a setting leaves unused (R84) the manual says only in part:
DESIGN CHOICE (log entry 92), CREDIT_ADDR without SLICES and ARRIVAL_TIMEOUT of a chain without passes are unused. -/
def chainBad (b : List Byte) (c : ChainDesc) : Bool :=
  let w := descWord b 0 8
  bits w 0 8 != 1 || chainReserved b || !(1 ≤ c.share && c.share ≤ 8) || !(1 ≤ c.rowGroup && c.rowGroup ≤ 8)
    || decide (bits w 36 3 > 4) || decide (bits w 32 4 > 8) || bits w 12 2 == 3 || decide (c.round > 4) || c.overflow == 3
    || !(1 ≤ c.arrays && c.arrays ≤ 128) || !(1 ≤ c.groups && c.groups ≤ 128) || decide (c.regs < 32)
    || decide (c.scratchKib > 256) || c.m == 0 || c.n == 0 || c.arrays % c.rowGroup != 0
    || (if c.product then c.k == 0 || c.ks == 0 || c.bDesc == 0
        else c.bDesc != 0 || c.k != 0 || c.ks != 0 || !c.pro.isEmpty || c.slices != 0 || c.partialMode != 0 || c.shareB
          || c.twoBufs || c.share != 1 || c.arrivalMs != 0)
    || c.aDesc == 0 || (c.seed != 0 && c.round != 4) || (c.creditAddr != 0 && c.slices == 0)
    || ((c.partialMode == 0) != (c.partials == 0)) || (c.partialMode == 0 && c.cDesc == 0)
    || c.pro.any proBad || c.epi.any epiBad || rowBad c (bits w 12 2)

/-! ### Order 1: the structures it names -/

/-- Slots of the operand table that the chain uses. -/
def usedSlots (c : ChainDesc) : List Nat :=
  (c.pro.flatMap fun p => if p.op = 2 then [p.slot, p.slot2] else if p.op = 3 ∨ p.op = 4 then [p.slot] else [])
    ++ (c.epi.filter epiSlot).map (·.slot)

/-- Loads the operand table: an entry is nonzero exactly where it is used (R84). -/
def loadOperands (ring : Nat) (c : ChainDesc) (s : State) : Load (Sparse TDesc × State) := do
  let used := usedSlots c
  let ((), s) ← loadCheck ring 0x13 (used.isEmpty != (c.operands == 0)) s
  if used.isEmpty then .ok ([], s)
  else
    let (tbl, s) ← loadBytes ring c.operands 128 c.operands s
    let entry (i : Nat) := descWord tbl (8 * i) 8
    let ((), s) ← loadCheck ring 0x13 ((List.range 16).any fun i => used.contains i != (entry i != 0)) s
    (((List.range 16).filter used.contains).foldlM (fun (acc : Sparse TDesc × State) i =>
      (loadDesc ring (entry i) acc.2).map fun p => (acc.1 ++ [(i, p.1)], p.2)) ([], s) : Load (Sparse TDesc × State))

/-- A remote slice entry (Table 8 of chapter 04). -/
def parseSlice (b : List Byte) : SliceEntry :=
  let y := descWord b 12 1
  { source := descWord b 0 8, kFirst := descWord b 8 4, push := bit y 6, operandB := bit y 5, counter := bits y 0 5 }

/-- K_FIRST rises strictly among the entries of one operand. -/
def kRises : List SliceEntry → Bool
  | [] => true
  | e :: t => t.all (fun x => x.operandB != e.operandB || decide (e.kFirst < x.kFirst)) && kRises t

/-- Loads the remote slice list (R108). -/
def loadSlices (ring : Nat) (c : ChainDesc) (s : State) : Load (List SliceEntry × State) := do
  if c.slices = 0 then .ok ([], s)
  else
    let (h, s) ← loadBytes ring c.slices 8 c.slices s
    let cnt := bits (ofBytes h) 0 6
    let ((), s) ← loadCheck ring 0x13 (ofBytes h / 64 != 0 || !(1 ≤ cnt && cnt ≤ 32)) s
    let (raw, s) ← loadBytes ring (c.slices + 8) (16 * cnt) c.slices s
    let ent (i : Nat) := (raw.drop (16 * i)).take 16
    let es := (List.range cnt).map fun i => parseSlice (ent i)
    let bad := (List.range cnt).any fun i =>
      bit (descWord (ent i) 12 1) 7 || descWord (ent i) 13 3 != 0
        || ((parseSlice (ent i)).push && (parseSlice (ent i)).source != 0)
        || (parseSlice (ent i)).kFirst % c.ks != 0
    let ((), s) ← loadCheck ring 0x13 (bad || !kRises es || !(es.map (·.counter)).Nodup) s
    .ok (es, s)

/-- Position of this module among the participants (R112). -/
def planPos (s : State) (p : Plan) : Nat := (p.nodes.findIdx? (· == nodeId s)).getD 0

/-- A field that rounds outputs is set: unused in a chain that writes none, which sends its accumulators or W values as they are
(R84, R89, R112). -/
def roundsOut (c : ChainDesc) : Bool := c.round != 0 || c.overflow != 0 || c.seed != 0 || c.stepwise || c.stepFmt != 0

/-- Loads the partial plan and the list of its participants (R112). -/
def loadPlan (ring : Nat) (c : ChainDesc) (s : State) : Load (Option Plan × State) := do
  if c.partialMode = 0 then .ok (none, s)
  else
    let (b, s) ← loadBytes ring c.partials 64 c.partials s
    let count := descWord b 8 2
    let bad := descWord b 12 4 != 0 || decide (descWord b 24 8 ≥ 2 ^ 41) || decide (descWord b 32 1 ≥ 32)
      || descWord b 33 31 != 0 || !(2 ≤ count && count ≤ 16384)
    let ((), s) ← loadCheck ring 0x13 bad s
    let (ids, s) ← loadBytes ring (descWord b 0 8) (2 * count) (descWord b 0 8) s
    let nodes := (List.range count).map fun i => descWord ids (2 * i) 2
    let p : Plan := { nodes := nodes, senders := descWord b 10 2, senderTerms := descWord b 16 8,
                      rxOffset := descWord b 24 8, rxCounter := descWord b 32 1 }
    let rising := (nodes.zip (nodes.drop 1)).all fun x => decide (x.1 < x.2)
    let pos := planPos s p
    let quiet := c.partialMode == 1 || (c.partialMode == 3 && pos != 0)
    let bad := !rising || !nodes.contains (nodeId s) || (c.partialMode == 2 && pos != 0) || (c.partialMode == 1 && pos == 0)
      || (quiet && (c.cDesc != 0 || !c.epi.isEmpty || c.rowOps != 0 || roundsOut c)) || (!quiet && c.cDesc == 0)
      || (c.partialMode != 2 && (p.senders != 0 || p.senderTerms != 0))
    let ((), s) ← loadCheck ring 0x13 bad s
    .ok (some p, s)

/-! ### Order 1: sizes (R447, R448, R88, R101) -/

/-- A tensor has the rank and padded extents given, or a higher rank with every further extent 1 (R447). -/
def shapeIs (d : TDesc) (want : List Nat) : Bool :=
  decide (want.length ≤ d.rank) && (List.range (max d.rank want.length)).all fun r => (if r < d.rank then padExt d r else 1) == nth 1 want r

/-- The tensor of an operand-table slot. -/
def opnd (c : ChainRun) (slot : Nat) : TDesc := tget {} c.opnds slot

/-- Group size of DEQ_ZP along K (Table 2 of chapter 04). -/
def groupK (p : ProOp) : Nat := 8 * 2 ^ p.group

def proShapeBad (c : ChainRun) (p : ProOp) : Bool :=
  let rows := if p.operandB then c.d.n else c.d.m
  let g := cdiv c.d.k (groupK p)
  let zp := if p.operandB then [c.d.n, g] else [g, c.d.m]
  match p.op with
  | 2 => !shapeIs (opnd c p.slot) zp || !shapeIs (opnd c p.slot2) zp
  | 3 => !shapeIs (opnd c p.slot) [rows]
  | 4 => !shapeIs (opnd c p.slot) [16] || fmtOfCode p.target != some (opnd c p.slot).fmt || (opnd c p.slot).scaleFmt != .none
  | _ => false

def epiShapeBad (c : ChainRun) (e : EpiOp) : Bool :=
  epiSlot e && !shapeIs (opnd c e.slot) (if e.src = 1 then [c.d.m] else if e.src = 2 then [c.d.n] else [c.d.n, c.d.m])

def sizeBad (c : ChainRun) : Bool :=
  let is (d : Option TDesc) (want : List Nat) : Bool := match d with | some t => shapeIs t want | none => true
  (if c.d.product then !is c.a [c.d.k, c.d.m] || !is c.b [c.d.n, c.d.k] else !is c.a [c.d.n, c.d.m])
    || !is c.c [c.d.n, c.d.m]
    || (match c.stats with
        | some t => t.fmt != .fp32 || t.rank != 2 || !shapeIs t [5, c.d.m]
        | none => false)
    || c.d.pro.any (proShapeBad c) || c.d.epi.any (epiShapeBad c)

/-! ### Order 2: formats -/

/-- Formats that the arrays multiply (Table 1 of chapter 02). -/
def multiplied : Fmt → Bool
  | .int32 => false | .code4 => false | .w => false | _ => true

/-- A destination format that R34 or R50 refuses. -/
def destBad (c : ChainDesc) (f : Option Fmt) : Bool :=
  f == some .code4 || (c.overflow == 2 && (f == some .e2m1 || f == some .int8 || f == some .int32))

/-- Format and scale of an operand after its prologue, or none where an operation's input or target breaks
R34, R85 or R448 (R87). -/
def proFormats (c : ChainRun) (b : Bool) (start : Fmt × ScaleFmt) : Option (Fmt × ScaleFmt) :=
  (c.d.pro.filter fun p => p.operandB == b && p.op != 0).foldl (fun acc p =>
    match acc, fmtOfCode p.target with
    | some (f, sf), some t =>
      let ok := match p.op with
        | 1 => sf != .none
        | 2 => (f == .int8 || f == .code4) && sf == .none && (opnd c p.slot2).fmt == .int8 && (opnd c p.slot2).scaleFmt == .none
                && (opnd c p.slot).scaleFmt == .none
                && ((opnd c p.slot).fmt == .fp32 || (opnd c p.slot).fmt == .bf16)
        | 3 => multiplied f && multiplied (opnd c p.slot).fmt
        | _ => f == .code4
      if ok && multiplied t then some (t, .none) else none
    | _, _ => none) (some start)

/-- Element format and scale format of the product, after the prologue (R45, R87); an epilogue-only chain takes
its A's. -/
def chainFmt (c : ChainRun) : Option (Fmt × ScaleFmt) :=
  match c.a, c.b with
  | some a, some b =>
    match proFormats c false (a.fmt, a.scaleFmt), proFormats c true (b.fmt, b.scaleFmt) with
    | some x, some y => if x == y && multiplied x.1 then some x else none
    | _, _ => none
  | some a, none => if a.fmt == .code4 then none else some (a.fmt, a.scaleFmt)
  | none, _ => none

def endsQuant (c : ChainDesc) : Bool := match c.epi.getLast? with | some e => e.op == 0x0E | none => false

def formatBad (c : ChainRun) : Bool :=
  let d := c.d
  (c.a.toList ++ c.b.toList ++ c.c.toList ++ c.stats.toList ++ c.opnds.map (·.2)).any tensorFmtBad
    || (chainFmt c).isNone
    || d.epi.any (fun e => epiSlot e && (opnd c e.slot).fmt == .code4)
    || d.epi.any (fun e => e.op == 0x0D && destBad d (fmtOfCode e.fmt))
    || (d.epi.dropLast).any (fun e => e.op == 0x0E)
    || (d.stepwise && destBad d (fmtOfCode d.stepFmt))
    || (match c.c with
        | some t => destBad d (some t.fmt) || endsQuant d != (t.scaleFmt != .none)
        | none => endsQuant d)
    || (rowQuant d && d.rowScale == 0)
    || (rowQuant d && !(d.split && d.product) && (match c.c with
        | some t => t.scaleFmt != .none || !(t.fmt == .e4m3 || t.fmt == .e5m2 || t.fmt == .e2m1 || t.fmt == .int8)
        | none => true))
    || (d.split && d.product && (match c.c with
        | some t => fmtOfCode d.splitFmt != some t.fmt || !(t.fmt == .fp32 || t.fmt == .bf16 || t.fmt == .fp16)
        | none => true))
    || (d.split && !d.product && (match c.a with | some t => fmtOfCode d.splitFmt != some t.fmt | none => true))

/-! ### Order 3: overlap -/

/-- C overlaps an input, but for the in-place forms of Table 10; the destinations' elements are at distinct
addresses (R138). -/
def overlapBad (c : ChainRun) : Bool :=
  let full (slot : Nat) := c.d.epi.any fun e => epiSlot e && e.slot == slot && e.src == 3
  let pro (slot : Nat) := c.d.pro.any fun p =>
    (p.op == 2 && (p.slot == slot || p.slot2 == slot)) || ((p.op == 3 || p.op == 4) && p.slot == slot)
  (c.c.toList ++ c.stats.toList).any (fun t => !distinctOk t)
    || match c.c with
      | none => false
      | some t =>
        (match c.a with | some a => tensorsOverlap a t && !(!c.d.product && a.raw == t.raw) | none => false)
          || (match c.b with | some b => tensorsOverlap b t | none => false)
          || c.opnds.any (fun p => tensorsOverlap p.2 t && !(full p.1 && !pro p.1 && p.2.raw == t.raw))

/-! ### Order 4: fit -/

/-- Bins, L, term width and term capacity of a product's format (Table 3 of chapter 03). -/
def laccOf (f : Fmt) (sf : ScaleFmt) : Nat × Int × Nat × Nat :=
  match sf, f with
  | .none, .fp16 => (3, -48, 22, 2 ^ 31)
  | .none, .e5m2 => (3, -32, 6, 2 ^ 47)
  | .none, .e4m3 => (3, -18, 8, 2 ^ 47)
  | .none, .e2m1 => (3, -2, 4, 2 ^ 47)
  | .none, .int8 => (3, 0, 16, 2 ^ 47)
  | .none, .bf16 => (18, -266, 16, 2 ^ 47)
  | .none, .fp32 => (18, -298, 48, 2 ^ 37)
  | .none, _ => (132, -2148, 106, 2 ^ 43)
  | .e8m0, .e4m3 => (18, -272, 10, 2 ^ 47)
  | .e8m0, .e5m2 => (18, -286, 8, 2 ^ 19)
  | .e8m0, .e2m1 => (18, -256, 6, 2 ^ 47)
  | .e8m0, _ => (18, -266, 18, 2 ^ 47)
  | .e4m3, .e4m3 => (18, -36, 16, 2 ^ 47)
  | .e4m3, .e5m2 => (18, -50, 14, 2 ^ 47)
  | .e4m3, .e2m1 => (18, -20, 12, 2 ^ 47)
  | .e4m3, _ => (18, -30, 24, 2 ^ 47)

/-- Operand bytes per K-step, A and B together (Table 1 of chapter 03). -/
def stepBytes : Fmt → Nat
  | .bf16 => 256 | .fp16 => 256 | .fp32 => 512 | .fp64 => 256 | .e2m1 => 64 | _ => 128

/-- Rows and columns of an output tile (R59, R102, R107). DESIGN CHOICE (log entry 100): the tiles of an epilogue-only chain with a
16-row hold are 16 x 64, as R102 has it for products, and not R107's 64 x 64, which no band of 16 rows holds. -/
def tileRows (c : ChainRun) : Nat :=
  if c.d.product && (chainFmt c).map (·.1) == some .fp64 then 16 else if c.d.holdRows = 16 then 16 else 64
def tileCols (c : ChainRun) : Nat := if c.d.product && (chainFmt c).map (·.1) == some .fp64 then 16 else 64

/-- Scale bytes of a slice of x rows or columns by Ks, kd being the dimension that is K (R73). -/
def sliceScales (t : TDesc) (sf : ScaleFmt) (kd x ks : Nat) : Nat :=
  if sf == .none then 0
  else if t.shareDim = kd then x * cdiv ks t.blockSize
  else if t.shareDim = 1 - kd then cdiv x t.blockSize * ks
  else x * ks

/-- The reservation of R100 in bytes, with s the SUM, SUMSQ and SMSUM that the chain selects. DESIGN CHOICE (log entry 92): SOFTMAX
selects SMSUM in a split product chain too, which forms none. -/
def esaBytes (c : ChainDesc) : Nat :=
  (if c.holdRows = 0 then 64 else c.holdRows) * (one (rowSum c) + one (rowSumsq c) + one (rowSoftmax c)) * 108

/-- Tiles in flight (R74, Table 7 of chapter 03). -/
def tilesInFlight (c : ChainRun) : Nat :=
  match chainFmt c with
  | none => 0
  | some (f, sf) => (589824 - esaBytes c.d) / (tileRows { c with d := { c.d with holdRows := 0 } } * tileCols c * 6 * (laccOf f sf).1)

/-- Staging bytes the chain declares (R73, R103, R113). -/
def stagingBytes (c : ChainRun) : Nat :=
  let x := tileCols c
  let per := match chainFmt c, c.a, c.b with
    | some (f, sf), some a, some b => c.d.ks * stepBytes f + sliceScales a sf 0 x c.d.ks + sliceScales b sf 1 x c.d.ks
    | _, _, _ => 0
  (if c.d.twoBufs then 2 else 1) * per + (if c.d.holdRows = 0 then 0 else 393216) + (if c.d.partialMode = 2 then 32768 else 0)

/-- Every QUANT block lies within one output tile (R92); blocks count from the own extent, tiles from padded output 0. -/
def quantFits (c : ChainRun) (t : TDesc) : Bool :=
  let ext := if t.shareDim = 0 then tileCols c else if t.shareDim = 1 then tileRows c else 1
  let lo := (tdim t t.shareDim).padLo
  let n := tsize t t.shareDim
  decide (t.blockSize ≤ ext) && (List.range (cdiv n t.blockSize)).all fun i =>
    (lo + i * t.blockSize) / ext == (lo + min n ((i + 1) * t.blockSize) - 1) / ext

def fitBad (s : State) (c : ChainRun) : Bool :=
  let d := c.d
  let need := if d.rowOps != 0 then (8, 96) else (4, 64)
  (d.product && decide (stagingBytes c > 524288))
    || (d.product && tilesInFlight c == 0)
    || (d.product && (match chainFmt c with
        | some (f, sf) => decide (d.k + (match c.plan with | some p => p.senderTerms | none => 0) > (laccOf f sf).2.2.2)
        | none => true))
    || (d.product && decide (d.share > tilesInFlight c))
    || (endsQuant d && (match c.c with | some t => !quantFits c t | none => false))
    || (d.holdRows != 0 && decide (d.n > 393216 * d.rowGroup / (d.holdRows * 10)))
    || decide (d.arrays > inService s 1 (d.die + 1))
    || decide (d.groups * 32 * d.regs * 4 > 524288)
    || decide (d.groups < need.1) || decide (d.regs < need.2)

/-! ### The load -/

/-- Loads and checks a chain at an address (R83, R117). -/
def loadChain (ring va : Nat) (s : State) : Load (ChainRun × State) := do
  let ((), s) ← loadCheck ring 0x13 (va % 64 != 0) s
  let (b, s) ← loadBytes ring va 320 va s
  let d := parseChain b
  let ((), s) ← loadCheck ring 0x13 (chainBad b d) s
  let (plan, s) ← loadPlan ring d s
  let (a, s) ← loadOpt ring d.aDesc s
  let (bT, s) ← loadOpt ring d.bDesc s
  let (cT, s) ← loadOpt ring d.cDesc s
  let (st, s) ← loadOpt ring d.statsDesc s
  let (os, s) ← loadOperands ring d s
  let (sl, s) ← loadSlices ring d s
  let c : ChainRun := { d := d, a := a, b := bT, c := cT, stats := st, opnds := os, slices := sl, plan := plan }
  let ((), s) ← loadCheck ring 0x13 (sizeBad c) s
  let ((), s) ← loadCheck ring 0x12 (formatBad c) s
  let ((), s) ← loadCheck ring 0x11 (overlapBad c) s
  let ((), s) ← loadCheck ring 0x10 (fitBad s c) s
  let (v, s) := if d.split && d.product && rowQuant d then s.draw else (0, s)
  .ok ({ c with quantElem := nth .e4m3 [.e4m3, .e5m2, .e2m1, .int8] (v.toNat % 4) }, s)

end Sys2Proof.Machine
end

