-- ==== Sys2Proof/Machine/Functions.lean ====
section
/-! DEFINITION. Transcendental functions: brackets of their exact values, and the results that the bounds of R91
and R151 admit. The spec fixes a result only up to its bound: the model takes the free candidate of Config where
the bound admits it, and a value within the bound otherwise (log entry 8). -/

namespace Sys2Proof.Machine

/-- A positive value between lo and hi, each m × 2^e. -/
structure Bracket where
  lo : Nat × Int
  hi : Nat × Int
  deriving DecidableEq, Repr

/-- What a function's exact value is: a value itself, a sign and a bracket of its magnitude, or not stated. -/
inductive Exact where
  | value (v : Num)
  | near (neg : Bool) (b : Bracket)
  | free
  deriving DecidableEq, Repr

/-! ### Fixed point -/

/-- Binary places of the brackets. -/
def fxP : Nat := 640
/-- Binary places of the reduction by π/2. -/
def fxQ : Nat := 1400

/-- ln 2, √(2/π) to 640 places, π/2 to 1400 places, each rounded down. -/
def ln2Fx : Int := 0xb17217f7d1cf79abc9e3b39803f2f6af40f343267298b62d8a0d175b8baafa2be7b876206debac98559552fb4afa1b10ed2eae35c138214427573b291169b8253e96ca16224ae8c51acbda11317c387e
def rt2piFx : Int := 0xcc42299ea1b284687e59e2805d5c717fa7053e60a24e0db1808e369004c73a5d3bf158aa88fa7b6e47eba75766e9d11bd6284ef2e17c2a264f1d32688be119ff30505c3fb28f9c969d9b7adccb84672b
def halfPiFx : Int := 0x1921fb54442d18469898cc51701b839a252049c1114cf98e804177d4c76273644a29410f31c6809bbdf2a33679a748636605614dbe4be286e9fc26adadaa3848bc90b6aecc4bcfd8de89885d34c6fdad617feb96de80d6fdbdc70d7f6b5133f4b5d3e4822f8963fcc9250cca3d9c8b67b8400f97142c77e0b31b4906c38aba734d22c7f51fa499ebf06caba47b9475b2c38c5e6ac410aa5773daa520ee12d2cdace186a9c95793009e2e8d811943042

/-- ± m × 2^e in units of 2^-p, rounded down. -/
def toFx (p : Nat) (neg : Bool) (m : Nat) (e : Int) : Int :=
  let k := e + p
  let x : Int := if neg then -(m : Int) else m
  if k ≥ 0 then x * 2 ^ k.toNat else x / 2 ^ (-k).toNat

/-- Product in units of 2^-p. -/
def fxMul (p : Nat) (a b : Int) : Int := a * b / 2 ^ p

/-- Σ r^n / n! over n terms from a term and its number, by Horner's rule from the last: 1 + r/1 (1 + r/2 (…)). -/
def expSum (p : Nat) (r : Int) : Nat → Nat → Int
  | 0, _ => 2 ^ p
  | f + 1, n => 2 ^ p + fxMul p r (expSum p r f (n + 1)) / (n : Int)

/-- A magnitude m × 2^e within a relative distance of 2^-d. -/
def around (m : Int) (e : Int) (d : Nat) : Bracket :=
  let m := m.toNat
  ⟨(m - m / 2 ^ d - 1, e), (m + m / 2 ^ d + 1, e)⟩

/-- e^x for x in units of 2^-640, as an integer and an exponent: S × 2^(k - 640). -/
def expFx (x : Int) : Int × Int :=
  let k := x / ln2Fx
  (expSum fxP (x - k * ln2Fx) 160 1, k - fxP)

/-- Bracket of the product of m × 2^e and a bracket. -/
def scaleBr (m : Nat) (e : Int) (b : Bracket) : Bracket := ⟨(m * b.lo.1, e + b.lo.2), (m * b.hi.1, e + b.hi.2)⟩

/-- Quotient of integers a / b as an integer and an exponent, to 400 bits. -/
def quot (a b : Int) : Int × Int := (a * 2 ^ 400 / b, -400)

/-- 1 / (1 + e^-u) for u in units of 2^-640, as an integer and an exponent. -/
def sigFx (u : Int) : Int × Int :=
  if u ≥ 0 then
    let (s, k) := expFx (-u)
    let t := if k ≥ -(fxP : Int) - 700 then s / 2 ^ (-(fxP : Int) - k).toNat else 0
    quot (2 ^ fxP) (2 ^ fxP + t)
  else
    let (s, k) := expFx u
    let t := if k ≥ -(fxP : Int) - 700 then s / 2 ^ (-(fxP : Int) - k).toNat else 0
    let (q, e) := quot s (2 ^ fxP + t)
    (q, e + k + fxP)

/-- Σ y^2n / (2n + 1)!! : y² in units of 2^-640. -/
def erfSum (y2 : Int) : Nat → Nat → Int
  | 0, _ => 2 ^ fxP
  | f + 1, n => 2 ^ fxP + fxMul fxP y2 (erfSum y2 f (n + 1)) / ((2 * n + 1 : Nat) : Int)

/-- Σ (-1)^n (2n - 1)!! / y^2n by Horner's rule. -/
def erfcSum (iy2 : Int) : Nat → Nat → Int
  | 0, _ => 2 ^ fxP
  | f + 1, n => 2 ^ fxP - fxMul fxP iy2 (erfcSum iy2 f (n + 1)) * ((2 * n - 1 : Nat) : Int)

/-- Φ(y) of the normal distribution for y in units of 2^-640, as an integer and an exponent. -/
def phiFx (y : Int) : Int × Int :=
  let y2 := fxMul fxP y y
  if y2 < 200 * 2 ^ fxP then
    let (s, k) := expFx (-y2 / 2)
    let d := s / 2 ^ (-(fxP : Int) - k).toNat
    let t := fxMul fxP (fxMul fxP (fxMul fxP rt2piFx y) d) (erfSum y2 1600 1)
    ((2 ^ fxP + t) / 2, -(fxP : Int))
  else if y > 0 then (2 ^ fxP, -(fxP : Int))
  else
    let (s, k) := expFx (-y2 / 2)
    let iy2 := 2 ^ (2 * fxP) / y2
    let (q, e) := quot (fxMul fxP (fxMul fxP rt2piFx s) (erfcSum iy2 60 1)) (-2 * y)
    (q, e + k + fxP)

/-! ### The functions -/

/-- e^x (R91). -/
def exactExp (neg : Bool) (m : Nat) (e : Int) : Exact :=
  if m = 0 then .value (.fin false 1 0)
  else if (topBit m : Int) + e > 17 then
    if neg then .near false ⟨(1, -66000), (1, -65000)⟩ else .value (.inf false)
  else
    let (s, k) := expFx (toFx fxP neg m e)
    .near false (around s k 400)

/-- Values of the functions of R91 at finite nonzero x with a magnitude so large that only the limit matters. -/
def bigX (m : Nat) (e : Int) : Bool := decide ((topBit m : Int) + e > 17)

/-- The same for the two GELUs, whose tails fall with e^(-x^2 / 2) or faster: |x| at least 2^8. -/
def bigGelu (m : Nat) (e : Int) : Bool := decide ((topBit m : Int) + e > 7)

/-- Brackets of GELU_ERF, GELU_TANH, SILU, SIGMOID, TANH and EXP (codes 0x07 to 0x0C, R91). -/
def exactEpi (op : Nat) (v : Num) : Exact :=
  match v with
  | .nan => .value .nan
  | .inf false => .value (if op = 0x0A ∨ op = 0x0B then .fin false 1 0 else .inf false)
  | .inf true =>
    .value (if op = 0x0A ∨ op = 0x0C then numZero false else if op = 0x0B then .fin true 1 0 else numZero true)
  | .fin neg m e =>
    if m = 0 then .value (if op = 0x0A then .fin false 1 (-1) else if op = 0x0C then .fin false 1 0 else v)
    else
      let x := toFx fxP neg m e
      let least : Bracket := ⟨(1, -66000), (1, -65000)⟩
      let times (f : Int × Int) (d : Nat) : Exact := .near neg (scaleBr m e (around f.1 f.2 d))
      match op with
      | 0x07 => if bigGelu m e then (if neg then .near true least else .near false (scaleBr m e (around (2 ^ 300) (-300) 200)))
                else times (phiFx x) 120
      | 0x08 =>
        if bigGelu m e then (if neg then .near true least else .near false (scaleBr m e (around (2 ^ 300) (-300) 200)))
        else
          let u := fxMul fxP rt2piFx (x + fxMul fxP (fxMul fxP x x) x * 44715 / 1000000)
          if u < -(2 ^ 18 * 2 ^ fxP) then .near true least else times (sigFx (2 * u)) 200
      | 0x09 => if bigX m e then (if neg then .near true least else .near false (scaleBr m e (around (2 ^ 300) (-300) 200)))
                else times (sigFx x) 200
      | 0x0A => if bigX m e then (if neg then .near false least else .near false (around (2 ^ 300) (-300) 200))
                else let f := sigFx x; .near false (around f.1 f.2 200)
      | 0x0B =>
        if (topBit m : Int) + e < -200 then .near neg ⟨(m * 2 ^ 400 - m, e - 400), (m, e)⟩
        else if (topBit m : Int) + e > 10 then .near neg (around (2 ^ 300) (-300) 200)
        else
          let (s, k) := expFx (2 * x.natAbs)
          let t := s * 2 ^ (k + fxP).toNat
          let f := quot (t - 2 ^ fxP) (t + 2 ^ fxP)
          .near neg (around f.1 f.2 100)
      | _ => exactExp neg m e

/-- Σ z^2n / (2n + 1). -/
def lnSum (z2 : Int) : Nat → Nat → Int
  | 0, n => 2 ^ fxP / ((2 * n + 1 : Nat) : Int)
  | f + 1, n => 2 ^ fxP / ((2 * n + 1 : Nat) : Int) + fxMul fxP z2 (lnSum z2 f (n + 1))

/-- Σ of sine (o = 1) or cosine (o = 0): terms (-1)^n r^2n / (2n + o)! by Horner's rule. -/
def trigSum (r2 : Int) (o : Nat) : Nat → Nat → Int
  | 0, _ => 2 ^ fxQ
  | f + 1, n => 2 ^ fxQ - fxMul fxQ r2 (trigSum r2 o f (n + 1)) / (((2 * n + o) * (2 * n + o - 1) : Nat) : Int)

/-- sin (q = 0) or cos (q = 1) of a finite nonzero value. -/
def exactTrig (q : Nat) (neg : Bool) (m : Nat) (e : Int) : Exact :=
  let x := toFx fxQ neg m e
  let k := (2 * x + halfPiFx) / (2 * halfPiFx)
  let r := x - k * halfPiFx
  let r2 := fxMul fxQ r r
  let quad := ((k + q) % 4).toNat
  let v := if quad % 2 = 0 then fxMul fxQ r (trigSum r2 1 80 1) else trigSum r2 0 80 1
  let v := if quad ≥ 2 then -v else v
  .near (v < 0) (around v.natAbs (-(fxQ : Int)) 110)

/-- 2^x, log2 x, sin x, cos x, 1/x and 1/√x (Table 12 of chapter 06, opcodes 0x32 to 0x37). The exact value at a
pole, or where no real value exists, is not stated but for a NaN operand (R38). -/
def exactXcn (op : Nat) (v : Num) : Exact :=
  match op, v with
  | _, .nan => .value .nan
  | 0x32, .inf neg => .value (numZero neg)
  | 0x32, .fin neg m e =>
    if m = 0 then .free
    else let d := divFin false 1 0 neg m e; .near d.neg ⟨(d.m, d.e), (d.m + 1, d.e)⟩
  | 0x33, .inf neg => if neg then .free else .value (numZero false)
  | 0x33, .fin neg m e =>
    if m = 0 ∨ neg then .free
    else
      let d := divFin false 1 0 false m e
      let d := if d.e % 2 = 0 then d else { d with m := d.m * 2, e := d.e - 1 }
      let r := Nat.sqrt (d.m * 2 ^ 300)
      .near false ⟨(r, d.e / 2 - 150), (r + 2, d.e / 2 - 150)⟩
  | 0x34, .inf neg => .value (if neg then numZero false else .inf false)
  | 0x34, .fin neg m e =>
    if m = 0 then .value (.fin false 1 0)
    else if bigX m e then (if neg then .near false ⟨(1, -66000), (1, -65000)⟩ else .near false ⟨(1, 65000), (1, 66000)⟩)
    else
      let x := toFx fxP neg m e
      let k := x / 2 ^ fxP
      let s := expSum fxP (fxMul fxP (x - k * 2 ^ fxP) ln2Fx) 160 1
      if x % 2 ^ fxP = 0 ∧ e ≥ -(fxP : Int) then .value (.fin false 1 k) else .near false (around s (k - fxP) 300)
  | 0x35, .inf neg => if neg then .free else .value (.inf false)
  | 0x35, .fin neg m e =>
    if m = 0 ∨ neg then .free
    else
      let k := (topBit m : Int) + e
      if m = 2 ^ topBit m then .value (.fin (k < 0) k.natAbs 0)
      else
        let y := toFx fxP false m (e - k)
        let (y, k) := if 2 * y > 3 * 2 ^ fxP then (y / 2, k + 1) else (y, k)
        let z := (y - 2 ^ fxP) * 2 ^ fxP / (y + 2 ^ fxP)
        let l := 2 * fxMul fxP z (lnSum (fxMul fxP z z) 200 0)
        let v := k * 2 ^ fxP + l * 2 ^ fxP / ln2Fx
        .near (v < 0) (around v.natAbs (-(fxP : Int)) 200)
  | 0x36, .inf _ => .free
  | 0x36, .fin neg m e => if m = 0 then .value v else exactTrig 0 neg m e
  | 0x37, .inf _ => .free
  | 0x37, .fin neg m e => if m = 0 then .value (.fin false 1 0) else exactTrig 1 neg m e
  | _, _ => .free

/-! ### Admitted results -/

/-- a × 2^e ≤ b × 2^f. -/
def magLe (a b : Nat × Int) : Bool := magGe b.1 b.2 a.1 a.2

/-- m × 2^e + n × 2^f, exact. -/
def magAdd (a b : Nat × Int) : Nat × Int :=
  let g := min a.2 b.2
  (a.1 <<< (a.2 - g).toNat + b.1 <<< (b.2 - g).toNat, g)

/-- The W results that R91 admits for a magnitude in a bracket: within 2^-60 of it, within one step of the
subnormal grid below the normal range, and never zero. -/
def admits91 (b : Bracket) (m : Nat) (e : Int) : Bool :=
  let step : Nat × Int := (1, minQ .w)
  m != 0 && (
    if magLe b.hi (1, -32766) then magLe (m, e) (magAdd b.hi step) && magLe b.lo (magAdd (m, e) step)
    else magLe (m, e) (magAdd b.hi (b.hi.1, b.hi.2 - 60)) && magLe b.lo (magAdd (m, e) (b.lo.1, b.lo.2 - 60)))

/-- A W result of R91: the candidate where it is admitted, else a rounding of the bracket's lower end. A
magnitude below the smallest subnormal gives the smallest subnormal; one above the range an infinity (R40). -/
def pickW (cand : Num) : Exact → Num
  | .value v => v
  | .free => cand
  | .near neg b =>
    let base := roundOdd ⟨neg, b.lo.1, b.lo.2, true⟩
    if magLe b.hi (1, minQ .w) then .fin neg 1 (minQ .w)
    else match base, cand with
      | .fin _ _ _, .fin n m e => if n == neg && admits91 b m e then cand else base
      | _, _ => base

/-- The results that R151 admits: within one unit in the last place of the exact value. -/
def admits151 (f : Fmt) (b : Bracket) (m : Nat) (e : Int) : Bool :=
  let (_, fb, _) := fmtParts f
  let q : Int := max ((topBit b.lo.1 : Int) + b.lo.2 - fb) (minQ f)
  magLe (m, e) (magAdd b.hi (1, q)) && magLe b.lo (magAdd (m, e) (1, q))

/-- A result of R151 under a rounding mode: the candidate where it is admitted, else the bracket's lower end
rounded. -/
def pickXcn (f : Fmt) (rm : Rm) (draw : Nat) (cand : Num) : Exact → Num
  | .value v => convertNum f rm .ieee draw v
  | .free => cand
  | .near neg b =>
    let base := roundFloat f rm .ieee draw ⟨neg, b.lo.1, b.lo.2, true⟩
    match base, cand with
    | .fin _ _ _, .fin n m e => if n == neg && admits151 f b m e then cand else base
    | _, _ => base

/-- A transcendental epilogue operation on a W value (R91). -/
def epiFunc (op : Nat) (y : Num) : Num :=
  pickW (decodeNum .w (Config.epilogue op (BitVec.ofNat 80 (encodeNum .w y))).toNat) (exactEpi op y)

/-- FRCP, FRSQRT, FEXP2, FLOG2, FSIN and FCOS on a value of a format (R151). -/
def xcnFunc (op : Nat) (f : Fmt) (rm : Rm) (draw : Nat) (x : Nat) : Num :=
  pickXcn f rm draw (decodeNum f (Config.xcn op (if f = .fp64 then 6 else 5) (BitVec.ofNat 64 x) 0).toNat)
    (exactXcn op (decodeNum f x))

end Sys2Proof.Machine
end

