-- ==== Sys2Proof/Machine/ChainMath.lean ====
section
/-! DEFINITION. The arithmetic of a chain: its tile grid and placement (R449), the prologue (R85-R87), terms and
windows (R62-R68), the epilogue in W (R88-R94), the final conversion (R77, R92), row statistics (R99, R101). -/

namespace Sys2Proof.Machine

/-! ### Grid and placement (R449) -/

def gridRows (c : ChainRun) : Nat := cdiv c.d.m (tileRows c)
def gridCols (c : ChainRun) : Nat := cdiv c.d.n (tileCols c)
def tileCount (c : ChainRun) : Nat := gridRows c * gridCols c

/-- Rows and columns of the outputs of a tile. -/
def rowsOf (c : ChainRun) (t : Nat) : List Nat :=
  let r := t / gridCols c * tileRows c
  span r (min (tileRows c) (c.d.m - r))
def colsOf (c : ChainRun) (t : Nat) : List Nat :=
  let x := t % gridCols c * tileCols c
  span x (min (tileCols c) (c.d.n - x))

/-- Tile rows of a band (R102), or of the whole grid without a hold. -/
def blockRows (c : ChainRun) : Nat := if c.d.holdRows = 0 then gridRows c else max 1 (c.d.holdRows / tileRows c)

/-- Share groups of the tile rows r0 to r0 + nr - 1, in their order: group s of them, as tile numbers (R449). -/
def shareGroup (c : ChainRun) (r0 nr s : Nat) : List Nat :=
  let tn := gridCols c
  if c.d.shareB then
    let rows := span (s / tn * c.d.share) (min c.d.share (nr - s / tn * c.d.share))
    rows.map fun r => (r0 + r) * tn + s % tn
  else
    let per := cdiv tn c.d.share
    let x0 := s % per * c.d.share
    (span x0 (min c.d.share (tn - x0))).map fun x => (r0 + s / per) * tn + x

def groupCount (c : ChainRun) (nr : Nat) : Nat :=
  if c.d.shareB then cdiv nr c.d.share * gridCols c else nr * cdiv (gridCols c) c.d.share

/-- The m-th group of chain array j, as tile numbers; none past its last (R449). -/
def arrayGroup (c : ChainRun) (j m : Nat) : Option (List Nat) :=
  if c.d.holdRows = 0 then
    let g := m * c.d.arrays + j
    if g < groupCount c (gridRows c) then some (shareGroup c 0 (gridRows c) g) else none
  else
    let bt := blockRows c
    let i := j % c.d.rowGroup
    let n := groupCount c bt
    let mine := if i < n then (n - i + c.d.rowGroup - 1) / c.d.rowGroup else 0
    if mine = 0 then none
    else
      let b := j / c.d.rowGroup + m / mine * (c.d.arrays / c.d.rowGroup)
      let s := i + m % mine * c.d.rowGroup
      let nr := min bt (gridRows c - b * bt)
      if b * bt < gridRows c then (if s < groupCount c nr then some (shareGroup c (b * bt) nr s) else some []) else none

/-- The chain array that a tile belongs to: the other direction of `arrayGroup` (R449). -/
def arrayOf (c : ChainRun) (t : Nat) : Nat :=
  let tn := gridCols c
  let group (r x : Nat) : Nat := if c.d.shareB then r / c.d.share * tn + x else r * cdiv tn c.d.share + x / c.d.share
  if c.d.holdRows = 0 then group (t / tn) (t % tn) % c.d.arrays
  else
    let bt := blockRows c
    t / tn / bt % (c.d.arrays / c.d.rowGroup) * c.d.rowGroup + group (t / tn % bt) (t % tn) % c.d.rowGroup

/-- Tiles below this number may still start and commit (R116, R246). -/
def stopAt (c : ChainRun) : Nat := match c.stop with | some r => r.progress | none => tileCount c

/-- Tiles of a group that are still to run after a resume at tile c.first (R304). -/
def groupTiles (c : ChainRun) (j m : Nat) : Option (List Nat) := (arrayGroup c j m).map fun l => l.filter fun t => decide (c.first ≤ t)

/-- Number of the chain's array among its arrays (R109). -/
def arrayIndex (c : ChainRun) (a : Nat) : Nat := (c.arrays.findIdx? (· == a)).getD 0

/-- The array that runs a tile. -/
def tileArray (c : ChainRun) (t : Nat) : Nat := nth 0 c.arrays (arrayOf c t)

/-- Passes of a product: K-slices of depth Ks (R72). -/
def passCount (c : ChainRun) : Nat := if c.d.product then cdiv c.d.k c.d.ks else 0
/-- K-steps of pass p. -/
def passDepth (c : ChainRun) (p : Nat) : Nat := min c.d.ks (c.d.k - p * c.d.ks)

/-- Beats of a pass of a depth (Table 1 of chapter 03). -/
def passBeats (f : Fmt) (ks : Nat) : Nat :=
  match f with
  | .fp32 => 4 * ks | .e2m1 => cdiv ks 4 | .e5m2 => cdiv ks 2 | .e4m3 => cdiv ks 2 | .int8 => cdiv ks 2 | _ => ks

/-- K-steps of a beat of a pass and, for FP32, the turn of the 2 × 2 groups (R59). -/
def beatSteps (f : Fmt) (beat ks : Nat) : List Nat :=
  match f with
  | .fp32 => [beat / 4]
  | .e2m1 => span (4 * beat) (min 4 (ks - 4 * beat))
  | .e5m2 => span (2 * beat) (min 2 (ks - 2 * beat))
  | .e4m3 => span (2 * beat) (min 2 (ks - 2 * beat))
  | .int8 => span (2 * beat) (min 2 (ks - 2 * beat))
  | _ => [beat]

/-! ### Elements (R85-R87, R246) -/

/-- What an element or a value gives: itself, a fault with its role, or a wait. -/
inductive Elem where
  | num (v : Num)
  | fault (f : Flt)
  | wait
  deriving DecidableEq, Repr

/-- A coordinate with zeros for the further dimensions. -/
def coordOf (t : TDesc) (l : List Nat) : List Nat := (List.range t.rank).map (nth 0 l)

/-- Who reads for a chain: its array, for the ring. -/
def chainWho (n a : Nat) : Who := ⟨a, .ring n⟩

/-- A value read from a tensor, with the roles of its elements and scales. -/
def readElem (w : Who) (t : TDesc) (coord : List Nat) (role srole : Nat) (s : State) : Elem × State :=
  match readPadded w t (coordOf t coord) s with
  | (.num v _, s) => (.num v, s)
  | (.raw _ _, s) => (.num (numZero false), s)
  | (.fault st sc c e a, s) => (.fault ⟨st, if sc then srole else role, c, e, a⟩, s)
  | (.wait, s) => (.wait, s)

/-- A value of an operand-table tensor. -/
def readOpnd (w : Who) (c : ChainRun) (slot : Nat) (coord : List Nat) (s : State) : Elem × State :=
  readElem w (opnd c slot) coord 5 15 s

/-- A result rounded once to a prologue target, as the format holds it (R86). -/
def toTarget (code round : Nat) (v : Num) : Num :=
  match fmtOfCode code with
  | some f => decodeNum f (encodeNum f (convertNum f ((rmOfCode round).getD .rne) .dflt 0 v))
  | none => v

/-- Prologue operations of an operand, from number i on, on an element of K index k and row or column x, with the LUT4 tables
that the array has read (R86, R246, R448). -/
def prologue (w : Who) (c : ChainRun) (luts : Sparse (List Num)) (b : Bool) (k x : Nat) : List ProOp → Nat → Num → State → Elem × State
  | [], _, v, s => (.num v, s)
  | p :: ps, i, v, s =>
    if p.operandB != b || p.op == 0 then prologue w c luts b k x ps (i + 1) v s
    else
      let g := k / groupK p
      let zp := if b then [x, g] else [g, x]
      match p.op with
      | 1 => prologue w c luts b k x ps (i + 1) (toTarget p.target p.round v) s
      | 2 =>
        match readOpnd w c p.slot2 zp s with
        | (.num z, s) => match readOpnd w c p.slot zp s with
          | (.num sc, s) =>
            let d := addNum ((rmOfCode p.round).getD .rne) v (negNum z)
            prologue w c luts b k x ps (i + 1) (toTarget p.target p.round (mulNum d sc)) s
          | r => r
        | r => r
      | 3 => match readOpnd w c p.slot [x] s with
        | (.num y, s) => prologue w c luts b k x ps (i + 1) (toTarget p.target p.round (mulNum v y)) s
        | r => r
      | _ =>
        let q := match v with | .fin _ m _ => m | _ => 0
        prologue w c luts b k x ps (i + 1) (nth (numZero false) (tget [] luts i) q) s

/-! ### Slices that land in staging (R108, R109) -/

/-- The entry that covers an operand's pass. -/
def sliceFor (c : ChainRun) (b : Bool) (p : Nat) : Option SliceEntry :=
  (c.slices.filter fun e => e.operandB == b && decide (e.kFirst ≤ p * c.d.ks)).getLast?

/-- Bytes of the elements of a covered slice, and of the whole slice with its scales. DESIGN CHOICE (log entry 12): a short last
pass, an edge tile and a 16-row hold tile have the bytes of a full slice, KS by 64 (16 for FP64). -/
def sliceElems (c : ChainRun) (t : TDesc) : Nat := cdiv (c.d.ks * tileCols c * tbits t) 8
def sliceBytes (c : ChainRun) (b : Bool) : Nat :=
  match if b then c.b else c.a with
  | some t => sliceElems c t + sliceScales t t.scaleFmt (one b) (tileCols c) c.d.ks
  | none => 0

/-- Slice buffer of the array's pass number n. -/
def bufferOf (c : ChainRun) (n : Nat) : Nat := if c.d.twoBufs then n % 2 else 0
def landedKey (buf : Nat) (b : Bool) (byte : Nat) : Nat := (buf * 2 + one b) * 2 ^ 20 + byte
/-- Place of a byte of the receive area (R113). -/
def receiveKey (byte : Nat) : Nat := 2 ^ 22 + byte

/-- Index of the element at a row and column over a tensor's own extent, where it lies there (R48, R128). -/
def ownIdx (t : TDesc) (row col : Nat) : Option (List Nat) :=
  let coord := coordOf t [col, row]
  if inOwn t coord then some ((List.range t.rank).map fun r => (ownIndex t r (nth 0 coord r)).toNat) else none

/-- Byte of an element's scale among the scales of a landed slice. -/
def sliceScale (c : ChainRun) (t : TDesc) (b : Bool) (k x : Nat) : Nat :=
  if t.shareDim = one b then k / max 1 t.blockSize * tileCols c + x
  else if t.shareDim = 1 - one b then k * cdiv (tileCols c) (max 1 t.blockSize) + x / max 1 t.blockSize
  else k * tileCols c + x

/-- Index of an operand's element over its own extent, or of its scale in the scale tensor (R245); 0 in the padding. -/
def sliceIndex (t : TDesc) (b scale : Bool) (kk x : Nat) : Nat :=
  match ownIdx t (if b then kk else x) (if b then x else kk) with
  | some i => if scale then scaleLin t i else linear (ownExts t) i
  | none => 0

/-- The element or scale that a byte of a landed slice belongs to: its role and its index (R245); `kk` and `x0` are the slice's
first K index and its first row or column. -/
def sliceByte (c : ChainRun) (t : TDesc) (b : Bool) (kk x0 byte : Nat) : Nat × Nat :=
  let n := tileCols c
  if byte < sliceElems c t then
    let q := byte * 8 / max 1 (tbits t)
    (if b then 2 else 1, sliceIndex t b false (kk + q / n) (x0 + q % n))
  else
    let q := byte - sliceElems c t
    let bs := max 1 t.blockSize
    let nx := cdiv n bs
    let (k, x) := if t.shareDim = one b then (q / n * bs, q % n)
      else if t.shareDim = 1 - one b then (q / nx, q % nx * bs) else (q / n, q % n)
    (if b then 7 else 6, sliceIndex t b true (kk + k) (x0 + x))

/-- An element of a landed slice: K-step by K-step, the rows or columns of a K-step together, the scales after the
elements in the same order (log entry 12). Poison in its bytes or its scale is a fault (R76, R245): of a pushed slice with
address 0, of a pulled one with the address of the element's byte at the source. -/
def landedElem (c : ChainRun) (ar : Array) (b : Bool) (buf p k x xx src : Nat) : Elem :=
  match if b then c.b else c.a with
  | none => .num (numZero false)
  | some t =>
    let w := tbits t
    let bit0 := (k * tileCols c + x) * w
    let sByte := sliceElems c t + sliceScale c t b k x
    let bad (at_ n : Nat) : Bool := !ar.landedBad.isEmpty && (span at_ n).any fun i => ar.landedBad.contains (landedKey buf b i)
    let fault (scale : Bool) (byte : Nat) : Elem :=
      .fault ⟨0x50, (if b then 2 else 1) + (if scale then 5 else 0), 0, sliceIndex t b scale (p * c.d.ks + k) xx,
        if src = 0 then 0 else (src + byte) % 2 ^ 64⟩
    if bad (bit0 / 8) (cdiv w 8) then fault false (bit0 / 8)
    else if t.scaleFmt != .none && bad sByte 1 then fault true sByte
    else
      let raw := ofBytes (memRead ar.landed (landedKey buf b (bit0 / 8)) (cdiv w 8))
      let sc := ofBytes (memRead ar.landed (landedKey buf b sByte) 1)
      .num (scaledNum t.fmt t.scaleFmt (bits raw (bit0 % 8) w) sc)

/-- Passes that an entry covers. -/
def coveredPasses (c : ChainRun) (e : SliceEntry) : Nat :=
  let later := (c.slices.filter fun x => x.operandB == e.operandB && decide (e.kFirst < x.kFirst)).map (·.kFirst / c.d.ks)
  later.foldl min (passCount c) - e.kFirst / c.d.ks

/-- Where the slice of an operand's tile and pass begins at the source of a pulled entry: strip by strip of the operand, the
covered passes of a strip together (log entry 12). -/
def sliceSource (c : ChainRun) (e : SliceEntry) (b : Bool) (t p : Nat) : Nat :=
  let strip := if b then t % gridCols c else t / gridCols c
  (e.source + (strip * coveredPasses c e + (p - e.kFirst / c.d.ks)) * sliceBytes c b) % 2 ^ 64

/-! ### Staging (R81, R246) -/

/-- Keeps the fault of lowest role, then of lowest element. -/
def worse (a : Option Flt) (f : Flt) : Option Flt :=
  match a with
  | none => some f
  | some g => if f.role < g.role ∨ (f.role = g.role ∧ f.element < g.element) then some f else some g

/-- What staging gives: rows of values, the first fault by role and element, or a wait. -/
structure Stage where
  rows : List (List Num) := []
  fault : Option Flt := none
  waits : Bool := false

/-- An operand's element after its prologue. A fault of its scale comes after one of the prologue's parameters (Table 10 of
chapter 09, R246). -/
def operandElem (w : Who) (c : ChainRun) (ar : Array) (b : Bool) (p k x : Nat) (s : State) : Elem × State :=
  let kk := p * c.d.ks + k
  let base : Elem × State := match sliceFor c b p with
    | some e =>
      let n := tileCols c
      let t := if b then x / n else x / tileRows c * gridCols c
      (landedElem c ar b (bufferOf c ar.passNo) p k (if b then x % n else x % tileRows c) x (if e.push then 0 else sliceSource c e b t p), s)
    | none => match if b then c.b else c.a with
      | some t => readElem w t (if b then [x, kk] else [kk, x]) (if b then 2 else 1) (if b then 7 else 6) s
      | none => (.num (numZero false), s)
  match base with
  | (.num v, s) => prologue w c ar.luts b kk x c.d.pro 0 v s
  | (.fault f, s) =>
    if f.role < 6 then (.fault f, s)
    else match prologue w c ar.luts b kk x c.d.pro 0 (numZero false) s with
      | (.fault g, s) => (.fault ((worse (some f) g).getD f), s)
      | (.wait, s) => (.wait, s)
      | (.num _, s) => (.fault f, s)
  | r => r

/-- The LUT4 tables of an operand, read whole with its first slice (R246): the tables, the worst fault, whether one waits. -/
def readTables (w : Who) (c : ChainRun) (b : Bool) : List (Nat × ProOp) → Stage → Sparse (List Num) → State → (Sparse (List Num) × Stage) × State
  | [], st, m, s => ((m, st), s)
  | (i, p) :: ps, st, m, s =>
    if p.operandB != b || p.op != 4 then readTables w c b ps st m s
    else
      let (vs, st, s) := (List.range 16).foldl (fun (acc : List Num × Stage × State) q =>
        match readOpnd w c p.slot [q] acc.2.2 with
        | (.num v, s) => (acc.1 ++ [v], acc.2.1, s)
        | (.fault f, s) => (acc.1 ++ [numZero false], { acc.2.1 with fault := worse acc.2.1.fault f }, s)
        | (.wait, s) => (acc.1 ++ [numZero false], { acc.2.1 with waits := true }, s)) ([], st, s)
      readTables w c b ps st (tput [] m i vs) s

/-- Stages one K-step: the values of its rows or columns. -/
def stageStep (w : Who) (c : ChainRun) (ar : Array) (b : Bool) (p k : Nat) :
    List Nat → Option Flt → Bool → State → (List Num × Option Flt × Bool) × State
  | [], f, wt, s => (([], f, wt), s)
  | x :: xs, f, wt, s =>
    let (e, s) := operandElem w c ar b p k x s
    let (v, f, wt) : Num × Option Flt × Bool := match e with
      | .num v => (v, f, wt)
      | .fault g => (numZero false, worse f g, wt)
      | .wait => (numZero false, f, true)
    let ((vs, f, wt), s) := stageStep w c ar b p k xs f wt s
    ((v :: vs, f, wt), s)

/-- Stages an operand's slice for a pass. -/
def stageSlice (w : Who) (c : ChainRun) (ar : Array) (b : Bool) (p : Nat) (xs : List Nat) :
    List Nat → Stage → State → Stage × State
  | [], st, s => (st, s)
  | k :: ks, st, s =>
    let ((vs, f, wt), s) := stageStep w c ar b p k xs st.fault st.waits s
    stageSlice w c ar b p xs ks { rows := st.rows ++ [vs], fault := f, waits := wt } s

/-- The operand is shared and its slice was staged with an earlier tile of the group (R97). -/
def sharedDone (c : ChainRun) (b : Bool) (turn : Nat) : Bool := b == c.d.shareB && decide (0 < turn) && decide (1 < c.d.share)

/-- Stages one operand of the pass at the array's position for tile t, its LUT4 tables with its first slice (R86, R97, R246). -/
def stageOperand (w : Who) (c : ChainRun) (ar : Array) (b : Bool) (t : Nat) (st : Stage) (s : State) : (Array × Stage) × State :=
  if sharedDone c b ar.turn then ((ar, { st with rows := if b then ar.stagedB else ar.stagedA }), s)
  else
    let ops := (List.range c.d.pro.length).zip c.d.pro
    let ((luts, st), s) := if ar.pass = 0 then readTables w c b ops st ar.luts s else ((ar.luts, st), s)
    let ar := { ar with luts := luts }
    let (st, s) := stageSlice w c ar b ar.pass (if b then colsOf c t else rowsOf c t) (List.range (passDepth c ar.pass)) { st with rows := [] } s
    ((ar, st), s)

/-- Stages the pass at the array's position for tile t: the array with its staged operands, the fault that takes effect, and
whether a byte is still awaited. -/
def stagePass (w : Who) (c : ChainRun) (ar : Array) (t : Nat) (s : State) : Array × Option Flt × Bool × State :=
  let ((ar, sa), s) := stageOperand w c ar false t {} s
  let ((ar, sb), s) := stageOperand w c ar true t { fault := sa.fault, waits := sa.waits } s
  ({ ar with stagedA := sa.rows, stagedB := sb.rows }, sb.fault, sb.waits, s)

/-- The fault that a pulled slice of pass p of tile t would bring, as far as its source answers at once (R245, R246). -/
def pulledFault (w : Who) (c : ChainRun) (b : Bool) (t p : Nat) (s : State) : Option Flt :=
  match sliceFor c b p, (if b then c.b else c.a) with
  | some e, some d =>
    let x0 := if b then t % gridCols c * tileCols c else t / gridCols c * tileRows c
    let va := sliceSource c e b t p
    let at_ (st reason byte : Nat) : Flt :=
      let (role, element) := sliceByte c d b (p * c.d.ks) x0 byte
      ⟨st, role, reason, element, (va + byte) % 2 ^ 64⟩
    if e.push then none
    else match (vaRead .once w.agent w.owner .read va (sliceBytes c b) s).1 with
      | .data x => (x.findIdx? (·.2)).map (at_ 0x50 0)
      | .fault st r a => some (at_ st r ((a + 2 ^ 64 - va) % 2 ^ 64))
      | .wait => none
  | _, _ => none

/-- The first fault of the later passes of a tile in pass order, and whether a slice before it is still awaited (R246). What a
pushed slice holds, or a pulled one from outside, shows as it arrives. -/
def laterFault (w : Who) (c : ChainRun) (ar : Array) (t : Nat) : List Nat → State → (Option Flt × Bool) × State
  | [], s => ((none, false), s)
  | p :: ps, s =>
    let of (b : Bool) (st : Stage) (s : State) : Stage × State :=
      if (sliceFor c b p).isSome then
        ({ st with fault := match pulledFault w c b t p s with | some f => worse st.fault f | none => st.fault }, s)
      else let ((_, st), s) := stageOperand w c { ar with pass := p } b t st s; (st, s)
    let (st, s) := of false {} s
    let (st, s) := of true st s
    if st.waits then let ((_, _), s) := laterFault w c ar t ps s; ((none, true), s)
    else match st.fault with
      | some f => ((some f, false), s)
      | none => laterFault w c ar t ps s

/-! ### Terms and windows (R62-R69) -/

/-- Window bins (R66). -/
def windowBins (f : Fmt) : Nat := if f = .fp64 then 8 else 4

/-- Value of a window in units of 2^L. -/
def windowValue (anchor : Nat) (win : List (BitVec 48)) : Int :=
  ((List.range win.length).map fun i => (win[i]?.getD 0).toInt * (2 ^ (32 * (anchor + i)) : Nat)).sum

/-- The window merges into the accumulator and is empty and unanchored (R67). -/
def mergeWindow (acc : Lacc) : Lacc :=
  match acc.anchor with
  | some k => { acc with sum := acc.sum + windowValue k acc.window, anchor := none, window := [] }
  | none => acc

/-- A term of u units of 2^L added to the window's bins, digit by digit, without carry (R66). -/
def windowAdd (anchor w : Nat) (win : List (BitVec 48)) (u : Int) : List (BitVec 48) :=
  (List.range w).map fun i =>
    let digit : Int := (u.natAbs / 2 ^ (32 * (anchor + i)) % 2 ^ 32 : Nat)
    win[i]?.getD 0 + BitVec.ofInt 48 (if u < 0 then -digit else digit)

/-- Adds one term to an output's accumulator: the accumulator, and whether it was a range event (R64, R66, R67). -/
def addTerm (f : Fmt) (sf : ScaleFmt) (acc : Lacc) (a b : Num) : Lacc × Bool :=
  let (n, l, t, _) := laccOf f sf
  let v := mulNum a b
  let acc := { acc with status := acc.status ||| termStatus v }
  match v with
  | .fin _ m lo =>
    if m = 0 then (acc, false)
    else
      let w := windowBins f
      let blo := ((lo - l) / 32).toNat
      let bhi := ((lo + t - 1 - l) / 32).toNat
      let fresh := min (bhi - (w - 2)) (n - w)
      let u := unitsOf v l
      match acc.anchor with
      | some k =>
        if k ≤ blo ∧ bhi ≤ k + w - 1 then ({ acc with window := windowAdd k w acc.window u }, false)
        else ({ mergeWindow acc with anchor := some fresh, window := windowAdd fresh w [] u }, true)
      | none => ({ acc with anchor := some fresh, window := windowAdd fresh w [] u }, false)
  | _ => (acc, false)

/-- Adds the terms of one K-step to the outputs of a tile: row-major accumulators, with the turn of FP32's groups where it
has one. The manual fixes the turn of an output by its position and states no order: DESIGN CHOICE, row-major within the
group (log entry 91). -/
def stepTile (f : Fmt) (sf : ScaleFmt) (turn : Option Nat) (as bs : List Num) (accs : List Lacc) : List Lacc × Bool :=
  let nc := bs.length
  let out := (accs.zip (List.range accs.length)).map fun p =>
    let r := p.2 / nc
    let x := p.2 % nc
    let mine := match turn with | some q => 2 * (r % 2) + x % 2 == q | none => true
    if mine then addTerm f sf p.1 (nth (numZero false) as r) (nth (numZero false) bs x) else (p.1, false)
  (out.map (·.1), out.any (·.2))

/-- One beat of a pass on a tile's accumulators. -/
def beatTile (f : Fmt) (sf : ScaleFmt) (ks : Nat) (ar : Array) (accs : List Lacc) : List Lacc × Bool :=
  let turn := if f = .fp32 then some (ar.beat % 4) else none
  (beatSteps f ar.beat ks).foldl (fun (acc : List Lacc × Bool) k =>
    let (l, e) := stepTile f sf turn (nth [] ar.stagedA k) (nth [] ar.stagedB k) acc.1
    (l, acc.2 || e)) (accs, false)

/-! ### Epilogue (R88-R94) -/

def chainRm (c : ChainDesc) : Rm := (rmOfCode c.round).getD .rne
def chainOv (c : ChainDesc) : Ov := (ovOfCode c.overflow).getD .dflt

/-- Rounding of a W value to a format under ROUND and OVERFLOW with a seed, kept as a value. -/
def roundTo (c : ChainDesc) (code seed index : Nat) (y : Num) : Num :=
  match fmtOfCode code with
  | some f => decodeNum f (encodeNum f (convertNum f (chainRm c) (chainOv c) (srDraw (seed % 2 ^ 64) index) y))
  | none => y

/-- One epilogue operation on y with its operand (R89). ROUND selects no outcome of a W operation (R40). -/
def epiApply (c : ChainDesc) (e : EpiOp) (j index : Nat) (y v : Num) : Num :=
  match e.op with
  | 0x01 => wOf (mulNum y v)
  | 0x02 => wOf (addNum .rne y v)
  | 0x03 => minNum (maxNum y (decodeNum .fp32 e.imm0)) (decodeNum .fp32 e.imm1)
  | 0x04 => maxNum y v
  | 0x05 => minNum y v
  | 0x06 => maxNum y (numZero false)
  | 0x0D => roundTo c e.fmt (if c.stepwise then c.seed + j else c.seed) index y
  | op => if 0x07 ≤ op ∧ op ≤ 0x0C then epiFunc op y else y

/-- The operand of an epilogue operation (R88). -/
def epiOperand (w : Who) (c : ChainRun) (e : EpiOp) (row col : Nat) (s : State) : Elem × State :=
  if !epiTakes e then (.num (numZero false), s)
  else match e.src with
    | 0 => (.num (decodeNum .fp32 e.imm0), s)
    | 1 => readOpnd w c e.slot [row] s
    | 2 => readOpnd w c e.slot [col] s
    | _ => readOpnd w c e.slot [col, row] s

/-- The epilogue of an output: j is the number of the operation (R90, R93, R94). -/
def epilogue (w : Who) (c : ChainRun) (row col index : Nat) : List EpiOp → Nat → Num → State → Elem × State
  | [], _, y, s => (.num y, s)
  | e :: es, j, y, s =>
    match epiOperand w c e row col s with
    | (.num v, s) =>
      let y := epiApply c.d e j index y v
      let y := if c.d.stepwise then roundTo c.d c.d.stepFmt (c.d.seed + j) index y else y
      epilogue w c row col index es (j + 1) y s
    | r => r

/-- Logical index of an output for SR (R48). The manual gives none to an output in C's padding, which is not stored: DESIGN
CHOICE, 0 (log entry 91). -/
def logicalIndex (c : ChainRun) (row col : Nat) : Nat :=
  match c.c with
  | some t => match ownIdx t row col with | some i => linear (ownExts t) i | none => 0
  | none => 0

/-- Outputs of a tile after the epilogue, in row-major order. DESIGN CHOICE (log entry 100): a stepwise epilogue-only chain rounds
A's element at stage 0, where a product chain rounds its product (R93). -/
def tileEpilogue (w : Who) (c : ChainRun) : List ((Nat × Nat) × Num) → State → (List Num × Option Flt × Bool) × State
  | [], s => (([], none, false), s)
  | ((r, x), y) :: rest, s =>
    let i := logicalIndex c r x
    let y := if c.d.stepwise then roundTo c.d c.d.stepFmt c.d.seed i y else y
    let (e, s) := epilogue w c r x i c.d.epi 1 y s
    let ((ys, f, wt), s) := tileEpilogue w c rest s
    match e with
    | .num v => ((v :: ys, f, wt), s)
    | .fault g => ((numZero false :: ys, worse f g, wt), s)
    | .wait => ((numZero false :: ys, f, true), s)

/-- Units of an epilogue operation (Table 5 of chapter 04). -/
def epiUnits (e : EpiOp) : Nat :=
  (match e.op with
    | 1 => 4 | 2 => 4 | 3 => 2 | 4 => 2 | 5 => 2 | 6 => 1 | 7 => 48 | 8 => 40 | 9 => 36 | 10 => 32 | 11 => 32 | 12 => 24 | 13 => 2 | 14 => 6
    | _ => 0) + (if epiTakes e && e.src == 3 then 1 else 0)

/-- Units that an output of a tile costs at tile time (R89, R95, Table 7 of chapter 04): its epilogue, its row operations, its
roundings in stepwise mode, and its final conversion where C is written then. -/
def tileUnits (c : ChainDesc) : Nat :=
  (c.epi.map epiUnits).sum + (if c.stepwise then 2 * (c.epi.length + 1) else 0)
    + one (rowMax c) + 2 * one (rowSum c) + 3 * one (rowSumsq c) + one (rowSoftmax c && (c.product || !c.split)) + one (rowQuant c && (c.product || !c.split))
    + (if c.cDesc != 0 && !usesHold c && !(c.split && !c.product) then 2 else 0)
/-- Units that an output of a held or completed row costs at its finish (Table 7 of chapter 04). -/
def finishUnits (c : ChainDesc) : Nat := if rowSoftmax c then 36 else if rowQuant c then 6 else 0

/-- Units of a prologue operation per element (Table 3 of chapter 04). -/
def proUnits (p : ProOp) : Nat := if p.op = 2 then 3 else if p.op = 0 then 0 else 2

/-- An engine issues units of chain work, 32 to a slot (R96, R152, R167). -/
def countUnits (e units : Nat) (s : State) : State :=
  s.onEngine e fun x => { x with ctr := { x.ctr with slots := advance x.ctr.slots (cdiv units 32) } }

/-- Outputs of a tile as (row, column). -/
def tileOutputs (c : ChainRun) (t : Nat) : List (Nat × Nat) := (rowsOf c t).flatMap fun r => (colsOf c t).map (r, ·)

/-- Seed of the final conversion (R94). -/
def finalSeed (c : ChainDesc) : Nat := if c.stepwise then c.seed + c.epi.length + 1 else c.seed

/-- Bits of an output in C's format (R77, R49, R50). SR into FP64 takes D of R48 from the W value, which holds 11 bits below
FP64's last place, and not from the exact value: DESIGN CHOICE (R77 rounds the W value, R41 speaks of the exact one; log
entry 91). -/
def finalBits (c : ChainRun) (t : TDesc) (index : Nat) (y : Num) : Nat :=
  encodeNum t.fmt (convertNum t.fmt (chainRm c.d) (chainOv c.d) (srDraw (finalSeed c.d % 2 ^ 64) index) y)

/-! ### Row statistics (R99, R101) -/

/-- FP32 by RNE with IEEE overflow. -/
def toFp32 (y : Num) : Num := decodeNum .fp32 (encodeNum .fp32 (convertNum .fp32 .rne .ieee 0 y))

/-- A term added to an exact statistic accumulator: an 18-bin accumulator of FP32 products, without a window (R99). -/
def esaAdd (acc : Lacc) (a b : Num) : Lacc := mergeWindow (addTerm .fp32 .none acc a b).1

/-- W value of an exact statistic (R78). -/
def esaNum (acc : Lacc) : Num := statusNum .rne acc.status acc.sum (-298)

def orMax (a : Option Num) (y : Num) : Option Num := match a with | some m => some (maxNum m y) | none => some y

/-- A row's statistics with one more value: y, or x in split mode (R99, R105). -/
def rowAdd (c : ChainDesc) (st : RowStat) (y : Num) : RowStat :=
  let f := toFp32 y
  let u : Num := .fin false 1 0
  { st with
    max := if rowMax c || rowSoftmax c then orMax st.max y else st.max
    maxMag := if rowQuant c then orMax st.maxMag (absNum y) else st.maxMag
    sum := if rowSum c then esaAdd st.sum f u else st.sum
    sumsq := if rowSumsq c then esaAdd st.sumsq f f else st.sumsq }

end Sys2Proof.Machine
end

