-- ==== Sys2Proof/Machine/ChainOps.lean ====
section
/-! DEFINITION. What the commands of a chain share: its place in State, admission (R117), positions and slice
buffers (R109), stops (R116), commits (R115, R247), exact partials and the W tree (R113, R114). -/

namespace Sys2Proof.Machine

/-! ### The chain of a ring -/

def chainOf (s : State) (n : Nat) : Option ChainRun :=
  match (s.ring n).op with
  | some (.chain c) => some c
  | _ => none

def setChain (n : Nat) (c : ChainRun) (s : State) : State := s.onRing n fun q => { q with op := some (.chain c) }

/-- The admitted chain that an array runs, with its ring. -/
def arrayChain (s : State) (a : Nat) : Option (Nat × ChainRun) :=
  match (s.array a).ring with
  | some n => match chainOf s n with
    | some c => if c.admitted then some (n, c) else none
    | none => none
  | none => none

/-- The chain stops at a tile with a result; a stop at an earlier tile stands (R246), with the unknown range that the later
one brings (R296). -/
def stopChain (n : Nat) (r : Res) (tile : Nat) (s : State) : State :=
  match chainOf s n with
  | some c =>
    if tile < stopAt c then setChain n { c with stop := some { r with progress := tile } } s
    else if r.unk then setChain n { c with stop := c.stop.map fun x => addUnknown x r } s else s
  | none => s

/-- The result of a fault. -/
def fltRes (f : Flt) : Res := { status := f.status, role := f.role, reason := f.reason, element := f.element, address := f.address }

/-! ### Positions -/

/-- The first group of array j from number m on that has tiles to run. -/
def nextGroup (c : ChainRun) (j : Nat) : Nat → Nat → Option Nat
  | 0, _ => none
  | f + 1, m =>
    match groupTiles c j m with
    | none => none
    | some [] => nextGroup c j f (m + 1)
    | some _ => some m

def groupFuel (c : ChainRun) : Nat := c.first + 130

/-- The position after (group, pass, turn) (R97, R449). -/
def posNext (c : ChainRun) (j : Nat) (pos : Nat × Nat × Nat) : Option (Nat × Nat × Nat) :=
  let (m, p, u) := pos
  match groupTiles c j m with
  | none => none
  | some l =>
    if u + 1 < l.length then some (m, p, u + 1)
    else if p + 1 < passCount c then some (m, p + 1, 0)
    else (nextGroup c j (groupFuel c) (m + 1)).map fun g => (g, 0, 0)

/-- The position k passes on. -/
def posAhead (c : ChainRun) (j : Nat) : Nat → Nat × Nat × Nat → Option (Nat × Nat × Nat)
  | 0, pos => some pos
  | k + 1, pos => match posNext c j pos with | some q => posAhead c j k q | none => none

def posOf (ar : Array) : Nat × Nat × Nat := (ar.group, ar.pass, ar.turn)

/-- The tile of a position. -/
def tileAt (c : ChainRun) (j : Nat) (pos : Nat × Nat × Nat) : Option Nat :=
  match groupTiles c j pos.1 with
  | some l => l[pos.2.2]?
  | none => none

/-- The pass at the array's position has every covered slice it needs (R109). -/
def arrived (c : ChainRun) (ar : Array) : Bool :=
  [false, true].all fun b =>
    sharedDone c b ar.turn || match sliceFor c b ar.pass with
      | some _ => decide (tget 0 ar.counts (bufferOf c ar.passNo * 2 + one b) ≥ sliceBytes c b)
      | none => true

/-- The tile that the array's next pass serves, of those that are still to complete (R116). -/
def nextTile (c : ChainRun) (j : Nat) (ar : Array) : Option Nat := (tileAt c j (posOf ar)).filter fun t => decide (t < stopAt c)

/-- Tiles of a band of a chain with a hold that are not committed. -/
def bandTiles (c : ChainRun) (b : Nat) : List Nat :=
  let per := blockRows c * gridCols c
  (span (b * per) (min per (tileCount c - b * per))).filter fun t => decide (c.committed ≤ t)

/-- A band of array j's row group has drained whole and is finishing (R104). -/
def finishes (c : ChainRun) (j : Nat) : Bool :=
  c.d.product && usesHold c.d &&
    let groups := c.d.arrays / c.d.rowGroup
    ((List.range groups).map (c.committed / (blockRows c * gridCols c) + ·)).any fun b =>
      b % groups == j / c.d.rowGroup && !(bandTiles c b).isEmpty
        && (bandTiles c b).all fun t => (tfind c.ready t).isSome && decide (t < stopAt c)

/-- With a hold, the earlier bands of the row group have been committed (R102). -/
def bandFree (c : ChainRun) (t : Nat) : Bool :=
  if c.d.holdRows = 0 then true
  else
    let per := blockRows c * gridCols c
    let b := t / per
    let groups := c.d.arrays / c.d.rowGroup
    b < groups || decide ((b - groups + 1) * per ≤ c.committed)

/-! ### Admission (R117, R118) -/

/-- Counters that a chain reserves on each of its engines (R108, R112). -/
def chainCounters (c : ChainRun) : Nat :=
  (c.slices.map (·.counter) ++ (match c.plan with | some p => if c.d.partialMode = 2 then [p.rxCounter] else [] | none => [])).foldl
    (fun a k => a ||| 2 ^ k) 0

def chainGrant (n : Nat) (c : ChainRun) : Grant :=
  { ring := n, isChain := true, groups := c.d.groups, regs := c.d.regs, ways := cdiv c.d.scratchKib 16, stagingKib := 0,
    counters := chainCounters c }

/-- The arrays a chain may take now. -/
def freeArrays (n : Nat) (c : ChainRun) (s : State) : List Nat :=
  if dieOn s (c.d.die + 1) then
    ((pairsFor s c.d.die).map (c.d.die * 136 + ·)).filter fun a =>
      (s.array a).ring.isNone && ((s.engine a).mode == 0 || (s.engine a).mode == 3) && grantSum (s.engine a) (·.stagingKib) == 0 && grantFits (s.engine a) (chainGrant n c)
  else []

/-- Writes credits in order until one has to wait; the rest are kept (R109). -/
def writeCredits (n : Nat) (c : ChainRun) : List (Nat × Nat × Nat) → State → State
  | [], s => setChain n { (chainOf s n).getD c with credits := [] } s
  | (j, buf, v) :: rest, s =>
    let off := 16 * j + 8 * buf
    let va := (c.d.creditAddr + off) % 2 ^ 64
    match vaStore .once (nth 0 c.arrays j) (.ring n) va (allWith false (toBytes 8 v)) s with
    | ((.fault st r, _), s1) =>
      writeCredits n c rest (stopChain n { status := st, role := 13, reason := r, element := off, address := va } c.committed s1)
    | ((.wait, _), s1) => setChain n { (chainOf s n).getD c with credits := (j, buf, v) :: rest } (keepAsked s s1)
    | ((_, _), s1) => writeCredits n c rest s1

/-- Credits of the first passes wait to be written (R109). -/
def firstCredits (c : ChainRun) : Bool := c.credits.any fun x => x.2.2 == x.2.1

/-- Writes the credits of a chain that wait. -/
def flushCredits (n : Nat) (s : State) : State :=
  match chainOf s n with
  | some c => if c.credits.isEmpty then s else writeCredits n c c.credits s
  | none => s

/-- Publishes an opening of a slice buffer of chain array j as a credit, after those that wait (R109). -/
def publish (n : Nat) (c : ChainRun) (j buf pass : Nat) (s : State) : State :=
  if c.d.creditAddr = 0 then s
  else match chainOf s n with
    | some c => flushCredits n (setChain n { c with credits := c.credits ++ [(j, buf, pass)] } s)
    | none => s

/-- The chain takes an array: its position, its buffers open for their first passes (R109). -/
def takeArray (n : Nat) (c : ChainRun) (j a : Nat) (s : State) : State :=
  let g := (nextGroup c j (groupFuel c) 0).getD 0
  let pos := (g, 0, 0)
  let has (k : Nat) : Bool := c.d.product && (tileAt c j pos).isSome && (posAhead c j k pos).isSome
  let s := giveGrant a (chainGrant n c) s
  let o0 := if has 0 then some 0 else none
  let o1 := if c.d.twoBufs && has 1 then some 1 else none
  let s := s.onArray a fun x => { x with
    ring := some n, group := g, tiles := [], pass := 0, turn := 0, passNo := 0, running := false, beat := 0, stall := 0
    stagedA := [], stagedB := [], open0 := o0, open1 := o1, counts := [], landed := [], landedBad := [], luts := [], staging := false
    drainable := [], drained := 0 }
  let s := publish n c j 0 (o0.getD (2 ^ 64 - 1)) s
  if c.d.twoBufs then publish n c j 1 (o1.getD (2 ^ 64 - 1)) s else s

/-- Admits a loaded chain where its arrays are free; it waits in its ring otherwise. -/
def admitChain (n : Nat) (c : ChainRun) (s : State) : State :=
  let l := (freeArrays n c s).take c.d.arrays
  if l.length < c.d.arrays then (setChain n c s).onRing n fun q => { q with state := .waiting }
  else
    let c := { c with admitted := true, arrays := l, committed := c.first }
    let s := (setChain n c s).onRing n fun q => { q with state := .running, startTicks := s.hTicks }
    (List.range c.d.arrays).foldl (fun s j => takeArray n c j (nth 0 l j) s) s

/-- The chain gives back what it holds. -/
def releaseChain (n : Nat) (c : ChainRun) (s : State) : State :=
  c.arrays.foldl (fun s a =>
    (endGrant a n s).onArray a fun x => { ctr := x.ctr }) s

/-! ### Commits (R115, R247) -/

/-- How the writes of a commit end: elements of C written, and the fault of the first that failed or the writes that wait. -/
inductive CEnd where
  | done (n : Nat)
  | fault (n : Nat) (f : Flt)
  | wait (n : Nat) (rest : List CWrite)

/-- Who performs a write of a commit: the array that ran the output's tile, and for a row's statistics that of the row's last tile
(R223). -/
def writeWho (n : Nat) (c : ChainRun) (t : TDesc) (x : CWrite) : Who :=
  let at_ (d : TDesc) (i : List Nat) (r : Nat) : Nat := nth 0 i r + (tdim d r).padLo
  let tile (i : List Nat) : Nat := at_ t i 1 / tileRows c * gridCols c + at_ t i 0 / tileCols c
  chainWho n (tileArray c (match x with
    | .data i _ => tile i
    | .scale i _ => tile i
    | .stat i _ => at_ (c.stats.getD {}) i 1 / tileRows c * gridCols c + (gridCols c - 1)))

/-- Writes in order up to the first that faults or has to wait. -/
def runWrites (w : CWrite → Who) (c : TDesc) (st : TDesc) : List CWrite → Nat → State → CEnd × State
  | [], n, s => (.done n, s)
  | x :: xs, n, s =>
    let (r, s1, k, role, srole) := match x with
      | .data i v => let (r, s) := writeRaw (w x) c i v s; (r, s, 1, 3, 8)
      | .scale i v => let (r, s) := writeScale (w x) c i v s; (r, s, 0, 3, 8)
      | .stat i v => let (r, s) := writeRaw (w x) st i v s; (r, s, 0, 4, 4)
    match r with
    | .done => runWrites w c st xs (n + k) s1
    | .fault stt sc rs e a => (.fault n ⟨stt, if sc then srole else role, rs, e, a⟩, s1)
    | .wait => (.wait n (x :: xs), keepAsked s s1)

/-- Data writes of a tile's outputs with their bits, in row-major order, clipped to C's own extent (R128). -/
def plainWrites (t : TDesc) (outs : List ((Nat × Nat) × Nat)) : List CWrite :=
  outs.filterMap fun o => (ownIdx t o.1.1 o.1.2).map fun i => .data i o.2

/-- Data and scale writes of a tile that ends with QUANT (R92): each block's scale goes out before its first
element. -/
def quantWrites (c : ChainRun) (t : TDesc) (outs : List ((Nat × Nat) × Num)) : List CWrite :=
  let own := outs.filterMap fun o => (ownIdx t o.1.1 o.1.2).map fun i => (i, o.2)
  let blockOf (k : Nat) := own.filter fun o => scaleLin t o.1 == k
  (own.foldl (fun (acc : List CWrite × List Nat) o =>
    let k := scaleLin t o.1
    let blk := blockOf k
    let seed := finalSeed c.d % 2 ^ 64
    let q := quantBlock t.fmt t.scaleFmt (chainRm c.d) (blk.map fun b => srDraw seed (linear (ownExts t) b.1)) (blk.map (·.2))
    let at_ := (blk.findIdx? fun b => b.1 == o.1).getD 0
    let sc := if acc.2.contains k then [] else [CWrite.scale o.1 q.1]
    (acc.1 ++ sc ++ [.data o.1 (nth 0 q.2 at_)], if acc.2.contains k then acc.2 else k :: acc.2)) ([], [])).1

/-- The write of a row's statistic k, rounded to FP32 (R101). -/
def statPut (c : ChainRun) (row k : Nat) (v : Num) : List CWrite :=
  match c.stats with
  | some t => match ownIdx t row k with
    | some i => [.stat i (encodeNum .fp32 (toFp32 v))]
    | none => []
  | none => []

/-- The statistics of a finished row that the chain selects (R101, R105); scale is the ROWQUANT scale's value. A completion
chain's SMSUM goes out before its rows (R106). -/
def statWrites (c : ChainRun) (row : Nat) (st : RowStat) (scale : Option Num) : List CWrite :=
  (if rowMax c.d || (c.d.split && c.d.product && rowSoftmax c.d) then statPut c row 0 (st.max.getD .nan) else [])
    ++ (if rowSum c.d then statPut c row 1 (esaNum st.sum) else [])
    ++ (if rowSumsq c.d then statPut c row 2 (esaNum st.sumsq) else [])
    ++ (if rowSoftmax c.d && !c.d.split then statPut c row 3 (esaNum st.smsum) else [])
    ++ (match scale with | some v => statPut c row 4 v | none => [])

/-- Tiles of the strip (tile row) of a tile. -/
def stripOf (c : ChainRun) (t : Nat) : List Nat := span (t / gridCols c * gridCols c) (gridCols c)

/-- The chain is a completion chain (R106). -/
def completes (c : ChainRun) : Bool := c.d.split && !c.d.product

/-- The drained values that are still needed once the tiles in commit are written: a completion chain keeps a strip's values
until its last tile. -/
def readyAfter (c : ChainRun) : Sparse (List Num) :=
  let gone := if completes c then (if (c.committed + 1) % gridCols c = 0 then stripOf c c.committed else [])
    else span c.committed c.todoTiles
  c.ready.filter fun p => !gone.contains p.1

/-- Whole tiles of a band that k of its elements fill. -/
def wholeTiles (t : TDesc) (c : ChainRun) (k : Nat) : Nat :=
  ((span c.committed c.todoTiles).foldl (fun (acc : Nat × Nat × Bool) x =>
    let m := ((tileOutputs c x).filter fun o => (ownIdx t o.1 o.2).isSome).length
    if acc.2.2 && acc.2.1 + m ≤ k then (acc.1 + 1, acc.2.1 + m, true) else (acc.1, acc.2.1, false)) (0, 0, true)).1

/-- The chain after a run of its commit's writes: committed, stopped at the tile whose store faulted (R247), or with the writes
that still wait. -/
def settleCommit (n : Nat) (t : TDesc) (c : ChainRun) (r : CEnd × State) : State :=
  match r with
  | (.done k, s) => setChain n { c with
      ready := readyAfter c, committed := c.committed + c.todoTiles, bytes := c.bytes + k * tbits t, todo := [], todoTiles := 0, todoDone := 0 } s
  | (.wait k rest, s) => setChain n { c with bytes := c.bytes + k * tbits t, todo := rest, todoDone := c.todoDone + k } s
  | (.fault k f, s) =>
    let whole := if usesHold c.d then wholeTiles t c (c.todoDone + k) else 0
    let c := { c with committed := c.committed + whole, bytes := c.bytes + k * tbits t, todo := [], todoTiles := 0, todoDone := 0 }
    stopChain n (fltRes f) c.committed (setChain n c s)

/-- Writes what the commit in progress still has to write (R115). -/
def runCommit (n : Nat) (t : TDesc) (c : ChainRun) (s : State) : State :=
  settleCommit n t c (runWrites (writeWho n c t) t (c.stats.getD {}) c.todo 0 s)

/-- Begins the commit of tiles with its writes. -/
def beginCommit (n : Nat) (t : TDesc) (c : ChainRun) (tiles : Nat) (writes : List CWrite) (s : State) : State :=
  runCommit n t { c with todo := writes, todoTiles := tiles, todoDone := 0 } s

/-! ### Division in W, scales by value (R104, R106) -/

/-- Quotient in W by round-to-odd. -/
def divW (a b : Num) : Num :=
  match a, b with
  | .nan, _ => .nan
  | _, .nan => .nan
  | .inf _, .inf _ => .nan
  | .inf x, .fin y _ _ => .inf (x != y)
  | .fin x _ _, .inf y => numZero (x != y)
  | .fin x m e, .fin y k g =>
    if k = 0 then (if m = 0 then .nan else .inf (x != y))
    else if m = 0 then numZero (x != y) else roundOdd (divFin x m e y k g)

/-- e^(y - m) in W (R104). -/
def softExp (y m : Num) : Num := epiFunc 0x0C (wOf (addNum .rne y (negNum m)))

/-- A row scale's byte from its value. -/
def scaleByte (sf : ScaleFmt) (v : Num) : Nat :=
  match sf, v with
  | .e8m0, .fin _ m e => ((topBit m : Int) + e + 127).toNat
  | .e8m0, _ => 255
  | _, v => encodeNum .e4m3 v

/-- An output of ROWQUANT: y divided by the row's scale (R46, R104); a row of zeros holds +0. -/
def rowQuantBits (c : ChainRun) (t : TDesc) (sc : Nat) (zeroRow : Bool) (index : Nat) (y : Num) : Nat :=
  if zeroRow then 0
  else quantElem t.fmt ((scaleOfCode c.d.rowScale).getD .none) sc (chainRm c.d) (srDraw (finalSeed c.d % 2 ^ 64) index) y

def isZero : Num → Bool
  | .fin _ 0 _ => true
  | _ => false

/-! ### Partials (R112-R114) -/

/-- Rows and columns of a tile of exact partials: that of the product without a hold, 64 × 64 or 16 × 16 (R113, R262). -/
def partRows (c : ChainRun) : Nat := tileRows { c with d := { c.d with holdRows := 0 } }
/-- Outputs of a chunk. -/
def chunkOutputs (c : ChainRun) : Nat := if partRows c * tileCols c = 256 then 8 else 64
/-- Chunks of a tile (R262). -/
def chunksPerTile (c : ChainRun) : Nat := partRows c * tileCols c / chunkOutputs c
/-- Row and first column of the outputs of a sender's chunk k. -/
def chunkPlace (c : ChainRun) (k : Nat) : Nat × Nat :=
  let t := k / chunksPerTile c
  let o := k % chunksPerTile c * chunkOutputs c
  (t / gridCols c * partRows c + o / tileCols c, t % gridCols c * tileCols c + o % tileCols c)

/-- The outputs of a tile as accumulators at every position of the full tile in row-major order, those past the tensor's edge
empty. -/
def fullTile (c : ChainRun) (t : Nat) (accs : List Lacc) : List Lacc :=
  let nr := (rowsOf c t).length
  let nc := (colsOf c t).length
  (List.range (partRows c)).flatMap fun r => (List.range (tileCols c)).map fun x =>
    if decide (r < nr) && decide (x < nc) then nth {} accs (r * nc + x) else {}

/-- The sparse record of an accumulator (R113). -/
def recordOf (n : Nat) (a : Lacc) : List Byte :=
  let bin (j : Nat) : Nat :=
    if j + 1 < n then (a.sum / (2 ^ (32 * j) : Nat) % (2 ^ 32 : Nat)).toNat else ofSigned 48 (a.sum / (2 ^ (32 * j) : Nat))
  let bins := (List.range n).filter fun j => bin j != 0
  toBytes 2 a.status ++ toBytes 2 bins.length ++ bins.flatMap fun j => toBytes 2 j ++ toBytes 6 (bin j)

/-- The entries of a record: each bin index below n and above the last, each digit below 2^32. -/
def recordBins (n : Nat) : Nat → List Byte → Option Nat → Int → Option (Int × List Byte)
  | 0, b, _, x => some (x, b)
  | k + 1, b, last, x =>
    let j := descWord b 0 2
    let v := descWord b 2 6
    let rises := match last with | some l => decide (l < j) | none => true
    if b.length < 8 || !rises || decide (j ≥ n) || (j + 1 < n && decide (v ≥ 2 ^ 32)) then none
    else
      let d : Int := if j + 1 < n then (v : Int) else toSigned 48 v
      recordBins n k (b.drop 8) (some j) (x + d * (2 ^ (32 * j) : Nat))

/-- The records of a chunk, or none where one breaks R113. -/
def parseChunk (n : Nat) : Nat → List Byte → Option (List Lacc)
  | 0, _ => some []
  | k + 1, b =>
    let st := descWord b 0 2
    if b.length < 4 || decide (st ≥ 64) || decide (descWord b 2 2 > n) then none
    else match recordBins n (descWord b 2 2) (b.drop 4) none 0 with
      | none => none
      | some (x, rest) => (parseChunk n k rest).map fun l => { sum := x, status := st } :: l

/-- Merging of accumulators (R64). -/
def mergeLacc (a b : Lacc) : Lacc := { a with sum := a.sum + b.sum, status := a.status ||| b.status }

/-- Number of the last chunk of a sender that holds an output of tile t. -/
def lastChunk (c : ChainRun) (t : Nat) : Nat :=
  let row := t / gridCols c * tileRows c + tileRows c - 1
  let at_ := row % partRows c * tileCols c + tileCols c - 1
  (row / partRows c * gridCols c + t % gridCols c) * chunksPerTile c + at_ / chunkOutputs c

/-- Every sender's partials of a tile have arrived (R112). -/
def partialsIn (c : ChainRun) (t : Nat) : Bool :=
  c.d.partialMode != 2 ||
    match c.plan with
    | some p => decide (p.senders ≤ (c.rxChunks.filter fun x => decide (lastChunk c t < x.2)).length)
    | none => true

/-- Levels of the tree at which a position receives (R114). -/
def treeLevels (count pos : Nat) : List Nat :=
  (List.range 14).filter fun l => pos % 2 ^ (l + 1) == 0 && decide (pos + 2 ^ l < count)

/-- The values that a tile of a W tree needs from other participants have come (R114). -/
def treeIn (s : State) (c : ChainRun) (t : Nat) : Bool :=
  c.d.partialMode != 3 ||
    match c.plan with
    | some p => (treeLevels p.nodes.length (planPos s p)).all fun l => (tfind c.tree (t * 16 + l)).isSome
    | none => true

/-- The level at which a position other than the root sends. -/
def sendLevel (pos : Nat) : Nat := ((List.range 14).find? fun l => pos % 2 ^ (l + 1) == 2 ^ l).getD 0

/-- The tile's values with the received ones of each level added in W, or none where one has not come (R114). -/
def treeSum (c : ChainRun) (p : Plan) (pos t : Nat) (own : List Num) : Option (List Num) :=
  (treeLevels p.nodes.length pos).foldl (fun acc l =>
    match acc, tfind c.tree (t * 16 + l) with
    | some ys, some vs => some ((ys.zip vs).map fun x => wOf (addNum .rne x.1 x.2))
    | _, _ => none) (some own)

/-- Sends the packets of one chunk to a participant as an ordered flow of deliveries; false where the fabric takes
no more now. -/
def sendChunk (n node off : Nat) (bytes : List Byte) (s : State) : Issue × State :=
  let ps := packetPieces off bytes.length
  if unacked s node + ps.length > 1024 then (.full, s)
  else ps.foldl (fun (acc : Issue × State) p =>
    match acc.1 with
    | .sent => originate { peer := node, seq := 0, kind := .deliver, ordered := true, offset := p.1, length := p.2,
                           data := (bytes.drop (p.1 - off)).take p.2, owner := .ring n, op := s.fab.nextOp + 1, xlt := false } acc.2
    | r => (r, acc.2)) (.sent, s)

/-- Sends the chunks of the tile in commit from number sentChunks on (R113, R114): the tile is committed with its
last chunk. A participant that cannot be reached ends the chain with FABRIC_TIMEOUT (R282). -/
def sendTile (n : Nat) (c : ChainRun) (node off : Nat) (chunks : List (List Byte)) (s : State) : State :=
  let step (acc : ChainRun × State × Bool) (b : List Byte) : ChainRun × State × Bool :=
    let (c, s, go) := acc
    if !go then acc
    else match sendChunk n node off b s with
      | (.sent, s) => ({ c with sentChunks := c.sentChunks + 1 }, s, true)
      | (.noRoute, s) => ({ c with stop := some { status := 0x51, progress := c.committed } }, s, false)
      | (_, s) => (c, s, false)
  let (c, s, go) := (chunks.drop c.sentChunks).foldl step (c, s, true)
  if go then setChain n { c with committed := c.committed + 1, sentChunks := 0 } s else setChain n c s

end Sys2Proof.Machine
end

