-- ==== Sys2Proof/Machine/EngineOps.lean ====
section
/-! DEFINITION. What the engine instructions share (chapter 06): the instruction word and its legality (R169, R170,
R174), registers (R170), paths and rotation (R153, R154), issue (R146) and the stop of a program (R166). -/

namespace Sys2Proof.Machine

/-! ### The instruction word (Table 10) -/

def wOp (w : Nat) : Nat := bits w 56 8
def wTy (w : Nat) : Nat := bits w 52 4
def wRd (w : Nat) : Nat := bits w 44 8
def wRa (w : Nat) : Nat := bits w 36 8
def wRb (w : Nat) : Nat := bits w 28 8
def wRc (w : Nat) : Nat := bits w 20 8
def wI (w : Nat) : Bool := bit w 19
def wRm (w : Nat) : Nat := bits w 16 3
def wOv (w : Nat) : Nat := bits w 14 2
def wSc (w : Nat) : Nat := bits w 12 2
def wOrd (w : Nat) : Nat := bits w 10 2
def wAux (w : Nat) : Nat := bits w 0 8
/-- IMM: RB holds bits [7:0], RC bits [15:8]. -/
def wImm (w : Nat) : Nat := wRb w + 256 * wRc w
/-- Space of a memory instruction and format of a conversion, both in AUX. -/
def wSpace (w : Nat) : Nat := bits w 6 2
def wFmt (w : Nat) : Nat := bits w 0 5

/-- Registers, width and format of a type code (Table 11). -/
def tyRegs (ty : Nat) : Nat := nth 0 [1, 1, 2, 2, 1, 1, 2, 3, 1, 1, 1, 1, 1] ty
def tyBits (ty : Nat) : Nat := nth 0 [32, 32, 64, 64, 16, 32, 64, 80, 8, 8, 16, 16, 16] ty
def tyFmt : Nat → Option Fmt
  | 4 => some .fp16 | 5 => some .fp32 | 6 => some .fp64 | 7 => some .w | 0xC => some .bf16 | _ => none
def tySigned (ty : Nat) : Bool := ty == 1 || ty == 3 || ty == 9 || ty == 11

/-- Registers of a value of a stored format code (Table 12, CVT). -/
def fmtRegs (code : Nat) : Nat := if code = 0 then 2 else 1

/-- What an instruction uses: the types listed for it; the registers of each operand, 0 where it has none; whether
IMM is never (0), may be (1) or must be (2) its second source; whether RM and OV and whether SC and ORD are its
fields; whether its AUX and RB code are defined; its slots (Tables 3 and 12). -/
structure Form where
  tys : List Nat
  rd : Nat := 0
  ra : Nat := 0
  rb : Nat := 0
  rc : Nat := 0
  imm : Nat := 0
  rm : Bool := false
  ov : Bool := false
  mem : Bool := false
  ok : Bool := true
  slots : Nat := 1

def intTys : List Nat := [0, 1, 2, 3]
def notW : List Nat := [0, 1, 2, 3, 4, 5, 6, 8, 9, 10, 11, 12]

/-- The combination of an atomic's kind and type is in Table 6: a compare-and-swap takes every 32-bit and 64-bit type. -/
def atomTyOk (kind ty : Nat) : Bool :=
  if kind ≤ 6 then ty ≤ 3 else if kind = 7 then ty ≤ 3 || ty == 5 || ty == 6 else if kind ≤ 11 then ty == 5 || ty == 6 else false

/-- The form of a word's opcode (Table 12), none for the reserved ones. -/
def formOf (w : Nat) : Option Form :=
  let ty := wTy w
  let n := tyRegs ty
  let aux := wAux w
  let a0 := aux == 0
  let sp := decide (wSpace w ≤ 2)
  let fp := if ty = 6 then 2 else 1
  let fmtOk := decide (aux ≤ 8)
  let bin (tys : List Nat) : Form := { tys := tys, rd := n, ra := n, rb := n, imm := 1, ok := a0 }
  let float (slots : Nat) : Form := { bin [4, 5, 6] with rm := true, slots := slots }
  let xcn (rb : Nat) : Form := { tys := [5, 6], rd := n, ra := n, rb := rb, imm := if rb = 0 then 0 else 1, rm := true, ok := a0, slots := 4 }
  let compare : Form := { float fp with rm := false }
  let wide (slots : Nat) : Form := { bin [7] with slots := slots }
  match wOp w with
  | 0x00 => some { tys := [0], ok := a0 }
  | 0x01 => some (bin intTys)
  | 0x02 => some (bin intTys)
  | 0x03 => some (bin intTys)
  | 0x04 => some (bin intTys)
  | 0x05 => some (bin [0, 2])
  | 0x06 => some (bin [0, 2])
  | 0x07 => some (bin [0, 2])
  | 0x08 => some (bin [0, 2])
  | 0x09 => some (bin intTys)
  | 0x0A => some { bin intTys with rd := 1, ok := decide (aux ≤ 3) }
  | 0x0B => some { tys := notW, rd := n, ra := 1, rb := n, rc := n, ok := a0 }
  | 0x0C => some { tys := notW ++ [7], rd := n, ra := if wI w then 0 else n, imm := 1, ok := a0 }
  | 0x0D => some { tys := [0], rd := 1, ok := decide (aux ≤ 11) }
  | 0x0E => some { tys := [2], rd := 2, ok := a0 }
  | 0x10 => some { tys := [0], imm := 2, ok := a0 }
  | 0x11 => some { tys := [0], ra := 1, imm := 2, ok := a0 }
  | 0x12 => some { tys := [0], ra := 1, imm := 2, ok := a0 }
  | 0x13 => some { tys := [0], ra := 2, ok := a0 }
  | 0x14 => some { tys := [0], ok := a0 }
  | 0x15 => some { tys := [0], imm := 2, ok := a0 }
  | 0x16 => some { tys := [0], ok := a0 }
  | 0x17 => some { tys := [7], rd := 3, ra := 3, ok := a0 }
  | 0x20 => some (float fp)
  | 0x21 => some (float fp)
  | 0x22 => some (float fp)
  | 0x23 => some { tys := [4, 5, 6], rd := n, ra := n, rb := n, rc := n, rm := true, slots := fp,
                   ok := if wRm w = 4 then aux % 2 == 0 else a0 }
  | 0x24 => some compare
  | 0x25 => some compare
  | 0x26 => some { compare with rd := 1, ok := decide (aux ≤ 3) }
  | 0x30 => some (xcn n)
  | 0x31 => some (xcn 0)
  | 0x32 => some (xcn 0)
  | 0x33 => some (xcn 0)
  | 0x34 => some (xcn 0)
  | 0x35 => some (xcn 0)
  | 0x36 => some (xcn 0)
  | 0x37 => some (xcn 0)
  | 0x38 => some { tys := [0], rd := fmtRegs (wRb w), ra := fmtRegs aux, rm := true, ov := true, slots := 2,
                   ok := fmtOk && decide (wRb w ≤ 8) }
  | 0x40 => some (wide 4)
  | 0x41 => some (wide 4)
  | 0x42 => some { tys := [7], rd := 3, ra := 3, rb := 3, rc := 3, ok := a0, slots := 4 }
  | 0x43 => some (wide 2)
  | 0x44 => some (wide 2)
  | 0x45 => some { wide 2 with rd := 1, ok := decide (aux ≤ 3) }
  | 0x46 => some { tys := [7], rd := 3, ra := 3, rb := 3, rc := 3, ok := a0, slots := 2 }
  | 0x47 => some { tys := [7], rd := 3, ra := fmtRegs aux, ok := fmtOk, slots := 2 }
  | 0x48 => some { tys := [7], rd := fmtRegs aux, ra := 3, rm := true, ov := true, ok := fmtOk, slots := 2 }
  | 0x49 => some { tys := [7], rd := 3, ra := 3, rm := true, ov := true, ok := fmtOk, slots := 2 }
  | 0x50 => some { tys := notW, rd := n, ra := if wSpace w = 0 then 2 else 1, imm := 1, mem := true, ok := sp && aux % 64 == 0 }
  | 0x51 => some { tys := notW, rd := n, ra := if wSpace w = 0 then 2 else 1, imm := 1, mem := true, ok := sp && aux % 64 == 0 }
  | 0x52 => some { tys := [0, 1, 2, 3, 5, 6], rd := if aux % 16 = 11 then 0 else n, ra := if wSpace w = 0 then 2 else 1,
                   rb := n, rc := if aux % 16 = 7 then n else 0, imm := if aux % 16 = 7 then 0 else 1, mem := true,
                   ok := sp && bits aux 4 2 == 0 && atomTyOk (aux % 16) ty }
  | 0x53 => some { tys := [5, 6], rd := fmtRegs (wFmt w), ra := 2, rm := true, ov := true,
                   ok := bits aux 5 2 == 0 && decide (wFmt w ≤ 8) }
  | 0x54 => some { tys := [0], ra := 2, rb := 1, rc := 1, ok := (wSpace w == 1 || wSpace w == 2) && !bit aux 5 }
  | 0x55 => some { tys := [0], ra := 2, rb := 1, rc := 16, ok := (wSpace w == 1 || wSpace w == 2) && !bit aux 5 }
  | 0x56 => some { tys := [0], ra := 2, rb := 1, rc := 16, ok := (wSpace w == 1 || wSpace w == 2) && aux % 64 == 0 }
  | 0x57 => some { tys := [0], rd := 1, ok := decide (aux < 32) }
  | 0x58 => some { tys := [0], ra := 1, ok := decide (aux < 32) }
  | 0x59 => some { tys := [0], ra := 1, ok := decide (aux < 32) }
  | 0x5A => some { tys := [0], mem := true, ok := a0 && wOrd w == 3 }
  | _ => none

/-- Destination format code of a conversion. -/
def destFmt (w : Nat) : Nat := if wOp w = 0x38 then wRb w else wFmt w

/-- A register operand of n registers is legal: an unused field is 0, a used one lies below REGS, at most 256, and is
aligned. -/
def regOk (regs n r : Nat) : Bool :=
  if n = 0 then r == 0
  else decide (r + n ≤ min regs 256) && (n != 2 || r % 2 == 0) && (n != 3 || r % 3 == 0)

/-- An instruction of a form is legal for a program of REGS registers (R169, R174). -/
def formLegal (f : Form) (w regs : Nat) : Bool :=
  let sr := f.rm && wRm w == 4
  f.tys.contains (wTy w) && f.ok && bits w 8 2 == 0
    && (if f.rm then wRm w ≤ 4 else wRm w == 0)
    && (if f.ov then wOv w != 3 && !(wOv w == 2 && [6, 7, 8].contains (destFmt w)) else wOv w == 0)
    && (f.mem || (wOrd w == 0 && wSc w == 0))
    && (if wI w then f.imm != 0 else f.imm != 2) && !(sr && wI w)
    && regOk regs f.rd (wRd w) && regOk regs f.ra (wRa w)
    && (wI w || ((wOp w == 0x38 || regOk regs f.rb (wRb w)) && regOk regs (if sr && f.rc == 0 then 2 else f.rc) (wRc w)))
    && (!(sr && wOp w == 0x23) || regOk regs 2 (wAux w))

def legal (w regs : Nat) : Bool := match formOf w with | some f => formLegal f w regs | none => false

/-! ### Registers of a lane -/

/-- n registers of a lane from r, the first lowest. -/
def regRead (g : Group) (lane r : Nat) : Nat → Nat
  | 0 => 0
  | n + 1 => (tget 0 g.regs (lane * 256 + r)).toNat + 2 ^ 32 * regRead g lane (r + 1) n

/-- Writes n registers of a lane. -/
def regWrite (lane r : Nat) : Nat → Nat → Group → Group
  | 0, _, g => g
  | n + 1, v, g => regWrite lane (r + 1) n (v / 2 ^ 32) { g with regs := tput 0 g.regs (lane * 256 + r) (BitVec.ofNat 32 v) }

/-- An operand of a type. -/
def tyRead (g : Group) (lane ty r : Nat) : Nat := regRead g lane r (tyRegs ty) % 2 ^ tyBits ty

/-- Writes a result of a type: s8 and s16 sign-extended, the others zero-extended (R170). -/
def tyWrite (lane ty r v : Nat) (g : Group) : Group :=
  let x := if ty = 9 ∨ ty = 11 then ofSigned 32 (toSigned (tyBits ty) v) else v % 2 ^ tyBits ty
  regWrite lane r (tyRegs ty) x g

/-- The second source's immediate as a value of a type (R170). An FP16 value that BF16 cannot hold has no exact
conversion: the value is free (log entry 1). -/
def immValue (ty imm : Nat) : Nat :=
  match tyFmt ty with
  | some f =>
    let v := decodeNum .fp16 imm
    let r := convertNum f .rne .ieee 0 v
    if f == .bf16 && r != .nan && !numEq r v then (Config.xcn 0x0C 0xC (BitVec.ofNat 64 imm) 0).toNat % 2 ^ 16 else encodeNum f r
  | none => ofSigned (tyBits ty) (toSigned 16 imm)

/-- The second source of a lane. -/
def second (g : Group) (lane w : Nat) : Nat := if wI w then immValue (wTy w) (wImm w) else tyRead g lane (wTy w) (wRb w)

/-! ### Lanes and paths -/

/-- Active lanes of a set, rising. -/
def lanesOf (l : BitVec 32) : List Nat := (List.range 32).filter fun i => bit l.toNat i
def laneSet (l : List Nat) : BitVec 32 := l.foldl (fun a i => a ||| BitVec.ofNat 32 (2 ^ i)) 0
def lowest (p : Path) : Nat := (lanesOf p.lanes).headD 0

/-- The ring of paths after the group leaves its current path where it must: it moves to the next path that meets
a condition, and counts the move (R153, R154). -/
def movePath (ok : Path → Bool) (away : Bool) (ps : List Path) : List Path × Nat :=
  match ps with
  | [] => ([], 0)
  | p :: t =>
    if ok p && !away then (ps, 0)
    else match t.findIdx? ok with
      | some i => (t.drop i ++ [p] ++ t.take i, 1)
      | none => (ps, 0)

def isReady (p : Path) : Bool := p.st == .ready

/-- Paths that all wait at one JOIN merge and go on after it (R153). -/
def tryJoin (ps : List Path) : List Path :=
  match ps with
  | [] => []
  | p :: t =>
    if p.st == .join && t.all (fun q => q.st == .join && q.pc == p.pc) then
      [{ pc := (p.pc + 8) % 2 ^ 64, lanes := ps.foldl (fun a q => a ||| q.lanes) 0 }]
    else ps

/-! ### Programs -/

def programOf (s : State) (n : Nat) : Option ProgramRun :=
  match (s.ring n).op with
  | some (.program p) => some p
  | _ => none

def setProgram (n : Nat) (p : ProgramRun) (s : State) : State := s.onRing n fun q => { q with op := some (.program p) }

/-- The program of a ring stops with a result; an earlier stop stands (R166, R174). -/
def stopProgram (n : Nat) (r : Res) (s : State) : State :=
  match programOf s n with
  | some p => if p.stop.isNone then setProgram n { p with stop := some r } s else s
  | none => s

/-- An instruction about to issue: its engine and slot, its group with the current path first, and its word. -/
structure Cur where
  e : Nat
  slot : Nat
  g : Group
  path : Path
  rest : List Path
  prog : ProgramRun
  w : Nat

/-- The owner of a lane's accesses. -/
def laneOwner (e slot lane : Nat) : Owner := .engine e (slot * 32 + lane)

/-- The faulting element of a lane (R166). -/
def elementOf (c : Cur) (lane : Nat) : Nat := c.g.index * 32 + lane

/-- Slots that an instruction word takes. -/
def wSlots (w : Nat) : Nat := match formOf w with | some f => f.slots | none => 1

/-- Pipe of an instruction word (Table 3): 0 FMA0 and FMA1, 1 FP64, 2 INT, 3 CVT, 4 XCN, 5 LSU, 6 WIDE. -/
def wPipe (w : Nat) : Nat :=
  let op := wOp w
  if op ≤ 0x17 then 2 else if op < 0x30 then (if wTy w = 6 then 1 else 0) else if op < 0x38 then 4
  else if op = 0x38 then 3 else if op < 0x50 then 6 else 5

/-- Register words by lane × 256 + register: n of them from r on, in a path's lanes. -/
def regWords (p : Path) (r n : Nat) : List Nat := (lanesOf p.lanes).flatMap fun i => span (i * 256 + r) n

/-- Register words that an instruction writes. -/
def destRegs (p : Path) (w : Nat) : List Nat :=
  match formOf w with
  | some f => regWords p (wRd w) f.rd
  | none => []

/-- Register words that an instruction reads. -/
def srcRegs (p : Path) (w : Nat) : List Nat :=
  match formOf w with
  | some f => regWords p (wRa w) f.ra ++ (if wI w then [] else regWords p (wRb w) f.rb ++ regWords p (wRc w) f.rc)
  | none => []

/-- An instruction reads a register word that is marked poisoned (R191). -/
def readsBad (g : Group) (p : Path) (w : Nat) : Bool := !g.badRegs.isEmpty && (srcRegs p w).any g.badRegs.contains

/-- An instruction has issued: its slots are counted, and the engine's rotation moves to its group (R146, R147, R167). -/
def countSlots (c : Cur) (s : State) : State :=
  s.onEngine c.e fun x => { x with
    last := some ⟨c.slot, c.path.lanes, wSlots c.w, wPipe c.w, destRegs c.path c.w⟩
    streak := if (x.last.map (·.slot)) = some c.slot then x.streak + 1 else 1
    ctr := { x.ctr with slots := advance x.ctr.slots (wSlots c.w) } }

/-- The program stops at an access of a lane (role 11); the instruction has issued. -/
def stopLane (c : Cur) (lane status reason addr : Nat) (s : State) : State :=
  countSlots c <| stopProgram c.g.ring { status := status, role := 11, reason := reason, element := elementOf c lane, address := addr } s

/-- The program stops at its instruction (role 12, R168, R174). -/
def stopFetch (ring index : Nat) (p : Path) (status reason : Nat) (s : State) : State :=
  stopProgram ring { status := status, role := 12, reason := reason, element := index * 32 + lowest p, address := p.pc } s

def setSlot (e slot : Nat) (g : Group) (s : State) : State := s.onEngine e fun x => { x with slots := tins x.slots slot g }

/-- A group with its paths after an issue: a group with none left is finished, and its slot and registers are
free (R143, R153). -/
def putGroup (e slot : Nat) (g : Group) (s : State) : State :=
  if g.paths.isEmpty then
    let s := s.onEngine e fun x => { x with slots := tdel x.slots slot }
    match programOf s g.ring with
    | some p => setProgram g.ring { p with live := without p.live g.index, finished := p.finished + 1 } s
    | none => s
  else setSlot e slot g s

/-- Ends an issue: the parts replace the current path, and the group rotates where it must (R154). Where no part is left the next
path is the current one and starts its own count of issues. DESIGN CHOICE: that is no move that ROTATIONS counts (log entry 101). -/
def endIssue (c : Cur) (g : Group) (parts : List Path) (rotate : Bool) (s : State) : State :=
  let ring := tryJoin ((parts ++ c.rest).filter fun p => p.lanes != 0)
  let away := rotate || decide (g.issues + 1 ≥ 64)
  let (ring, moved) := movePath isReady away ring
  let gone := parts.all fun p => p.lanes == 0
  let g := { g with paths := ring, issues := if away || gone || moved = 1 then 0 else g.issues + 1 }
  let s := (countSlots c s).onEngine c.e fun x => { x with ctr := { x.ctr with rotations := advance x.ctr.rotations moved } }
  putGroup c.e c.slot g s

/-- The path goes on after its instruction. -/
def goOn (c : Cur) (n : Nat) : Path := { c.path with pc := (c.path.pc + n) % 2 ^ 64, st := .ready, tstore := none }

/-- Ends an instruction that only writes registers. -/
def endPlain (c : Cur) (g : Group) (s : State) : State := endIssue c g [goOn c 8] false s

/-- The path blocks until an answer comes or there is room, and the group moves on (R153). -/
def blockPath (c : Cur) (s : State) : State :=
  let (ring, moved) := movePath isReady false ({ c.path with st := .asked } :: c.rest)
  let s := s.onEngine c.e fun x => { x with ctr := { x.ctr with rotations := advance x.ctr.rotations moved } }
  setSlot c.e c.slot { c.g with paths := ring, issues := if moved = 1 then 0 else c.g.issues } s

/-- Paths of an engine that wait for an answer or for room try again. -/
def wakeEngine (e : Nat) (s : State) : State :=
  if s.engines.any (fun x => x.1 == e) then
    s.onEngine e fun x => { x with
      slots := x.slots.map fun p => (p.1, { p.2 with paths := p.2.paths.map fun q => if q.st == .asked then { q with st := .ready } else q }) }
  else s

/-- Every engine's blocked paths try again. -/
def wakeEngines (s : State) : State := s.engines.foldl (fun s x => wakeEngine x.1 s) s

/-- How the engine keeps what it reads: in its L1, but for a cache whose ways are all granted (R144). -/
def engineKeep (s : State) (e : Nat) : Keep := if grantSum (s.engine e) (·.ways) ≥ 16 then .once else .cache

/-! ### Turns (R147-R150, R167) -/

/-- A group is ready: it has a runnable path and does not sleep. -/
def groupReady (g : Group) : Bool := g.sleeping == 0 && g.paths.any isReady

/-- The program of a group has not stopped. -/
def groupRuns (s : State) (g : Group) : Bool := match programOf s g.ring with | some p => p.stop.isNone | none => false

/-- The slots of an engine's other groups that are ready. -/
def otherReady (s : State) (e slot : Nat) : List Nat :=
  ((s.engine e).slots.filter fun p => p.1 != slot && groupReady p.2 && groupRuns s p.2).map (·.1)

/-- It is a slot's turn to issue: no other group is ready, or the slot is the next ready one in rotation after the one that issued
last; in dual-issue mode that one may issue a second time (R147, R148). DESIGN CHOICE: the rotation goes by slot number (log entry
93). -/
def mayIssue (s : State) (e slot : Nat) : Bool :=
  let x := s.engine e
  match otherReady s e slot, x.last with
  | [], _ => true
  | _, none => true
  | l, some k =>
    if slot = k.slot then x.mode == 0 && decide (x.streak < 2)
    else l.all fun q => q == k.slot || decide ((slot + 128 - k.slot) % 128 < (q + 128 - k.slot) % 128)

/-- A group that issued last may go on before the other ready groups only with the second instruction of the same turn: of the same
path, in the turn's other slot, on another pipe, and reading nothing that the first one writes (R146, R147). -/
def maySecond (s : State) (e slot : Nat) (p : Path) (w : Nat) : Bool :=
  match otherReady s e slot, (s.engine e).last with
  | _ :: _, some k => k.slot != slot || (k.lanes == p.lanes && decide (k.slots + wSlots w ≤ 2)
      && (k.pipe != wPipe w || wPipe w == 0) && !(srcRegs p w).any k.writes.contains)
  | _, _ => true

/-- Groups that a chain keeps resident on its engines for its whole run (R118). -/
def chainGroups (e : Engine) : Nat := grantSum e fun g => if g.isChain then g.groups else 0

/-- Groups of an engine that are ready: those of its running programs, and a chain's while it has drained tiles that are not
committed (R147). DESIGN CHOICE: a chain's groups are then all ready (log entry 93). -/
def readyGroups (s : State) (x : Engine) : Nat :=
  let busy := x.grants.any fun g => g.isChain && (match chainOf s g.ring with | some c => !c.ready.isEmpty | none => false)
  (x.slots.filter fun p => groupReady p.2 && groupRuns s p.2).length + (if busy then chainGroups x else 0)

/-- A turn of an engine passes, with a beat of its array (R25, R142): what it counts of turns without a ready group and of turns in
round-robin mode (R148, R167). -/
def engineTurn (e : Nat) (s : State) : State :=
  let x := s.engine e
  let live := (x.slots.filter fun p => groupRuns s p.2).map (·.2)
  let idle := readyGroups s x == 0
  let waits := live.any fun g => g.paths.any fun p => match p.st with | .counter _ _ => true | _ => false
  s.onEngine e fun x => { x with
    cleanTurns := if x.mode = 3 then x.cleanTurns + 1 else x.cleanTurns
    ctr := { x.ctr with
      idle := if idle then advance x.ctr.idle 1 else x.ctr.idle
      waitTurns := if idle && waits then advance x.ctr.waitTurns 1 else x.ctr.waitTurns
      rrTurns := if x.mode = 0 then x.ctr.rrTurns else advance x.ctr.rrTurns 1 } }

/-- The instruction of a group's current path at its issue, if it is the command's: fetched (R168), checked (R174)
and run. The path is the first runnable one, else one whose wait may have ended. -/
def issue (op e slot : Nat) (run : Cur → State → State) (s : State) : State :=
  match tfind (s.engine e).slots slot with
  | none => s
  | some g =>
    match programOf s g.ring with
    | none => s
    | some prog =>
      let (ps, moved) := movePath isReady false g.paths
      let (ps, moved) := if ps.any isReady then (ps, moved) else movePath (fun p => p.st == .asked) false g.paths
      match ps with
      | [] => s
      | path :: rest =>
        if prog.stop.isSome || !mayIssue s e slot || decide (0 < g.sleeping) || !(path.st == .ready || path.st == .asked) then s
        else
          let g := { g with paths := ps, issues := if moved = 1 then 0 else g.issues }
          let count (s : State) := if moved = 0 then s else
            s.onEngine e fun x => { x with ctr := { x.ctr with rotations := advance x.ctr.rotations moved } }
          let c : Cur := ⟨e, slot, g, path, rest, prog, 0⟩
          match vaRead (engineKeep s e) e (laneOwner e slot (lowest path)) .fetch path.pc 8 s with
          | (.wait, s1) => blockPath c (count (keepAsked s s1))
          | (.fault st r a, s1) => stopProgram g.ring { status := st, role := 12, reason := r, element := g.index * 32 + lowest path, address := a } s1
          | (.data b, s1) =>
            let w := ofBytes (plain b)
            if anyPoison b then stopFetch g.ring g.index path 0x50 0 s1
            else if wOp w != op && !(op == 0 && (formOf w).isNone) || !maySecond s e slot path w then s
            else if !legal w prog.regs then stopFetch g.ring g.index path 0x31 0xF s1
            else if readsBad g path w then stopFetch g.ring g.index path 0x50 0 s1
            else
              let g := { g with badRegs := g.badRegs.filter fun r => !(destRegs path w).contains r }
              run { c with w := w, g := g } (count s1)

end Sys2Proof.Machine
end

