-- ==== Sys2Proof/Machine/Chains.lean ====
section
/-! DEFINITION. The commands of chains and matrix arrays (chapters 03 and 04). -/

namespace Sys2Proof.Machine

abbrev Out := Host.Outcome State Fault Refusal

/-! ### CHAIN -/

/-- Loads a chain and admits it (R83, R117). -/
def chainEffect (n : Nat) (d : List Byte) (s : State) : State :=
  runLoad s (loadChain n (descAddrOf d) s) fun c s => admitChain n c s

/-- CHAIN (R83): loads the chain descriptor of the ring's descriptor, checks it in the order of Table 10, and
admits the chain or makes it wait. -/
def execChain (ring : Nat) (s : State) : Out := .next (onDesc ring 0x01 (chainEffect ring) s)

/-! ### Beats -/

/-- Format and scale format of a chain's product. -/
def fmtOf (c : ChainRun) : Fmt × ScaleFmt := (chainFmt c).getD (.bf16, .none)

/-- A product beat of the pass that runs (R57, R59, R68). -/
def productBeat (c : ChainRun) (ar : Array) : Array :=
  let (f, sf) := fmtOf c
  let run := nth { tile := 0 } ar.tiles ar.turn
  let (accs, ev) := beatTile f sf (passDepth c ar.pass) ar run.accs
  { ar with
    tiles := setNth ar.tiles ar.turn { run with accs := accs }
    beat := ar.beat + 1
    stall := if ev then 2 else 0
    ctr := { ar.ctr with product := advance ar.ctr.product 1
                         range := if ev then advance ar.ctr.range 1 else ar.ctr.range } }

/-- A finished tile of array j waits for partials (R112): one in line to drain for those of an exact gather, a drained one for the
values of a W tree. -/
def waitsPartials (s : State) (c : ChainRun) (j : Nat) (ar : Array) : Bool :=
  ar.drainable.any (fun r => !partialsIn c r.tile)
    || (c.d.partialMode == 3 && c.ready.any fun x => arrayOf c x.1 == j && decide (x.1 < stopAt c) && !treeIn s c x.1)

/-- Beats in which a tile drains, 64 outputs each (R75). -/
def drainBeats (c : ChainRun) (t : Nat) : Nat := cdiv (tileOutputs c t).length 64

/-- The first tile in line has drain beats to come. -/
def drains (c : ChainRun) (ar : Array) : Bool :=
  match ar.drainable with | r :: _ => partialsIn c r.tile && decide (ar.drained < drainBeats c r.tile) | [] => false

/-- The accumulator memory has no room for the merge of a first pass: the tiles in flight that have merged a pass, and those not
drained, fill it (R74, R75). -/
def memoryFull (c : ChainRun) (ar : Array) : Bool :=
  ar.pass == 0 && decide (tilesInFlight c ≤ ar.drainable.length +
    (ar.tiles.filter fun r => decide (0 < r.passes) && decide (r.passes < passCount c)).length)

/-- The commit of the chain waits at a held range: its next store, or an epilogue operand of the tile that is next (R249). -/
def commitHeld (s : State) (c : ChainRun) : Bool :=
  let at_ (t : TDesc) (i : List Nat) : Bool := isHeld s (elemAddr t i).1.toNat
  !s.xlt.holds.isEmpty && match c.todo, c.c with
    | .data i _ :: _, some t => at_ t i
    | .scale i _ :: _, some t => isHeld s (scaleAddr t i)
    | .stat i _ :: _, _ => at_ (c.stats.getD {}) i
    | [], _ => (tfind c.ready c.committed).isSome && (tileOutputs c c.committed).any fun o => c.d.epi.any fun e =>
        epiSlot e &&
          let d := opnd c e.slot
          match padSource d (coordOf d (if e.src = 1 then [o.1] else if e.src = 2 then [o.2] else [o.2, o.1])) with
          | .stored i => at_ d i || (d.scaleFmt != .none && isHeld s (scaleAddr d i))
          | _ => false
    | _, none => false

/-- An empty beat of an array that holds a chain, counted by its cause (R61, R72, R75, R98, R104, R112, R249): the drain's own
beats count as drain wait with an 18-bin format; what the engine has not done or taken, a finish, and a tile that waits for earlier
ones count as epilogue wait (R115), or as arrival wait where a held range is the cause. DESIGN CHOICE (log entry 100): an array that
has no tile left in the chain counts in no field. -/
def emptyBeat (s : State) (c : ChainRun) (j : Nat) (ar : Array) : Array :=
  let arrivalBeat : Array := { ar with ctr := { ar.ctr with arrival := advance ar.ctr.arrival 1 } }
  let engineBeat : Array := if commitHeld s c then arrivalBeat else { ar with ctr := { ar.ctr with epilogue := advance ar.ctr.epilogue 1 } }
  let next := (nextTile c j ar).isSome
  if ar.running then
    if ar.stall > 0 then { ar with stall := ar.stall - 1 }
    else if (laccOf (fmtOf c).1 (fmtOf c).2).1 = 18 ∧ memoryFull c ar ∧ drains c ar then
      { ar with ctr := { ar.ctr with drain := advance ar.ctr.drain 1 } }
    else engineBeat
  else if waitsPartials s c j ar then arrivalBeat
  else if finishes c j then engineBeat
  else if next && (!arrived c ar || ar.staging) then arrivalBeat
  else if next || !ar.drainable.isEmpty || c.ready.any (fun x => arrayOf c x.1 == j) then engineBeat
  else ar

/-- A beat of an array that holds a product chain: its cells perform the MACs of the pass that runs, or idle, and the first tile
in line drains one beat further (R57, R75). -/
def beatArray (s : State) (c : ChainRun) (j : Nat) (ar : Array) : Array :=
  let busy := ar.running && ar.stall == 0 && decide (ar.beat < passBeats (fmtOf c).1 (passDepth c ar.pass))
  let next := if busy then productBeat c ar else emptyBeat s c j ar
  if drains c ar then { next with drained := ar.drained + 1 } else next

/-- A beat of array a of a powered die (R57), which is a turn of its engine (R25); a credit that had to wait is tried again (R109). -/
def beatEffect (a : Nat) (s : State) : State :=
  let s := if decide (a < 544) && dieOn s (a / 136 + 1) then engineTurn a s else s
  match arrayChain s a with
  | none => s
  | some (n, c) =>
    if !c.d.product then s
    else (flushCredits n s).onArray a (beatArray s c (arrayIndex c a))

/-- ARRAY_BEAT (R57). -/
def execArrayBeat (array : Nat) (s : State) : Out := .next (beatEffect array s)

/-! ### Passes -/

/-- A tile's windows merge into its accumulators and are empty and unanchored (R66, R67). -/
def mergeTile (r : TileRun) : TileRun := { r with accs := r.accs.map mergeWindow }

/-- A buffer's counters are reset to 0, on the array and on the paired engine (R109); bytes that came too early stay where they
landed (R110). -/
def resetBuffer (a : Nat) (c : ChainRun) (buf pass : Nat) (s : State) : State :=
  let s := [false, true].foldl (fun s b =>
    match sliceFor c b pass with
    | some e => s.onEngine a fun g => { g with counters := tput 0 g.counters e.counter 0 }
    | none => s) s
  s.onArray a fun ar => { ar with counts := tdel (tdel ar.counts (buf * 2)) (buf * 2 + 1) }

/-- The pass at the array's position is over: its buffer's counters are reset, the buffer opens for the next pass that will use
it, with its credit, and the array goes to its next position (R72, R109). `tiles` are the tiles of the group then. -/
def leavePass (n a : Nat) (c : ChainRun) (tiles : List TileRun) (s : State) : State :=
  let ar := s.array a
  let j := arrayIndex c a
  let buf := bufferOf c ar.passNo
  let step := if c.d.twoBufs then 2 else 1
  let opens : Option Nat := if (posAhead c j step (posOf ar)).isSome then some (ar.passNo + step) else none
  let next := (posNext c j (posOf ar)).getD (ar.group + 1, 0, 0)
  let s := resetBuffer a c buf ar.pass s
  let s := s.onArray a fun ar => { ar with
    running := false, beat := 0, staging := false
    tiles := if next.1 != ar.group then [] else tiles
    group := next.1, pass := next.2.1, turn := next.2.2, passNo := ar.passNo + 1
    open0 := if buf = 0 then opens else ar.open0, open1 := if buf = 1 then opens else ar.open1 }
  publish n c j buf (opens.getD (2 ^ 64 - 1)) s

/-- Units of the prologue of a pass (R96): the operations of each operand that is staged, on its elements. -/
def prologueUnits (c : ChainRun) (ar : Array) (t : Nat) : Nat :=
  let of (b : Bool) : Nat := if sharedDone c b ar.turn then 0
    else (if b then (colsOf c t).length else (rowsOf c t).length) * passDepth c ar.pass
      * ((c.d.pro.filter fun p => p.operandB == b).map proUnits).sum
  of false + of true

/-- Stages the operands of the pass and starts it (R72, R86, R97, R246): a fault in this or a later slice of the tile stops the
chain at the tile before any pass of it runs, so a first pass waits until every slice that the array reads itself is known. -/
def startPass (n a : Nat) (c : ChainRun) (t : Nat) (s : State) : State :=
  let ar := s.array a
  let (staged, fault, waits, s1) := stagePass (chainWho n a) c ar t s
  let ((later, more), s2) := if ar.pass = 0 && !waits && fault.isNone then
      laterFault (chainWho n a) c ar t ((List.range (passCount c)).drop 1) s1 else ((none, false), s1)
  if waits || more then (keepAsked s s2).onArray a fun ar => { ar with staging := true }
  else match fault.or later with
    | some f => stopChain n (fltRes f) t s1
    | none => (countUnits a (prologueUnits c ar t) s1).onArray a fun ar =>
      let fresh : TileRun := { tile := t, accs := List.replicate ((rowsOf c t).length * (colsOf c t).length) {} }
      let tiles := if ar.pass = 0 then (if ar.turn = 0 then [fresh] else ar.tiles ++ [fresh]) else ar.tiles
      { ar with running := true, beat := 0, stall := 0, staging := false, luts := staged.luts, stagedA := staged.stagedA
                stagedB := staged.stagedB, tiles := tiles }

/-- PASS_START (R72): the next pass of the array starts once its slices have arrived. An array whose drained tile lacks partials
waits (R112); a pass of a tile at or past a stop is passed over (R116, R246). -/
def passStartEffect (a : Nat) (s : State) : State :=
  match arrayChain s a with
  | none => s
  | some (n, c) =>
    let ar := s.array a
    match tileAt c (arrayIndex c a) (posOf ar) with
    | none => s
    | some t =>
      if !c.d.product || ar.running then s
      else if decide (stopAt c ≤ t) then leavePass n a c ar.tiles s
      else if arrived c ar && bandFree c t && !waitsPartials s c (arrayIndex c a) ar then startPass n a c t s
      else s

def execPassStart (array : Nat) (s : State) : Out := .next (passStartEffect array s)

/-- A pass ends: its windows merge (R67), the tile is in line to drain after its last pass unless the chain stops at or before
it (R75, R116), and the array leaves the pass. -/
def endPass (n a : Nat) (c : ChainRun) (s : State) : State :=
  let ar := s.array a
  let run := nth { tile := 0 } ar.tiles ar.turn
  let run := mergeTile { run with passes := run.passes + 1 }
  let s := if ar.pass + 1 == passCount c && decide (run.tile < stopAt c) then s.onArray a fun ar => { ar with drainable := ar.drainable ++ [run] } else s
  leavePass n a c (setNth ar.tiles ar.turn run) s

/-- PASS_END (R109): the pass whose beats have run ends; a first pass waits for accumulator memory (R74, R75). -/
def passEndEffect (a : Nat) (s : State) : State :=
  match arrayChain s a with
  | none => s
  | some (n, c) =>
    let ar := s.array a
    let ran := ar.running && ar.stall == 0 && ar.beat == passBeats (fmtOf c).1 (passDepth c ar.pass)
    if ran && !memoryFull c ar then endPass n a c s else s

def execPassEnd (array : Nat) (s : State) : Out := .next (passEndEffect array s)

/-! ### Slices -/

/-- The first open buffer that still wants bytes of an operand's pulled slice: pass number, position and entry. -/
def wantsSlice (c : ChainRun) (j : Nat) (ar : Array) (b : Bool) : Option (Nat × (Nat × Nat × Nat) × SliceEntry) :=
  ((ar.open0.toList ++ ar.open1.toList).filter fun n => decide (ar.passNo ≤ n)).foldl (fun acc n =>
    match posAhead c j (n - ar.passNo) (posOf ar) with
    | none => acc
    | some pos =>
      match sliceFor c b pos.2.1 with
      | none => acc
      | some e =>
        let full := decide (tget 0 ar.counts (bufferOf c n * 2 + one b) ≥ sliceBytes c b)
        if e.push || full || sharedDone c b pos.2.2 then acc
        else match acc with
          | some (k, _, _) => if n < k then some (n, pos, e) else acc
          | none => some (n, pos, e)) none

/-- Bytes land at a place of an array's buffers, with their poison. -/
def landBytes (a key : Nat) (x : List (Byte × Bool)) (s : State) : State :=
  s.onArray a fun ar => { ar with
    landed := memWrite ar.landed key (plain x)
    landedBad := (ar.landedBad.filter fun k => decide (k < key) || decide (key + x.length ≤ k))
      ++ ((x.zip (span key x.length)).filter (·.1.2)).map (·.2) }

/-- Bytes land in a slice buffer and advance the entry's counter (R109). -/
def landSlice (c : ChainRun) (a : Nat) (b : Bool) (n off : Nat) (e : SliceEntry) (x : List (Byte × Bool)) (s : State) : State :=
  let buf := bufferOf c n
  let s := (landBytes a (landedKey buf b off) x s).onArray a fun ar => { ar with
    counts := tput 0 ar.counts (buf * 2 + one b) (tget 0 ar.counts (buf * 2 + one b) + x.length) }
  s.onEngine a fun g => { g with
    counters := tput 0 g.counters e.counter (tget 0 g.counters e.counter + BitVec.ofNat 32 x.length) }

/-- SLICE_ARRIVE (R109): bytes of a pulled slice arrive from its source, once the chain's first credits are written. A fault of
theirs is that of the element or scale whose byte it is (R245, R246). Pushed slices land with their deliveries (R262). -/
def sliceArriveEffect (a : Nat) (b : Bool) (count : Nat) (s : State) : State :=
  match arrayChain s a with
  | none => s
  | some (ring, _) =>
    let s := flushCredits ring s
    match arrayChain s a with
    | none => s
    | some (_, c) =>
      let ar := s.array a
      let j := arrayIndex c a
      if firstCredits c then s
      else match wantsSlice c j ar b with
        | none => s
        | some (n, pos, e) =>
          match tileAt c j pos, (if b then c.b else c.a) with
          | some t, some d =>
            let off := tget 0 ar.counts (bufferOf c n * 2 + one b)
            let va := (sliceSource c e b t pos.2.1 + off) % 2 ^ 64
            match vaRead .once a (.ring ring) .read va (min count (sliceBytes c b - off)) s with
            | (.data x, s) => landSlice c a b n off e x s
            | (.fault st r x, s) =>
              let x0 := if b then t % gridCols c * tileCols c else t / gridCols c * tileRows c
              let (role, element) := sliceByte c d b (pos.2.1 * c.d.ks) x0 (off + (x + 2 ^ 64 - va) % 2 ^ 64)
              stopChain ring { status := st, role := role, reason := r, element := element, address := x } t s
            | (.wait, s1) => keepAsked s s1
          | _, _ => s

def execSliceArrive (array : Nat) (operandB : Bool) (bytes : Nat) (s : State) : Out :=
  .next (sliceArriveEffect array operandB bytes s)

/-- ARRIVAL_TIMEOUT (R111): the array's next pass has waited ARRIVAL_TIMEOUT for its slices, covered ones or those that its own
staging reads (log entry 100). -/
def arrivalTimeoutEffect (a : Nat) (s : State) : State :=
  match arrayChain s a with
  | none => s
  | some (n, c) =>
    let ar := s.array a
    if !ar.running && (nextTile c (arrayIndex c a) ar).isSome && (!arrived c ar || ar.staging) then
      stopChain n { status := 0x51 } c.committed s
    else s

def execArrivalTimeout (array : Nat) (s : State) : Out := .next (arrivalTimeoutEffect array s)

/-! ### Drains -/

/-- The tile has drained before: it ran again on the array that its group moved to (R82). -/
def drainedBefore (c : ChainRun) (t : Nat) : Bool := decide (t < c.committed) || (tfind c.ready t).isSome

/-- The tile first in line to drain: its accumulators, partials merged, become W values (R75, R78, R112). SPECIAL_OUTPUTS counts
none of an exact-send chain, whose accumulators drain as they are: DESIGN CHOICE (log entry 100). -/
def drainTile (n a : Nat) (c : ChainRun) (r : TileRun) (s : State) : State :=
  let (f, sf) := fmtOf c
  let l := (laccOf f sf).2.1
  let part := tget [] c.rx r.tile
  let accs := if part.isEmpty then r.accs else (r.accs.zip part).map fun p => mergeLacc p.1 p.2
  let ys := accs.map fun x => statusNum (chainRm c.d) x.status x.sum l
  let send := c.d.partialMode == 1
  let special := ys.filter fun y => match y with | .fin _ _ _ => false | _ => true
  let c := { c with
    rx := if send then tput [] c.rx r.tile accs else tdel c.rx r.tile
    ready := tput [] c.ready r.tile ys }
  (countUnits a ((tileOutputs c r.tile).length * tileUnits c.d) (setChain n c s)).onArray a fun ar => { ar with
    drainable := ar.drainable.drop 1, drained := 0
    ctr := { ar.ctr with tiles := advance ar.ctr.tiles 1
                         special := if send then ar.ctr.special else advance ar.ctr.special special.length } }

/-- Reads A for outputs of an epilogue-only chain: the values, in W, the fault first in order, whether one waits. -/
def streamRead (w : Who) (c : ChainRun) (outs : List (Nat × Nat)) (s : State) : (List Num × Option Flt × Bool) × State :=
  outs.foldl (fun acc o =>
    let ((ys, f, wt), s) := acc
    match (match c.a with | some d => readElem w d [o.2, o.1] 1 6 s | none => (.num (numZero false), s)) with
    | (.num v, s) => ((ys ++ [wOf v], f, wt), s)
    | (.fault g, s) => ((ys ++ [numZero false], worse f g, wt), s)
    | (.wait, s) => ((ys ++ [numZero false], f, true), s)) (([], none, false), s)

/-- A tile of an epilogue-only chain: its elements of A enter W (R107). A completion chain needs a whole row at its finish, so
its epilogue runs as its elements come in. -/
def streamTile (n a : Nat) (c : ChainRun) (t : Nat) (s : State) : State :=
  let w := chainWho n a
  let ((ys, f, wt), s1) := streamRead w c (tileOutputs c t) s
  let ((ys, f, wt), s1) := if completes c && f.isNone && !wt then tileEpilogue w c ((tileOutputs c t).zip ys) s1 else ((ys, f, wt), s1)
  if wt then keepAsked s s1
  else match f with
    | some g => stopChain n (fltRes g) t s1
    | none =>
      let next := (posNext c (arrayIndex c a) ((s1.array a).group, 0, 0)).map (·.1)
      let units := (tileOutputs c t).length * (tileUnits c.d + (if completes c then finishUnits c.d else 0))
      (countUnits a units (setChain n { c with ready := tput [] c.ready t ys } s1)).onArray a fun ar => { ar with
        group := next.getD (ar.group + 1) }

/-- TILE_DRAIN (R75): the oldest tile whose last pass has ended has drained to the paired engine in the drain's beats; of an
epilogue-only chain, the array's engine takes its next tile (R107). -/
def drainEffect (a : Nat) (s : State) : State :=
  match arrayChain s a with
  | none => s
  | some (n, c) =>
    let ar := s.array a
    if c.d.product then
      match ar.drainable with
      | [] => s
      | r :: _ =>
        if !partialsIn c r.tile || drains c ar then s
        else if drainedBefore c r.tile then s.onArray a fun ar => { ar with drainable := ar.drainable.drop 1, drained := 0 }
        else drainTile n a c r s
    else match tileAt c (arrayIndex c a) (ar.group, 0, 0) with
      | none => s
      | some t => if decide (t < stopAt c) && bandFree c t then streamTile n a c t s else s

def execTileDrain (array : Nat) (s : State) : Out := .next (drainEffect array s)

/-! ### Commits -/

/-- Values of a row over tiles, from the values of their outputs. -/
def rowValues (c : ChainRun) (vals : Sparse (List Num)) (tiles : List Nat) (row : Nat) : List Num :=
  tiles.flatMap fun t => ((tileOutputs c t).zip (tget [] vals t)).filterMap fun p => if p.1.1 = row then some p.2 else none

/-- The ROWQUANT scale that a split chain writes for a row: that of R46 from the maximum magnitude of x (R105). The element format
that R46 needs is the completion chain's, which this chain does not name (log entry 90). -/
def splitScale (c : ChainRun) (st : RowStat) : Num :=
  let sf := (scaleOfCode c.d.rowScale).getD .none
  scaleNum sf (blockScale c.quantElem sf st.maxMag.toList)

/-- The writes of the tile in commit of an ordinary chain, from its values after the epilogue, and the row statistics with
them: data and, with a row's last tile, the row's entries (R99, R101, R105). -/
def commitWrites (c : ChainRun) (t : TDesc) (ys : List Num) : List CWrite × Sparse RowStat :=
  let tile := c.committed
  let outs := (tileOutputs c tile).zip ys
  let xs := if c.d.split then outs.map fun o => (o.1, roundTo c.d c.d.splitFmt c.d.seed (logicalIndex c o.1.1 o.1.2) o.2) else outs
  let rows := if c.d.rowOps = 0 then c.rows
    else xs.foldl (fun m o => tput {} m o.1.1 (rowAdd c.d (tget {} m o.1.1) o.2)) c.rows
  let ends := tile % gridCols c + 1 == gridCols c && c.d.rowOps != 0
  let data := if endsQuant c.d then quantWrites c t outs
    else plainWrites t (outs.map fun o => (o.1, finalBits c t (logicalIndex c o.1.1 o.1.2) o.2))
  let stats := if ends then (rowsOf c tile).flatMap fun r =>
      let st := tget {} rows r
      statWrites c r st (if rowQuant c.d && c.d.split then some (splitScale c st) else none)
    else []
  (data ++ stats, rows)

/-- Commits the tile of an ordinary chain (R115). -/
def commitPlain (n : Nat) (c : ChainRun) (t : TDesc) (ys : List Num) (s : State) : State :=
  let (writes, rows) := commitWrites c t ys
  beginCommit n t { c with rows := rows } 1 writes s

/-- A row statistic read back by a completion chain (R106). -/
def readStat (w : Who) (c : ChainRun) (row k : Nat) (s : State) : Elem × State :=
  match c.stats with
  | some t => readElem w t [k, row] 4 4 s
  | none => (.num .nan, s)

/-- The row inputs of a completion chain: MAX or the scale of each row of a strip. -/
def readStats (w : Who) (c : ChainRun) (k : Nat) : List Nat → State → (List Num × Option Flt × Bool) × State
  | [], s => (([], none, false), s)
  | r :: rs, s =>
    let (e, s) := readStat w c r k s
    let ((vs, f, wt), s) := readStats w c k rs s
    match e with
    | .num v => ((v :: vs, f, wt), s)
    | .fault g => ((numZero false :: vs, worse f g, wt), s)
    | .wait => ((numZero false :: vs, f, true), s)

/-- The writes of the tile in commit of a completion chain (R106), from the row inputs of its strip: SOFTMAX forms SMSUM of
the strip's rows and writes it before the strip's first tile; ROWQUANT divides by the stored scale. With the strip's last tile go
the other statistics that the chain selects (R101). -/
def completionWrites (c : ChainRun) (t : TDesc) (vals : List Num) : List CWrite :=
  let tile := c.committed
  let rows := rowsOf c tile
  let r0 := rows.headD 0
  let outs := (tileOutputs c tile).zip (tget [] c.ready tile)
  let strip := stripOf c tile
  let sums := rows.map fun r =>
    let m := nth .nan vals (r - r0)
    (rowValues c c.ready strip r).foldl (fun a x => esaAdd a (toFp32 (softExp x m)) (.fin false 1 0)) {}
  let zero := rows.map fun r => (rowValues c c.ready strip r).all isZero
  let bitsOf (o : (Nat × Nat) × Num) : Nat :=
    let i := logicalIndex c o.1.1 o.1.2
    let k := o.1.1 - r0
    if rowSoftmax c.d then
      finalBits c t i (divW (softExp o.2 (nth .nan vals k)) (esaNum (nth {} sums k)))
    else rowQuantBits c t (scaleByte ((scaleOfCode c.d.rowScale).getD .none) (nth .nan vals k)) (nth false zero k) i o.2
  let data := plainWrites t (outs.map fun o => (o.1, bitsOf o))
  let before := if tile % gridCols c == 0 && rowSoftmax c.d then
    rows.flatMap fun r => statPut c r 3 (esaNum (nth {} sums (r - r0))) else []
  let after := if tile % gridCols c + 1 == gridCols c then
    rows.flatMap fun r => statWrites c r ((rowValues c c.ready strip r).foldl (rowAdd c.d) {}) none else []
  before ++ data ++ after

/-- Commits the tile of a completion chain (R106). -/
def commitCompletion (n : Nat) (c : ChainRun) (t : TDesc) (s0 s : State) : State :=
  let tile := c.committed
  let w := chainWho n (tileArray c tile)
  let ((vals, f, wt), s) := readStats w c (if rowSoftmax c.d then 0 else 4) (rowsOf c tile) s
  if wt then keepAsked s0 s
  else match f with
    | some g => stopChain n (fltRes g) tile s
    | none => beginCommit n t c 1 (completionWrites c t vals) s

/-- The epilogue of the tile in commit, and its commit (R115, R246). -/
def commitWith (n : Nat) (c : ChainRun) (ys : List Num) (s : State) : State :=
  match c.c with
  | none => s
  | some t =>
    let ((zs, f, wt), s1) := tileEpilogue (chainWho n (tileArray c c.committed)) c ((tileOutputs c c.committed).zip ys) s
    if wt then keepAsked s s1
    else match f with
      | some g => stopChain n (fltRes g) c.committed s1
      | none => commitPlain n c t zs s1

/-- A tile that goes to another participant: once its last chunk is sent, nothing of it is kept. -/
def commitSent (n node off : Nat) (c : ChainRun) (chunks : List (List Byte)) (s : State) : State :=
  let s := sendTile n c node off chunks s
  match chainOf s n with
  | some c' =>
    if c'.committed = c.committed then s
    else setChain n { c' with
      ready := tdel c'.ready c.committed, rx := tdel c'.rx c.committed
      tree := c'.tree.filter fun x => x.1 / 16 != c.committed } s
  | none => s

/-- A list in pieces of k. -/
def chunked {α : Type} (k : Nat) (l : List α) : List (List α) := (List.range (cdiv l.length k)).map fun i => (l.drop (i * k)).take k

/-- The commit of a tile of a chain with a partial plan (R112-R114). Exact partials go out as chunks of the full tile. The manual
states no transport for the values of a W tree: DESIGN CHOICE, chunks of 64 W values of ten bytes at RX_OFFSET (log entry 91). -/
def commitPartial (n : Nat) (c : ChainRun) (p : Plan) (own : List Num) (s : State) : State :=
  let tile := c.committed
  let pos := planPos s p
  match c.d.partialMode with
  | 1 =>
    let bins := (laccOf (fmtOf c).1 (fmtOf c).2).1
    commitSent n (nth 0 p.nodes 0) p.rxOffset c ((chunked (chunkOutputs c) (fullTile c tile (tget [] c.rx tile))).map fun l => l.flatMap (recordOf bins)) s
  | 3 =>
    match treeSum c p pos tile own with
    | none => s
    | some ys =>
      if pos = 0 then commitWith n { c with tree := c.tree.filter fun x => x.1 / 16 != tile } ys s
      else commitSent n (nth 0 p.nodes (pos - 2 ^ sendLevel pos)) p.rxOffset c
        ((chunked 64 (ys.map fun y => toBytes 10 (encodeNum .w y))).map List.flatten) s
  | _ => commitWith n c own s

/-- TILE_COMMIT (R115): the next tile in row-major order, if it has drained; a commit whose writes had to wait goes on with
them. -/
def commitEffect (n : Nat) (s : State) : State :=
  match chainOf s n with
  | none => s
  | some c =>
    let tile := c.committed
    if !c.admitted || usesHold c.d || !decide (tile < stopAt c) || (tfind c.ready tile).isNone then s
    else if c.todoTiles != 0 then (match c.c with | some t => runCommit n t c s | none => s)
    else match c.plan with
      | some p => commitPartial n c p (tget [] c.ready tile) s
      | none =>
        if completes c then
          match c.c with
          | some t =>
            let needs := if rowSoftmax c.d then stripOf c tile else (stripOf c tile).filter fun x => decide (x < stopAt c)
            if needs.all fun x => (tfind c.ready x).isSome then commitCompletion n c t s s else s
          | none => s
        else commitWith n c (tget [] c.ready tile) s

def execTileCommit (ring : Nat) (s : State) : Out := .next (commitEffect ring s)

/-! ### Bands -/

/-- Epilogues of a band's tiles. -/
def bandEpilogue (n : Nat) (c : ChainRun) : List Nat → State → (Sparse (List Num) × Option Flt × Bool) × State
  | [], s => (([], none, false), s)
  | t :: ts, s =>
    let ((ys, f, wt), s) := tileEpilogue (chainWho n (tileArray c t)) c ((tileOutputs c t).zip (tget [] c.ready t)) s
    let ((m, g, wu), s) := bandEpilogue n c ts s
    (((t, ys) :: m, (match f with | some _ => f | none => g), wt || wu), s)

/-- The writes of a band (R104, Table 7): the outputs of its tiles and the statistics of its rows. -/
def bandWrites (c : ChainRun) (t : TDesc) (tiles : List Nat) (vals : Sparse (List Num)) : List CWrite :=
  let rows := (tiles.flatMap fun x => rowsOf c x).eraseDups
  let sf := (scaleOfCode c.d.rowScale).getD .none
  let info := rows.map fun r =>
    let ys := rowValues c vals tiles r
    let st := ys.foldl (rowAdd c.d) {}
    let m := ys.foldl orMax none
    let sm := if rowSoftmax c.d then ys.foldl (fun a y => esaAdd a (toFp32 (softExp y (m.getD .nan))) (.fin false 1 0)) {} else {}
    (r, ys, { st with max := m, smsum := sm }, if rowQuant c.d then blockScale t.fmt sf ys else 0)
  let get (r : Nat) : List Num × RowStat × Nat := match info.find? fun x => x.1 == r with | some x => x.2 | none => ([], {}, 0)
  let bitsOf (o : (Nat × Nat) × Num) : Nat :=
    let (ys, st, sc) := get o.1.1
    let i := logicalIndex c o.1.1 o.1.2
    if rowSoftmax c.d then finalBits c t i (divW (softExp o.2 (st.max.getD .nan)) (esaNum st.smsum))
    else rowQuantBits c t sc (ys.all isZero) i o.2
  let data := tiles.flatMap fun x => plainWrites t (((tileOutputs c x).zip (tget [] vals x)).map fun o => (o.1, bitsOf o))
  let stats := info.flatMap fun x =>
    statWrites c x.1 x.2.2.1 (if rowQuant c.d then some (scaleNum sf x.2.2.2) else none)
  data ++ stats

/-- The engines of the arrays that ran the tiles of a band issue the finish of their values (Table 7 of chapter 04). -/
def countFinish (c : ChainRun) (tiles : List Nat) (s : State) : State :=
  tiles.foldl (fun s t => countUnits (tileArray c t) ((tileOutputs c t).length * finishUnits c.d) s) s

/-- A root's chain with the values of a band's tiles summed over the tree (R114); none where one has not come. -/
def bandSums (s : State) (c : ChainRun) (tiles : List Nat) : Option ChainRun :=
  if c.d.partialMode != 3 then some c
  else match c.plan with
    | none => some c
    | some p => (tiles.foldl (fun (acc : Option ChainRun) t =>
        match acc with
        | none => none
        | some x => (treeSum c p (planPos s p) t (tget [] c.ready t)).map fun ys => { x with ready := tput [] x.ready t ys }) (some c)).map fun x =>
          { x with tree := x.tree.filter fun v => !tiles.contains (v.1 / 16) }

/-- BAND_FINISH (R104): the row group's band has drained and is the next to commit (R115); a finish whose writes had to wait goes
on with them. -/
def bandEffect (n rg : Nat) (s : State) : State :=
  match chainOf s n with
  | none => s
  | some c =>
    let per := blockRows c * gridCols c
    let b := c.committed / per
    let tiles := span c.committed (min (per - c.committed % per) (tileCount c - c.committed))
    if !c.admitted || !usesHold c.d || tiles.isEmpty || b % (c.d.arrays / c.d.rowGroup) != rg
        || !(tiles.all fun t => (tfind c.ready t).isSome && decide (t < stopAt c)) then s
    else match c.c with
      | none => s
      | some t =>
        if c.todoTiles != 0 then runCommit n t c s
        else match bandSums s c tiles with
          | none => s
          | some c =>
            let ((vals, f, wt), s1) := bandEpilogue n c tiles s
            if wt then keepAsked s s1
            else match f with
              | some g => stopChain n (fltRes g) c.committed s1
              | none => beginCommit n t c tiles.length (bandWrites c t tiles vals) (countFinish c tiles s1)

def execBandFinish (ring rowGroup : Nat) (s : State) : Out := .next (bandEffect ring rowGroup s)

/-! ### Partials -/

/-- A row of accumulators of a tile with received ones merged at its columns from x on. -/
def mergeRow (c : ChainRun) (t row x : Nat) (l : List Lacc) (old : List Lacc) : List Lacc :=
  let nc := (colsOf c t).length
  let at_ := (row - (rowsOf c t).headD 0) * nc
  (List.range old.length).map fun i =>
    let v := nth {} old i
    if at_ + x ≤ i ∧ i < at_ + nc ∧ i - (at_ + x) < l.length then mergeLacc v (nth {} l (i - (at_ + x))) else v

/-- PARTIAL_CHUNK_RECEIVE (R113, R262): the next chunk of a sender is merged into the partials of its tile, or ends the
chain at that tile. Records of positions past the tensor's edge hold nothing that an output takes. -/
def chunkEffect (n sender : Nat) (chunk : List Byte) (s : State) : State :=
  match chainOf s n with
  | none => s
  | some c =>
    if !c.admitted || c.d.partialMode != 2 then s
    else
      let k := tget 0 c.rxChunks sender
      let (row, col) := chunkPlace c k
      let tile := row / tileRows c * gridCols c + col / tileCols c
      let bins := (laccOf (fmtOf c).1 (fmtOf c).2).1
      if decide (gridRows { c with d := { c.d with holdRows := 0 } } * gridCols c * chunksPerTile c ≤ k) then s
      else match parseChunk bins (chunkOutputs c) chunk with
        | none => stopChain n { status := 0x13 } tile s
        | some l =>
          let got := { c with rxChunks := tput 0 c.rxChunks sender (k + 1) }
          if c.d.m ≤ row then setChain n got s
          else
            let x := tget [] c.rx tile
            let old := if x.isEmpty then List.replicate (tileOutputs c tile).length {} else x
            setChain n { got with rx := tput [] c.rx tile (mergeRow c tile row (col % tileCols c) l old) } s

def execPartialChunkReceive (ring sender : Nat) (chunk : List Byte) (s : State) : Out :=
  .next (chunkEffect ring sender chunk s)

/-- W_TREE_RECEIVE (R114): a participant's values of a tile arrive and are added at their level. -/
def treeEffect (n position tile : Nat) (values : List (BitVec 80)) (s : State) : State :=
  match chainOf s n with
  | none => s
  | some c =>
    match c.plan with
    | none => s
    | some p =>
      let pos := planPos s p
      match (treeLevels p.nodes.length pos).find? fun l => pos + 2 ^ l == position with
      | none => s
      | some l =>
        if !c.admitted || c.d.partialMode != 3 || decide (tileCount c ≤ tile) then s
        else setChain n { c with tree := tput [] c.tree (tile * 16 + l) (values.map fun v => decodeNum .w v.toNat) } s

def execWTreeReceive (ring position tile : Nat) (values : List (BitVec 80)) (s : State) : Out :=
  .next (treeEffect ring position tile values s)

end Sys2Proof.Machine
end

