-- ==== Sys2Proof/Machine/PowerOps.lean ====
section
/-! DEFINITION. The power manager's shared operations: domains and their targets (R360-R363, R377), the power limit
(R366), the steps of R367, the throttling reasons (R378, R380), coolant loss (R376), the safety net (R375), and the
abandonment of a firmware activation (R422). -/

namespace Sys2Proof.Machine

/-! ### Domains -/

/-- The domains 0 to 42 (R360). -/
def allDomains : List Nat := List.range 43

/-- Die code of a domain (R360). -/
def domainDie (d : Nat) : Nat :=
  if d < 32 then d / 8 + 1 else if d < 40 then 5 + (d - 32) / 4 else if d = 40 then 0 else if d = 41 then 7 else 8

/-- Number of a domain within its die (R23). -/
def domainInDie (d : Nat) : Nat := if d < 32 then d % 8 else if d < 40 then (d - 32) % 4 else 0

/-- Pairs of an array domain, as engine numbers; cores of a core domain. -/
def domainPairs (d : Nat) : List Nat := span (d / 8 * 136 + d % 8 * 17) 17
def domainCores (d : Nat) : List Nat := span ((d - 32) / 4 * 76 + (d - 32) % 4 * 19) 19

/-- Units of a domain that do work, by their index in the rated-maximum table (R364, R445). A transform engine n of
a die is taken with array domain n (log entry 17). -/
def domainUnits (s : State) (d : Nat) : List Nat :=
  if d < 32 then
    ((domainPairs d).filter fun e => unitWorks s 1 (d / 8 + 1) (e % 136)).flatMap (fun e => [e, 544 + e]) ++ (if txWorks s d then [1088 + d] else [])
  else if d < 40 then ((domainCores d).filter fun k => unitWorks s 4 (domainDie d) (k % 76)).map (1120 + ·)
  else []

/-- RATED_MAX of a domain (R361). -/
def ratedMax (s : State) (d : Nat) : Nat := (domainUnits s d).foldl (fun a u => min a (ratedOf s u)) 7

/-- A domain has a busy unit (R363). -/
def domainBusy (s : State) (d : Nat) : Bool :=
  dieOn s (domainDie d) && (
    if d < 32 then
      (domainPairs d).any (fun e => (s.array e).ring.isSome || !(s.engine e).slots.isEmpty)
        || (tget none s.transforms d).isSome
    else if d < 40 then
      (domainCores d).any fun k => unitWorks s 4 (domainDie d) (k % 76) && !(s.core k).wfi
    else s.pwr.rung == 0)

/-- Fields of PWR_FIXED (Table 11 of chapter 14). -/
def chosenOp (s : State) : Nat := field s.pwr.fixed 32 3
/-- The domain is an array domain in fixed-rate mode (R379). -/
def fixedOn (s : State) (d : Nat) : Bool := decide (d < 32) && flag s.pwr.fixed (28 + d / 8)

def thermOf (s : State) (die : Nat) : Therm := tget {} s.pwr.therm die
def onTherm (die : Nat) (f : Therm → Therm) (s : State) : State :=
  s.onPwr fun p => { p with therm := tput {} p.therm die (f (tget {} p.therm die)) }

/-- The cap of a rail with more than two phases retired (R395). -/
def phaseLimit (s : State) (d : Nat) : Nat :=
  let n := tget 0 s.rep.phases d
  if n > 2 then (Config.phaseCap d n).toNat else 7

/-- The point asked of a domain: MAX_OP, or CHOSEN_OP in fixed-rate mode, and no more than RATED_MAX (R361, R377, R379). -/
def wantedOp (s : State) (d : Nat) : Nat :=
  min (if fixedOn s d then chosenOp s else (s.domain d).maxOp) (ratedMax s d)

/-- A domain's target (R361, R379, R395). -/
def targetOp (s : State) (d : Nat) : Nat :=
  min (min (wantedOp s d) (if (s.domain d).wearCapped then 5 else 7)) (min (thermOf s (domainDie d)).limit (phaseLimit s d))

/-- Any die is below 0 degC (R372). -/
def coldHold (s : State) : Bool := s.pwr.therm.any fun t => t.2.cold

/-- The domain is held at OP0: by a safety-net event, a thermal trip, a cold junction or its rung (R372, R375, R383). -/
def heldAtZero (s : State) (d : Nat) : Bool :=
  s.pwr.safetyNet || (thermOf s (domainDie d)).tripped || coldHold s || s.pwr.rung != 0

/-- The controller of a die is being restarted or is handing over: the power manager leaves its domains alone
(R415, R421). -/
def dieFrozen (s : State) (die : Nat) : Bool :=
  die != 0 && (s.boot.restarting.contains die || (match s.boot.act with | some a => a.at_ + 1 == die | none => false))

/-! ### The power limit (R366) -/

def profileWatts (l : List Nat) (s : State) : Nat := nth 0 l s.pwr.profile
/-- Sustained envelope and electrical ceiling in W (Table 1 of chapter 14). -/
def envelope (s : State) : Nat := profileWatts Config.envelopeW s
def ceiling (s : State) : Nat := profileWatts Config.ceilingW s

/-- L in mW and the throttling reason it counts as (R366, R368, Table 8 of chapter 14); the lowest code of equal limits. -/
def powerLimit (s : State) : Nat × Nat :=
  let cap := field s.pwr.cap 0 16
  let l := [(ceiling s * 1000, 2)] ++ (if cap = 0 then [] else [(cap * 1000, 4)])
    ++ (if s.pwr.coolantLoss then [(envelope s * 250, 7)] else [])
    ++ (if s.pwr.creditMode then [(envelope s * 1000, 8)] else [])
  l.foldl (fun a x => if x.1 < a.1 ∨ (x.1 = a.1 ∧ x.2 < a.2) then x else a) (ceiling s * 1000, 2)

/-- Input power of the last sample, and its average over the window, in mW (R365). -/
def inputMw (s : State) : Nat := match s.pwr.window with | r :: _ => r.inputMw | [] => 0
def averageOf (s : State) (f : PowerReading → Nat) : Nat :=
  if s.pwr.window.isEmpty then 0 else (s.pwr.window.foldl (fun a r => a + f r) 0) / s.pwr.window.length
def inputAvgMw (s : State) : Nat := averageOf s (·.inputMw)

/-- Rate by point of a domain's units (R25). -/
def rateOf (d op : Nat) : Nat := nth 0 (if 32 ≤ d ∧ d < 40 then Config.coreRate else Config.beatRate) op

/-- The input power predicted after a raise of domain d by one point is within L - 20 W (R366). -/
def raiseFits (s : State) (d : Nat) : Bool :=
  let x := s.domain d
  let v := nth 0 Config.railMv x.inForce
  let v' := nth 0 Config.railMv (x.inForce + 1)
  let base := v * v * rateOf d x.inForce
  let after := v' * v' * rateOf d (x.inForce + 1)
  decide ((inputMw s - x.powerMw) * base + x.powerMw * after + 20000 * base ≤ (powerLimit s).1 * base)

/-- Class of a domain in the order of R367. -/
def domainClass (s : State) (d : Nat) : Nat :=
  if d < 32 then (if fixedOn s d then 2 else 1) else if d < 40 then 3 else if d = 40 then 4 else 5

/-- The domain may rise: it is below its target, not held, and busy or in fixed-rate mode (R363, R366). -/
def mayRaise (s : State) (d : Nat) : Bool :=
  !heldAtZero s d && !dieFrozen s (domainDie d) && (domainBusy s d || (fixedOn s d && dieOn s (domainDie d)))
    && decide ((s.domain d).inForce < targetOp s d)

/-- The domain to raise: the last class with one below its target, in it the lowest point, then the lowest number. -/
def raiseChoice (s : State) : Option Nat :=
  (allDomains.filter (mayRaise s)).foldl
    (fun b d => match b with
      | none => some d
      | some c =>
        if domainClass s c < domainClass s d then some d
        else if domainClass s d = domainClass s c ∧ (s.domain d).inForce < (s.domain c).inForce then some d
        else some c) none

/-- The power limit does not let the domain that is to rise take its step. -/
def raiseStuck (s : State) : Bool := match raiseChoice s with | some c => !raiseFits s c | none => false

/-- The power limit keeps a domain below its target (R377): the input exceeds it, or it does not let the domain that is to rise
(`stuck`), or this one, take its step. -/
def powerHeld (stuck : Bool) (s : State) (d : Nat) : Bool :=
  let x := s.domain d
  decide (x.inForce < targetOp s d) && !heldAtZero s d && (decide ((powerLimit s).1 < inputMw s) || stuck || !raiseFits s d)

/-! ### Throttling reasons (R377, R378) -/

/-- Reasons that keep a domain, busy or not, below the point asked of it, with the point each limits it to. A domain lowered for the
ceiling counts as electrical until it is back at its target (R368). The limiter sets no point: it comes last. -/
def causeList (stuck : Bool) (s : State) (d : Nat) : List (Nat × Nat) :=
  let x := s.domain d
  let want := wantedOp s d
  let below := decide (x.inForce < want)
  let t := thermOf s (domainDie d)
  let code := (powerLimit s).2
  (if below && (t.tripped || decide (t.limit < want)) then [(1, if t.tripped then 0 else t.limit)] else [])
    ++ (if below && decide (phaseLimit s d < want) then [(2, phaseLimit s d)] else [])
    ++ (if below && x.overCeiling then [(2, x.inForce)] else [])
    ++ (if s.pwr.safetyNet && below then [(3, 0)] else [])
    ++ (if powerHeld stuck s d then [(code, x.inForce)] else [])
    ++ (if x.wearCapped && below && decide (5 < want) then [(5, 5)] else [])
    ++ (if d < 32 && field s.pwr.limiter (8 * (d / 8)) 8 != 0 then [(6, 8)] else [])

/-- Reasons in force of a domain: those of a busy one (R377). -/
def reasonList (stuck : Bool) (s : State) (d : Nat) : List (Nat × Nat) := if domainBusy s d then causeList stuck s d else []

def reasonBits (l : List (Nat × Nat)) : Nat := l.foldl (fun a r => a ||| 2 ^ (r.1 - 1)) 0

/-- REASON: the reason whose limit is lowest, ties to the lowest code (R377). -/
def reasonCode (l : List (Nat × Nat)) : Nat :=
  (l.foldl (fun (a : Nat × Nat) r => if r.2 < a.2 ∨ (r.2 = a.2 ∧ r.1 < a.1) then r else a) (0, 9)).1

/-- PWR_STATUS.REASONS: bit r - 1 for each reason r that throttles a domain; a safety-net event counts for its whole
hold (R375, R378). -/
def moduleReasons (s : State) : Nat :=
  allDomains.foldl (fun a d => a ||| (s.domain d).reasons) (if s.pwr.safetyNet then 4 else 0)

/-- A domain in fixed-rate mode runs below CHOSEN_OP. -/
def belowChosen (s : State) (d : Nat) : Bool := fixedOn s d && decide ((s.domain d).inForce < chosenOp s)

/-- Reasons of Table 8 that have brought a fixed-rate domain, busy or not, below CHOSEN_OP; the limiter sets no point. -/
def fixedCauses (stuck : Bool) (s : State) (d : Nat) : List (Nat × Nat) := (causeList stuck s d).filter fun c => c.1 != 6

/-- A domain in fixed-rate mode is not held at CHOSEN_OP: for a reason of Table 8, or by its RATED_MAX (R380). -/
def notHeld (stuck : Bool) (s : State) (d : Nat) : Bool :=
  belowChosen s d && (!(fixedCauses stuck s d).isEmpty || decide (ratedMax s d < chosenOp s))

/-- Begins or ends the rate-not-held episode of a domain: it lasts until the point returns (R380). -/
def rateCheck (stuck : Bool) (d : Nat) (s : State) : State :=
  match (s.domain d).rnh with
  | none =>
    if notHeld stuck s d then
      event 0x65 1 d (reasonCode (fixedCauses stuck s d))
        ((s.onDomain d fun x => { x with rnh := some s.hTicks.toNat }).onPwr fun p =>
          { p with rnh := { p.rnh with entries := advance p.rnh.entries 1 } })
    else s
  | some t =>
    if belowChosen s d then s
    else event 0x65 2 d (s.hTicks.toNat - t) (s.onDomain d fun x => { x with rnh := none })

/-- The reasons of every domain are formed anew, entries counted (R377, R378), and rate-not-held episodes begun and
ended (R380). -/
def reasonsUpdate (s : State) : State :=
  let old := moduleReasons s
  let stuck := raiseStuck s
  let s := allDomains.foldl (fun s d =>
    let l := reasonList stuck s d
    s.onDomain d fun x => { x with
      reasons := reasonBits l, reason := reasonCode l, overCeiling := x.overCeiling && decide (x.inForce < targetOp s d) }) s
  let new := moduleReasons s
  let count (t : Sparse Throttle) (r : Nat) : Sparse Throttle :=
    if bit new (r - 1) && !bit old (r - 1) then
      tput {} t r { tget {} t r with entries := advance (tget {} t r).entries 1 }
    else t
  let s := s.onPwr fun p => { p with throttle := (span 1 8).foldl count p.throttle }
  (List.range 32).foldl (fun s d => rateCheck stuck d s) s

/-- Every domain's point falls at once to its target, or to OP0 where it is held there (R361, R372, R375). While a die's controller
is away the power manager does not lower its domains; what hardware holds at OP0 falls (R415). -/
def clampDomains (s : State) : State :=
  (allDomains.filter fun d => decide (0 < (s.domain d).inForce)).foldl (fun s d =>
    let top := if heldAtZero s d then 0 else if dieFrozen s (domainDie d) then (s.domain d).inForce else targetOp s d
    if (s.domain d).inForce ≤ top then s else s.onDomain d fun x => { x with inForce := top }) s

/-- A change of a limit or request takes effect. -/
def powerSettle (s : State) : State := reasonsUpdate (clampDomains s)

/-- The module leaves rung 1 for rung 0 (R384, R385). -/
def stir (s : State) : State := if s.pwr.rung = 1 then reasonsUpdate (s.onPwr fun p => { p with rung := 0 }) else s

/-- The draw exceeds the ceiling: these domains are lowered for it (R368). -/
def markCeiling (ds : List Nat) (s : State) : State := ds.foldl (fun s d => s.onDomain d fun x => { x with overCeiling := true }) s

/-- Domains move to OP0 at the safety-net slew. -/
def zeroDomains (ds : List Nat) (s : State) : State := ds.foldl (fun s d => s.onDomain d fun x => { x with inForce := 0 }) s

/-! ### Steps (R367) -/

/-- The domain to lower: the first class with a domain above OP0, in it the highest point, then the highest power,
then the lowest number (R367). Firmware passes over the domains of a die whose controller is away (R415). -/
def lowerChoice (s : State) (hardware : Bool) : Option Nat :=
  (allDomains.filter fun d => decide (0 < (s.domain d).inForce) && (hardware || !dieFrozen s (domainDie d))).foldl
    (fun b d => match b with
      | none => some d
      | some c =>
        let x := s.domain d
        let y := s.domain c
        if domainClass s d < domainClass s c then some d
        else if domainClass s d = domainClass s c ∧ (y.inForce < x.inForce ∨ (x.inForce = y.inForce ∧ y.powerMw < x.powerMw)) then some d
        else some c) none

/-- Lowers one domain by one point. -/
def lowerStep (hardware : Bool) (s : State) : State :=
  match lowerChoice s hardware with
  | some d => s.onDomain d fun x => { x with inForce := x.inForce - 1 }
  | none => s

/-- Raises one domain by one point where the prediction allows it. -/
def raiseStep (s : State) : State :=
  match raiseChoice s with
  | some d => if raiseFits s d then s.onDomain d fun x => { x with inForce := x.inForce + 1 } else s
  | none => s

/-! ### Thermal credit (R370, R371) -/

/-- Tin in 0.1 degC: the inlet written last, Tmax where none is in use (R371). -/
def inletTemp (s : State) : Nat :=
  let reg : Option Nat := if flag s.pwr.inlet 16 then some (field s.pwr.inlet 0 16) else none
  let tmax := profileWatts Config.inletMax s
  match s.pwr.inletLast with
  | 1 => reg.getD tmax
  | 2 => s.pwr.inletBus
  | _ => tmax

/-- Capacity in uJ under the present inlet (R371). -/
def capacityUj (s : State) : Nat :=
  let c := profileWatts Config.creditJ s * 1000000
  let top := profileWatts Config.inletMax s + 100
  let num := top - inletTemp s
  let den := top - profileWatts Config.inletRef s
  if den = 0 then 0 else c * min num den / den

/-- B reaches 0 or the resume level: CREDIT_MODE changes, with record 0x61 (R370). A capacity of 0 keeps the mode (log entry
47). -/
def creditCheck (s : State) : State :=
  let b := s.pwr.balanceUj
  if !s.pwr.creditMode && b == 0 then
    powerSettle (event 0x61 1 0 0 (s.onPwr fun p => { p with creditMode := true }))
  else if s.pwr.creditMode && !s.pwr.coolantLoss && decide (0 < b) && decide (capacityUj s * s.pwr.resumePct ≤ b * 100) then
    powerSettle (event 0x61 2 0 (b / 1000000) (s.onPwr fun p => { p with creditMode := false }))
  else s

/-- The capacity changes: B is cut to it (R371). -/
def capacityCut (s : State) : State :=
  creditCheck (if capacityUj s < s.pwr.balanceUj then s.onPwr fun p => { p with balanceUj := capacityUj s } else s)

/-! ### Coolant loss (R376) -/

/-- A source of coolant loss becomes active: 1 pin, 2 management bus, 3 lid. -/
def coolantSource (source : Nat) (s : State) : State :=
  let s := s.onPwr fun p => { p with
    srcPin := p.srcPin || source == 1, srcBus := p.srcBus || source == 2, srcLid := p.srcLid || source == 3
    coolantLoss := true, balanceUj := 0 }
  powerSettle (creditCheck (event 0x64 source 0 0 s))

/-! ### Firmware activation (R422) -/

/-- An event abandons an activation in progress: the boot record is unchanged, and the controllers that have handed
over are switched back. -/
def abandonActivation (s : State) : State :=
  match s.boot.act with
  | none => s
  | some a =>
    event 0x83 3 0 a.staged ((s.onBoot fun b => { b with act := none }).onMgmt fun m => { m with update := 4 })

/-! ### The safety net (R375) -/

/-- A regulator's alert wire is asserted: every domain moves to OP0 in hardware. Alerts that join a hold in force
place no record of their own. -/
def safetyNet (regulator : Nat) (s : State) : State :=
  let s := zeroDomains allDomains (abandonActivation s)
  let s := s.onPwr fun p => { p with alerts := setAdd p.alerts regulator }
  if s.pwr.safetyNet then reasonsUpdate s
  else
    let die := if regulator < 43 then domainDie regulator else 0
    let s := s.onPwr fun p => { p with
      safetyNet := true, safetySince := s.hTicks.toNat
      throttle := tput {} p.throttle 3 { tget {} p.throttle 3 with entries := advance (tget {} p.throttle 3).entries 1 } }
    reasonsUpdate (eventUnit 0x60 1 0 0 die (domainInDie regulator) 10 regulator 0 0 s)

end Sys2Proof.Machine
end

