-- ==== Sys2Proof/Machine/EngineAlu.lean ====
section
/-! DEFINITION. Engine instructions of the INT, FMA, FP64, XCN, CVT and WIDE pipes (Table 12 of chapter 06). -/

namespace Sys2Proof.Machine

/-- An instruction that computes RD of n registers from each active lane on its own. -/
def eachLane (n : Nat) (f : Nat → Nat) (c : Cur) (s : State) : State :=
  endPlain c ((lanesOf c.path.lanes).foldl (fun g i => regWrite i (wRd c.w) n (f i) g) c.g) s

/-- As `eachLane`, with a result of the instruction's type. -/
def eachTyped (f : Nat → Nat) (c : Cur) (s : State) : State :=
  endPlain c ((lanesOf c.path.lanes).foldl (fun g i => tyWrite i (wTy c.w) (wRd c.w) (f i) g) c.g) s

/-- First source of a lane. -/
def srcA (c : Cur) (i : Nat) : Nat := tyRead c.g i (wTy c.w) (wRa c.w)
/-- Second source of a lane. -/
def srcB (c : Cur) (i : Nat) : Nat := second c.g i c.w
/-- Third source of a lane. -/
def srcC (c : Cur) (i : Nat) : Nat := tyRead c.g i (wTy c.w) (wRc c.w)

/-! ### Integers -/

/-- The effect of an integer instruction on operands of n bits. -/
def intOp (op ty a b : Nat) : Nat :=
  let n := tyBits ty
  let m := 2 ^ n
  match op with
  | 0x01 => (a + b) % m
  | 0x02 => (a + m - b) % m
  | 0x03 => (a * b) % m
  | 0x04 => if tySigned ty then ofSigned n (toSigned n a * toSigned n b / (m : Int)) else a * b / m
  | 0x05 => a &&& b
  | 0x06 => a ||| b
  | 0x07 => a ^^^ b
  | 0x08 => (a <<< (b % n)) % m
  | _ => if tySigned ty then ofSigned n (toSigned n a / (2 ^ (b % n) : Nat)) else a >>> (b % n)

def runInt (op : Nat) (c : Cur) (s : State) : State := eachTyped (fun i => intOp op (wTy c.w) (srcA c i) (srcB c i)) c s

/-- IADD. -/
def execIadd (engine group : Nat) (s : State) : Out := .next (issue 0x01 engine group (runInt 0x01) s)
/-- ISUB. -/
def execIsub (engine group : Nat) (s : State) : Out := .next (issue 0x02 engine group (runInt 0x02) s)
/-- IMUL. -/
def execImul (engine group : Nat) (s : State) : Out := .next (issue 0x03 engine group (runInt 0x03) s)
/-- IMULH. -/
def execImulh (engine group : Nat) (s : State) : Out := .next (issue 0x04 engine group (runInt 0x04) s)
/-- AND. -/
def execAnd (engine group : Nat) (s : State) : Out := .next (issue 0x05 engine group (runInt 0x05) s)
/-- OR. -/
def execOr (engine group : Nat) (s : State) : Out := .next (issue 0x06 engine group (runInt 0x06) s)
/-- XOR. -/
def execXor (engine group : Nat) (s : State) : Out := .next (issue 0x07 engine group (runInt 0x07) s)
/-- SHL. -/
def execShl (engine group : Nat) (s : State) : Out := .next (issue 0x08 engine group (runInt 0x08) s)
/-- SHR. -/
def execShr (engine group : Nat) (s : State) : Out := .next (issue 0x09 engine group (runInt 0x09) s)

/-- The relation of an ICMP between operands of a type. -/
def intRel (code ty a b : Nat) : Bool :=
  let n := tyBits ty
  icmpHolds code (if tySigned ty then decide (toSigned n a < toSigned n b) else decide (a < b)) (a == b)

/-- ICMP. -/
def execIcmp (engine group : Nat) (s : State) : Out :=
  .next (issue 0x0A engine group (fun c => eachLane 1 (fun i => one (intRel (wAux c.w) (wTy c.w) (srcA c i) (srcB c i))) c) s)

/-- SEL. -/
def execSel (engine group : Nat) (s : State) : Out :=
  .next (issue 0x0B engine group (fun c => eachTyped (fun i => if regRead c.g i (wRa c.w) 1 = 0 then srcC c i else srcB c i) c) s)

/-- MOV. -/
def execMov (engine group : Nat) (s : State) : Out :=
  .next (issue 0x0C engine group (fun c => eachTyped (fun i => if wI c.w then srcB c i else srcA c i) c) s)

/-- The special values of SREG (Table 12). -/
def specialValue (c : Cur) (aux lane : Nat) (s : State) : Nat :=
  let die := c.e / 136 + 1
  match aux with
  | 0 => lane
  | 1 => bits c.g.index 0 32
  | 2 => bits c.g.index 32 16
  | 3 => c.e % 136
  | 4 => die
  | 5 => bits (s.ticksOf die) 0 32
  | 6 => bits (s.ticksOf die) 32 32
  | 7 => bits c.prog.args 0 32
  | 8 => bits c.prog.args 32 32
  | 9 => bits c.prog.grid 0 32
  | 10 => bits c.prog.grid 32 16
  | _ => c.rest.length + 1

/-- SREG. -/
def execSreg (engine group : Nat) (s : State) : Out :=
  .next (issue 0x0D engine group (fun c s => eachLane 1 (fun i => specialValue c (wAux c.w) i s) c s) s)

/-- NOP, and the reserved opcodes, which are illegal (R174). -/
def execNop (engine group : Nat) (s : State) : Out := .next (issue 0x00 engine group (fun c => endPlain c c.g) s)

/-- LIMM reads its literal word with the access of a fetch (R169). -/
def runLimm (c : Cur) (s : State) : State :=
  let at_ := (c.path.pc + 8) % 2 ^ 64
  match vaRead (engineKeep s c.e) c.e (laneOwner c.e c.slot (lowest c.path)) .fetch at_ 8 s with
  | (.wait, s1) => blockPath c (keepAsked s s1)
  | (.fault st r a, s1) =>
    stopProgram c.g.ring { status := st, role := 12, reason := r, element := elementOf c (lowest c.path), address := a } s1
  | (.data b, s1) =>
    if anyPoison b then
      stopProgram c.g.ring { status := 0x50, role := 12, element := elementOf c (lowest c.path), address := at_ } s1
    else
      let v := ofBytes (plain b)
      endIssue c ((lanesOf c.path.lanes).foldl (fun g i => regWrite i (wRd c.w) 2 v g) c.g) [goOn c 16] false s1

/-- LIMM. -/
def execLimm (engine group : Nat) (s : State) : Out := .next (issue 0x0E engine group runLimm s)

/-! ### Control flow (R153, R154, R172) -/

/-- The path splits by the targets of its lanes: the part of the lowest lane first, the others after it. -/
def splitBy (path : Path) : Nat → List (Nat × Nat) → List Path
  | 0, _ => []
  | _, [] => []
  | f + 1, (i, t) :: rest =>
    let mine := (rest.filter fun x => x.2 == t).map (·.1)
    { path with pc := t, lanes := laneSet (i :: mine), st := .ready } :: splitBy path f (rest.filter fun x => x.2 != t)

/-- Lanes go to their targets, given with whether each branch was taken; a taken backward branch rotates. -/
def branchTo (c : Cur) (targets : List (Nat × Nat × Bool)) (s : State) : State :=
  let back := targets.any fun x => x.2.2 && decide (x.2.1 ≤ c.path.pc)
  endIssue c c.g (splitBy c.path 32 (targets.map fun x => (x.1, x.2.1))) back s

/-- Target of BR, BRZ and BRNZ. -/
def relTarget (c : Cur) : Nat := ofSigned 64 ((c.path.pc : Int) + 8 * toSigned 16 (wImm c.w))

/-- A conditional branch. -/
def runBranch (taken : Nat → Bool) (c : Cur) (s : State) : State :=
  branchTo c ((lanesOf c.path.lanes).map fun i =>
    let t := taken (regRead c.g i (wRa c.w) 1)
    (i, if t then relTarget c else (c.path.pc + 8) % 2 ^ 64, t)) s

/-- BR. -/
def execBr (engine group : Nat) (s : State) : Out := .next (issue 0x10 engine group (runBranch fun _ => true) s)
/-- BRZ. -/
def execBrz (engine group : Nat) (s : State) : Out := .next (issue 0x11 engine group (runBranch fun x => x == 0) s)
/-- BRNZ. -/
def execBrnz (engine group : Nat) (s : State) : Out := .next (issue 0x12 engine group (runBranch fun x => x != 0) s)

/-- JMP: a target that is not 8-byte aligned makes it illegal (R174). -/
def runJmp (c : Cur) (s : State) : State :=
  let ts := (lanesOf c.path.lanes).map fun i => (i, regRead c.g i (wRa c.w) 2, true)
  if ts.any (fun x => x.2.1 % 8 != 0) then stopFetch c.g.ring c.g.index c.path 0x31 0xF s else branchTo c ts s

/-- JMP. -/
def execJmp (engine group : Nat) (s : State) : Out := .next (issue 0x13 engine group runJmp s)

/-- JOIN. -/
def execJoin (engine group : Nat) (s : State) : Out :=
  .next (issue 0x14 engine group (fun c => endIssue c c.g [{ c.path with st := .join }] false) s)

/-- SLEEP: with one runnable path the group sleeps for min(n, 4,096) turns (R154). -/
def runSleep (c : Cur) (s : State) : State :=
  let alone := !(c.rest.any isReady)
  let g := if alone then { c.g with sleeping := min (wImm c.w) 4096 } else c.g
  endIssue c g [goOn c 8] true s

/-- SLEEP. -/
def execSleep (engine group : Nat) (s : State) : Out := .next (issue 0x15 engine group runSleep s)

/-- SLEEP_EXPIRE: the turns of a sleep have passed. -/
def execSleepExpire (engine group : Nat) (s : State) : Out :=
  .next (match tfind (s.engine engine).slots group with
    | some g => if g.sleeping = 0 then s else setSlot engine group { g with sleeping := 0 } s
    | none => s)

/-- EXIT: the threads of the path leave the group (R153). -/
def execExit (engine group : Nat) (s : State) : Out := .next (issue 0x16 engine group (fun c => endIssue c c.g [] false) s)

/-! ### Floating point (R151) -/

/-- The rounding mode of an instruction and its draw for a lane (R48, R171): the index is the pair RC, or AUX for
FFMA. -/
def fpRm (c : Cur) : Rm := (rmOfCode (wRm c.w)).getD .rne
def fpDraw (c : Cur) (i : Nat) : Nat :=
  if wRm c.w = 4 then srDraw c.prog.seed (regRead c.g i (if wOp c.w = 0x23 then wAux c.w else wRc c.w) 2) else 0

/-- Format of the instruction's type. -/
def opFmt (c : Cur) : Fmt := (tyFmt (wTy c.w)).getD .fp32

/-- A floating operation on the lanes' values, with one rounding to the type under IEEE overflow. -/
def runFloat (f : Rm → Num → Num → Num → Num) (c : Cur) (s : State) : State :=
  let t := opFmt c
  eachTyped (fun i => encodeNum t (convertNum t (fpRm c) .ieee (fpDraw c i)
    (f (fpRm c) (decodeNum t (srcA c i)) (decodeNum t (srcB c i)) (decodeNum t (srcC c i))))) c s

/-- FADD. -/
def execFadd (engine group : Nat) (s : State) : Out := .next (issue 0x20 engine group (runFloat fun rm a b _ => addNum rm a b) s)
/-- FSUB. -/
def execFsub (engine group : Nat) (s : State) : Out := .next (issue 0x21 engine group (runFloat fun rm a b _ => addNum rm a (negNum b)) s)
/-- FMUL. -/
def execFmul (engine group : Nat) (s : State) : Out := .next (issue 0x22 engine group (runFloat fun _ a b _ => mulNum a b) s)
/-- FFMA. -/
def execFfma (engine group : Nat) (s : State) : Out :=
  .next (issue 0x23 engine group (runFloat fun rm a b x => addNum rm (mulNum a b) x) s)
/-- FMIN. -/
def execFmin (engine group : Nat) (s : State) : Out := .next (issue 0x24 engine group (runFloat fun _ a b _ => minNum a b) s)
/-- FMAX. -/
def execFmax (engine group : Nat) (s : State) : Out := .next (issue 0x25 engine group (runFloat fun _ a b _ => maxNum a b) s)

/-- The relation of an FCMP or WCMP. -/
def numRel (code : Nat) (a b : Num) : Bool :=
  let nan (x : Num) := x == .nan
  fcmpHolds code (nan a || nan b) (numLt a b && !numEq a b) (numEq a b)

/-- A floating compare. -/
def runFcmp (c : Cur) (s : State) : State :=
  let t := opFmt c
  eachLane 1 (fun i => one (numRel (wAux c.w) (decodeNum t (srcA c i)) (decodeNum t (srcB c i)))) c s

/-- FCMP. -/
def execFcmp (engine group : Nat) (s : State) : Out := .next (issue 0x26 engine group runFcmp s)

/-- The value the XCN pipe returns where no rule states one: free, one value for given operands (R151, log entry 8). -/
def xcnFree (op ty a b : Nat) : Num :=
  decodeNum ((tyFmt ty).getD .fp32) ((Config.xcn op ty (BitVec.ofNat 64 a) (BitVec.ofNat 64 b)).toNat)

/-- Correctly rounded quotient; the spec states no result for a divisor of zero nor for two infinities. -/
def fpDiv (t : Fmt) (ty : Nat) (rm : Rm) (draw a b : Nat) : Num :=
  match decodeNum t a, decodeNum t b with
  | .nan, _ => .nan
  | _, .nan => .nan
  | .inf _, .inf _ => xcnFree 0x30 ty a b
  | .inf x, .fin y _ _ => .inf (x != y)
  | .fin x _ _, .inf y => numZero (x != y)
  | .fin x m e, .fin y k g =>
    if k = 0 then xcnFree 0x30 ty a b
    else if m = 0 then numZero (x != y) else roundFloat t rm .ieee draw (divFin x m e y k g)

/-- Correctly rounded square root; the spec states no result below zero, nor the sign of a zero's. -/
def fpSqrt (t : Fmt) (ty : Nat) (rm : Rm) (draw a : Nat) : Num :=
  match decodeNum t a with
  | .nan => .nan
  | .inf false => .inf false
  | .inf true => xcnFree 0x31 ty a 0
  | .fin neg m e =>
    if m = 0 then numZero (neg && flag (Config.xcn 0x31 ty (BitVec.ofNat 64 a) 0) 0)
    else if neg then xcnFree 0x31 ty a 0 else roundFloat t rm .ieee draw (sqrtFin m e)

/-- FDIV. -/
def execFdiv (engine group : Nat) (s : State) : Out :=
  .next (issue 0x30 engine group (fun c => eachTyped (fun i =>
    encodeNum (opFmt c) (fpDiv (opFmt c) (wTy c.w) (fpRm c) (fpDraw c i) (srcA c i) (srcB c i))) c) s)
/-- FSQRT. -/
def execFsqrt (engine group : Nat) (s : State) : Out :=
  .next (issue 0x31 engine group (fun c => eachTyped (fun i =>
    encodeNum (opFmt c) (fpSqrt (opFmt c) (wTy c.w) (fpRm c) (fpDraw c i) (srcA c i))) c) s)

/-- A transcendental operation of the XCN pipe. -/
def runXcn (op : Nat) (c : Cur) (s : State) : State :=
  eachTyped (fun i => encodeNum (opFmt c) (xcnFunc op (opFmt c) (fpRm c) (fpDraw c i) (srcA c i))) c s

/-- FRCP. -/
def execFrcp (engine group : Nat) (s : State) : Out := .next (issue 0x32 engine group (runXcn 0x32) s)
/-- FRSQRT. -/
def execFrsqrt (engine group : Nat) (s : State) : Out := .next (issue 0x33 engine group (runXcn 0x33) s)
/-- FEXP2. -/
def execFexp2 (engine group : Nat) (s : State) : Out := .next (issue 0x34 engine group (runXcn 0x34) s)
/-- FLOG2. -/
def execFlog2 (engine group : Nat) (s : State) : Out := .next (issue 0x35 engine group (runXcn 0x35) s)
/-- FSIN. -/
def execFsin (engine group : Nat) (s : State) : Out := .next (issue 0x36 engine group (runXcn 0x36) s)
/-- FCOS. -/
def execFcos (engine group : Nat) (s : State) : Out := .next (issue 0x37 engine group (runXcn 0x37) s)

/-! ### Conversions -/

/-- A stored value of a format code in registers from r. -/
def storedRead (c : Cur) (i code r : Nat) : Num :=
  let f := (fmtOfCode code).getD .fp64
  decodeNum f (regRead c.g i r (fmtRegs code) % 2 ^ fmtBits f)

/-- Bits of a value converted to a format code under RM and OV. -/
def storedBits (c : Cur) (i code : Nat) (v : Num) : Nat :=
  let f := (fmtOfCode code).getD .fp64
  encodeNum f (convertNum f (fpRm c) ((ovOfCode (wOv c.w)).getD .dflt) (fpDraw c i) v)

/-- CVT. -/
def execCvt (engine group : Nat) (s : State) : Out :=
  .next (issue 0x38 engine group (fun c => eachLane (fmtRegs (wRb c.w)) (fun i =>
    storedBits c i (wRb c.w) (storedRead c i (wFmt c.w) (wRa c.w))) c) s)

/-! ### Wide mode (R152) -/

/-- A W operation, rounded to odd; no rounding mode selects another outcome (R40). -/
def runWide (f : Num → Num → Num → Num) (c : Cur) (s : State) : State :=
  eachTyped (fun i => encodeNum .w (wOf (f (decodeNum .w (srcA c i)) (decodeNum .w (srcB c i)) (decodeNum .w (srcC c i))))) c s

/-- WRELU. -/
def execWrelu (engine group : Nat) (s : State) : Out := .next (issue 0x17 engine group (runWide fun a _ _ => maxNum a (numZero false)) s)
/-- WADD. -/
def execWadd (engine group : Nat) (s : State) : Out := .next (issue 0x40 engine group (runWide fun a b _ => addNum .rne a b) s)
/-- WMUL. -/
def execWmul (engine group : Nat) (s : State) : Out := .next (issue 0x41 engine group (runWide fun a b _ => mulNum a b) s)
/-- WFMA. -/
def execWfma (engine group : Nat) (s : State) : Out :=
  .next (issue 0x42 engine group (runWide fun a b x => addNum .rne (mulNum a b) x) s)
/-- WMIN. -/
def execWmin (engine group : Nat) (s : State) : Out := .next (issue 0x43 engine group (runWide fun a b _ => minNum a b) s)
/-- WMAX. -/
def execWmax (engine group : Nat) (s : State) : Out := .next (issue 0x44 engine group (runWide fun a b _ => maxNum a b) s)
/-- WCMP. -/
def execWcmp (engine group : Nat) (s : State) : Out := .next (issue 0x45 engine group runFcmp s)
/-- WCLAMP. -/
def execWclamp (engine group : Nat) (s : State) : Out :=
  .next (issue 0x46 engine group (runWide fun a b x => minNum (maxNum a b) x) s)

/-- WCVTIN. -/
def execWcvtin (engine group : Nat) (s : State) : Out :=
  .next (issue 0x47 engine group (fun c => eachTyped (fun i => encodeNum .w (storedRead c i (wFmt c.w) (wRa c.w))) c) s)
/-- WCVTOUT. -/
def execWcvtout (engine group : Nat) (s : State) : Out :=
  .next (issue 0x48 engine group (fun c => eachLane (fmtRegs (wFmt c.w)) (fun i =>
    storedBits c i (wFmt c.w) (decodeNum .w (srcA c i))) c) s)
/-- WROUND: an integer format's precision and range are those of its values. -/
def execWround (engine group : Nat) (s : State) : Out :=
  .next (issue 0x49 engine group (fun c => eachTyped (fun i =>
    encodeNum .w (decodeNum ((fmtOfCode (wFmt c.w)).getD .fp64) (storedBits c i (wFmt c.w) (decodeNum .w (srcA c i))))) c) s)

end Sys2Proof.Machine
end

