-- ==== Sys2Proof/Machine/EngineMem.lean ====
section
/-! DEFINITION. Engine instructions of the LSU pipe (R157-R162, R173, R210, R211, R215, R217): loads, stores,
atomics, exact adds, copies, counters and fences, and the events of copies and waits. -/

namespace Sys2Proof.Machine

/-! ### Scratch and staging (R144, R145, R173) -/

/-- The program's grant on the engine. -/
def curGrant (c : Cur) (s : State) : Option Grant := grantOf (s.engine c.e) c.g.ring

/-- Bytes of a space of a grant: 1 scratch, 2 staging. -/
def spaceSize (g : Grant) (sp : Nat) : Nat := if sp = 1 then g.ways * 16384 else g.stagingKib * 1024
def spaceMem (g : Grant) (sp : Nat) : List Host.Cell := if sp = 1 then g.scratch else g.staging
def spacePoison (g : Grant) (sp : Nat) : List Nat := if sp = 1 then g.scratchPoison else g.stagingPoison

/-- A range lies in a space of the grant. -/
def inSpace (g : Grant) (sp : Nat) (off : Int) (n : Nat) : Bool := decide (0 ≤ off) && decide (off + n ≤ (spaceSize g sp : Nat))

/-- Stores bytes to a space of a grant: a byte stored loses its poison, or takes it. -/
def spaceWrite (sp off : Nat) (bytes : List (Byte × Bool)) (g : Grant) : Grant :=
  let mem := memWrite (spaceMem g sp) off (bytes.map (·.1))
  let bad := (List.range bytes.length).foldl (fun l i =>
    if (nth (0, false) bytes i).2 then setAdd l (off + i) else without l (off + i)) (spacePoison g sp)
  if sp = 1 then { g with scratch := mem, scratchPoison := bad } else { g with staging := mem, stagingPoison := bad }

def putGrant (e : Nat) (g : Grant) (s : State) : State := s.onEngine e (setGrant g)

/-! ### Addresses (R173) -/

/-- Address of a lane's access: the pair RA in memory, else the offset in RA, plus IMM. -/
def laneAddr (c : Cur) (i : Nat) : Int :=
  let imm : Int := if wI c.w then toSigned 16 (wImm c.w) else 0
  if wSpace c.w = 0 then ((ofSigned 64 ((regRead c.g i (wRa c.w) 2 : Nat) + imm) : Nat) : Int)
  else (regRead c.g i (wRa c.w) 1 : Nat) + imm

/-- The access of a lane is misaligned or leaves the grant: PROTECTION_FAULT with reason 0xF. -/
def badAccess (c : Cur) (i size align : Nat) (s : State) : Bool :=
  let a := laneAddr c i
  a % (align : Int) != 0 || (wSpace c.w != 0 && match curGrant c s with
    | some g => !inSpace g (wSpace c.w) a size
    | none => true)

/-- Bytes of an access of a type. -/
def tyBytes (ty : Nat) : Nat := tyBits ty / 8

/-- How an access of one lane ends: a value, a stop of the program, or a wait. -/
inductive LaneEnd where
  | value (v : Nat)
  | stop (status reason addr : Nat)
  | wait
  deriving DecidableEq, Repr

/-- Runs lanes in ascending order up to the first that stops the program or waits: the values so far. -/
def runLanes (f : Nat → State → LaneEnd × State) : List Nat → State → (List (Nat × Nat) × Option (Nat × LaneEnd)) × State
  | [], s => (([], none), s)
  | i :: is, s =>
    match f i s with
    | (.value v, s) =>
      let ((vs, r), s) := runLanes f is s
      (((i, v) :: vs, r), s)
    | (.wait, s) =>
      -- the lanes that follow ask for what they need at the same time
      let ((_, r), s) := runLanes f is s
      (([], match r with | some (j, .stop st c a) => some (j, .stop st c a) | _ => some (i, .wait)), s)
    | (r, s) => (([], some (i, r)), s)

/-- Ends a memory instruction of all its lanes. -/
def endLanes (c : Cur) (s0 : State) (k : List (Nat × Nat) → State → State)
    (r : (List (Nat × Nat) × Option (Nat × LaneEnd)) × State) : State :=
  match r with
  | ((vs, none), s) => k vs s
  | ((_, some (i, .stop st rs a)), s) => stopLane c i st rs a s
  | ((_, some _), s) => blockPath c (keepAsked s0 s)

/-! ### LD and ST -/

def loadLane (c : Cur) (i : Nat) (s : State) : LaneEnd × State :=
  let n := tyBytes (wTy c.w)
  let a := laneAddr c i
  if badAccess c i n n s then (.stop 0x31 0xF (ofSigned 64 a), s)
  else if wSpace c.w = 0 then
    match vaRead (engineKeep s c.e) c.e (laneOwner c.e c.slot i) .read a.toNat n s with
    | (.data b, s) => if anyPoison b then (.stop 0x50 0 a.toNat, s) else (.value (ofBytes (plain b)), s)
    | (.fault st r va, s) => (.stop st r va, s)
    | (.wait, s) => (.wait, s)
  else match curGrant c s with
    | some g =>
      if (span a.toNat n).any (spacePoison g (wSpace c.w)).contains then (.stop 0x50 0 a.toNat, s)
      else (.value (ofBytes (memRead (spaceMem g (wSpace c.w)) a.toNat n)), s)
    | none => (.stop 0x31 0xF a.toNat, s)

/-- Writes the lanes' values to RD in the instruction's type. -/
def writeBack (c : Cur) (vs : List (Nat × Nat)) (s : State) : State :=
  endPlain c (vs.foldl (fun g v => tyWrite v.1 (wTy c.w) (wRd c.w) v.2 g) c.g) s

/-- Earlier accesses of the path's threads that a release at fabric scope waits for: packets that are not
acknowledged end to end (R217). -/
def fabricPending (c : Cur) (s : State) : Bool :=
  s.fab.tx.any fun t => match t.owner with
    | .engine e k => e == c.e && k / 32 == c.slot && bit c.path.lanes.toNat (k % 32)
    | _ => false

/-- A release or fence at fabric scope waits for its earlier accesses; those at smaller scopes are performed already, and in
scratch and staging every scope is that of the engine (R173, R217). -/
def afterRelease (c : Cur) (k : Cur → State → State) (s : State) : State :=
  if wSc c.w = 3 && wSpace c.w == 0 && bit (wOrd c.w) 1 && fabricPending c s then blockPath c s else k c s

/-- LD. -/
def execLd (engine group : Nat) (s : State) : Out :=
  .next (issue 0x50 engine group (fun c s => afterRelease c (fun c s =>
    endLanes c s (writeBack c) (runLanes (loadLane c) (lanesOf c.path.lanes) s)) s) s)

def storeLane (c : Cur) (i : Nat) (s : State) : LaneEnd × State :=
  let n := tyBytes (wTy c.w)
  let a := laneAddr c i
  let b := toBytes n (tyRead c.g i (wTy c.w) (wRd c.w))
  if badAccess c i n n s then (.stop 0x31 0xF (ofSigned 64 a), s)
  else if wSpace c.w = 0 then
    match vaWrite (engineKeep s c.e) c.e (laneOwner c.e c.slot i) a.toNat b false s with
    | (.done, s) => (.value 0, s)
    | (.fault st r, s) => (.stop st r a.toNat, s)
    | (.wait, s) => (.wait, s)
  else match curGrant c s with
    | some g => (.value 0, putGrant c.e (spaceWrite (wSpace c.w) a.toNat (b.map (·, false)) g) s)
    | none => (.stop 0x31 0xF a.toNat, s)

/-- Runs the stores of the lanes; one that waits undoes those before it, and all are tried again. -/
def runSt (c : Cur) (s : State) : State :=
  match runLanes (storeLane c) (lanesOf c.path.lanes) s with
  | ((_, none), s) => endPlain c c.g s
  | ((_, some (i, .stop st r a)), s) => stopLane c i st r a s
  | ((_, some _), _) => blockPath c s

/-- ST. -/
def execSt (engine group : Nat) (s : State) : Out := .next (issue 0x51 engine group (fun c s => afterRelease c runSt s) s)

/-! ### ATOM (R160, R161, R209-R211, R214) -/

/-- Kind of an atomic by its code and type (Table 12): minimum and maximum are signed or unsigned by type. -/
def atomKindOf (code ty : Nat) : AtomKind :=
  match code with
  | 0 => .add | 1 => .and | 2 => .or | 3 => .xor | 4 => .swap
  | 5 => if tySigned ty then .min else .minu
  | 6 => if tySigned ty then .max else .maxu
  | 7 => .cas | 8 => .fadd | 9 => .fmin | 10 => .fmax
  | _ => .exactAdd

/-- The atomic of a lane. -/
def laneAtom (c : Cur) (i : Nat) : AtomReq :=
  { kind := atomKindOf (wAux c.w % 16) (wTy c.w), size := tyBytes (wTy c.w), operand := srcB c i, compare := srcC c i }

/-- Bytes that a lane's atomic is aligned to and touches: its type, or the slot of an exact add. -/
def atomSize (c : Cur) : Nat := if wAux c.w % 16 = 11 then slotBytes (wTy c.w == 6) else tyBytes (wTy c.w)

/-- The lanes' operations one after another: what each returns, and the value left (R161). -/
def atomChain : List (Nat × AtomReq) → Nat → List (Nat × Nat) × Nat
  | [], x => ([], x)
  | (i, r) :: t, x => let (vs, y) := atomChain t (atomNew r x); ((i, x) :: vs, y)

/-- A PCIe AtomicOp that R211 sends, or not. -/
def hostAtomOk (s : State) (r : AtomReq) : Bool :=
  s.link.atomicEn && (r.size == 4 || r.size == 8) && (r.kind == .add || r.kind == .swap || r.kind == .cas)

/-- An atomic in the host window, sent as a request that waits for its completion; the Requester Enable is judged when it is
sent (R211). -/
def hostAtom (owner : Owner) (hio va : Nat) (r : AtomReq) (s : State) : LaneEnd × State :=
  match arrivedFor s owner (hostPa hio) r.size with
  | some a =>
    let s := arrivedDrop a s
    if a.status != 0 then (.stop (if a.status = 0x40 then 0x40 else 0x31) (if a.status = 0x40 then 0 else 0xF) va, s)
    else if a.poisoned != 0 then (.stop 0x50 0 va, s) else (.value (ofBytes a.bytes), s)
  | none =>
    if asked s owner hio r.size then (.wait, s)
    else if !hostAtomOk s r then (.stop 0x31 0xF va, s)
    else if !s.link.up then (.stop 0x40 0 va, s)
    else if hostDenied owner s then (.stop 0x42 0 va, s)
    else
      (.wait, (hostAsk owner hio r.size va s).onLink fun l => { l with
        reads := l.reads.map fun q => if q.owner == owner && q.hio == hio && q.len == r.size then { q with atom := some r } else q })

/-- An atomic in the fabric region: a packet that waits for its answer (R274, R275). -/
def fabricAtom (owner : Owner) (node off va : Nat) (r : AtomReq) (epoch : BitVec 32) (s : State) : LaneEnd × State :=
  let n := if r.kind = .exactAdd then 0 else r.size
  match arrivedFor s owner (fabricPa node off) n with
  | some a =>
    let s := arrivedDrop a s
    if a.status != 0 then (.stop a.status a.reason va, s)
    else if a.poisoned != 0 then (.stop 0x50 0 va, s) else (.value (ofBytes a.bytes), s)
  | none =>
    if fabAsked s owner node off n then (.wait, s)
    else
      let (i, s) := originate { peer := node, seq := 0, kind := .atomic r, ordered := true, offset := off, length := n,
                                owner := owner, va := va, epoch := epoch } s
      match i with
      | .sent => (.wait, s)
      | .full => (.wait, s)
      | .noRoute => (.stop 0x51 0 va, s)
      | .loopback =>
        match performHere node (.atomic r) off r.size [] s with
        | (.ok b, s) => if anyPoison b then (.stop 0x50 0 va, s) else (.value (ofBytes (plain b)), s)
        | (.error x, s) => (.stop 0x32 x va, windowFault node off x s)

/-- The lanes' operations on one address as one packet: the first lane's, with the others' operands after it (R160). -/
def combined (rs : List (Nat × AtomReq)) : AtomReq :=
  match rs with
  | (_, r) :: t => { r with more := t.map fun x => (x.2.operand, x.2.compare) }
  | [] => { kind := .add, size := 4, operand := 0, compare := 0 }

/-- The lanes' operations as one PCIe AtomicOp: the sum of a FetchAdd, the last value of a Swap. Several compare-and-swaps are no
single AtomicOp (log entry 40). -/
def hostCombined (rs : List (Nat × AtomReq)) : Option AtomReq :=
  match rs with
  | [(_, r)] => some r
  | (_, r) :: t =>
    if r.kind == .add then some { r with operand := (t.foldl (fun a x => a + x.2.operand) r.operand) % 2 ^ (r.size * 8) }
    else if r.kind == .swap then some { r with operand := (t.getLast?.map (·.2.operand)).getD 0 }
    else if r.kind == .cas then none
    else some r
  | [] => none

/-- A combined operation that returns one old value: each lane's value after the lanes below it. -/
def lanesAfter (rs : List (Nat × AtomReq)) (r : LaneEnd × State) : (List (Nat × Nat) × Option (Nat × LaneEnd)) × State :=
  match r with
  | (.value old, s) => (((atomChain rs old).1, none), s)
  | (x, s) => (([], some ((rs.map (·.1)).headD 0, x)), s)

/-- The combined operation of one address is counted (R160). -/
def countAtoms (e : Nat) (r : (List (Nat × Nat) × Option (Nat × LaneEnd)) × State) : (List (Nat × Nat) × Option (Nat × LaneEnd)) × State :=
  match r with
  | ((vs, none), s) => ((vs, none), s.onEngine e fun x => { x with ctr := { x.ctr with atomics := advance x.ctr.atomics 1 } })
  | r => r

/-- Lanes' operations in ascending order, each begun when the one below it has its answer (R161). -/
def lanesInTurn (f : Nat → AtomReq → State → LaneEnd × State) :
    List (Nat × AtomReq) → State → (List (Nat × Nat) × Option (Nat × LaneEnd)) × State
  | [], s => (([], none), s)
  | (i, r) :: t, s =>
    match f i r s with
    | (.value v, s) => let ((vs, e), s) := lanesInTurn f t s; (((i, v) :: vs, e), s)
    | (x, s) => (([], some (i, x)), s)

/-- What the lanes that name one address do there together: what each returns (R160). -/
def atomGroup (c : Cur) (va : Nat) (rs : List (Nat × AtomReq)) (s : State) : (List (Nat × Nat) × Option (Nat × LaneEnd)) × State :=
  let first := match rs with | (i, _) :: _ => i | [] => 0
  let exact := wAux c.w % 16 == 11
  let own (i : Nat) := laneOwner c.e c.slot i
  let (p, s) := place c.e .atomic va s
  match p with
  | .pool pa u =>
    if exact && u then (([], some (first, .stop 0x31 0xF va)), s)
    else if rangePoisoned s pa (atomSize c) then (([], some (first, .stop 0x50 0 va)), s)
    else if exact then countAtoms c.e (((rs.map fun r => (r.1, 0)), none), slotAddAll c.e pa (wTy c.w == 6) (rs.map fun r => r.2.operand) s)
    else
      let s := homeWait (pa / 128) s
      let size := tyBytes (wTy c.w)
      let (vs, new) := atomChain rs (ofBytes (plain (lineBytes s pa size)))
      let (_, s) := poolAtom (if u then .uncached else .once) c.e pa { kind := .swap, size := size, operand := new, compare := 0 } s
      countAtoms c.e ((vs, none), s)
  | .host hio =>
    if exact then (([], some (first, .stop 0x31 0xF va)), s)
    else match hostCombined rs with
      | some r => countAtoms c.e (lanesAfter rs (hostAtom (own first) hio va r s))
      | none => countAtoms c.e (lanesInTurn (fun i r s => hostAtom (own i) hio va r s) rs s)
  | .fabric node off => countAtoms c.e (lanesAfter rs (fabricAtom (own first) node off va (combined rs) s.xlt.epoch s))
  | .fault st r => (([], some (first, .stop st r va)), s)
  | .held => (([], some (first, .wait)), s)

/-- The lanes that name one address of scratch or staging: performed in the engine. -/
def atomSpace (c : Cur) (off : Nat) (rs : List (Nat × AtomReq)) (s : State) : (List (Nat × Nat) × Option (Nat × LaneEnd)) × State :=
  let first := match rs with | (i, _) :: _ => i | [] => 0
  match curGrant c s with
  | none => (([], some (first, .stop 0x31 0xF off)), s)
  | some g =>
    let sp := wSpace c.w
    let n := atomSize c
    if wAux c.w % 16 = 11 then (([], some (first, .stop 0x31 0xF off)), s)
    else if (span off n).any (spacePoison g sp).contains then (([], some (first, .stop 0x50 0 off)), s)
    else
      let (vs, new) := atomChain rs (ofBytes (memRead (spaceMem g sp) off n))
      countAtoms c.e ((vs, none), putGrant c.e (spaceWrite sp off ((toBytes n new).map (·, false)) g) s)

/-- The addresses that the lanes name, in the order of their lowest lanes. -/
def atomAll (c : Cur) : Nat → List (Nat × Nat) → State → (List (Nat × Nat) × Option (Nat × LaneEnd)) × State
  | 0, _, s => (([], none), s)
  | _, [], s => (([], none), s)
  | f + 1, (i, a) :: rest, s =>
    let mine := i :: (rest.filter fun x => x.2 == a).map (·.1)
    let rs := mine.map fun k => (k, laneAtom c k)
    let (r, s) := if wSpace c.w = 0 then atomGroup c a rs s else atomSpace c a rs s
    match r with
    | (vs, none) =>
      let ((ws, e), s) := atomAll c f (rest.filter fun x => x.2 != a) s
      ((vs ++ ws, e), s)
    | (_, some (k, .wait)) =>
      let ((_, e), s) := atomAll c f (rest.filter fun x => x.2 != a) s
      (([], match e with | some (j, .stop st x y) => some (j, .stop st x y) | _ => some (k, .wait)), s)
    | r => (r, s)

/-- ATOM: misaligned in any lane, nothing is performed (R210). A compare-and-swap that fails in a lane rotates (R154). -/
def runAtom (c : Cur) (s : State) : State :=
  let lanes := lanesOf c.path.lanes
  let n := atomSize c
  match lanes.find? fun i => badAccess c i n n s with
  | some i => stopLane c i 0x31 0xF (ofSigned 64 (laneAddr c i)) s
  | none =>
    endLanes c s (fun vs s =>
      let exact := wAux c.w % 16 == 11
      let g := if exact then c.g else vs.foldl (fun g v => tyWrite v.1 (wTy c.w) (wRd c.w) v.2 g) c.g
      let failed := wAux c.w % 16 == 7 && vs.any fun v => v.2 != srcC c v.1
      endIssue c g [goOn c 8] failed s) (atomAll c 33 (lanes.map fun i => (i, (laneAddr c i).toNat)) s)

/-- ATOM. -/
def execAtom (engine group : Nat) (s : State) : Out := .next (issue 0x52 engine group (fun c s => afterRelease c runAtom s) s)

/-- EXACT_ADD at the home of a slot (R213, R214): a slot that is misaligned or lies outside the pool is refused
with no effect (R210). -/
def execExactAdd (pa : Nat) (fp64 : Bool) (values : List Nat) (s : State) : Out :=
  .next (if pa % slotBytes fp64 != 0 || !poolBacked pa then s else slotAddAll agentHub pa fp64 values s)

/-! ### EXRD (R215) -/

/-- Reads a lane's slot out at its home, and clears it. -/
def exrdLane (c : Cur) (i : Nat) (s : State) : LaneEnd × State :=
  let fp64 := wTy c.w == 6
  let n := slotBytes fp64
  let clear := bit (wAux c.w) 7
  let va := regRead c.g i (wRa c.w) 2
  if va % n != 0 then (.stop 0x31 0xF va, s)
  else match place c.e (if clear then .atomic else .read) va s with
    | (.pool pa false, s) =>
      let s := slotLocks c.e pa n s
      if rangePoisoned s pa n then (.stop 0x50 0 va, s)
      else
        let s := if clear then s else homeRun (.rdonce (pa % 128) (min n 128)) c.e (pa / 128) false s
        let v := slotNum (fpRm c) fp64 (slotRead pa n s)
        let s := if clear then hotAfter (pa + n - 1) (hotAfter pa (slotWrite c.e (linePieces pa n) (List.replicate n 0) s)) else s
        (.value (storedBits c i (wFmt c.w) v),
          s.onSlice (sliceOf (pa / 128)) fun x => { x with exactAdds := advance x.exactAdds 1 })
    | (.fault st r, s) => (.stop st r va, s)
    | (.held, s) => (.wait, s)
    | (_, s) => (.stop 0x31 0xF va, s)

/-- EXRD. -/
def execExrd (engine group : Nat) (s : State) : Out :=
  .next (issue 0x53 engine group (fun c s =>
    endLanes c s (fun vs s => endPlain c (vs.foldl (fun g v => regWrite v.1 (wRd c.w) (fmtRegs (wFmt c.w)) v.2 g) c.g) s)
      (runLanes (exrdLane c) (lanesOf c.path.lanes) s)) s)

/-! ### Counters (R158) -/

def counterOf (s : State) (e c : Nat) : BitVec 32 := tget 0 (s.engine e).counters c

/-- A counter of an engine advances; the sleeping groups of its program are ready again (R154, R158). -/
def bumpCounter (e c n : Nat) (s : State) : State :=
  s.onEngine e fun x =>
    let owners := (x.grants.filter fun g => bit g.counters c).map (·.ring)
    { x with
      counters := tput 0 x.counters c (tget 0 x.counters c + BitVec.ofNat 32 n)
      slots := x.slots.map fun p => (p.1, if owners.contains p.2.ring then { p.2 with sleeping := 0 } else p.2) }

/-- The program has reserved a counter. -/
def hasCounter (c : Cur) (k : Nat) : Bool := bit c.prog.counters k

/-- RDCNT. -/
def execRdcnt (engine group : Nat) (s : State) : Out :=
  .next (issue 0x57 engine group (fun c s => eachLane 1 (fun _ => (counterOf s c.e (wFmt c.w)).toNat) c s) s)

/-- SETCNT, with the value of the lowest lane. -/
def runSetcnt (c : Cur) (s : State) : State :=
  let k := wFmt c.w
  let i := lowest c.path
  if hasCounter c k then
    endPlain c c.g (s.onEngine c.e fun x => { x with counters := tput 0 x.counters k (BitVec.ofNat 32 (regRead c.g i (wRa c.w) 1)) })
  else stopLane c i 0x31 0xF c.path.pc s

/-- SETCNT. -/
def execSetcnt (engine group : Nat) (s : State) : Out := .next (issue 0x58 engine group runSetcnt s)

/-- A wait is satisfied: the counter has reached its target modulo 2^32 (R158). -/
def waitOver (x target : BitVec 32) : Bool := decide ((x - target).toNat < 2 ^ 31)

/-- WAIT, with the target of the lowest lane. -/
def runWait (c : Cur) (s : State) : State :=
  let k := wFmt c.w
  let t := BitVec.ofNat 32 (regRead c.g (lowest c.path) (wRa c.w) 1)
  let p := goOn c 8
  endIssue c c.g [if waitOver (counterOf s c.e k) t then p else { p with st := .counter k t }] false s

/-- WAIT. -/
def execWait (engine group : Nat) (s : State) : Out := .next (issue 0x59 engine group runWait s)

/-- Paths of a group whose counters have reached their targets become runnable. -/
def releaseWaits (e slot : Nat) (s : State) : State :=
  match tfind (s.engine e).slots slot with
  | none => s
  | some g =>
    let free (p : Path) : Path := match p.st with
      | .counter k t => if waitOver (counterOf s e k) t then { p with st := .ready } else p
      | _ => p
    if g.paths.map free = g.paths then s else setSlot e slot { g with paths := g.paths.map free } s

/-- WAIT_SATISFIED. -/
def execWaitSatisfied (engine group : Nat) (s : State) : Out := .next (releaseWaits engine group s)

/-- WAIT_TIMEOUT: a wait that is still not satisfied stops the program with FABRIC_TIMEOUT (R159). -/
def execWaitTimeout (engine group : Nat) (s : State) : Out :=
  .next (match tfind (s.engine engine).slots group with
    | none => s
    | some g =>
      match g.paths.find? fun p => match p.st with
        | .counter k t => !waitOver (counterOf s engine k) t
        | _ => false with
      | some p => stopProgram g.ring { status := 0x51, element := g.index * 32 + lowest p } s
      | none => s)

/-- FENCE (R217). -/
def execFence (engine group : Nat) (s : State) : Out :=
  .next (issue 0x5A engine group (fun c s => afterRelease c (fun c s => endPlain c c.g s) s) s)

/-! ### Copies (R157, R159) -/

/-- Elements of a box and the coordinate of one. -/
def boxCount (b : CopyBox) : Nat := b.ext.foldl (· * ·) 1
def boxCoord (b : CopyBox) (k : Nat) : List Nat :=
  (List.range b.d.rank).map fun r => nth 0 b.origin r + nth 0 (unlinear b.ext k) r
/-- Bytes of the dense box. -/
def boxBytes (b : CopyBox) : Nat := cdiv (boxCount b * tbits b.d) 8

/-- Issues a copy of a length into a space of the program's grant. -/
def startCopy (c : Cur) (va len : Nat) (box : Option CopyBox) (s : State) : State :=
  let i := lowest c.path
  let off := regRead c.g i (wRb c.w) 1
  let sp := wSpace c.w
  let k := wFmt c.w
  let fits := match curGrant c s with | some g => inSpace g sp off len | none => false
  if !fits || !hasCounter c k then stopLane c i 0x31 0xF (if fits then va else off) s
  else if (s.engine c.e).copies.length ≥ 64 then blockPath c s
  else
    let run : CopyRun := { id := (s.engine c.e).nextCopy, ring := c.g.ring, element := elementOf c i, toStaging := sp == 2,
                           dst := off, counter := k, va := va, len := len, box := box, epoch := s.xlt.epoch }
    let s := if len = 0 then s else s.onEngine c.e fun x => { x with copies := x.copies ++ [run], nextCopy := x.nextCopy + 1 }
    endPlain c c.g s

/-- COPY. -/
def execCopy (engine group : Nat) (s : State) : Out :=
  .next (issue 0x54 engine group (fun c s =>
    startCopy c (regRead c.g (lowest c.path) (wRa c.w) 2) (regRead c.g (lowest c.path) (wRc c.w) 1) none s) s)

/-- The box that a TCOPY or TSTORE names in a tensor. -/
def boxOf (c : Cur) (d : TDesc) : CopyBox :=
  let reg (j : Nat) := regRead c.g (lowest c.path) (wRc c.w + j) 1
  { d := d, origin := (List.range d.rank).map reg, ext := (List.range d.rank).map fun r => reg (8 + r) }

/-- Reads the tensor descriptor that a TCOPY or TSTORE names, and its box; a misaligned or ill-formed one stops the
program as it would a chain (R119-R121, log entry 14). -/
def withBox (c : Cur) (k : CopyBox → State → State) (s : State) : State :=
  let i := lowest c.path
  let va := regRead c.g i (wRa c.w) 2
  if va % 64 != 0 then stopLane c i 0x13 0 va s
  else match vaRead .once c.e (laneOwner c.e c.slot i) .read va 128 s with
    | (.wait, s1) => blockPath c (keepAsked s s1)
    | (.fault st r a, s1) =>
      countSlots c (stopProgram c.g.ring { status := st, role := 13, reason := r, element := elementOf c i, address := a } s1)
    | (.data b, s1) =>
      let d := parseTensor va (plain b)
      if anyPoison b then countSlots c (stopProgram c.g.ring { status := 0x50, role := 13, element := elementOf c i, address := va } s1)
      else if tensorBad d then stopLane c i 0x13 0 va s1
      else if tensorFmtBad d then stopLane c i 0x12 0 va s1
      else k (boxOf c d) s1

/-- TCOPY. -/
def execTcopy (engine group : Nat) (s : State) : Out :=
  .next (issue 0x55 engine group (fun c s => withBox c (fun b s => startCopy c b.d.at_ (boxBytes b) (some b) s) s) s)

/-- The bits of a box's element from its dense bytes. -/
def denseElem (w k : Nat) (bytes : List Byte) : Nat :=
  if w = 4 then bits (ofBytes ((bytes.drop (k / 2)).take 1)) (4 * (k % 2)) 4 else ofBytes ((bytes.drop (k * w / 8)).take (w / 8))

/-- Stores elements of a box from number k, those outside the own extent discarded (R128), up to the first that faults or has to
wait: its number. -/
def boxStore (c : Cur) (b : CopyBox) (bytes : List Byte) : Nat → Nat → State → (LaneEnd × Nat) × State
  | 0, k, s => ((.value 0, k), s)
  | f + 1, k, s =>
    let coord := boxCoord b k
    if !inOwn b.d coord then boxStore c b bytes f (k + 1) s
    else
      let idx := (List.range b.d.rank).map fun r => (ownIndex b.d r (nth 0 coord r)).toNat
      match writeRaw ⟨c.e, laneOwner c.e c.slot (lowest c.path)⟩ b.d idx (denseElem (tbits b.d) k bytes) s with
      | (.done, s) => boxStore c b bytes f (k + 1) s
      | (.fault st _ r _ a, s) => ((.stop st r a, k), s)
      | (.wait, s1) => ((.wait, k), keepAsked s s1)

/-- TSTORE from element k of its box on: a source outside the grant or a poisoned byte of it stops the program (R157, R159). A store
that has to wait keeps the tensor it has loaded and goes on from there (R119). -/
def runTstore (c : Cur) (k : Nat) (b : CopyBox) (s : State) : State :=
  let i := lowest c.path
  let off := regRead c.g i (wRb c.w) 1
  let n := boxBytes b
  match curGrant c s with
  | none => stopLane c i 0x31 0xF off s
  | some g =>
    if !inSpace g (wSpace c.w) off n then stopLane c i 0x31 0xF off s
    else if (spacePoison g (wSpace c.w)).any (fun a => decide (off ≤ a) && decide (a < off + n)) then stopLane c i 0x50 0 off s
    else match boxStore c b (memRead (spaceMem g (wSpace c.w)) off n) (boxCount b - k) k s with
      | ((.value _, _), s1) => endPlain c c.g s1
      | ((.stop st r a, _), s1) => stopLane c i st r a s1
      | ((.wait, k), s1) => blockPath { c with path := { c.path with tstore := some (b.d, k) } } s1

/-- TSTORE. -/
def execTstore (engine group : Nat) (s : State) : Out :=
  .next (issue 0x56 engine group (fun c s => match c.path.tstore with
    | some (d, k) => runTstore c k (boxOf c d) s
    | none => withBox c (runTstore c 0) s) s)

/-- Source bytes of a copy from position `done`: a range of memory. -/
def copyRange (e : Nat) (r : CopyRun) (n : Nat) (s : State) : Got × State :=
  vaRead .once e (.engine e (8192 + r.id)) .read ((r.va + r.done) % 2 ^ 64) n s

/-- Bits of a box's element with its poison: a stored element, or synthesised padding (R127), which a box past the padded extent
reads too, as `any other position`. Where reflection once leaves the own extent again R127 names no element: the value is free
(log entry 14). -/
def boxElem (e : Nat) (r : CopyRun) (b : CopyBox) (k : Nat) (s : State) : TGot × State :=
  match padSource b.d (boxCoord b k) with
  | .zero => (.raw 0 false, s)
  | .const => (.raw b.d.padValue false, s)
  | .stored idx =>
    if reflectsOut b.d (boxCoord b k) then let (x, s) := s.draw; (.raw (x.toNat % 2 ^ tbits b.d) false, s) else readRaw ⟨e, .engine e (8192 + r.id)⟩ b.d idx s

/-- Dense bytes of elements k .. k + n - 1 of a box. -/
def boxRead (e : Nat) (r : CopyRun) (b : CopyBox) : Nat → Nat → State → Got × State
  | 0, _, s => (.data [], s)
  | f + 1, k, s =>
    let w := tbits b.d
    let one (k : Nat) (s : State) : TGot × State := if k < boxCount b then boxElem e r b k s else (.raw 0 false, s)
    match one k s with
    | (.raw x bad, s) =>
      if w = 4 then
        match one (k + 1) s with
        | (.raw y bad2, s) => match boxRead e r b f (k + 2) s with
          | (.data l, s) => (.data ((BitVec.ofNat 8 (x + 16 * y), bad || bad2) :: l), s)
          | q => q
        | (.fault st _ c _ a, s) => (.fault st c a, s)
        | (_, s) => (.wait, s)
      else match boxRead e r b f (k + 1) s with
        | (.data l, s) => (.data ((toBytes (w / 8) x).map (·, bad) ++ l), s)
        | q => q
    | (.fault st _ c _ a, s) => (.fault st c a, s)
    | (_, s) => (.wait, s)

/-- Bytes of a copy land in the grant with their poison, and its counter advances; a source that faults stops the
program (R158, R159). Of a tensor box whole elements land. -/
def copyLand (e id bytes : Nat) (s : State) : State :=
  match (s.engine e).copies.find? fun r => r.id == id with
  | none => s
  | some r =>
    let unit := match r.box with | some b => elemLen b.d | none => 1
    let n := min (max unit (bytes / unit * unit)) (r.len - r.done)
    if bytes = 0 then s
    else
      let (got, s1) := match r.box with
        | some b => boxRead e r b (n / unit) (r.done * 8 / tbits b.d) s
        | none => copyRange e r n s
      match got with
      | .wait => keepAsked s s1
      | .fault st c a =>
        let s1 := s1.onEngine e fun x => { x with copies := x.copies.filter fun q => q.id != id }
        stopProgram r.ring { status := st, role := 11, reason := c, element := r.element, address := a } s1
      | .data b =>
        let s1 := s1.onEngine e fun x => { x with
          grants := x.grants.map fun g => if g.ring = r.ring then spaceWrite (if r.toStaging then 2 else 1) (r.dst + r.done) b g else g
          copies := if r.done + b.length ≥ r.len then x.copies.filter fun q => q.id != id
            else x.copies.map fun q => if q.id = id then { q with done := q.done + b.length } else q }
        let s1 := if r.done + b.length ≥ r.len then wakeEngine e s1 else s1
        bumpCounter e r.counter b.length s1

/-- COPY_DATA_ARRIVE. -/
def execCopyDataArrive (engine copyId bytes : Nat) (s : State) : Out := .next (copyLand engine copyId bytes s)

end Sys2Proof.Machine
end

