-- ==== Sys2Proof/Machine/Programs.lean ====
section
/-! DEFINITION. Engine programs (R163-R166): load, admission, the start of groups, their end, and the modes of an
engine (R148). -/

namespace Sys2Proof.Machine

/-- A program descriptor (Table 7 of chapter 06). -/
def parseProgram (b : List Byte) : ProgramRun :=
  let w := descWord b 0 8
  let v := descWord b 8 8
  { stagingKib := bits w 49 10, scratchKib := bits w 40 9, engines := bits w 32 8, regs := bits w 24 8, groups := bits w 16 8
    die := bits w 8 2, waitMs := bits v 32 16, counters := bits v 0 32, entry := descWord b 0x10 8, args := descWord b 0x18 8
    grid := bits (descWord b 0x20 8) 0 48, seed := descWord b 0x28 8 }

/-- Check 1 of Table 8 of chapter 06: REFUSED_DESCRIPTOR. -/
def programBad (b : List Byte) (p : ProgramRun) : Bool :=
  let w := descWord b 0 8
  bits w 0 8 != 1 || bits w 10 6 != 0 || bits w 59 5 != 0 || bits (descWord b 8 8) 48 16 != 0
    || bits (descWord b 0x20 8) 48 16 != 0 || descWord b 0x30 16 != 0
    || p.groups == 0 || p.engines == 0 || p.grid == 0 || decide (p.groups > 128) || decide (p.engines > 128)
    || decide (p.regs < 32) || decide (p.scratchKib > 256) || decide (p.stagingKib > 512) || p.entry == 0 || p.entry % 64 != 0

/-- Check 2: REFUSED_FIT. -/
def programUnfit (p : ProgramRun) (s : State) : Bool :=
  decide (p.groups * 128 * p.regs > 524288) || decide (p.engines > inService s 1 (p.die + 1))

/-- Loads a program (R163, R165). -/
def loadProgram (ring va : Nat) (s : State) : Load (ProgramRun × State) := do
  let ((), s) ← loadCheck ring 0x13 (va % 64 != 0) s
  let (b, s) ← loadBytes ring va 64 va s
  let p := parseProgram b
  let ((), s) ← loadCheck ring 0x13 (programBad b p) s
  let ((), s) ← loadCheck ring 0x10 (programUnfit p s) s
  .ok (p, s)

def programGrant (n : Nat) (p : ProgramRun) : Grant :=
  { ring := n, isChain := false, groups := p.groups, regs := p.regs, ways := cdiv p.scratchKib 16,
    stagingKib := p.stagingKib, counters := p.counters }

/-- The engines that a program may take now (R145, R148, R164). -/
def freeEngines (n : Nat) (p : ProgramRun) (s : State) : List Nat :=
  if dieOn s (p.die + 1) then
    ((pairsFor s p.die).map (p.die * 136 + ·)).filter fun e =>
      let m := (s.engine e).mode
      (m == 0 || m == 3) && grantFits (s.engine e) (programGrant n p) && (p.stagingKib == 0 || (s.array e).ring.isNone)
  else []

/-- Admits a program on the lowest engines it fits, or waits (R164). -/
def admitProgram (n : Nat) (p : ProgramRun) (s : State) : State :=
  let l := (freeEngines n p s).take p.engines
  if l.length < p.engines then (setProgram n p s).onRing n fun q => { q with state := .waiting }
  else
    let s := (setProgram n { p with admitted := true, used := l } s).onRing n fun q => { q with state := .running, startTicks := s.hTicks }
    l.foldl (fun s e => giveGrant e (programGrant n p) s) s

/-- PROGRAM (R163). -/
def execProgram (ring : Nat) (s : State) : Out :=
  .next (onDesc ring 0x03 (fun d s => runLoad s (loadProgram ring (descAddrOf d) s) fun p s => admitProgram ring p s) s)

/-- Groups of a program resident on an engine. -/
def residents (e : Engine) (ring : Nat) : Nat := (e.slots.filter fun x => x.2.ring == ring).length

/-- The lowest free group slot of an engine. -/
def freeSlot (e : Engine) : Option Nat := firstBelow 128 fun k => (tfind e.slots k).isNone

/-- The next group of a program starts in a free slot of its reservation (R153, R164): one path of 32 lanes at
ENTRY, every register 0. -/
def startGroup (n e : Nat) (s : State) : State :=
  match programOf s n with
  | none => s
  | some p =>
    if !p.admitted || p.stop.isSome || !p.used.contains e || decide (p.next ≥ p.grid) || decide (residents (s.engine e) n ≥ p.groups) then s
    else match freeSlot (s.engine e) with
      | none => s
      | some k =>
        let g : Group := { ring := n, index := p.next, paths := [{ pc := p.entry, lanes := 0xFFFFFFFF }] }
        setSlot e k g (setProgram n { p with next := p.next + 1, live := p.live ++ [p.next] } s)

/-- GROUP_START (R164). -/
def execGroupStart (ring engine : Nat) (s : State) : Out := .next (startGroup ring engine s)

/-- Every thread of every group has exited (R166). -/
def programDone (p : ProgramRun) : Bool := p.finished + p.first == p.grid

/-- The record of a program that has ended (R166, R328): the lowest group index not completed, and how many
completed. -/
def programRes (p : ProgramRun) : Res :=
  match p.stop with
  | some r => { r with progress := p.live.foldl min p.next, second := p.first + p.finished }
  | none => { progress := p.grid, second := p.first + p.finished }

/-- The program gives back what it holds: its grants, groups, copies and the answers they wait for. -/
def releaseProgram (n : Nat) (p : ProgramRun) (s : State) : State :=
  p.used.foldl (fun s e =>
    let x := s.engine e
    let mine (o : Owner) : Bool := match o with
      | .engine f k => f == e && (if k ≥ 8192 then x.copies.any (fun r => r.ring == n && r.id + 8192 == k)
          else x.slots.any (fun g => g.1 == k / 32 && g.2.ring == n))
      | _ => false
    let s := (endGrant e n s).onLink fun l => { l with
      reads := l.reads.filter fun r => !mine r.owner
      arrived := l.arrived.filter fun a => !mine a.owner }
    s.onFab fun f => { f with tx := f.tx.map fun t => if mine t.owner then { t with owner := .event } else t }) s

/-! ### Modes (R148, R149) -/

/-- RECOVERY_MODE_EXIT. -/
def execRecoveryModeExit (engine : Nat) (s : State) : Out :=
  .next (if (s.engine engine).mode = 3 then s.onEngine engine fun e => { e with mode := 0, reason := 0, cleanTurns := 0 } else s)

/-- ENGINE_CHECK_DONE: the engines of a powered die leave start-up mode. -/
def execEngineCheckDone (engine : Nat) (s : State) : Out :=
  .next (if (s.engine engine).mode = 1 && dieOn s (engine / 136 + 1) then
      s.onEngine engine fun e => { e with mode := 0, reason := 0 }
    else s)

end Sys2Proof.Machine
end

