-- ==== Sys2Proof/Machine/Power.lean ====
section
/-! DEFINITION. Commands of the power manager (chapter 14): samples, steps, credit, junctions, lid, safety net,
coolant, wear, forecast, hints and fixed-rate mode. -/

namespace Sys2Proof.Machine

/-! ### Samples and steps -/

/-- A sample is kept (R365): domain powers, hottest junctions, the window of 10 ms. -/
def keepSample (r : PowerReading) (s : State) : State :=
  let s := s.onPwr fun p => { p with window := (r :: p.window).take 1000 }
  let s := allDomains.foldl (fun s d => s.onDomain d fun x => { x with powerMw := nth x.powerMw r.domainMw d }) s
  (List.range 9).foldl (fun s die => onTherm die (fun t => { t with junction := nth t.junction r.junctions die }) s) s

/-- POWER_SAMPLE (R365, R368): while the sample exceeds the ceiling, a lowering step; where the average over 500 us
does, every array domain moves to OP0. Both count as the reason "electrical". -/
def execPowerSample (reading : PowerReading) (s : State) : Out :=
  let s := keepSample reading s
  let top := ceiling s * 1000
  let s := if top < reading.inputMw then lowerStep true (markCeiling (lowerChoice s true).toList s) else s
  let s := if top < reading.avg500Mw then zeroDomains (List.range 32) (markCeiling ((List.range 32).filter fun d => decide (0 < (s.domain d).inForce)) s) else s
  .next (reasonsUpdate s)

/-- POWER_STEP (R366, R367). -/
def execPowerStep (s : State) : Out :=
  .next (reasonsUpdate (if (powerLimit s).1 < inputMw s then lowerStep false s else raiseStep s))

/-- DOMAIN_IDLE_LOWER (R363). A domain in fixed-rate mode keeps its point: it never slows without record 0x65
(R379, R380). -/
def execDomainIdleLower (domain : Nat) (s : State) : Out :=
  .next (if domainBusy s domain || fixedOn s domain || dieFrozen s (domainDie domain) || decide (43 ≤ domain) then s
    else reasonsUpdate (s.onDomain domain fun x => { x with inForce := 0 }))

/-- CREDIT_UPDATE (R370): B ← B + (E - P) × 1 ms, in uJ, held at 0 during coolant loss (R376). -/
def execCreditUpdate (avgMw : Nat) (s : State) : Out :=
  .next (if s.pwr.coolantLoss then s
    else creditCheck (s.onPwr fun p => { p with balanceUj := min (capacityUj s) (p.balanceUj + envelope s * 1000 - avgMw) }))

/-! ### Junctions (R372) -/

/-- THERMAL_LIMIT_STEP. -/
def execThermalLimitStep (die : Nat) (junction : Int) (s : State) : Out :=
  let step (t : Therm) : Therm :=
    { t with junction := junction
             limit := if junction ≥ 980 then t.limit - 1 else if junction < 950 then min 7 (t.limit + 1) else t.limit }
  .next (powerSettle (onTherm die step s))

/-- A junction in 0.1 degC as the 64 bits of a record (Table 15 of chapter 14). -/
def junctionBits (j : Int) : Nat := ofSigned 64 j

/-- THERMAL_TRIP: at 105 degC the die's domains move to OP0 in hardware, and record 0x66 is placed. -/
def execThermalTrip (die : Nat) (junction : Int) (s : State) : Out :=
  .next (if junction < 1050 || (thermOf s die).tripped then onTherm die (fun t => { t with junction := junction }) s
    else
      let s := zeroDomains (allDomains.filter fun d => domainDie d == die)
        (onTherm die (fun t => { t with tripped := true, junction := junction }) (abandonActivation s))
      reasonsUpdate (eventDie 0x66 1 die (junctionBits junction) die 0 s))

/-- THERMAL_TRIP_CLEAR: below 95 degC the trip ends. -/
def execThermalTripClear (die : Nat) (junction : Int) (s : State) : Out :=
  .next (if junction < 950 && (thermOf s die).tripped then
      reasonsUpdate (eventDie 0x66 2 die (junctionBits junction) die 0
        (onTherm die (fun t => { t with tripped := false, junction := junction }) s))
    else onTherm die (fun t => { t with junction := junction }) s)

/-- COLD_JUNCTION_HOLD: below 0 degC every domain is held at OP0 and no descriptor is admitted; record 0x6A marks the
beginning of the hold. -/
def execColdJunctionHold (die : Nat) (junction : Int) (s : State) : Out :=
  .next (if junction < 0 then
      let begun := coldHold s
      let s := onTherm die (fun t => { t with cold := true, junction := junction }) s
      powerSettle (if begun then s else eventDie 0x6A 1 die (junctionBits junction) die 0 s)
    else onTherm die (fun t => { t with junction := junction }) s)

/-- COLD_JUNCTION_END: the hold ends with the last die that was below 0 degC. -/
def execColdJunctionEnd (die : Nat) (junction : Int) (s : State) : Out :=
  .next (
    let s' := onTherm die (fun t => { t with cold := t.cold && decide (junction < 0), junction := junction }) s
    if coldHold s && !coldHold s' then reasonsUpdate (eventDie 0x6A 2 die (junctionBits junction) die 0 s') else s')

/-! ### Lid, safety net, coolant -/

/-- LID_RECHECK (R359): a code other than that of the cold reset acts as coolant loss until the next cold reset. -/
def execLidRecheck (code : BitVec 3) (s : State) : Out :=
  let s := s.onPins fun p => { p with lid := code }
  .next (if code != s.pins.lidAtReset && !s.pwr.srcLid then coolantSource 3 s else s)

/-- SAFETY_NET_ASSERT (R375). -/
def execSafetyNetAssert (regulator : Nat) (s : State) : Out := .next (safetyNet regulator s)

/-- SAFETY_NET_RELEASE (R375): every alert has been deasserted for 10 ms. -/
def execSafetyNetRelease (s : State) : Out :=
  .next (if s.pwr.safetyNet then
      let r := s.pwr.alerts.headD 0
      let die := if r < 43 then domainDie r else 0
      let hold := s.hTicks.toNat - s.pwr.safetySince
      let s := s.onPwr fun p => { p with safetyNet := false, alerts := [] }
      reasonsUpdate (eventUnit 0x60 2 0 hold die (domainInDie r) 10 r 0 0 s)
    else s)

/-- COOLANT_LOSS (R376): COOLANT_LOSS# has been low for 100 us. -/
def execCoolantLoss (s : State) : Out :=
  let s := s.onPins fun p => { p with coolantLow := true }
  .next (if s.pwr.srcPin then s else coolantSource 1 s)

/-- COOLANT_LOSS_END (R376): the input is high again, and where no other source is active coolant loss ends. -/
def execCoolantLossEnd (s : State) : Out :=
  let s := (s.onPins fun p => { p with coolantLow := false }).onPwr fun p => { p with srcPin := false }
  .next (if s.pwr.coolantLoss && !s.pwr.srcBus && !s.pwr.srcLid then
      reasonsUpdate (event 0x64 4 0 0 (s.onPwr fun p => { p with coolantLoss := false }))
    else s)

/-! ### Wear (R373, R374) -/

/-- Seconds are charged to a domain's newest bucket. -/
def chargeWear (x : Domain) (secs : Nat) : Domain :=
  match x.wear with
  | [] => if secs = 0 then x else { x with wear := [secs] }
  | w :: ws => { x with wear := (w + secs) :: ws }

/-- Buckets of a domain, newest first, with the seconds that have not been written to flash (R373). -/
def wearBuckets (x : Domain) : List Nat := (chargeWear x (x.wearTicks / 100000000)).wear

/-- Wear of a domain in the window, in s. -/
def wearTotal (x : Domain) : Nat := (wearBuckets x).foldl (· + ·) 0

/-- Powered time in the window, in s: at most 720 hours (R373). -/
def windowSecs (s : State) : Nat := min 2592000 (s.flash.hours * 3600 + (s.flash.part + s.pwr.ledgerTicks) / 100000000)

/-- Fifty times the budget in s: the greater of 24 h and the powered time in the window (R374). -/
def wearFifty (s : State) : Nat := max 86400 (windowSecs s)

/-- Budget in s: 0.02 of that, in whole seconds. -/
def wearBudget (s : State) : Nat := cdiv (wearFifty s) 50

/-- WEAR_CAPPED of a domain after its ledger or the powered time has changed, with record 0x62 (R374). -/
def wearCheck (d : Nat) (s : State) : State :=
  let x := s.domain d
  let w := wearTotal x
  if !x.wearCapped && decide (wearFifty s ≤ 50 * w) then event 0x62 1 d w (s.onDomain d fun x => { x with wearCapped := true })
  else if x.wearCapped && decide (5000 * w ≤ 95 * wearFifty s) then event 0x62 2 d w (s.onDomain d fun x => { x with wearCapped := false })
  else s

/-- Every domain's wear against its budget. -/
def wearCheckAll (s : State) : State := powerSettle (allDomains.foldl (fun s d => wearCheck d s) s)

/-- Powered time enters the ledger: its whole hours, with a new bucket for each 24 of them, and what is left (R373). -/
def ledgerHours (ticks : Nat) (s : State) : State :=
  let n := (s.flash.part + ticks) / 360000000000
  let h := s.flash.hours
  let new := (h + n) / 24 - h / 24
  let s := s.onFlash fun f => { f with hours := h + n, part := (f.part + ticks) % 360000000000 }
  let shift (x : Domain) : Domain := if x.wear.isEmpty then x else { x with wear := (List.replicate new 0 ++ x.wear).take 30 }
  if new = 0 then s else allDomains.foldl (fun s d => s.onDomain d shift) s

/-- The time at OP6 and OP7 since the last write enters the ledger (R373). -/
def ledgerWear (s : State) : State :=
  allDomains.foldl (fun s d => s.onDomain d fun x => { x with wear := wearBuckets x, wearTicks := x.wearTicks % 100000000 }) s

/-- WEAR_LEDGER_WRITE (R373): an hour's wear enters the ledger. -/
def execWearLedgerWrite (s : State) : Out :=
  .next (wearCheckAll (ledgerHours 360000000000 ((ledgerWear s).onPwr fun p => { p with ledgerTicks := 0 })))

/-- The ledger is written before power goes, in order (R373, R434). -/
def ledgerWritten (s : State) : State :=
  ledgerHours s.pwr.ledgerTicks ((ledgerWear s).onPwr fun p => { p with ledgerTicks := 0 })

/-- Power is lost without an orderly shutdown: the powered time since the last write is charged to every domain whose
MAX_OP was above 5 (R373). -/
def ledgerCharged (s : State) : State :=
  let k := s.pwr.ledgerTicks / 100000000
  let charge (x : Domain) : Domain := if 5 < x.maxOp then chargeWear { x with wearTicks := 0 } k else { x with wearTicks := 0 }
  ledgerHours s.pwr.ledgerTicks ((allDomains.foldl (fun s d => s.onDomain d charge) s).onPwr fun p => { p with ledgerTicks := 0 })

/-! ### Forecast and hints (R381, R382) -/

/-- A hint's interval covers a moment given in ticks of H. -/
def hintCovers (h : Hint) (t : Nat) : Bool :=
  let b := h.atTicks + h.startMs * 100000
  decide (b ≤ t) && decide (t < b + h.durationMs * 100000)

/-- H(h) in W (R381). -/
def hintForecast (s : State) (ms : Nat) : Nat :=
  nth 300000 Config.rungMw s.pwr.rung / 1000
    + s.pwr.hints.foldl (fun a h => if hintCovers h (s.hTicks.toNat + ms * 100000) then a + h.watts else a) 0

/-- Some ring holds or queues work (R381). -/
def workQueued (s : State) : Bool := s.rings.any fun r => r.2.op.isSome || (ringEn r.2 && r.2.head != r.2.tail)

/-- Work of a ring as the forecast takes it: how long it runs in ms, none until it completes; its die and the units it declares. -/
structure Work where
  ms : Option Nat
  die : Nat := 0
  units : Nat := 0
  deriving DecidableEq, Repr

/-- A chain runs as many beats as its remaining tiles take on its arrays, at the lowest beat rate of its die's domains (R381, Table 1
of chapter 03). -/
def chainWork (s : State) (c : ChainRun) : Work :=
  let op := ((span (c.d.die * 8) 8).map fun d => (s.domain d).inForce).foldl min 7
  let f := match c.a with | some t => t.fmt | none => .fp32
  let beats := (tileCount c - max c.first c.committed) * (if c.d.product then passCount c * passBeats f c.d.ks else 64)
  { ms := some (cdiv beats (max 1 c.d.arrays * nth 1 Config.beatRate op * 1000)), die := c.d.die + 1, units := c.d.arrays }

/-- The work of an operation. What declares no units adds none. -/
def opWork (s : State) : Op → Work
  | .chain c => chainWork s c
  | .program p => { ms := none, die := p.die + 1, units := p.engines }
  | .finished _ => { ms := some 0 }
  | _ => { ms := none }

/-- The work of a descriptor that is queued, as it would be loaded now. -/
def descWork (n : Nat) (s : State) (d : List Byte) : Work :=
  match descWord d 0 1 with
  | 0 => { ms := some 0 }
  | 1 => match loadChain n (descAddrOf d) s with | .ok (c, _) => chainWork s c | .error _ => { ms := some 0 }
  | 3 => match loadProgram n (descAddrOf d) s with | .ok (p, _) => opWork s (.program p) | .error _ => { ms := some 0 }
  | 9 => { ms := some 0 }
  | _ => { ms := none }

/-- The work of ring n, in order: what it runs or has accepted, then the descriptors queued in device memory. -/
def ringWork (s : State) (n : Nat) : List Work :=
  let q := s.ring n
  let now := match q.op, q.desc with
    | some o, _ => [opWork s o]
    | none, some d => [descWork n s d]
    | none, none => []
  let queued := if ringEn q && !ringHost q.sq then span q.head.toNat ((q.tail - q.head).toNat) else []
  now ++ queued.map fun k => descWork n s (plain (poolRead .once agentHub (ringBase q.sq + 64 * ringIndex q (k % 2 ^ 32)) 64 s).1)

/-- The work of a ring that runs at a time from now in ms: its descriptors run one after another. -/
def workAt (ms : Nat) : Nat → List Work → Option Work
  | _, [] => none
  | t, w :: ws => match w.ms with
    | none => some w
    | some k => if ms < t + k then some w else workAt ms (t + k) ws

/-- Power that R366 predicts for a domain at its target. -/
def predictedMw (s : State) (d : Nat) : Nat :=
  let x := s.domain d
  let v (op : Nat) := nth 0 Config.railMv op
  let base := v x.inForce * v x.inForce * rateOf d x.inForce
  if base = 0 then x.powerMw else x.powerMw * (v (targetOp s d) * v (targetOp s d) * rateOf d (targetOp s d)) / base

/-- Q(h) in W: a function of the chains and programs expected to run and of the domains' predicted powers (R381, log entry 1). -/
def workForecast (s : State) (ms : Nat) : Nat :=
  let work := ((s.rings.filterMap fun r => workAt ms 0 (ringWork s r.1)).filter fun w => w.units != 0).map fun w => (w.die, w.units)
  if work.isEmpty then 0 else (Config.forecastWatts work (allDomains.map (predictedMw s))).toNat

/-- F(h) in W: the greater of Q(h) and H(h), at most the ceiling (R381). -/
def forecast (s : State) (ms : Nat) : Nat := min (ceiling s) (max (workForecast s ms) (hintForecast s ms))

/-- FORECAST_PUBLISH. -/
def execForecastPublish (s : State) : Out :=
  let w := pack [(inputAvgMw s / 1000 % 65536, 0), (forecast s 100, 16), (forecast s 1000, 32), (forecast s 10000, 48)]
  .next (s.onPwr fun p => { p with forecast := w })

/-- POWER_HINT (R382). -/
def execPowerHint (ring : Nat) (s : State) : Out :=
  .next (onDesc ring 0x09 (fun d s =>
    let h : Hint := { startMs := descWord d 8 4, durationMs := descWord d 12 4, watts := descWord d 16 2, atTicks := s.hTicks.toNat }
    let live := s.pwr.hints.filter fun h => decide (s.hTicks.toNat < h.atTicks + (h.startMs + h.durationMs) * 100000)
    if h.durationMs = 0 ∨ ceiling s < h.watts then refuse ring 0x13 s
    else if live.length ≥ 64 then refuse ring 0x10 s
    else
      let s := s.onPwr fun p => { p with hints := live ++ [h] }
      complete ring { status := 0, second := forecast s 1000 } (s.onRing ring fun q => { q with startTicks := s.hTicks })) s)

/-! ### Fixed-rate mode (R379) -/

/-- The lowest point, no higher than OP5, whose guaranteed beat rate is at least a rate. -/
def pointForRate (rate : Nat) : Nat := (firstBelow 6 fun i => decide (rate ≤ nth 0 Config.beatRateMin i)).getD 5

/-- A write of PWR_FIXED is refused (R379). -/
def fixedBad (w : Word) (s : State) : Bool :=
  let rate := field w 0 12
  let op := pointForRate rate
  field w 28 4 != 0 && (rate == 0 || decide (2200 < rate)
    || (List.range 32).any fun d => flag w (28 + d / 8) && decide (ratedMax s d < op))

/-- A write of PWR_FIXED (Table 11 of chapter 14). CHOSEN_OP reads 0 while the mode is off. -/
def fixedWrite (part : Part) (val : Word) (s : State) : State :=
  let w := partWrite s.pwr.fixed 0xF0000FFF part val
  if fixedBad w s then s.onPwr fun p => { p with fixErr := true }
  else
    let op := if field w 28 4 = 0 then 0 else pointForRate (field w 0 12)
    powerSettle (s.onPwr fun p => { p with fixed := maskWrite w 0x700000000 (pack [(op, 32)]) })

/-- PWR_FIXED_WRITE. -/
def execPwrFixedWrite (part : Part) (val : Word) (s : State) : Out := .next (whenReady (fixedWrite part val) s)

end Sys2Proof.Machine
end

