-- ==== Sys2Proof/Machine/Clock.lean ====
section
/-! DEFINITION. The tick that an empty queue stands for (log entry 2). -/

namespace Sys2Proof.Machine

/-- Dies whose interval counters run besides H's: those that are powered (R22). -/
def tickDies (s : State) : List Nat := (span 1 8).filter fun d => !s.pwr.dieOff.contains d

/-- The throttling counters over a tick: a tick for each reason in force, and one with a rate not held (R378, R380). -/
def tickThrottle (s : State) : State :=
  let bits := moduleReasons s
  let count (t : Sparse Throttle) (r : Nat) : Sparse Throttle :=
    if bit bits (r - 1) then tput {} t r { tget {} t r with ticks := advance (tget {} t r).ticks 1 } else t
  let some_ := s.pwr.domains.any fun d => d.2.rnh.isSome
  s.onPwr fun p => { p with
    throttle := (span 1 8).foldl count p.throttle
    rnh := if some_ then { p.rnh with ticks := advance p.rnh.ticks 1 } else p.rnh }

/-- Time at OP6 and OP7 over a tick, and the time since the ledger was written (R373). -/
def tickWear (s : State) : State :=
  s.onPwr fun p => { p with
    ledgerTicks := p.ledgerTicks + 1
    domains := p.domains.map fun d => (d.1, if 6 ≤ d.2.inForce then { d.2 with wearTicks := d.2.wearTicks + 1 } else d.2) }

/-- A domain whose wear has come to a further second may reach its budget; a further second of powered time may raise that of one
whose points are capped (R374). -/
def wearTick (s : State) : State :=
  let ds := (s.pwr.domains.filter fun d => (decide (6 ≤ d.2.inForce) && d.2.wearTicks % 100000000 == 0)
    || (d.2.wearCapped && s.pwr.ledgerTicks % 100000000 == 0)).map (·.1)
  if ds.isEmpty then s
  else
    let s' := ds.foldl (fun s d => wearCheck d s) s
    if ds.any fun d => (s'.domain d).wearCapped != (s.domain d).wearCapped then powerSettle s' else s'

/-- What stood on the fabric's ports has left, and stays in the retry buffers for a tick (R255, R277; log entry 98). -/
def tickPorts (s : State) : State :=
  let last (p : Nat) (x : FabPort) : Bool :=
    match (s.fab.out.filter fun m => m.port == p).getLast? with
    | some m => isTransit m
    | none => x.lastFwd
  s.onFab fun f => { f with
    out := [], retryBuf := f.out
    ports := (f.ports.map fun p => (p.1, { p.2 with queued := 0, lastFwd := last p.1 p.2 })).filter fun p => p.2 != {} }

/-- P1's copy of P0's interval counter, from which the time CSR of its cores reads: monotonic, and within 20 ns of it. How far
it lags is a free value (R196; log entry 79). -/
def tickTime (s : State) : State :=
  let (lag, s) := s.draw
  let p0 := tget 0 s.dieTicks 5
  s.onCoh fun c => { c with timeP1 := BitVec.ofNat 64 (max c.timeP1.toNat (p0.toNat - lag.toNat % 3)) }

/-- One tick of the 100 MHz interval counters (R22): H's own and those of the powered dies advance, and with the module
at work what its tick counts (log entry 2). Throttling and wear are counted whenever the module is powered, before device-ready
too (R373, R378). -/
def tick (s : State) : State :=
  let s := { s with
    hTicks := s.hTicks + 1
    dieTicks := (tickDies s).foldl (fun t d => tput 0 t d (tget 0 t d + 1)) s.dieTicks }
  let s := if s.boot.island then wearTick (tickWear (tickThrottle s)) else s
  if s.boot.ready then tickTime (switchTick (tickPorts s)) else s

end Sys2Proof.Machine
end

