-- ==== Sys2Proof/Machine/RepairOps.lean ====
section
/-! DEFINITION. Repair (chapter 15): spares (R388, R389), the move of a pair or core to its spare (R394), retirements
of pairs, cores, ways and granules (R393, R394), and units on the sideshow (R398, R400). -/

namespace Sys2Proof.Machine

/-! ### Units and spares -/

/-- Units of a kind on a die, and units of one domain: pairs or cores. -/
def unitCount (kind : Nat) : Nat := if kind = 1 then 136 else 76
def unitsPerDomain (kind : Nat) : Nat := if kind = 1 then 17 else 19

/-- Engine and array of a pair; number of a core; both from a die code. -/
def pairIndex (die unit : Nat) : Nat := (die - 1) * 136 + unit
def coreIndex (die unit : Nat) : Nat := (die - 5) * 76 + unit

/-- The unit exists: a pair of a compute die or a core of a processor die. -/
def unitExists (kind die unit : Nat) : Bool :=
  (kind == 1 && decide (1 ≤ die) && decide (die ≤ 4) && decide (unit < 136))
    || (kind == 4 && decide (5 ≤ die) && decide (die ≤ 6) && decide (unit < 76))

/-- Places a record of chapter 15 about a unit (R405): die and unit layers. -/
def eventRep (cls reason addr param kind die unit count : Nat) (s : State) : State :=
  let dom := if kind = 1 then unit / 17 else if kind = 4 then unit / 19 else if kind = 10 then domainInDie unit else 0
  eventUnit cls reason addr param die dom kind unit 0 count s

/-- Free spares of a die. -/
def freeSpares (s : State) (kind die : Nat) : List Nat :=
  (List.range (unitCount kind)).filter fun u => (repEntry s kind die u).state == 1

/-- Units of a die whose retirement is decided and that still wait to move. -/
def markedUnits (s : State) (kind die : Nat) : List Nat :=
  (List.range (unitCount kind)).filter fun u => let e := repEntry s kind die u; (e.state == 0 || e.state == 2) && e.cause != 0

/-- Of some free spares, the one of a unit: the lowest of its voltage domain, else of its die (R389). -/
def spareOf (kind : Nat) (free : List Nat) (unit : Nat) : Option Nat :=
  match free.find? fun u => u / unitsPerDomain kind == unit / unitsPerDomain kind with
  | some u => some u
  | none => free.head?

/-- Free spares that are left when units have been served in turn. -/
def sparesAfter (kind : Nat) (free : List Nat) (units : List Nat) : List Nat :=
  units.foldl (fun l u => match spareOf kind l u with
    | some sp => without l sp
    | none => l) free

/-- The spare of a unit: those that wait for one at this moment are served in ascending unit number (R389). -/
def pickSpare (s : State) (kind die unit : Nat) : Option Nat :=
  spareOf kind (sparesAfter kind (freeSpares s kind die) ((markedUnits s kind die).filter (· < unit))) unit

/-! ### Moves (R82, R394) -/

/-- The oldest group of an array with a tile that has not drained. -/
def restartGroup (c : ChainRun) (j : Nat) (ar : Array) : Nat :=
  match ar.drainable with
  | [] => ar.group
  | r :: _ =>
    let holds (g : Nat) : Bool := match groupTiles c j g with | some l => l.contains r.tile | none => false
    ((List.range (ar.group + 1)).reverse.find? holds).getD ar.group

/-- An array's work on its new array (R82): the windows and accumulators of the tiles in flight are discarded, and the array
stands before the first pass of the oldest group that has one. Its buffers open again for the passes from there on; what has
landed in them is lost (log entry 18). The receive area goes along. -/
def movedArray (c : ChainRun) (j : Nat) (ar : Array) (ctr : ArrayCtr) : Array :=
  if !c.d.product then { ar with ctr := ctr }
  else
    let g := restartGroup c j ar
    let no := (List.range g).foldl (fun k m => k + ((groupTiles c j m).getD []).length * passCount c) 0
    let opens (k : Nat) : Option Nat := if (posAhead c j k (g, 0, 0)).isSome then some (no + k) else none
    let buf (b : Nat) : Option Nat := if !c.d.twoBufs then (if b = 0 then opens 0 else none) else opens ((b + no) % 2)
    { ar with
      ctr := ctr, group := g, pass := 0, turn := 0, passNo := no, tiles := [], drainable := [], drained := 0, luts := [], staging := false
      running := false, beat := 0, stall := 0, stagedA := [], stagedB := [], open0 := buf 0, open1 := buf 1, counts := []
      landed := ar.landed.filter fun x => decide (receiveKey 0 ≤ x.1), landedBad := ar.landedBad.filter fun x => decide (receiveKey 0 ≤ x) }

/-- A chain's array has moved: the counters of its slices start from 0 on the new engine, and its openings are published anew
(R82, R109). -/
def reopenArray (n : Nat) (a : Nat) (s : State) : State :=
  match chainOf s n with
  | none => s
  | some c =>
    if !c.d.product then s
    else
      let s := s.onEngine a fun g => { g with counters := c.slices.foldl (fun m e => tput 0 m e.counter 0) g.counters }
      let j := arrayIndex c a
      let s := publish n c j 0 (((s.array a).open0).getD (2 ^ 64 - 1)) s
      if c.d.twoBufs then publish n c j 1 (((s.array a).open1).getD (2 ^ 64 - 1)) s else s

/-- A number under which engine u's accesses are owned becomes engine v's. -/
def movedOwner (u v : Nat) (o : Owner) : Owner := match o with | .engine e k => .engine (if e = u then v else e) k | o => o

/-- What core k has under way belongs to core m. -/
def movedCore (k m : Nat) (o : Owner) : Owner := match o with | .core x => .core (if x = k then m else x) | o => o

/-- The host's reads and writes under way, their answers and the fabric's packets get other owners. -/
def renameOwners (own : Owner → Owner) (s : State) : State :=
  let s := s.onLink fun l => { l with
    posted := l.posted.map fun (p : Posted) => { p with owner := own p.owner }
    reads := l.reads.map fun (p : HostRead) => { p with owner := own p.owner }
    arrived := l.arrived.map fun (p : Arrived) => { p with owner := own p.owner } }
  s.onFab fun f => { f with tx := f.tx.map fun (t : TxPkt) => { t with owner := own t.owner } }

/-- One number of a list replaced. -/
def renamed (u v : Nat) (l : List Nat) : List Nat := l.map fun x => if x = u then v else x

/-- The operation of a ring names its units by their new numbers. -/
def movedOp (u v : Nat) : Op → Op
  | .chain c => .chain { c with arrays := renamed u v c.arrays }
  | .program p => .program { p with used := renamed u v p.used }
  | o => o

/-- Everything outside the engines that names pair u names pair v. -/
def renamePair (u v : Nat) (s : State) : State :=
  let s := { s with rings := s.rings.map fun (r : Nat × Ring) => (r.1, { r.2 with op := r.2.op.map (movedOp u v) }) }
  renameOwners (movedOwner u v) s

/-- A condition of recovery mode (R148). It enters that mode, with its record and count (R149, R167), from dual-issue mode; in
recovery mode it is a further event that starts the 65,536 turns again, with no entry. DESIGN CHOICE: the start-up and test modes,
which R148 ends by other conditions, go on through it (log entry 101). -/
def enterRecovery (eng reason : Nat) (s : State) : State :=
  if (s.engine eng).mode = 3 then s.onEngine eng fun e => { e with cleanTurns := 0 } else if (s.engine eng).mode ≠ 0 then s else
  let s := s.onEngine eng fun e => { e with
    mode := 3, reason := reason, cleanTurns := 0, ctr := { e.ctr with rrEntries := advance e.ctr.rrEntries 1 } }
  eventUnit 0x50 reason 0 0 (eng / 136 + 1) (eng % 136 / 17) 2 (eng % 136) 0 0 s

/-- An engine enters test mode (R148, R167). -/
def testMode (eng : Nat) (s : State) : State :=
  s.onEngine eng fun g => { g with mode := 2, reason := 2, ctr := { g.ctr with rrEntries := advance g.ctr.rrEntries 1 } }

/-- The work of pair u goes to pair v of its die, with its logical position: the array's tiles, the engine's groups,
registers, scratch, staging, counters and grants (R394). Each keeps its own counter records; u's private lines are
cleaned, and v's engine enters recovery mode with reason 5. -/
def movePair (u v : Nat) (s : State) : State :=
  let s := privEmpty u s
  let au := s.array u
  let eu := s.engine u
  let moved := match arrayChain s u with
    | some (_, c) => movedArray c ((c.arrays.findIdx? (· == u)).getD 0) au (s.array v).ctr
    | none => { au with ctr := (s.array v).ctr }
  let s := (s.onArray v fun _ => moved).onArray u fun a => { ctr := a.ctr }
  let s := (s.onEngine v fun e => { eu with ctr := e.ctr }).onEngine u fun e => { mode := e.mode, reason := e.reason, ctr := e.ctr }
  let s := renamePair u v s
  let s := match arrayChain s v with | some (n, _) => reopenArray n v s | none => s
  enterRecovery v 5 s

/-- The work of core k goes to core m, with its mhartid and interrupt files, what it has under way outside the module too: its caches are cleaned and its reservation is
lost (R394). -/
def moveCore (k m : Nat) (s : State) : State :=
  let s := renameOwners (movedCore k m) (privEmpty (544 + k) s)
  let c := s.core k
  (s.onCore m fun _ => { c with hart := some (c.hart.getD k), reservation := none, lrDelay := false, l1d := [], l1i := [] }).onCore k fun _ => { wfi := true, wfiSince := s.hTicks.toNat }

/-- The move of a unit of either kind. -/
def moveUnit (kind die u v : Nat) (s : State) : State :=
  if kind = 1 then movePair (pairIndex die u) (pairIndex die v) s else moveCore (coreIndex die u) (coreIndex die v) s

/-- A pair does no work: no chain holds its array, and its engine has no grant. -/
def pairIdle (s : State) (e : Nat) : Bool := (s.array e).ring.isNone && (s.engine e).grants.isEmpty && (s.engine e).slots.isEmpty

/-! ### Sideshow (R398, R400) -/

/-- The entry of a unit on the sideshow. -/
def sideOf (s : State) (kind die unit : Nat) : Option (Nat × Nat × Nat × Nat) :=
  s.rep.side.find? fun x => x.1 == die && x.2.1 == kind && x.2.2.1 == unit

def sideDrop (kind die unit : Nat) (s : State) : State :=
  s.onRep fun r => { r with side := r.side.filter fun x => !(x.1 == die && x.2.1 == kind && x.2.2.1 == unit) }

/-- A unit comes back from the sideshow by the move in the other direction, and its stand-in is free again. A unit
tested without a move stays a free spare. -/
def sideReturn (kind die unit : Nat) (s : State) : State :=
  match sideOf s kind die unit with
  | none => s
  | some (_, _, _, sp) =>
    let s := sideDrop kind die unit s
    if sp = 0xFFFF then
      if kind = 1 ∨ kind = 4 then
        let s := setRep kind die unit { state := 1 } s
        if kind = 1 then s.onEngine (pairIndex die unit) fun e => { e with mode := 0, reason := 0 } else s
      else if kind = 8 then lanesBack unit s
      else s
    else powerSettle (setRep kind die unit { } (setRep kind die sp { state := 1 } (moveUnit kind die sp unit s)))
where
  /-- A Dembet port runs on both lanes again (R398). -/
  lanesBack (port : Nat) (s : State) : State :=
    if (s.port port).state = 5 then s.onPort port fun x => { x with state := 3 } else s

/-- The unit that a test has on the sideshow returns at once, untested (R400). -/
def testReturn (t : TestRun) (s : State) : State :=
  match t.onSide with
  | none => s
  | some u => eventRep 0x76 4 0 t.standIn t.kind t.die u 0 (sideReturn t.kind t.die u s)

/-- The ring whose test has a unit on the sideshow. -/
def testRing (s : State) (kind die unit : Nat) : Option (Nat × TestRun) :=
  s.rings.findSome? fun r => match r.2.op with
    | some (.test t) => if t.kind == kind && t.die == die && t.onSide == some unit then some (r.1, t) else none
    | _ => none

/-- A unit on the sideshow returns for want of its stand-in, and its test is deferred with reason 5 (R400). -/
def deferTest (kind die u : Nat) (s : State) : State :=
  match testRing s kind die u with
  | some (n, t) => (testReturn t s).onRing n fun q => { q with
      op := some (.test { t with onSide := none, stop := some { status := 0x01, progress := t.treated, second := 5 } }) }
  | none => sideReturn kind die u s

/-- A retirement takes a spare that stands in for a unit on the sideshow (R400). -/
def takeStandIn (kind die : Nat) (s : State) : State :=
  match s.rep.side.find? fun x => x.1 == die && x.2.1 == kind && x.2.2.2 != 0xFFFF with
  | none => s
  | some (_, _, u, _) => deferTest kind die u s

/-! ### Retirement of pairs and cores (R394) -/

/-- A unit on the sideshow is retired from outside: its test counts it as treated and not as failed (R400). -/
def testLoses (kind die unit : Nat) (s : State) : State :=
  match testRing s kind die unit with
  | some (n, t) => s.onRing n fun q => { q with
      op := some (.test { t with onSide := none, retest := false, treated := t.treated + 1 }) }
  | none => s

/-- Records of a kind without a free spare: 0x72 and 0x79, by the row of Table 1. -/
def noSpare (kind die unit cause : Nat) (s : State) : State :=
  eventRep 0x79 (if kind = 1 then 1 else 2) 0 0 kind die unit 0 (eventRep 0x72 cause 0 0 kind die unit 0 s)

/-- A unit on the sideshow has a new stand-in. -/
def newStandIn (kind die tested sp : Nat) (s : State) : State :=
  let s := setRep kind die tested { repEntry s kind die tested with partner := sp } s
  let s := s.onRep fun r => { r with side := r.side.map fun x => if x.1 = die ∧ x.2.1 = kind ∧ x.2.2.1 = tested then (die, kind, tested, sp) else x }
  match testRing s kind die tested with
  | some (n, t) => s.onRing n fun q => { q with op := some (.test { t with standIn := sp }) }
  | none => s

/-- The unit moves to a spare now and is retired, its spare standing in where it did; its domain falls at once to the rated maximum
of the units now in service (R24). -/
def substitute (kind die unit sp : Nat) (s : State) : State :=
  let e := repEntry s kind die unit
  let s := setRep kind die unit { e with state := 4, partner := sp } (moveUnit kind die unit sp s)
  let s := if e.state = 2 then newStandIn kind die e.partner sp (setRep kind die sp { state := 2, partner := e.partner } s) else setRep kind die sp { } s
  eventRep 0x71 e.cause 0 sp kind die unit 0 (powerSettle s)

/-- A unit without work is retired with no spare. -/
def retireAlone (kind die unit : Nat) (s : State) : State :=
  let e := repEntry s kind die unit
  eventRep 0x71 e.cause 0 0xFFFF kind die unit 0 (setRep kind die unit { e with state := 4, partner := 0xFFFF } s)

/-- The unit may move at this moment: a pair without work, a core in WFI. -/
def movesNow (s : State) (kind die unit : Nat) : Bool :=
  if kind = 1 then pairIdle s (pairIndex die unit) else (s.core (coreIndex die unit)).wfi

/-- The retirement of a pair or core is decided, with its cause and rule class. It moves to a spare at once where it
can, at its next boundary otherwise (PAIR_SUBSTITUTE, CORE_SUBSTITUTE); with no spare left it enters state 5. A free
spare is retired as it stands; a unit on the sideshow leaves its work to its stand-in (R400). A stand-in gives the work on to another
spare; with none, the unit that it stands in for returns, and it is retired as a free spare. -/
def retireUnit (kind die unit cause cls : Nat) (s : State) : State :=
  let e := repEntry s kind die unit
  let mark : RepEntry := { e with cause := cause, cls := if cause = 1 then cls else 0 }
  if !unitExists kind die unit || e.state == 4 || e.state == 5 || ((e.state == 0 || e.state == 2) && e.cause != 0) then s
  else if e.state = 1 then retireAlone kind die unit (setRep kind die unit mark s)
  else if e.state = 3 then
    let sp := e.partner
    let s := setRep kind die unit { mark with state := 4 } (sideDrop kind die unit (testLoses kind die unit s))
    let s := if sp = 0xFFFF then s else powerSettle (setRep kind die sp { } s)
    eventRep 0x71 cause 0 sp kind die unit 0 s
  else if e.state = 2 then
    if (freeSpares s kind die).length > (markedUnits s kind die).length then
      let s := setRep kind die unit mark s
      match (if movesNow s kind die unit then pickSpare s kind die unit else none) with
      | some sp => substitute kind die unit sp s
      | none => s
    else retireAlone kind die unit (setRep kind die unit { mark with state := 1, partner := 0xFFFF } (deferTest kind die e.partner s))
  else
    let s := if (freeSpares s kind die).length > (markedUnits s kind die).length then s else takeStandIn kind die s
    let e := repEntry s kind die unit
    let mark := { e with state := 0, partner := 0xFFFF, cause := cause, cls := if cause = 1 then cls else 0 }
    if (freeSpares s kind die).length > (markedUnits s kind die).length then
      let s := setRep kind die unit mark s
      match (if movesNow s kind die unit then pickSpare s kind die unit else none) with
      | some sp => substitute kind die unit sp s
      | none => s
    else if kind = 1 ∧ pairIdle s (pairIndex die unit) then
      retireAlone kind die unit (noSpare kind die unit cause (setRep kind die unit mark s))
    else noSpare kind die unit cause (setRep kind die unit { mark with state := 5 } s)

/-- A unit whose retirement is decided reaches its boundary: it moves to its spare, or waits in state 5 where none is
left (R394). -/
def boundaryMove (kind die unit : Nat) (s : State) : State :=
  let e := repEntry s kind die unit
  if (e.state = 0 ∨ e.state = 2) ∧ e.cause ≠ 0 then
    let s := if e.state = 0 ∧ (freeSpares s kind die).isEmpty then takeStandIn kind die s else s
    match pickSpare s kind die unit with
    | some sp => substitute kind die unit sp s
    | none => noSpare kind die unit e.cause (setRep kind die unit { e with state := 5 } s)
  else s

/-! ### Ways and granules -/

/-- Lines of the system cache in a way of a group of 256 sets of a slice: unit = slice × 256 + group × 16 + way. -/
def wayKeys (s : State) (unit : Nat) : List (Nat × ScLine) :=
  s.coh.sc.filter fun p => p.1 % 16 == unit % 16 && p.1 / 16 / 3072 == unit / 256 && p.1 / 16 % 3072 / 256 == unit / 16 % 16

/-- A way's lines are cleaned and invalidated (R394). -/
def wayEmpty (unit : Nat) (s : State) : State :=
  (wayKeys s unit).foldl (fun s p => (scWriteBack p.2 s).onCoh fun c => { c with sc := tdel c.sc p.1 }) s

/-- Retires a way with the spare of its group; without one, record 0x79 (R388, R394). -/
def retireWay (unit cause cls : Nat) (s : State) : State :=
  let g := unit / 16
  if (repEntry s 5 0 unit).state = 4 then s
  else if tget 0 s.rep.waysUsed g = 0 then
    let s := (wayEmpty unit s).onRep fun r => { r with waysUsed := tput 0 r.waysUsed g 1 }
    let s := setRep 5 0 unit { state := 4, cause := cause, cls := if cause = 1 then cls else 0 } s
    eventRep 0x71 cause 0 0xFFFF 5 0 unit 0 (eventRep 0x74 3 unit 0 5 0 unit 0 s)
  else eventRep 0x79 3 0 0 5 0 unit 0 s

/-- Retires a granule in place (R393). -/
def retireGranule (pa : Nat) (s : State) : State :=
  let g := pa / 4096 * 4096
  let t2 := inTier2 pa
  let die := if t2 then 7 + (t2Place (g - 0x10000000000)).1 else (t1Place g s.pool.ilvForce).1 / 3 + 1
  let l := if t2 then s.pool.retired2 else s.pool.retired1
  if !poolBacked pa || l.contains g then s
  else if l.length ≥ 65536 then eventDie 0x79 6 0 0 die 0 s
  else
    let s := s.onPool fun p => if t2 then { p with retired2 := p.retired2 ++ [g] } else { p with retired1 := p.retired1 ++ [g] }
    eventDie 0x73 (if t2 then 2 else 1) g (l.length + 1) die 0 s

end Sys2Proof.Machine
end

