-- ==== Sys2Proof/Machine/RingStop.lean ====
section
/-! DEFINITION. Stopping the work of rings: results of operations (R328), unknown ranges (R296), the stop of a running
operation at its next boundary (R116, R135, R166), and the stop of a ring by an abort, a reset or an error (R315, R299,
R301, R194). -/

namespace Sys2Proof.Machine

/-! ### Unknown ranges (R296) -/

/-- The owner's writes belong to a ring's operation. -/
def ownsRing (s : State) (n : Nat) (o : Owner) : Bool := ownerRing s o == some n

/-- Writes of a ring's operation that are not acknowledged. -/
def unackedWrites (s : State) (n : Nat) : List Posted := s.link.posted.filter fun p => ownsRing s n p.owner

/-- The unknown range of a ring's operation: from the lowest unacknowledged write to the end of the highest issued. -/
def unknownRange (s : State) (n : Nat) : Option (Nat × Nat) :=
  match unackedWrites s n with
  | [] => none
  | p :: ps => some (ps.foldl (fun a x => min a x.hio) p.hio,
      (p :: ps).foldl (fun a x => max a (x.hio + x.bytes.length - 1)) (tget 0 s.link.issuedHi n))

/-- A result with the unknown range of its operation. -/
def withUnknown (s : State) (n : Nat) (r : Res) : Res :=
  if r.unk then r
  else match unknownRange s n with
    | some (lo, hi) => { r with unk := true, unkLo := lo, unkHi := hi }
    | none => r

/-! ### Stops of operations -/

/-- An earlier stop stands; an unknown range that a later one brings is told with it (R296). -/
def orStop (a : Option Res) (r : Res) : Option Res :=
  match a with | some x => some (addUnknown x r) | none => some r

/-- The operation of ring n stops at its next boundary with a result. A chain starts no further pass and commits no
further tile (R116). -/
def stopWith (n : Nat) (r : Res) (s : State) : State :=
  match (s.ring n).op with
  | some (.chain c) => stopChain n r c.committed s
  | some (.transform t) => s.onRing n fun q => { q with op := some (.transform { t with stop := orStop t.stop r }) }
  | some (.program p) => s.onRing n fun q => { q with op := some (.program { p with stop := orStop p.stop r }) }
  | some (.fabric f) => s.onRing n fun q => { q with op := some (.fabric { f with stop := orStop f.stop r }) }
  | some (.push p) => s.onRing n fun q => { q with op := some (.push { p with stop := orStop p.stop r }) }
  | some (.census c) => s.onRing n fun q => { q with op := some (.census { c with stop := orStop c.stop r }) }
  | some (.test t) => (testReturn t s).onRing n fun q => { q with
      op := some (.test { t with onSide := none, retest := false, stop := orStop t.stop r }) }
  | _ => s

/-- The same, with the unknown range of its writes (R296). -/
def stopOp (n : Nat) (r : Res) (s : State) : State := stopWith n (withUnknown s n r) s

/-- The operation runs to completion whatever stops its ring: fabric ATOMIC and FENCE, and translation (R315). -/
def runsOn : Op → Bool
  | .fabric f => f.op == 4 || f.op == 5
  | .xlt _ => true
  | _ => false

/-- The operation has been admitted: it holds the resources it runs on. -/
def opAdmitted : Op → Bool
  | .chain c => c.admitted
  | .transform t => t.admitted
  | .program p => p.admitted
  | .xlt x => x.started
  | _ => true

/-- Ring n is stopped with a status by an abort, a reset, a loss or an error: a running operation stops at its next
boundary; one that has ended and waits for its record keeps its own status, and the ring stops after it; a descriptor that waits for admission and a WAIT complete with no progress; a read in flight is forgotten
with no record; an idle ring stops where `idle` says so (R299, R301, R315). `fin` writes a record. -/
def haltRing (fin : Nat → Res → State → State) (idle : Bool) (status n : Nat) (s : State) : State :=
  let q := s.ring n
  match q.state with
  | .running | .waiting =>
    match q.op with
    | some (.finished r) => fin n r (s.onRing n fun q => { q with state := .aborting })
    | some (.wait _ _ _) => fin n (plainRes n status s) s
    | some o =>
      if !opAdmitted o then fin n (plainRes n status s) s
      else
        let s := s.onRing n fun q => { q with state := .aborting }
        if runsOn o then s else stopWith n { status := status } s
    | none => if q.desc.isSome then fin n (plainRes n status s) s else stopRing n true s
  | .rereading => stopRing n true s
  | .idle => if idle then s.onRing n fun q => { q with state := .stopped, sdesc := false } else s
  | .aborting => if (match q.op with | some o => runsOn o | none => false) then s else stopWith n { status := status } s
  | _ => s

/-- Rings that are enabled. -/
def enabledRings (s : State) : List Nat := (s.rings.filter fun r => ringEn r.2).map (·.1)

/-- An uncorrectable tag or directory error, or a die cut off from H (R194, R350): every ring stops with
UNCORRECTABLE_DATA, and no descriptor is accepted until a warm or cold reset. -/
def structureError (slice : Nat) (s : State) : State :=
  let s := (enabledRings s).foldl (fun s n => haltRing complete true 0x50 n s) s
  let s := s.onBoot fun b => { b with structural := true }
  event 0x11 0 0 slice s

end Sys2Proof.Machine
end

