-- ==== Sys2Proof/Machine/Coherence.lean ====
section
/-! DEFINITION. The messages of the coherence protocol (R201-R208, R212, R213), cache maintenance by rings and by
cores (R186-R190), what a read of a memory finds (R191, R192) and the timers of the hot-page counters (R248). -/

namespace Sys2Proof.Machine

/-! ### Requests -/

/-- The die of a private cache is powered. -/
def cacheOn (s : State) (cache : Nat) : Bool := dieOn s (if cache < 544 then cache / 136 + 1 else 5 + (cache - 544) / 76)

/-- The agent has a request for the line under way. -/
def outstanding (s : State) (agent line : Nat) : Bool :=
  (s.coh.txns.any fun t => t.line == line && t.agent == agent) || s.coh.queue.any fun w => w.line == line && w.agent == agent

/-- A cache that may send a request for a line to its home: the line is backed, is not one its die reaches directly
(R180), and the cache has no request for it under way. -/
def mayAsk (s : State) (agent line : Nat) : Bool :=
  poolBacked (line * 128) && !direct s agent line && !outstanding s agent line

/-- RDS (R202): a read miss. -/
def execRds (cache line : Nat) (s : State) : Out :=
  .next (if mayAsk s cache line && cacheOn s cache && (privOf s cache line).isNone then
    hotAfter (line * 128) (homeRequest .rds cache line (hotPool (line * 128) 128 s)) else s)

/-- RDU (R202): a store miss. -/
def execRdu (cache line : Nat) (s : State) : Out :=
  .next (if mayAsk s cache line && cacheOn s cache && (privOf s cache line).isNone then
    hotAfter (line * 128) (homeRequest .rdu cache line (hotPool (line * 128) 128 s)) else s)

/-- UPG (R202): a store to a line held in S or F; one whose requester has lost its copy acts as RdU. -/
def execUpg (cache line : Nat) (s : State) : Out :=
  let held := match privOf s cache line with
    | some p => p.st == .s || p.st == .f
    | none => true
  .next (if mayAsk s cache line && cacheOn s cache && held then homeRequest .upg cache line s else s)

/-- RDONCE (R202): a read that keeps no copy. -/
def execRdonce (agent line : Nat) (s : State) : Out :=
  .next (if mayAsk s agent line then hotAfter (line * 128) (homeRequest (.rdonce 0 128) agent line (hotPool (line * 128) 128 s)) else s)

/-- WRLINE (R202): a write within one line that keeps no copy. -/
def execWrline (agent addr : Nat) (data : List Byte) (s : State) : Out :=
  let line := addr / 128
  .next (if mayAsk s agent line && !data.isEmpty && decide (addr % 128 + data.length ≤ 128) then
    hotAfter addr (homeRequest (.wrline addr data) agent line (hotPool addr data.length s)) else s)

/-- ATOM_REQUEST (R209): a naturally aligned atomic on a pool line; an exact add is performed on its slot (R213). -/
def execAtomRequest (agent addr : Nat) (req : AtomReq) (s : State) : Out :=
  let line := addr / 128
  .next (if req.kind = .exactAdd then
      if poolBacked addr && addr % slotBytes (req.size == 8) == 0 then slotAddAll agent addr (req.size == 8) (req.operand :: req.more.map (·.1)) s else s
    else
      if poolBacked addr && !outstanding s agent line && addr % req.size == 0 then
        hotAfter addr (homeRequest (.atom addr req) agent line (hotPool addr req.size s))
      else s)

/-- WB (R205): a line in M leaves its cache; its data stay in the write-back buffer until the home acknowledges. A line
that its die reaches directly is written to the die's own stack (R180). -/
def execWb (cache line : Nat) (s : State) : Out :=
  .next (match privOf s cache line with
    | some p => if p.st == .m then privLeave p s else s
    | none => s)

/-- EV (R202): a line in E or F leaves its cache, and the home is told. -/
def execEv (cache line : Nat) (s : State) : Out :=
  .next (match privOf s cache line with
    | some p => if p.st == .e || p.st == .f then privLeave p s else s
    | none => s)

/-- SLOT_LOCK (R213): the home of an FP64 slot's first line locks one of the other three. -/
def execSlotLock (slot line : Nat) (s : State) : Out :=
  .next (if slot % 4 == 0 && decide (slot < line) && decide (line < slot + 4) && poolBacked (slot * 128) then
      homeRequest (.lock slot) agentHub line s
    else s)

/-! ### Snoops, data and acknowledgements -/

/-- SNOOP_RECEIVE (R206): answered from the cache's own state, or delayed after an LR (R212). -/
def execSnoopReceive (cache line : Nat) (s : State) : Out :=
  .next (match s.coh.snoops.find? fun n => n.line == line && n.cache == cache with
    | some n =>
      if snoopDelayed s n then
        let mark (x : Snoop) : Snoop := if x.line = line ∧ x.cache = cache then { x with delayed := true } else x
        s.onCoh fun c => { c with snoops := c.snoops.map mark }
      else snoopAnswer n s
    | none => s)

/-- SNOOP_RESPONSE_RECEIVE (R202). -/
def execSnoopResponseReceive (line cache : Nat) (s : State) : Out :=
  .next (match s.coh.resps.find? fun r => r.line == line && r.cache == cache with
    | some r => homeResponse r s
    | none => s)

/-- COHERENCE_DATA_RECEIVE (R204): the requester takes its data or grant. -/
def execCoherenceDataReceive (line : Nat) (s : State) : Out :=
  .next (match txnOf s line with
    | some t => if t.granted && !t.acked then requesterReceive t s else s
    | none => s)

/-- FINAL_ACK_RECEIVE (R204): the line is unblocked. -/
def execFinalAckReceive (line : Nat) (s : State) : Out :=
  .next (match txnOf s line with
    | some t => if t.acked then homeAck line s else s
    | none => s)

/-- WB_ACK_RECEIVE (R205): the write-back buffer is freed. -/
def execWbAckReceive (cache line : Nat) (s : State) : Out :=
  .next (if s.coh.wbAcks.contains (cache, line) then
      (wbufDrop cache line s).onCoh fun c => { c with wbAcks := c.wbAcks.erase (cache, line) }
    else s)

/-- A line of the granule is held, or on its way to be held, outside the die that owns it. -/
def heldOutside (s : State) (granule : Nat) : Bool :=
  let owner := dieLocal s (granule * 4096)
  let mine (l : Nat) : Bool := granuleOf l == granule
  (s.coh.priv.any fun p => mine p.line && agentDie p.cache != owner) || (s.coh.wbuf.any fun p => mine p.line)
    || (s.coh.txns.any fun t => mine t.line) || s.coh.queue.any fun w => mine w.line

/-- LOAN_RETURN (R208): 10 us without a holder outside the die. -/
def execLoanReturn (granule : Nat) (s : State) : Out :=
  .next (if s.coh.loans.contains granule && !heldOutside s granule then loanEnd granule s else s)

/-- The delay after an LR ends, and the snoops that wait for it are answered (R212). -/
def endDelay (core : Nat) (s : State) : State :=
  let s := s.onCore core fun c => { c with lrDelay := false }
  (s.coh.snoops.filter fun n => n.cache == 544 + core && n.delayed).foldl (fun s n => snoopAnswer n s) s

/-- LR_SNOOP_DELAY_EXPIRE (R212). -/
def execLrSnoopDelayExpire (core : Nat) (s : State) : Out := .next (if (s.core core).lrDelay then endDelay core s else s)

/-! ### Maintenance (R186-R190) -/

/-- Operations on a line (Table 6 of chapter 07), by OP: 1 clean, 2 invalidate, 3 clean and invalidate. -/
inductive Maint where
  | clean | invalidate | both
  deriving DecidableEq, Repr

/-- Every dirty copy of a line is written to memory; copies stay valid and become clean. -/
def lineClean (line : Nat) (s : State) : State :=
  let s := match dirtyCopy s line with
    | some p =>
      let s := dramWrite (2 * line + 1) (p.data.drop 64) p.poison1 (dramWrite (2 * line) (p.data.take 64) p.poison0 s)
      let s := if (scCopy s line).isSome then scTake line p.data p.poison0 p.poison1 s else s
      let clean (x : PrivLine) : PrivLine := if x.line = line ∧ x.st = .m then { x with st := .e } else x
      s.onCoh fun c => { c with priv := c.priv.map clean }
    | none => s
  scClean line s

/-- Every copy of a line is discarded without being written, those of the cores' L1 caches among them (R187, R188). -/
def lineInvalidate (line : Nat) (s : State) : State :=
  let s := coreCachesKeep (· != line) s
  let s := (s.coh.priv.filter fun p => p.line == line).foldl (fun s p => loseReservation p.cache line s) s
  let s := s.onCoh fun c => { c with
    priv := c.priv.filter fun p => p.line != line
    wbuf := c.wbuf.filter fun p => p.line != line
    wbAcks := c.wbAcks.filter fun a => a.2 != line }
  scDrop line (dirClear line s)

/-- An operation on a line, the transactions under way on it first. -/
def lineMaint (m : Maint) (line : Nat) (s : State) : State :=
  let s := if (txnOf s line).isSome || lineQueued s line then settleAll line s else s
  match m with
  | .clean => lineClean line s
  | .invalidate => lineInvalidate line s
  | .both => lineInvalidate line (lineClean line s)

/-- Every line that some coherent cache holds, each once. -/
def heldLines (s : State) : List Nat :=
  (s.coh.sc.map (·.2.line) ++ s.coh.victim.flatMap (fun v => v.2.map (·.line)) ++ s.coh.priv.map (·.line)
    ++ s.coh.wbuf.map (·.line) ++ s.coh.cores.flatMap (fun c => c.2.l1d ++ c.2.l1i.map (·.line))).eraseDups

/-- Acts on the pool bytes [pa, pa + n): a line covered in part is cleaned too under an invalidate. -/
def maintBytes (m : Maint) (pa n : Nat) (s : State) : State :=
  ((heldLines s).filter fun l => decide (pa < l * 128 + 128) && decide (l * 128 < pa + n)).foldl (fun s l =>
    let whole := decide (pa ≤ l * 128) && decide (l * 128 + 128 ≤ pa + n)
    lineMaint (if m = .invalidate && !whole then .both else m) l s) s

/-- How a range operation ends: done, at a fault of a page, or waiting for a held range. -/
inductive RangeEnd where
  | done
  | fault (status reason va : Nat)
  | wait
  deriving DecidableEq, Repr

/-- A range operation page by page; pages that lead outside the pool are skipped (R187, R189). -/
def maintRange (m : Maint) : Nat → Nat → Nat → State → RangeEnd × State
  | 0, _, _, s => (.done, s)
  | f + 1, va, n, s =>
    if n = 0 then (.done, s)
    else
      let (r, s) := translate agentHub .read va s
      match r with
      | .ok pa _ log2 =>
        let k := min n (2 ^ log2 - va % 2 ^ log2)
        maintRange m f (va + k) (n - k) (if poolBacked pa then maintBytes m pa k s else s)
      | .fault 0xC => let k := min n (4096 - va % 4096); maintRange m f (va + k) (n - k) s
      | .fault c => (.fault (xltStatus c) c va, s)
      | .poison => (.fault 0x50 0 va, s)
      | .held => (.wait, s)

/-- Lines of set/way mode: those in the selected ways of the selected sets, and the victim entries. -/
def setWayLines (s : State) (victim : Bool) (ways count first slice : Nat) : List Nat :=
  let key (x : Nat × ScLine) : Bool :=
    let set := x.1 / 16 - slice * 3072
    decide (slice * 3072 + first ≤ x.1 / 16) && decide (set < first + count) && bit ways (x.1 % 16)
  ((s.coh.sc.filter key).map (·.2.line)) ++ (if victim then (tget [] s.coh.victim slice).map (·.line) else [])

/-- The maintenance descriptor is refused (R186). -/
def maintBad (b : List Byte) : Bool :=
  let w := descWord b 0 8
  let mode := bits w 18 2
  let sw := descWord b 0x18 8
  let range := descWord b 8 8 != 0 || descWord b 0x10 8 != 0
  bits w 0 8 != 1 || bits w 8 8 != 0 || bits w 20 3 != 0 || bits w 24 40 != 0 || descWord b 0x20 32 != 0
    || bits sw 6 2 != 0 || bits sw 48 16 != 0 || bits w 16 2 == 0 || mode == 3
    || (mode == 0 && (descWord b 0x10 8 == 0 || decide (descWord b 0x10 8 > 2 ^ 57)))
    || (mode == 1 && (range || bits sw 20 12 == 0 || decide (bits sw 8 12 + bits sw 20 12 > 3072)
        || (bits sw 32 16 == 0 && bits w 23 1 == 0)))
    || (mode != 1 && (sw != 0 || bits w 23 1 != 0)) || (mode == 2 && range)

/-- A maintenance operation of a ring, performed whole (R186-R189). -/
def maintRun (ring : Nat) (m : Maint) (b : List Byte) (s : State) : State :=
  let w := descWord b 0 8
  match bits w 18 2 with
  | 0 =>
    let start := descWord b 8 8
    let n := descWord b 0x10 8
    match maintRange m (n / 4096 + 2) start n s with
    | (.done, s) => complete ring { progress := n } s
    | (.fault st c va, s) =>
      complete ring { status := st, progress := va - start, role := 14, reason := c, element := va - start, address := va } s
    | (.wait, s1) => keepAsked s s1
  | 1 =>
    let sw := descWord b 0x18 8
    let lines := (setWayLines s (bits w 23 1 == 1) (bits sw 32 16) (bits sw 20 12) (bits sw 8 12) (bits sw 0 6)).eraseDups
    complete ring {} (lines.foldl (fun s l => lineMaint m l s) s)
  | _ => complete ring {} ((heldLines s).foldl (fun s l => lineMaint m l s) s)

/-- OP of a maintenance descriptor. -/
def maintOp : Maint → Nat
  | .clean => 1 | .invalidate => 2 | .both => 3

/-- A maintenance descriptor of ring n (R186): refused, or its operation, where it is the one of the command. -/
def maintDesc (m : Maint) (ring : Nat) (s : State) : State :=
  onDesc ring 0x04 (fun d s =>
    let va := descAddrOf d
    if va % 64 != 0 then refuse ring 0x13 s
    else withStruct ring va 64 va (fun b s =>
      if maintBad b then refuse ring 0x13 s
      else if bits (descWord b 0 8) 16 2 = maintOp m then maintRun ring m b (beginHere ring s) else s) s) s
where
  beginHere (n : Nat) (s : State) : State := s.onRing n fun q => { q with state := .running, startTicks := s.hTicks }

/-- MAINT_CLEAN. -/
def execMaintClean (ring : Nat) (s : State) : Out := .next (maintDesc .clean ring s)
/-- MAINT_INVALIDATE. -/
def execMaintInvalidate (ring : Nat) (s : State) : Out := .next (maintDesc .invalidate ring s)
/-- MAINT_CLEAN_INVALIDATE. -/
def execMaintCleanInvalidate (ring : Nat) (s : State) : Out := .next (maintDesc .both ring s)

/-! ### What a read of a memory finds (R191, R192) -/

/-- The stack, or the package with its die, that holds an address: die code, unit kind and unit (R177, R178). -/
def memoryUnit (s : State) (pa : Nat) : Nat × Nat × Nat :=
  if inTier2 pa then
    let (x, c, _) := t2Place (pa - 0x10000000000)
    (7 + x, 7, t2Package x c)
  else
    let (m, _) := t1Place pa s.pool.ilvForce
    (m / 3 + 1, 6, m)

/-- An uncorrectable error in a sector of DRAM: poisoned in place, with record 0x10, which names its stack or package (R192; log
entry 96). -/
def memoryBad (sector : Nat) (s : State) : State :=
  let (die, kind, unit) := memoryUnit s (sector * 64)
  eventUnit 0x10 (if inTier2 (sector * 64) then 2 else 1) (sector * 64) 0 die 0 kind unit 0 0
    (s.onPool fun p => { p with poison := setAdd p.poison sector })

/-- What ECC finds in a sector of the pool with wrong symbols: a corrected error is written back corrected (log entry 16). A
sector marked poisoned decodes as poison (R191). -/
def memoryFinds (sector wrong : Nat) (s : State) : State :=
  match eccFinds (if inTier2 (sector * 64) then .lpddr else .hbm) wrong with
  | .uncorrectable => if poolBacked (sector * 64) && !dramPoison s sector then memoryBad sector s else s
  | _ => s

/-- PATROL_SCRUB (R192): a scrub read of a sector of a tier that is scrubbed. -/
def execPatrolScrub (sector wrong : Nat) (s : State) : Out :=
  .next (if flag s.pool.scrub (if inTier2 (sector * 64) then 1 else 0) then memoryFinds sector wrong s else s)

/-- MEMORY_READ_RETURN (R184, R192): a sector's read returns, corrected or poisoned, and fills the system cache where its
line stands there without it. -/
def execMemoryReadReturn (sector wrong : Nat) (s : State) : Out :=
  let s := memoryFinds sector wrong s
  .next (match scFind s (sector / 2) with
    | some k => scFillSector k (sector % 2) s
    | none => s)

/-! ### Hot pages (R248) -/

/-- HOTPAGE_DECAY: every count is halved; with DECAY_MS 0 there is no halving. -/
def execHotpageDecay (s : State) : Out :=
  .next (if field s.xlt.hotpage 48 8 = 0 then s
    else s.onXlt fun x => { x with hot := x.hot.map fun h => (h.1, { h.2 with count := h.2.count / 2 }) })

/-- HOTPAGE_MUTE_EXPIRE: the counter of the region may place records again, and does where its count has passed its
threshold meanwhile. -/
def execHotpageMuteExpire (region : Nat) (s : State) : Out :=
  .next (hotCheck (s.onXlt fun x => { x with
    hot := x.hot.map fun h => (h.1, if h.2.region = region then { h.2 with muted := false } else h.2) }))

end Sys2Proof.Machine
end

