-- ==== Sys2Proof/Machine/Crypto.lean ====
section
/-! DEFINITION. The Ticket Booth's engines: SHA-256 and RSASSA-PSS (R406, R409), and the header of a firmware image (Table 3 of
chapter 16). The algorithms are those that R409 names, of FIPS 180-4 and PKCS #1 (PRESUMED, log entry 102). -/

namespace Sys2Proof.Machine

/-! ### SHA-256, over words as natural numbers below 2^32 -/

def shaK : List Nat :=
  [0x428A2F98, 0x71374491, 0xB5C0FBCF, 0xE9B5DBA5, 0x3956C25B, 0x59F111F1, 0x923F82A4, 0xAB1C5ED5,
   0xD807AA98, 0x12835B01, 0x243185BE, 0x550C7DC3, 0x72BE5D74, 0x80DEB1FE, 0x9BDC06A7, 0xC19BF174] ++
  [0xE49B69C1, 0xEFBE4786, 0x0FC19DC6, 0x240CA1CC, 0x2DE92C6F, 0x4A7484AA, 0x5CB0A9DC, 0x76F988DA,
   0x983E5152, 0xA831C66D, 0xB00327C8, 0xBF597FC7, 0xC6E00BF3, 0xD5A79147, 0x06CA6351, 0x14292967] ++
  [0x27B70A85, 0x2E1B2138, 0x4D2C6DFC, 0x53380D13, 0x650A7354, 0x766A0ABB, 0x81C2C92E, 0x92722C85,
   0xA2BFE8A1, 0xA81A664B, 0xC24B8B70, 0xC76C51A3, 0xD192E819, 0xD6990624, 0xF40E3585, 0x106AA070] ++
  [0x19A4C116, 0x1E376C08, 0x2748774C, 0x34B0BCB5, 0x391C0CB3, 0x4ED8AA4A, 0x5B9CCA4F, 0x682E6FF3,
   0x748F82EE, 0x78A5636F, 0x84C87814, 0x8CC70208, 0x90BEFFFA, 0xA4506CEB, 0xBEF9A3F7, 0xC67178F2]

def rotr (n x : Nat) : Nat := (x >>> n ||| x <<< (32 - n)) % 2 ^ 32

/-- The eight working words. -/
structure Sha where
  a : Nat := 0x6A09E667
  b : Nat := 0xBB67AE85
  c : Nat := 0x3C6EF372
  d : Nat := 0xA54FF53A
  e : Nat := 0x510E527F
  f : Nat := 0x9B05688C
  g : Nat := 0x1F83D9AB
  h : Nat := 0x5BE0CD19
  deriving DecidableEq, Repr

/-- One round with its constant and its word of the schedule. -/
def shaRound (x : Sha) (k w : Nat) : Sha :=
  let t1 := x.h + (rotr 6 x.e ^^^ rotr 11 x.e ^^^ rotr 25 x.e) + ((x.e &&& x.f) ^^^ ((x.e ^^^ 0xFFFFFFFF) &&& x.g)) + k + w
  let t2 := (rotr 2 x.a ^^^ rotr 13 x.a ^^^ rotr 22 x.a) + ((x.a &&& x.b) ^^^ (x.a &&& x.c) ^^^ (x.b &&& x.c))
  ⟨(t1 + t2) % 2 ^ 32, x.a, x.b, x.c, (x.d + t1) % 2 ^ 32, x.e, x.f, x.g⟩

/-- The word sixteen places on in the schedule. -/
def shaNext (w : List Nat) : Nat :=
  let s0 := let x := nth 0 w 1; rotr 7 x ^^^ rotr 18 x ^^^ x >>> 3
  let s1 := let x := nth 0 w 14; rotr 17 x ^^^ rotr 19 x ^^^ x >>> 10
  (s1 + nth 0 w 9 + s0 + nth 0 w 0) % 2 ^ 32

/-- The rounds of a block, over a window of sixteen words of its schedule. -/
def shaRounds : List Nat → List Nat → Sha → Sha
  | [], _, x => x
  | k :: ks, w, x => shaRounds ks (w.drop 1 ++ [shaNext w]) (shaRound x k (nth 0 w 0))

/-- A block of sixteen words. -/
def shaBlock (x : Sha) (w : List Nat) : Sha :=
  let y := shaRounds shaK w x
  let s (a b : Nat) : Nat := (a + b) % 2 ^ 32
  ⟨s x.a y.a, s x.b y.b, s x.c y.c, s x.d y.d, s x.e y.e, s x.f y.f, s x.g y.g, s x.h y.h⟩

def shaBlocks : Nat → List Nat → Sha → Sha
  | 0, _, x => x
  | n + 1, w, x => shaBlocks n (w.drop 16) (shaBlock x (w.take 16))

/-- A number of n bytes, the most significant first. -/
def bytesBe (n x : Nat) : List Byte := (toBytes n x).reverse

/-- The number that bytes stand for, the most significant first. -/
def numBe (b : List Byte) : Nat := b.foldl (fun a x => a * 256 + x.toNat) 0

/-- Words of four bytes, most significant first. -/
def wordsBe : List Byte → List Nat
  | a :: b :: c :: d :: t => (((a.toNat * 256 + b.toNat) * 256 + c.toNat) * 256 + d.toNat) :: wordsBe t
  | _ => []

/-- SHA-256 of bytes. -/
def sha256 (m : List Byte) : List Byte :=
  let n := m.length
  let w := wordsBe (m ++ 0x80 :: List.replicate ((119 - n % 64) % 64) 0 ++ bytesBe 8 (n * 8))
  let x := shaBlocks (w.length / 16) w {}
  [x.a, x.b, x.c, x.d, x.e, x.f, x.g, x.h].flatMap (bytesBe 4)

/-! ### RSASSA-PSS with RSA-3072, SHA-256, MGF1 with SHA-256 and a 32-byte salt -/

/-- A mask of up to 352 bytes from a seed. -/
def mgf1 (seed : List Byte) (n : Nat) : List Byte := ((List.range 11).flatMap fun c => sha256 (seed ++ bytesBe 4 c)).take n

/-- The number raised to the public exponent 65,537 modulo n. -/
def rsaPublic (n s : Nat) : Nat := (List.range 16).foldl (fun x _ => x * x % n) s * s % n

/-- A signature of 384 bytes verifies over a message under a modulus of 3,072 bits. -/
def pssVerifies (modulus signature message : List Byte) : Bool :=
  let n := numBe modulus
  let s := numBe signature
  let em := bytesBe 384 (rsaPublic n s)
  let h := (em.drop 351).take 32
  let db := (em.take 351).zipWith (· ^^^ ·) (mgf1 h 351)
  let db := (nth 0 db 0 &&& 0x7F) :: db.drop 1
  decide (2 ^ 3071 ≤ n) && decide (s < n) && nth 0 em 383 == 0xBC && !(nth 0 em 0).getLsbD 7
    && (db.take 318).all (· == 0) && nth 0 db 318 == 1
    && h == sha256 (List.replicate 8 0 ++ sha256 message ++ db.drop 319)

/-! ### The header (Table 3 of chapter 16) -/

/-- A little-endian field of an image's header. -/
def imageField (i : Image) (at_ n : Nat) : Nat := ofBytes ((i.header.drop at_).take n)

end Sys2Proof.Machine

namespace Sys2Proof

open Machine

def Image.magic (i : Image) : Nat := imageField i 0 4
def Image.component (i : Image) : Nat := imageField i 4 1
def Image.key (i : Image) : Nat := imageField i 5 1
def Image.revoke (i : Image) : Nat := imageField i 6 1
def Image.version (i : Image) : Nat := imageField i 8 4
def Image.svn (i : Image) : Nat := imageField i 12 4
def Image.length (i : Image) : Nat := imageField i 16 8
def Image.modulus (i : Image) : List Byte := (i.header.drop 64).take 384
def Image.signature (i : Image) : List Byte := (i.header.drop 448).take 384

end Sys2Proof

namespace Sys2Proof.Machine

/-- A header as Table 3 lays it out, its reserved bytes zero, and LENGTH bytes of body. -/
def imageFormed (i : Image) : Bool :=
  i.header.length == 832 && i.magic == 0x5746514A && decide (i.key ≤ 3) && decide (i.revoke ≤ 15) && imageField i 7 1 == 0
    && imageField i 56 8 == 0 && decide (i.length ≤ 2 ^ 24) && i.body.length == i.length

/-- The image is authentic under a key hash: SHA-256 of MODULUS is the hash, SIGNATURE verifies over bytes 0 to 447, and SHA-256 of
the body is BODY_HASH. -/
def imageAuthentic (keyHash : BitVec 256) (i : Image) : Bool :=
  numBe (sha256 i.modulus) == keyHash.toNat && pssVerifies i.modulus i.signature (i.header.take 448)
    && sha256 i.body == (i.header.drop 24).take 32

end Sys2Proof.Machine
end

