-- ==== Sys2Proof/Machine/HostOps.lean ====
section
/-! DEFINITION. Host accesses through BAR2 (R236, R239, R249) and of downstream devices (R293), and what follows the end
of a hold. -/

namespace Sys2Proof.Machine

/-- BAR2 reads give zeros and BAR2 writes are discarded: before device-ready, during a set-up commit, an FLR's scrub, and
the fill after rung 4 (R300, R386, R413, R441). -/
def bar2Closed (s : State) : Bool := !s.boot.ready || s.setup.busy || s.link.scrubBusy || s.pwr.memInit

def giveAnswer (a : HostAnswer) (s : State) : State := s.onLink fun l => { l with answer := a }

/-- A host access failed a check (R239). -/
def bar2Fault (va reason : Nat) (s : State) : State := event 0x21 reason va 0 s

/-- How a host access of a device virtual range ends: the physical pieces, each with its length and how it is kept
(R182, R227), a fault, or a wait for a held range. -/
inductive HostPlace where
  | ok (ps : List (Nat × Nat × Keep))
  | fault (va reason : Nat)
  | held
  deriving DecidableEq, Repr

/-- Translates a host access page by page, for the host port (R223, R225, R236). -/
def hostPlaces (acc : Access) : List (Nat × Nat) → State → HostPlace × State
  | [], s => (.ok [], s)
  | (va, n) :: ps, s =>
    match translate agentPcie acc va s with
    | (.ok pa pbmt _, s) => match hostPlaces acc ps s with
      | (.ok l, s) => (.ok ((pa, n, if pbmt != 0 then .uncached else .once) :: l), s)
      | r => r
    | (.fault c, s) => (.fault va c, s)
    | (.poison, s) => (.fault va 0, s)
    | (.held, s) => (.held, s)

def hostPieces4k (va n : Nat) : List (Nat × Nat) := pieces 4096 (n / 4096 + 2) va n

/-- A host access waits for its held range (R249). -/
def holdAccess (h : HeldAccess) (s : State) : State :=
  s.onLink fun l => { l with heldAccesses := l.heldAccesses ++ [h], answer := .none }

/-- A read of device virtual memory by the host: its data, with EP where they are poisoned (R193, R236, R239). -/
def hostRead (va n : Nat) (s : State) : State :=
  match hostPlaces .read (hostPieces4k va n) s with
  | (.ok ps, s) =>
    let (b, s) := ps.foldl (fun (acc : List (Byte × Bool) × State) p =>
      let (x, s) := poolRead p.2.2 agentPcie p.1 p.2.1 acc.2
      (acc.1 ++ x, s)) ([], s)
    giveAnswer (.data (plain b) (anyPoison b)) s
  | (.fault a c, s) => giveAnswer .unsupported (bar2Fault a c s)
  | (.held, s) => holdAccess { va := va, len := n } s

/-- A write of device virtual memory by the host; it is discarded whole where a check fails (R193, R236, R239). -/
def hostWrite (va : Nat) (bytes : List Byte) (ep : Bool) (s : State) : State :=
  match hostPlaces .write (hostPieces4k va bytes.length) s with
  | (.ok ps, s) =>
    let (_, s) := ps.foldl (fun (acc : List Byte × State) p =>
      (acc.1.drop p.2.1, poolWrite p.2.2 agentPcie p.1 (acc.1.take p.2.1) ep acc.2)) (bytes, s)
    giveAnswer .none s
  | (.fault a c, s) => giveAnswer .discarded (bar2Fault a c s)
  | (.held, s) => holdAccess { va := va, len := bytes.length, data := some bytes, ep := ep } s

/-- An access that waited is made again. -/
def heldAgain (h : HeldAccess) (s : State) : State :=
  let s := match h.data with
    | some b => hostWrite h.va b h.ep s
    | none => hostRead h.va h.len s
  if s.link.answer == .none && h.data.isNone then s
  else s.onLink fun l => { l with heldAnswers := l.heldAnswers ++ [l.answer] }

/-- A hold has ended: the accesses that waited walk the tables as they stand (R249). -/
def afterHold (s : State) : State :=
  let waiting := s.link.heldAccesses
  let s := s.onLink fun l => { l with heldAccesses := [], heldAnswers := [] }
  wakeEngines (waiting.foldl (fun s h => heldAgain h s) s)

/-- Every hold ends, as at a reset (R233). -/
def endHolds (s : State) : State := if s.xlt.holds.isEmpty then s else afterHold (s.onXlt fun x => { x with holds := [] })

end Sys2Proof.Machine
end

