-- ==== Sys2Proof/Machine/FabricTx.lean ====
section
/-! DEFINITION. Fabric operations at the module that sends (R269-R276), deliveries into chains (R262), and the routing
banks (R267). -/

namespace Sys2Proof.Machine

/-! ### Deliveries (R262) -/

/-- The chain that a delivery window binds to: the chain of its ring, admitted, on its die. -/
def boundChain (s : State) (w : FabWin) : Option (Nat × ChainRun) :=
  let n := field w.w1 0 10
  match chainOf s n with
  | some c => if c.admitted && c.d.die == field w.w1 10 2 then some (n, c) else none
  | none => none

/-- The chain declares a receive area. -/
def hasReceive (c : ChainRun) : Bool := c.d.partialMode == 2 || c.d.partialMode == 3

/-- Bytes land in the receive area and advance RX_COUNTER, on the chain's first array and engine (log entry 24). -/
def landReceive (c : ChainRun) (off : Nat) (bytes : List (Byte × Bool)) (s : State) : State :=
  match c.arrays with
  | a :: _ =>
    let s := landBytes a (receiveKey off) bytes s
    let k := match c.plan with | some p => p.rxCounter | none => 0
    s.onEngine a fun g => { g with counters := tput 0 g.counters k (tget 0 g.counters k + BitVec.ofNat 32 bytes.length) }
  | [] => s

/-- A slice delivery: the array, the pass its buffer is open for, and the entry (R262). -/
def pushedSlice (c : ChainRun) (j : Nat) (ar : Array) (buf : Nat) (b : Bool) : Option (Nat × SliceEntry) :=
  match if buf = 0 then ar.open0 else ar.open1 with
  | none => none
  | some n => match posAhead c j (n - ar.passNo) (posOf ar) with
    | none => none
    | some pos => match sliceFor c b pos.2.1 with
      | some e => if e.push then some (n, e) else none
      | none => none

/-- A delivery to a chain whose first credits are not written yet: none of its slices is accepted (R109). -/
def deliveryWaits (off : Nat) (s : State) : Bool :=
  match findWindow s off with
  | none => false
  | some n => match boundChain s (winOf s n) with
    | some (_, c) => firstCredits c && !bit (off - winBase (winOf s n) * 65536) 20
    | none => false

/-- A delivery at its window: performed, or the reason of its refusal. -/
def deliverTo (w : FabWin) (off : Nat) (data : List (Byte × Bool)) (s : State) : Except Nat Unit × State :=
  match boundChain s w with
  | none => (.error 6, s)
  | some (_, c) =>
    let o := off - winBase w * 65536
    if !hasReceive c && !(c.slices.any (·.push)) then (.error 6, s)
    else if bits o 28 13 != 0 then (.error 7, s)
    else if bit o 20 then
      let at_ := bits o 0 15
      if bits o 15 5 != 0 || bits o 21 7 != 0 || !hasReceive c || decide (at_ + data.length > 32768) then (.error 7, s)
      else (.ok (), landReceive c at_ data s)
    else match c.arrays[bits o 21 7]? with
      | none => (.error 7, s)
      | some a =>
        let b := bit o 18
        match pushedSlice c (bits o 21 7) (s.array a) (bits o 19 1) b with
        | none => (.error 7, s)
        | some (n, e) =>
          if bits o 0 18 + data.length > sliceBytes c b then (.error 7, s)
          else (.ok (), landSlice c a b n (bits o 0 18) e data s)

/-- A packet of any kind at this module: checked and performed, or the reason of its refusal (R260-R262). -/
def performAny (src : Nat) (k : PktKind) (off n : Nat) (data : List (Byte × Bool)) (s : State) :
    Except Nat (List (Byte × Bool)) × State :=
  match k with
  | .deliver => match windowCheck s src k off with
    | .error r => (.error r, s)
    | .ok w => match deliverTo w off data s with
      | (.ok (), s) => (.ok [], s)
      | (.error r, s) => (.error r, s)
  | _ => performHere src k off n data s

/-! ### The operation of a ring -/

def fabricOf (s : State) (n : Nat) : Option FabricRun :=
  match (s.ring n).op with
  | some (.fabric f) => some f
  | _ => none

def setFabric (n : Nat) (f : FabricRun) (s : State) : State := s.onRing n fun q => { q with op := some (.fabric f) }

/-- A fabric transfer descriptor (Table 11 of chapter 10). -/
def parseFabric (b : List Byte) : FabricRun :=
  let w := descWord b 0 8
  { op := bits w 8 4, unordered := bit w 12, flag := bit w 13, all := bit w 14, aop := bits w 16 4
    node := bits (descWord b 8 8) 0 14, offset := bits (descWord b 0x10 8) 0 41, localVa := descWord b 0x18 8
    length := bits (descWord b 0x20 8) 0 32, value := descWord b 0x28 8, compare := descWord b 0x30 8
    flagOffset := bits (descWord b 0x38 8) 0 41 }

/-- PUT, GET or DELIVER. -/
def isTransfer (f : FabricRun) : Bool := f.op == 1 || f.op == 2 || f.op == 3

/-- The descriptor is refused (R269, R119): reserved bits, reserved codes, limits, alignment, unused fields. -/
def fabricBad (b : List Byte) (f : FabricRun) : Bool :=
  let w := descWord b 0 8
  bits w 0 8 != 1 || bits w 15 1 != 0 || bits w 20 44 != 0 || bits (descWord b 8 8) 14 50 != 0
    || bits (descWord b 0x10 8) 41 23 != 0 || bits (descWord b 0x20 8) 32 32 != 0 || bits (descWord b 0x38 8) 41 23 != 0
    || f.op == 0 || decide (6 < f.op)
    || (isTransfer f && (f.length == 0 || decide (f.offset + f.length > 2 ^ 41)))
    || (f.flag && (!(f.op == 1 || f.op == 3) || f.flagOffset % 8 != 0))
    || (f.op == 4 && (decide (3 < f.aop) || f.offset % (if f.aop = 3 then 512 else 8) != 0 || (f.aop == 3 && f.localVa != 0)))
    || (f.op == 6 && (f.length % 8 != 0 || decide (f.offset + f.length / 8 > 16384)))
    || (!isTransfer f && f.unordered) || (f.op != 5 && f.all) || (f.op != 4 && f.aop != 0)
    || ((f.op == 6 || (f.op == 5 && f.all)) && f.node != 0) || (f.op == 5 && (f.offset != 0 || f.localVa != 0))
    || ((f.op == 4 || f.op == 5) && f.length != 0) || (f.op != 4 && !f.flag && f.value != 0)
    || (!(f.op == 4 && f.aop == 2) && f.compare != 0) || (!f.flag && f.flagOffset != 0)

/-- C: the bytes below which every byte has been acknowledged as performed (R276). -/
def prefixFrom (l : Sparse Nat) : Nat → Nat → Nat
  | 0, c => c
  | k + 1, c => match tfind l c with
    | some n => if n = 0 then c else prefixFrom l k (c + n)
    | none => c
def fabricBytes (f : FabricRun) : Nat := prefixFrom f.acked (f.acked.length + 1) 0

/-- Kind of the operation's packets. -/
def fabricKind (f : FabricRun) : PktKind :=
  match f.op with
  | 2 => .get
  | 3 => .deliver
  | 4 => .atomic { kind := match f.aop with | 0 => .add | 1 => .swap | 2 => .cas | _ => .exactAdd
                   size := 8, operand := f.value, compare := f.compare }
  | _ => .put

/-- A result of the fabric form (R327). -/
def fabricRes (status node off reason atom : Nat) : Res :=
  { status := status, fabricForm := true, node := node, address := off, reason := reason, atom := atom }

/-- A fault of the local buffer: role 14 (R322). -/
def localRes (f : FabricRun) (status reason va : Nat) : Res :=
  { status := status, role := if status = 0x40 then 0 else 14, reason := reason, element := va - f.localVa, address := va }

/-- Bytes that came back to a GET or an ATOMIC are stored in LOCAL: the fault that this met, if any; none where the store
waits, which leaves what waiting leaves. -/
def storeLocal (n : Nat) (f : FabricRun) (off : Nat) (bytes : List (Byte × Bool)) (s : State) : Option (Option Res) × State :=
  match vaStore .once agentHub (.ring n) ((f.localVa + off) % 2 ^ 64) bytes s with
  | ((.done, _), s) => (some none, s)
  | ((.fault st c, k), s) => (some (some (localRes f st c (f.localVa + off + k))), s)
  | ((.wait, _), s1) => (none, keepAsked s s1)

/-- A piece has been performed at its target, with what it returned: the operation's account of it (R270, R272). Answers
whether what it returned is stored. -/
def takePiece (n off len : Nat) (bytes : List (Byte × Bool)) (s : State) : Bool × State :=
  match fabricOf s n with
  | none => (true, s)
  | some f =>
    let ack (f : FabricRun) : FabricRun := { f with acked := tins f.acked off len }
    match f.op with
    | 2 => match storeLocal n f off bytes s with
      | (some none, s) => (true, setFabric n (ack f) s)
      | (some (some x), s) => (true, setFabric n { f with stop := orStop f.stop x } s)
      | (none, s) => (false, s)
    | 4 =>
      if anyPoison bytes && f.aop != 3 then
        (true, setFabric n { f with stop := orStop f.stop { localRes f 0x50 0 f.localVa with atom := 2 } } s)
      else if f.aop = 3 ∨ f.localVa = 0 then (true, setFabric n (ack f) s)
      else match storeLocal n f 0 bytes s with
        | (some none, s) => (true, setFabric n (ack f) s)
        | (some (some x), s) => (true, setFabric n { f with stop := orStop f.stop { x with atom := 1 } } s)
        | (none, s) => (false, s)
    | _ => (true, setFabric n (ack f) s)

/-- A piece is over: what it returned is stored, or waits to be. -/
def pieceDone (n off len : Nat) (bytes : List (Byte × Bool)) (s : State) : State :=
  match takePiece n off len bytes s with
  | (true, s) => s
  | (false, s) => match fabricOf s n with
    | some f => setFabric n { f with waiting := f.waiting ++ [(off, len, bytes)] } s
    | none => s

/-- What waits to be stored is stored, in the order in which it came. -/
def storeWaiting (n : Nat) : Nat → State → State
  | 0, s => s
  | k + 1, s =>
    match fabricOf s n with
    | some f => match f.waiting with
      | [] => s
      | (off, len, b) :: rest => match takePiece n off len b (setFabric n { f with waiting := rest } s) with
        | (true, s) => storeWaiting n k s
        | (false, s1) => setFabric n f s1
    | none => s

/-- Originates a piece of the operation: sent, performed here where the node is this module's own, or ended. Answers
whether the next piece may follow. -/
def sendPiece (n : Nat) (f : FabricRun) (k : PktKind) (off len : Nat) (data : List (Byte × Bool)) (isFlag : Bool) (s : State) :
    Bool × State :=
  let t : TxPkt := { peer := f.node, seq := 0, kind := k, ordered := !f.unordered && f.op != 2, offset := off, length := len,
                     data := plain data, poisoned := sectorMask off data, owner := .ring n, localOff := f.sent
                     va := (f.localVa + f.sent) % 2 ^ 64, epoch := s.xlt.epoch, isFlag := isFlag, op := f.opNo
                     xlt := k == .put || k == .deliver }
  let (r, s) := originate t s
  let sent (s : State) := setFabric n (if isFlag then { f with flagSent := true } else { f with sent := f.sent + len }) s
  match r with
  | .sent => (true, sent s)
  | .full => (false, s)
  | .noRoute => (false, setFabric n { f with stop := orStop f.stop (fabricRes 0x51 f.node off 0 (if f.op = 4 then 2 else 0)) } s)
  | .loopback =>
    if k == .deliver && deliveryWaits off s then (false, s) else
    let (r, s) := performAny f.node k off len data s
    match r with
    | .ok b =>
      let s := sent s
      if isFlag then (true, match fabricOf s n with | some f => setFabric n { f with flagAcked := true } s | none => s)
      else (true, pieceDone n f.sent len b s)
    | .error c =>
      (false, setFabric n { f with stop := orStop f.stop (fabricRes 0x32 f.node off c (if f.op = 4 then 2 else 0)) } (windowFault f.node off c s))

/-- Sends what the operation may send now, packet by packet (R252, R270, R271); it goes on when acknowledgements make room. -/
def fabricSend (n : Nat) : Nat → State → State
  | 0, s => s
  | k + 1, s =>
    match fabricOf s n with
    | none => s
    | some f =>
      let off := f.offset + f.sent
      let len := min (f.length - f.sent) (256 - off % 256)
      if !isTransfer f || f.stop.isSome || decide (f.length ≤ f.sent) || sendWaits f.node s then s
      else if f.op = 2 then
        match sendPiece n f .get off len [] false s with
        | (true, s) => fabricSend n k s
        | (false, s) => s
      else match sourceRead n ((f.localVa + f.sent) % 2 ^ 64) len s with
        | (.data b, s) => match sendPiece n f (fabricKind f) off len b false s with
          | (true, s) => fabricSend n k s
          | (false, s) => s
        | (.fault st c va, s) => setFabric n { f with stop := orStop f.stop (localRes f st c va) } s
        | (.wait, s1) => keepAsked s s1

/-- The operation goes on. -/
def fabricGo (n : Nat) (s : State) : State :=
  match fabricOf s n with
  | some f => fabricSend n ((f.length - f.sent) / 128 + 2) (storeWaiting n f.waiting.length s)
  | none => s

/-- Every operation that waits for room goes on, and so do the engines' paths. -/
def fabricRoom (s : State) : State := wakeEngines (s.rings.foldl (fun s r => censusGo r.1 (fabricGo r.1 s)) s)

/-! ### The commands -/

/-- A fabric descriptor of ring n whose operation is the command's: it begins, or goes on where it runs already. -/
def fabricDesc (op n : Nat) (start : FabricRun → State → State) (s : State) : State :=
  match fabricOf s n with
  | some f => if f.op = op then fabricGo n s else s
  | none => onDesc n 0x06 (fun d s =>
      let va := descAddrOf d
      if va % 64 != 0 then refuse n 0x13 s
      else withStruct n va 64 va (fun b s =>
        let f := parseFabric b
        if fabricBad b f then refuse n 0x13 s
        else if f.op = op then
          let f := { f with opNo := s.fab.nextOp + 1 }
          start f (beginOp n (.fabric f) (s.onFab fun b => { b with nextOp := f.opNo }))
        else s) s) s

/-- FABRIC_PUT (R270). -/
def execFabricPut (ring : Nat) (s : State) : Out := .next (fabricDesc 1 ring (fun _ s => fabricGo ring s) s)
/-- FABRIC_GET (R270). -/
def execFabricGet (ring : Nat) (s : State) : Out := .next (fabricDesc 2 ring (fun _ s => fabricGo ring s) s)
/-- DELIVER (R271): the command stands for the moment at which the buffer's credit has been published (R109). -/
def execDeliver (ring : Nat) (s : State) : Out := .next (fabricDesc 3 ring (fun _ s => fabricGo ring s) s)

/-- FABRIC_ATOMIC (R272): one ordered packet. -/
def execFabricAtomic (ring : Nat) (s : State) : Out :=
  let go (f : FabricRun) (s : State) : State :=
    if f.sent = 0 ∧ f.stop.isNone then (sendPiece ring f (fabricKind f) f.offset 8 (allWith false (toBytes 8 f.value)) false s).2 else s
  .next (match fabricOf s ring with
    | some f => if f.op = 4 then go f s else s
    | none => fabricDesc 4 ring go s)

/-- FABRIC_FENCE (R273): the packets it waits for are those unacknowledged now. -/
def execFabricFence (ring : Nat) (s : State) : Out :=
  .next (fabricDesc 5 ring (fun f s =>
    let mine := s.fab.tx.filter fun t => f.all || t.peer == f.node
    setFabric ring { f with fenceSeqs := mine.map fun t => (t.peer, t.seq) } s) s)

/-- One entry of the shadow bank; ignored while it is held (R267). -/
def shadowWrite (index : Nat) (w : Word) (s : State) : State :=
  if s.fab.held then s
  else s.onFab fun f => { f with routes := tput 0 f.routes (one (!f.active) * 16384 + index) w }

/-- Loads routing entries one by one from LOCAL. -/
def routeLoad (n : Nat) : Nat → State → State
  | 0, s => s
  | k + 1, s =>
    match fabricOf s n with
    | none => s
    | some f =>
      if f.op != 6 || f.stop.isSome || decide (f.length / 8 ≤ f.sent) then s
      else match sourceRead n ((f.localVa + 8 * f.sent) % 2 ^ 64) 8 s with
        | (.data b, s) =>
          if anyPoison b then setFabric n { f with stop := orStop f.stop (localRes f 0x50 0 (f.localVa + 8 * f.sent)) } s
          else routeLoad n k (setFabric n { f with sent := f.sent + 1 }
            (shadowWrite (f.offset + f.sent) (BitVec.ofNat 64 (ofBytes (plain b))) s))
        | (.fault st c va, s) => setFabric n { f with stop := orStop f.stop (localRes f st c va) } s
        | (.wait, s1) => keepAsked s s1

/-- ROUTE_LOAD (R267). -/
def execRouteLoad (ring : Nat) (s : State) : Out :=
  .next (match fabricOf s ring with
    | some f => routeLoad ring (f.length / 8 + 1) s
    | none => fabricDesc 6 ring (fun f s => routeLoad ring (f.length / 8 + 1) s) s)

/-- FLAG_SEND (R274): once every data packet has been acknowledged as performed. -/
def execFlagSend (ring : Nat) (s : State) : Out :=
  .next (match fabricOf s ring with
    | some f =>
      if f.flag && !f.flagSent && f.stop.isNone && decide (fabricBytes f = f.length) then
        (sendPiece ring { f with unordered := false } .flag f.flagOffset 8 (allWith false (toBytes 8 f.value)) true s).2
      else s
    | none => s)

/-- The operation has nothing left to wait for. -/
def fabricDone (f : FabricRun) : Bool :=
  match f.op with
  | 4 => !f.acked.isEmpty
  | 5 => f.fenceSeqs.isEmpty
  | 6 => f.sent == f.length / 8
  | _ => fabricBytes f == f.length && (!f.flag || f.flagAcked)

/-- Its record's figures (R276, R328). -/
def fabricEnd (f : FabricRun) : Res :=
  let progress := if f.op = 6 then f.sent else if isTransfer f then fabricBytes f else 0
  match f.stop with
  | some r => { r with progress := progress }
  | none =>
    if f.op = 5 ∧ f.timedOut then { fabricRes 0x51 f.node 0 0 0 with progress := 0 }
    else { progress := progress, atom := if f.op = 4 then 1 else 0 }

/-- Packets of a ring's operation that has ended are nobody's. -/
def disownPackets (n : Nat) (s : State) : State :=
  s.onFab fun f => { f with tx := f.tx.map fun t => if t.owner = .ring n then { t with owner := .event } else t }

/-! ### Routing banks -/

/-- A write of FAB_RT_DATA (R267): an entry of the shadow; INDEX advances with a write that covers bits [63:32]. -/
def rtDataWrite (part : Part) (val : Word) (s : State) : State :=
  let i := field s.fab.rtIndex 0 14
  let old := tget 0 s.fab.routes (one (!s.fab.active) * 16384 + i)
  if s.fab.held then s
  else
    let s := shadowWrite i (partWrite old (partMask .whole) part val) s
    if part = .low then s
    else s.onFab fun f => { f with rtIndex := maskWrite f.rtIndex (fieldMask 0 14) (BitVec.ofNat 64 ((i + 1) % 16384)) }

/-- FAB_RT_DATA_WRITE. -/
def execFabRtDataWrite (part : Part) (val : Word) (s : State) : Out := .next (whenReady (rtDataWrite part val) s)

/-- A write of FAB_ROUTE_CTL (R267): HOLD_US, and the bank that becomes active; the shadow is then held. -/
def routeCtlWrite (part : Part) (val : Word) (s : State) : State :=
  let r := partWrite s.fab.routeCtl (fieldMask 16 16) part val
  let s := if field r 16 16 = 0 then s else s.onFab fun f => { f with routeCtl := r }
  let commit := field (partWo part val) 0 2
  let bank := commit == 3
  if 2 ≤ commit ∧ bank ≠ s.fab.active then s.onFab fun f => { f with active := bank, held := true } else s

/-- ROUTE_COMMIT. -/
def execRouteCommit (part : Part) (val : Word) (s : State) : Out := .next (whenReady (routeCtlWrite part val) s)

/-- ROUTE_HOLD_EXPIRE (R267). -/
def execRouteHoldExpire (s : State) : Out := .next (s.onFab fun f => { f with held := false })

end Sys2Proof.Machine
end

