-- ==== Sys2Proof/Machine/Transforms.lean ====
section
/-! DEFINITION. Transforms (R131-R141): their load, the copy in ascending order of the destination's index with
conversion and new scales, and the in-place transpose by pairs of regions. -/

namespace Sys2Proof.Machine

def transformOf (s : State) (n : Nat) : Option TransformRun :=
  match (s.ring n).op with
  | some (.transform t) => some t
  | _ => none

def setTransform (n : Nat) (t : TransformRun) (s : State) : State := s.onRing n fun q => { q with op := some (.transform t) }

/-! ### The load (R132, R133, R141) -/

/-- The fields of a transform descriptor (Table 5 of chapter 05), tensors apart. -/
def parseTransform (b : List Byte) : TransformRun :=
  let w := descWord b 0 8
  { round := bits w 8 3, overflow := bits w 11 2, perm := (List.range 8).map fun d => bits w (16 + 3 * d) 3
    seed := descWord b 8 8, die := bits w 40 2 }

def transformBad (b : List Byte) (t : TransformRun) : Bool :=
  let w := descWord b 0 8
  bits w 0 8 != 1 || bits w 42 22 != 0 || bits w 13 3 != 0 || descWord b 0x20 32 != 0 || decide (t.round > 4)
    || t.overflow == 3 || (t.seed != 0 && t.round != 4)

/-- RANK, PERM and padded extents of R133. -/
def permBad (t : TransformRun) : Bool :=
  let r := t.src.rank
  let p := t.perm.take r
  t.dst.rank != r || !(List.range r).all (p.contains ·) || (t.perm.drop r).any (· != 0)
    || (List.range r).any fun d => padExt t.dst d != padExt t.src (nth 0 t.perm d)

/-- An in-place transpose (R137). -/
def inPlaceOk (t : TransformRun) : Bool :=
  t.src.raw == t.dst.raw && t.src.rank == 2 && t.perm.take 2 == [1, 0] && tsize t.src 0 == tsize t.src 1
    && t.src.dims.all (fun d => d.padLo == 0 && d.padHi == 0) && t.src.scaleFmt == .none

def transformFmtBad (t : TransformRun) : Bool :=
  tensorFmtBad t.src || tensorFmtBad t.dst
    || (t.overflow == 2 && (t.dst.fmt == .e2m1 || t.dst.fmt == .int8 || t.dst.fmt == .int32))
    || (t.src.fmt == .code4) != (t.dst.fmt == .code4)

def loadTransform (ring va : Nat) (s : State) : Load (TransformRun × State) := do
  let ((), s) ← loadCheck ring 0x13 (va % 64 != 0) s
  let (b, s) ← loadBytes ring va 64 va s
  let t := parseTransform b
  let ((), s) ← loadCheck ring 0x13 (transformBad b t) s
  let (src, s) ← loadDesc ring (descWord b 0x10 8) s
  let (dst, s) ← loadDesc ring (descWord b 0x18 8) s
  let t := { t with src := src, dst := dst }
  let t := { t with inPlace := inPlaceOk t }
  let ((), s) ← loadCheck ring 0x13 (permBad t) s
  let ((), s) ← loadCheck ring 0x12 (transformFmtBad t) s
  let ((), s) ← loadCheck ring 0x11 ((!t.inPlace && tensorsOverlap src dst) || !distinctOk dst) s
  .ok (t, s)

/-- Admits a transform on the lowest free engine of its die, or waits (R132). -/
def admitTransform (n : Nat) (t : TransformRun) (s : State) : State :=
  match (if dieOn s (t.die + 1) then firstBelow 8 fun k => txWorks s (t.die * 8 + k) && (tget none s.transforms (t.die * 8 + k)).isNone else none) with
  | none => (setTransform n t s).onRing n fun q => { q with state := .waiting }
  | some k =>
    let s := setTransform n { t with admitted := true, engine := k } s
    let s := s.onRing n fun q => { q with state := .running, startTicks := s.hTicks }
    { s with transforms := tput none s.transforms (t.die * 8 + k) (some n) }

/-- The transform gives its engine back. -/
def releaseTransform (t : TransformRun) (s : State) : State :=
  if t.admitted then { s with transforms := tdel s.transforms (t.die * 8 + t.engine) } else s

/-- TRANSFORM (R132). -/
def execTransform (ring : Nat) (s : State) : Out :=
  .next (onDesc ring 0x02 (fun d s => runLoad s (loadTransform ring (descAddrOf d) s) fun t s => admitTransform ring t s) s)

/-! ### The copy (R133-R135) -/

/-- Who accesses memory for a transform: its engine, for the ring. -/
def transformWho (n : Nat) (t : TransformRun) : Who := ⟨700 + t.die * 8 + t.engine, .ring n⟩

/-- The source coordinate of a destination element (R133). -/
def sourceCoord (t : TransformRun) (idx : List Nat) : List Nat :=
  (List.range t.src.rank).map fun r =>
    match (List.range t.dst.rank).find? fun d => nth 0 t.perm d == r with
    | some d => nth 0 idx d + (tdim t.dst d).padLo
    | none => 0

/-- The copy moves bit patterns unchanged (R134). -/
def bitCopy (t : TransformRun) : Bool := t.src.fmt == t.dst.fmt && t.src.scaleFmt == .none && t.dst.scaleFmt == .none

/-- A source element, as its bits where the copy moves bits and as its value otherwise; `full` where the turn has no sector
read left for it. -/
inductive XGot where
  | bits (x : Nat)
  | num (v : Num)
  | fault (f : Flt)
  | wait
  | full

/-! ### The read-ahead buffer (R131) -/

/-- Sectors that hold n bytes at a. -/
def spanSectors (a n : Nat) : List Nat := span (a / 64) ((a + n - 1) / 64 - a / 64 + 1)

/-- Source sectors of a destination element: its element's and its scale's. -/
def elemSectors (t : TransformRun) (idx : List Nat) : List Nat :=
  match padSource t.src (sourceCoord t idx) with
  | .stored i =>
    let a := (elemAddr t.src i).1
    (if 0 ≤ a ∧ a < 2 ^ 64 then spanSectors a.toNat (elemLen t.src) else [])
      ++ (if t.src.scaleFmt != .none then [scaleAddr t.src i / 64] else [])
  | _ => []

/-- The elements of a destination element's block, in write order. -/
def blockIdxs (d : TDesc) (idx : List Nat) : List (List Nat) :=
  let r := d.shareDim
  let b := nth 0 idx r / d.blockSize * d.blockSize
  (span b (min d.blockSize (tsize d r - b))).map fun i => setNth idx r i

/-- Source sectors that the turn of a destination element needs: those of its element, or of its whole block where that is not in
progress (R46, R135). -/
def needSectors (t : TransformRun) (idx : List Nat) : List Nat :=
  if t.dst.scaleFmt == .none then elemSectors t idx
  else if (tfind t.blocks (scaleLin t.dst idx)).isSome then []
  else (blockIdxs t.dst idx).flatMap (elemSectors t)

/-- How the fetch of sectors ends. -/
inductive XFetch where
  | ok
  | full
  | wait
  | fault (status reason : Nat)

/-- Fetches sectors into the buffer, with the reads that the turn has left. -/
def fetchSectors (w : Who) : List Nat → TransformRun → Nat → State → XFetch × TransformRun × Nat × State
  | [], t, left, s => (.ok, t, left, s)
  | k :: ks, t, left, s =>
    if (tfind t.buf k).isSome then fetchSectors w ks t left s
    else if left = 0 then (.full, t, left, s)
    else match vaRead .once w.agent w.owner .read (64 * k) 64 s with
      | (.data x, s) => fetchSectors w ks { t with buf := tins t.buf k x } (left - 1) s
      | (.fault st c _, s) => (.fault st c, t, left, s)
      | (.wait, s1) => (.wait, t, left, keepAsked s s1)

/-- Bytes of the buffer. -/
def bufBytes (t : TransformRun) (a n : Nat) : List (Byte × Bool) :=
  (span a n).map fun x => nth (0, false) (tget [] t.buf (x / 64)) (x % 64)

/-- Sectors that the elements of the destination's row at element e need. -/
def rowSectors (t : TransformRun) (e : Nat) : List Nat :=
  ((span e (tsize t.dst 0)).flatMap fun k => needSectors t (unlinear (ownExts t.dst) k)).eraseDups

/-- The buffer with a row's sectors would pass 64 KiB. -/
def rowOver (t : TransformRun) (e : Nat) : Bool :=
  decide (1024 < t.buf.length + ((rowSectors t e).filter fun k => (tfind t.buf k).isNone).length)

/-- The engine comes to the row at element e: a new panel, where the higher indices change or the sectors no longer fit, starts
with an empty buffer. -/
def enterRow (t : TransformRun) (e : Nat) : TransformRun :=
  let idx := unlinear (ownExts t.dst) e
  if nth 0 idx 0 != 0 || t.row == some e then t
  else if nth 0 idx 1 = 0 ∨ rowOver t e then { t with row := some e, buf := [] }
  else { t with row := some e }

/-- Reads ahead within the panel, from element e on, with the reads that the turn has left. -/
def readAhead (w : Who) : Nat → Nat → TransformRun → Nat → State → TransformRun × State
  | 0, _, t, _, s => (t, s)
  | f + 1, e, t, left, s =>
    let idx := unlinear (ownExts t.dst) e
    if left = 0 ∨ e ≥ tcount t.dst ∨ (nth 0 idx 0 = 0 ∧ (nth 0 idx 1 = 0 ∨ rowOver t e)) then (t, s)
    else match fetchSectors w (needSectors t idx) t left s with
      | (.ok, t, left, s) => readAhead w f (e + 1) t left s
      | (.wait, t, _, s) => (t, s)
      | (_, t, _, _) => (t, s)

/-- Reads the source of a destination element through the buffer. A fault reports the source element's index (R135). -/
def readSource (w : Who) (t : TransformRun) (idx : List Nat) (left : Nat) (s : State) : XGot × TransformRun × Nat × State :=
  match padSource t.src (sourceCoord t idx) with
  | .zero => (if bitCopy t then .bits 0 else .num (numZero false), t, left, s)
  | .const => (if bitCopy t then .bits t.src.padValue else .num (decodeNum t.src.fmt t.src.padValue), t, left, s)
  | .stored i =>
    let (a, nib) := elemAddr t.src i
    let elem := linear (ownExts t.src) i
    let flt (st c at_ : Nat) : XGot := .fault ⟨st, 9, c, elem, at_⟩
    if a < 0 ∨ a ≥ 2 ^ 64 then (flt 0x30 0x1 (ofSigned 64 a), t, left, s)
    else match fetchSectors w (spanSectors a.toNat (elemLen t.src)) t left s with
      | (.full, t, left, s) => (.full, t, left, s)
      | (.wait, t, left, s) => (.wait, t, left, s)
      | (.fault st c, t, left, s) => (flt st c a.toNat, t, left, s)
      | (.ok, t, left, s) =>
        let b := bufBytes t a.toNat (elemLen t.src)
        let x := if tbits t.src == 4 then bits (ofBytes (plain b)) (4 * nib) 4 else ofBytes (plain b)
        if anyPoison b then (flt 0x50 0 a.toNat, t, left, s)
        else if bitCopy t then (.bits x, t, left, s)
        else if t.src.scaleFmt == .none then (.num (decodeNum t.src.fmt x), t, left, s)
        else
          let sa := scaleAddr t.src i
          if sa ≥ 2 ^ 64 then (flt 0x30 0x1 (sa % 2 ^ 64), t, left, s)
          else match fetchSectors w [sa / 64] t left s with
            | (.full, t, left, s) => (.full, t, left, s)
            | (.wait, t, left, s) => (.wait, t, left, s)
            | (.fault st c, t, left, s) => (flt st c sa, t, left, s)
            | (.ok, t, left, s) =>
              let b := bufBytes t sa 1
              (if anyPoison b then flt 0x50 0 sa else .num (scaledNum t.src.fmt t.src.scaleFmt x (ofBytes (plain b))), t, left, s)

/-- Bits of a destination element from its source (R134, R54). -/
def convertOut (t : TransformRun) (e : Nat) : XGot → Nat
  | .bits x => x
  | .num v => encodeNum t.dst.fmt (convertNum t.dst.fmt ((rmOfCode t.round).getD .rne) ((ovOfCode t.overflow).getD .dflt)
      (srDraw t.seed e) v)
  | _ => 0

/-- Reads every source of a block: its values, or how the first that has none ends. -/
def readBlock (w : Who) : List (List Nat) → TransformRun → Nat → State → (List Num × Option XGot) × TransformRun × Nat × State
  | [], t, left, s => (([], none), t, left, s)
  | i :: is, t, left, s =>
    match readSource w t i left s with
    | (.num v, t, left, s) =>
      let ((vs, r), t, left, s) := readBlock w is t left s
      ((v :: vs, r), t, left, s)
    | (r, t, left, s) => (([], some r), t, left, s)

/-- How the turn of one element ends: written, a stop, a wait for an answer or room, or no sector read left. -/
inductive XEnd where
  | done
  | stop (r : Res)
  | wait
  | full

/-- Writes an element's bits. -/
def writeElem (w : Who) (t : TransformRun) (idx : List Nat) (e x : Nat) (s : State) : XEnd × TransformRun × State :=
  match writeRaw w t.dst idx x s with
  | (.done, s) => (.done, { t with done := t.done + 1, written := t.written + 1 }, s)
  | (.fault st _ c _ a, s) => (.stop { status := st, role := 10, reason := c, element := e, address := a }, t, s)
  | (.wait, s1) => (.wait, t, keepAsked s s1)

/-- How a source that gives no value ends the turn of its element. -/
def sourceEnd : XGot → XEnd
  | .fault f => .stop (fltRes f)
  | .full => .full
  | _ => .wait

/-- The elements of a block's quantised values in progress: dropped with the block's last element. -/
def leaveBlock (t : TransformRun) (key at_ n : Nat) : TransformRun := if at_ + 1 = n then { t with blocks := tdel t.blocks key } else t

/-- A block's scale and then its first element go out together: a fault of the scale comes first in write order, and with one of
the element the scale is not written, since only scales of blocks begun are (R135). -/
def writeBegin (w : Who) (t : TransformRun) (idx : List Nat) (e scale x : Nat) (s : State) : XEnd × TransformRun × State :=
  match writeScale w t.dst idx scale s with
  | (.fault st _ c _ a, s) => (.stop { status := st, role := 10, reason := c, element := e, address := a }, t, s)
  | (.wait, s1) => (.wait, t, keepAsked s s1)
  | (.done, s1) => match writeElem w t idx e x s1 with
    | (.done, t, s) => (.done, t, s)
    | (.stop r, t, _) => (.stop r, t, s)
    | _ => match writeElem w t idx e x s with
      | (.wait, t, s) => (.wait, t, s)
      | _ => (.wait, t, s)

/-- The element whose turn it is (R135): of a block in progress, its bits; a block's first element goes out with the scale. -/
def copyElem (w : Who) (t : TransformRun) (left : Nat) (s : State) : XEnd × TransformRun × Nat × State :=
  let e := t.done
  let idx := unlinear (ownExts t.dst) e
  let t := enterRow t e
  if t.dst.scaleFmt == .none then
    match readSource w t idx left s with
    | (.bits x, t, left, s) => let (r, t, s) := writeElem w t idx e (convertOut t e (.bits x)) s; (r, t, left, s)
    | (.num v, t, left, s) => let (r, t, s) := writeElem w t idx e (convertOut t e (.num v)) s; (r, t, left, s)
    | (r, t, left, s) => (sourceEnd r, t, left, s)
  else
    let key := scaleLin t.dst idx
    let blk := blockIdxs t.dst idx
    let at_ := (blk.findIdx? (· == idx)).getD 0
    match tfind t.blocks key with
    | some els =>
      match writeElem w t idx e (nth 0 els at_) s with
      | (.done, t, s) => (.done, leaveBlock t key at_ blk.length, left, s)
      | (r, t, s) => (r, t, left, s)
    | none =>
      match readBlock w blk t left s with
      | ((_, some r), t, left, s) => (sourceEnd r, t, left, s)
      | ((vs, none), t, left, s) =>
        let draws := blk.map fun i => srDraw t.seed (linear (ownExts t.dst) i)
        let q := quantBlock t.dst.fmt t.dst.scaleFmt ((rmOfCode t.round).getD .rne) draws vs
        match writeBegin w { t with blocks := tins t.blocks key q.2 } idx e q.1 (nth 0 q.2 at_) s with
        | (.done, t, s) => (.done, leaveBlock t key at_ blk.length, left, s)
        | (r, _, s) => (r, t, left, s)

/-- A store of the transform in the fabric region still has no answer. The elements are written in ascending order (R135), so no
further one goes out before it comes; a block's scale and first element go out together (log entry 101). -/
def putsPending (w : Who) (s : State) : Bool := s.fab.tx.any fun t => t.owner == w.owner && !txAnswers t

/-- Elements until the turn's bytes or sector reads are spent, the destination is complete, or the transform stops or waits; what
reads are left go ahead. -/
def copyElems (n : Nat) (w : Who) : Nat → Nat → TransformRun → State → State
  | 0, left, t, s =>
    let (t, s) := readAhead w (tcount t.dst - t.done) t.done t left s
    setTransform n t s
  | k + 1, left, t, s =>
    if t.done ≥ tcount t.dst ∨ t.stop.isSome then setTransform n t s
    else if putsPending w s then copyElems n w 0 left t s
    else match copyElem w t left s with
      | (.done, t, left, s) => copyElems n w k left t s
      | (.stop r, t, _, s) => setTransform n { t with stop := some r } s
      | (_, t, _, s) => setTransform n t s

/-! ### In place (R137) -/

def regionCount (t : TransformRun) : Nat := cdiv (tsize t.dst 0) 64
def pairCount (t : TransformRun) : Nat := regionCount t * (regionCount t + 1) / 2

/-- The p-th pair (a, b) with a at most b, in row-major order. -/
def pairAt (nb : Nat) : Nat → Nat → Nat × Nat
  | 0, _ => (0, 0)
  | f + 1, p => let a := nb - (f + 1); if p < nb - a then (a, a + p) else pairAt nb f (p - (nb - a))

/-- The elements of region (a, b): rows of a, columns of b. -/
def regionIdxs (n a b : Nat) : List (List Nat) :=
  (span (64 * a) (min 64 (n - 64 * a))).flatMap fun r => (span (64 * b) (min 64 (n - 64 * b))).map fun c => [c, r]

/-- The elements of the p-th pair, in the order in which they are written. -/
def pairCells (t : TransformRun) (p : Nat) : List (List Nat) :=
  let (a, b) := pairAt (regionCount t) (regionCount t) p
  let size := tsize t.dst 0
  regionIdxs size a b ++ (if a = b then [] else regionIdxs size b a)

/-- Reads the sources of elements of a pair: the bits that each takes, or how the first that has none ends. -/
def readCells (w : Who) : List (List Nat) → TransformRun → Nat → State →
    (List (List Nat × Nat) × Option XGot) × TransformRun × Nat × State
  | [], t, left, s => (([], none), t, left, s)
  | i :: is, t, left, s =>
    match readSource w t i left s with
    | (.bits x, t, left, s) =>
      let ((l, r), t, left, s) := readCells w is t left s
      (((i, x) :: l, r), t, left, s)
    | (r, t, left, s) => (([], some r), t, left, s)

/-- Writes elements up to the first that faults or has to wait: how many, and what stopped, or what is still to be written. -/
def writePair (w : Who) (t : TransformRun) : List (List Nat × Nat) → Nat → State → (Nat × Option Res × List (List Nat × Nat)) × State
  | [], k, s => ((k, none, []), s)
  | (i, x) :: is, k, s =>
    if putsPending w s then ((k, none, (i, x) :: is), s)
    else match writeRaw w t.dst i x s with
    | (.done, s) => writePair w t is (k + 1) s
    | (.fault st _ c e a, s) => ((k, some { status := st, role := 10, reason := c, element := e, address := a }, []), s)
    | (.wait, s1) => ((k, none, (i, x) :: is), keepAsked s s1)

/-- The pair whose turn it is: both its regions are read completely before either is written (R137). -/
def beginPair (w : Who) (t : TransformRun) (left : Nat) (s : State) : XEnd × TransformRun × Nat × State :=
  if !t.todo.isEmpty then (.done, t, left, s)
  else match readCells w (pairCells t t.done) t left s with
    | ((l, none), t, left, s) => (.done, { t with todo := l, buf := [] }, left, s)
    | ((_, some r), t, left, s) => (sourceEnd r, t, left, s)

/-- Writes up to k elements of the pair in progress; with its last one the pair is done. -/
def putPair (w : Who) (k : Nat) (t : TransformRun) (s : State) : TransformRun × State :=
  match writePair w t (t.todo.take k) 0 s with
  | ((m, some r, _), s) => ({ t with stop := some r, written := t.written + m, todo := [] }, s)
  | ((m, none, rest), s) =>
    let l := rest ++ t.todo.drop k
    ({ t with done := t.done + one l.isEmpty, written := t.written + m, todo := l }, s)

/-- Reads ahead for the pair after the one that is being written, whose elements are others. -/
def aheadPair (w : Who) (t : TransformRun) (left : Nat) (s : State) : TransformRun × State :=
  let p := t.done + one (!t.todo.isEmpty)
  if left = 0 ∨ pairCount t ≤ p ∨ t.stop.isSome then (t, s)
  else let (_, t, _, s) := readCells w (pairCells t p) t left s; (t, s)

/-- A turn of an in-place transpose. -/
def transposeTurn (n : Nat) (t : TransformRun) (s : State) : State :=
  let w := transformWho n t
  match beginPair w t 2 s with
  | (.done, t, left, s) =>
    let (t, s) := putPair w (max 1 (1024 / tbits t.dst)) t s
    let (t, s) := aheadPair w t left s
    setTransform n t s
  | (.stop r, t, _, s) => setTransform n { t with stop := some r } s
  | (_, t, _, s) => setTransform n t s

/-- One turn of a transform engine (R131): up to 128 destination bytes and two source sectors (log entry 13). -/
def transformEffect (n : Nat) (s : State) : State :=
  match transformOf s n with
  | none => s
  | some t =>
    if !t.admitted || t.stop.isSome then s
    else if t.inPlace then (if t.done < pairCount t then transposeTurn n t s else s)
    else copyElems n (transformWho n t) (max 1 (1024 / tbits t.dst)) 2 t s

/-- TRANSFORM_TURN (R131). -/
def execTransformTurn (ring : Nat) (s : State) : Out := .next (transformEffect ring s)

end Sys2Proof.Machine
end

