-- ==== Sys2Proof/Machine/FabricRx.lean ====
section
/-! DEFINITION. The Dembet fabric: ports (R254, R282), forwarding (R255, R266), packets that arrive (R260-R263,
R278-R280), acknowledgements and timers at the sender (R276, R278, R279), and export windows (R259, R263). -/

namespace Sys2Proof.Machine

/-! ### Ports (R254, R282) -/

/-- Ports may train: the set-up commit has been made and the rung is 0 or 1. -/
def portsTrain (s : State) : Bool := s.setup.committed && decide (s.pwr.rung ≤ 1)

def portEn (s : State) (p : Nat) : Bool := flag s.fab.portEn p

/-- STATE of a port that is not up. -/
def portIdle (s : State) (p : Nat) : Nat :=
  if 2 ≤ s.pwr.rung then 7 else if !s.setup.committed || !portEn s p then 0 else 1

/-- A port leaves the up states: what its retry buffer and queue held is discarded, and no port set names it while it is
down (R265, R282). -/
def portLeave (p st : Nat) (s : State) : State :=
  let s := s.onPort p fun x => { x with state := st, queued := 0, nbrNode := 0, nbrPort := 0 }
  let s := s.onFab fun f => { f with out := f.out.filter fun m => m.port != p, retryBuf := f.retryBuf.filter fun m => m.port != p }
  s.onDod fun d => { d with heldPkts := d.heldPkts.filter fun h => !heldOn p h }

/-- PORT_PARTNER_DETECT. -/
def execPortPartnerDetect (port : Nat) (s : State) : Out :=
  .next (if portsTrain s && portEn s port && (s.port port).state == 1 then s.onPort port fun x => { x with state := 2 } else s)

/-- Of the lanes that trained, those that the repair map does not retire (R253, R390). -/
def lanesKept (s : State) (port : Nat) (lanes : BitVec 2) : BitVec 2 :=
  if (repEntry s 8 (portDie port) port).state = 4 then lanes &&& (if tget 0 s.rep.lanes port = 0 then 2 else 1) else lanes

/-- PORT_TRAIN_DONE: a port trains to its end only while it may train (R254). -/
def execPortTrainDone (port : Nat) (result : TrainResult) (s : State) : Out :=
  .next (if (s.port port).state != 2 || !portsTrain s || !portEn s port then s
    else match result with
      | .failed => s.onPort port fun x => { x with state := 1 }
      | .up trained node nbr =>
        let lanes := lanesKept s port trained
        let st := if node.toNat = nodeId s then 6 else if lanes = 3 then 3 else if lanes = 1 then 4 else if lanes = 2 then 5 else 1
        s.onPort port fun x => { x with state := st, nbrNode := if st = 1 then 0 else node.toNat, nbrPort := if st = 1 then 0 else nbr.toNat })

/-- PORT_DOWN (R282): a link failure, a cleared enable bit, or a rung of 2 or below. -/
def execPortDown (port : Nat) (cause : DownCause) (s : State) : Out :=
  let st := (s.port port).state
  let live := st == 2 || st == 6 || portUp s port
  .next (match cause with
    | .linkFailure => if live then portLeave port (portIdle s port) s else s
    | .disabled => if live && !portEn s port then portLeave port 0 s else s
    | .rung => if 2 ≤ s.pwr.rung then portLeave port 7 s else s)

/-- Every port takes the state it has while the module's own state keeps it down; those that may train and are not under
way begin to (R254, R441). -/
def portsSettle (s : State) : State :=
  (List.range 64).foldl (fun s p =>
    let st := (s.port p).state
    let idle := portIdle s p
    let live := st == 2 || st == 6 || portUp s p
    if live then (if idle = 7 ∨ !portEn s p ∨ (st = 2 ∧ idle = 0) then portLeave p idle s else s)
    else if st = idle then s else s.onPort p fun x => { x with state := idle }) s

/-- A write of FAB_PORT_EN: a cleared bit takes its port down, a set one lets it train. -/
def portEnWrite (part : Part) (val : Word) (s : State) : State :=
  portsSettle (s.onFab fun f => { f with portEn := partWrite f.portEn (partMask .whole) part val })

/-- FAB_PORT_EN_WRITE. -/
def execFabPortEnWrite (part : Part) (val : Word) (s : State) : Out := .next (whenReady (portEnWrite part val) s)

/-- The neighbour found a frame bad: what the port's retry buffer holds leaves again (R277). -/
def linkResend (port : Nat) (s : State) : State :=
  let again := s.fab.retryBuf.filter fun m => m.port == port
  let s := s.onPort port fun x => { x with retries := advance x.retries again.length }
  s.onFab fun f => { f with out := again ++ f.out, retryBuf := f.retryBuf.filter fun m => m.port != port }

/-- FRAME_RECEIVE (R277): a frame that fails its CRC is discarded and asked for again; a good one that asks for a resend has it;
another's packets are commands of their own. -/
def execFrameReceive (port : Nat) (crcOk : Bool) (kind : FrameKind) (s : State) : Out :=
  .next (if !portUp s port then s
    else if !crcOk then s.onFab fun f => { f with out := f.out ++ [{ port := port, msg := .linkRetry, len := 0 }] }
    else match kind with
      | .retry => linkResend port s
      | .packets => s)

/-! ### Forwarding (R255, R266) -/

/-- A packet or an answer of a payload arrives on a port, where the port is up. -/
def countIn (port len : Nat) (s : State) : State :=
  if portUp s port then s.onPort port fun x => { x with rxPackets := advance x.rxPackets 1, rxBytes := advance x.rxBytes len } else s

/-- A packet arrives on a port. -/
def countRx (p : Packet) (s : State) : State := countIn p.port p.data.length s

/-- A packet forwarded between X0 and X1 crosses H: its flits wait for the output to the other die (R255, R343, R344). -/
def crossHub (input output len : Nat) (s : State) : State :=
  if portDie input = portDie output then s
  else
    let out := portDie output - 1
    (List.range ((12 + len + 127) / 128)).foldl (fun s _ =>
      switchIn (portDie input - 1) out 6 (transitLane s out input output) true s) s

/-- PACKET_FORWARD. A packet wakes the module from rung 1 (R385). It keeps its class and the number of its bank, and its hop
count gives the virtual channel of the next link (R266, R267). -/
def execPacketForward (port : Nat) (pkt : Packet) (s : State) : Out :=
  .next (if !portUp s port || pkt.dst == nodeId s then s
    else
      let s := countRx { pkt with port := port } (stir s)
      if 8 ≤ pkt.hops then s.onFab fun f => { f with hopDrops := advance f.hopDrops 1 }
      else match pickPort s pkt.bank pkt.dst with
        | none => s.onFab fun f => { f with noRoute := advance f.noRoute 1 }
        | some q =>
          transmit { port := q, msg := .transit { pkt with port := q, hops := pkt.hops + 1 }, len := pkt.data.length,
                     response := pkt.response, hops := pkt.hops + 1, bank := pkt.bank } (!pkt.response) pkt.dst
            (crossHub port q pkt.data.length s))

/-! ### Packets for this module (R260, R261, R278-R280) -/

def rxOf (s : State) (peer : Nat) : RxCtx := tget {} s.fab.rx peer
def onRx (peer : Nat) (f : RxCtx → RxCtx) (s : State) : State :=
  s.onFab fun b => { b with rx := tput {} b.rx peer (f (tget {} b.rx peer)) }

/-- Distance from the context's base to a sequence number, modulo 2^24. -/
def seqAhead (base seq : Nat) : Nat := (seq + 2 ^ 24 - base) % 2 ^ 24
/-- The packet has arrived before. -/
def seqSeen (r : RxCtx) (seq : Nat) : Bool := decide (2 ^ 23 ≤ seqAhead r.base seq) || r.seen.contains seq

/-- The base moves past every number that has arrived. -/
def rxAdvance : Nat → RxCtx → RxCtx
  | 0, r => r
  | k + 1, r => if r.seen.contains r.base then rxAdvance k { r with base := (r.base + 1) % 2 ^ 24, seen := without r.seen r.base } else r

/-- Bytes in the reorder buffer of an I/O die. -/
def reorderBytes (s : State) (die : Nat) : Nat :=
  s.fab.rx.foldl (fun a r => (r.2.held.filter fun p => portDie p.port == die).foldl (fun a p => a + 12 + p.data.length) a) 0

/-- Kind of atomic results: remembered for the last 1,024 of a peer (R280). -/
def rememberAtomic (peer seq value : Nat) (s : State) : State :=
  onRx peer (fun r => { r with atomics := ((seq, value) :: r.atomics.filter fun a => a.1 != seq).take 1024 }) s

/-- A packet is refused: the sender is told the reason, again whenever the packet comes again (R260, R280). -/
def refusePacket (p : Packet) (reason : Nat) (s : State) : State :=
  answer p.src 0 (.nak p.src p.seq reason)
    (onRx p.src (fun r => { r with refused := ((p.seq, reason) :: r.refused.filter fun x => x.1 != p.seq).take 1024 }) s)

/-- A check fails: the operation is counted, with its record, at its first packet that fails (R260). -/
def operationFaults (p : Packet) (reason : Nat) (s : State) : State :=
  if (rxOf s p.src).faulted.any fun x => x.1 == p.op then s
  else windowFault p.src p.offset reason (onRx p.src (fun r => { r with faulted := ((p.op, reason) :: r.faulted).take 1024 }) s)

/-- A packet's bytes with their poison. -/
def pktBytes (p : Packet) : List (Byte × Bool) := withSectors p.poisoned p.offset p.data

/-- A packet is acknowledged as performed, with the bytes that it returns (R261, R278). -/
def answerData (p : Packet) (b : List (Byte × Bool)) (s : State) : State :=
  answer p.src b.length (.perfAck p.src p.seq (plain b) (sectorMask p.offset b)) s

/-- Performs a packet whose turn it is and answers it: performed, or refused with the reason (R260, R276). A later packet
of an ordered operation that has failed is not performed. -/
def performPacket (p : Packet) (s : State) : State :=
  match (rxOf s p.src).faulted.find? fun x => p.ordered && x.1 == p.op with
  | some x => refusePacket p x.2 s
  | none =>
    match performAny p.src p.kind p.offset p.length (pktBytes p) s with
    | (.error reason, s) => refusePacket p reason (operationFaults p reason s)
    | (.ok b, s) =>
      let s := onRx p.src (fun r => { r with refused := r.refused.filter fun x => x.1 != p.seq }) s
      let s := match p.kind with
        | .atomic _ => rememberAtomic p.src p.seq (ofBytes (plain b) + (if anyPoison b then 2 ^ 256 else 0)) s
        | _ => s
      answerData p b s

/-- The held packets whose predecessors have all arrived are performed in order (R279). -/
def rxDrain (peer : Nat) : Nat → State → State
  | 0, s => s
  | k + 1, s =>
    let r := rxOf s peer
    let ready := r.held.filter fun p => decide (2 ^ 23 ≤ seqAhead r.base p.seq)
    match ready.foldl (fun (b : Option Packet) p => match b with
      | none => some p
      | some q => if seqAhead ((r.base + 2 ^ 23) % 2 ^ 24) p.seq < seqAhead ((r.base + 2 ^ 23) % 2 ^ 24) q.seq then some p else some q) none with
    | none => s
    | some p => rxDrain peer k (performPacket p (onRx peer (fun r => { r with held := r.held.filter fun q => q.seq != p.seq }) s))

/-- The packet is held until its predecessors have arrived: ordered packets, and gets, which follow the earlier ordered
packets of their module (R270, R279). -/
def mustWait (p : Packet) : Bool := p.ordered || p.kind == .get

/-- A duplicate (R280): acknowledged again as the packet was, a get performed again, an atomic answered from the record. -/
def duplicate (p : Packet) (s : State) : State :=
  let s := s.onFab fun f => { f with duplicates := advance f.duplicates 1 }
  let r := rxOf s p.src
  if r.held.any fun q => q.seq == p.seq then answer p.src 0 (.recvAck p.src p.seq) s
  else match p.kind, r.refused.find? fun x => x.1 == p.seq with
    | .get, _ => match performAny p.src p.kind p.offset p.length (pktBytes p) s with
      | (.ok b, s) => answerData p b s
      | (.error reason, s) => answer p.src 0 (.nak p.src p.seq reason) s
    | _, some x => answer p.src 0 (.nak p.src p.seq x.2) s
    | .atomic q, none => match r.atomics.find? fun a => a.1 == p.seq with
      | some a => answer p.src q.size (.perfAck p.src p.seq (if q.kind = .exactAdd then [] else toBytes q.size a.2) (if 2 ^ 256 ≤ a.2 then BitVec.ofNat 4 (2 ^ blockSector p.offset) else 0)) s
      | none => s
    | _, none => answerData p [] s

/-- A packet of a kind arrives for this module (R255, R278-R281). -/
def packetArrives (isKind : PktKind → Bool) (p : Packet) (s : State) : State :=
  if !portUp s p.port || p.dst != nodeId s || !isKind p.kind then s
  else
    let s := countRx p (stir s)
    if !p.crcOk then s.onFab fun f => { f with crcDrops := advance f.crcDrops 1 }
    else
      let r := rxOf s p.src
      if seqSeen r p.seq then duplicate p s
      else
        let r2 := rxAdvance (r.seen.length + 2) { r with seen := setAdd r.seen p.seq }
        if p.kind == .deliver && deliveryWaits p.offset s then
          answer p.src 0 (.busy p.src p.seq) (s.onFab fun f => { f with busyNacks := advance f.busyNacks 1 })
        else
        let ready := !mustWait p || decide (2 ^ 23 ≤ seqAhead r2.base p.seq)
        if !ready && decide (reorderBytes s (portDie p.port) + 12 + p.data.length > 4194304) then
          answer p.src 0 (.busy p.src p.seq) (s.onFab fun f => { f with busyNacks := advance f.busyNacks 1 })
        else if !ready then
          answer p.src 0 (.recvAck p.src p.seq) (onRx p.src (fun _ => { r2 with held := r2.held ++ [p] }) s)
        else if mustWait p then
          rxDrain p.src (r2.held.length + 2) (onRx p.src (fun _ => { r2 with held := r2.held ++ [p] }) s)
        else rxDrain p.src (r2.held.length + 1) (performPacket p (onRx p.src (fun _ => r2) s))

/-- FABRIC_GET_RECEIVE (R261). -/
def execFabricGetReceive (pkt : Packet) (s : State) : Out := .next (packetArrives (· == .get) pkt s)
/-- FABRIC_PUT_RECEIVE (R261). -/
def execFabricPutReceive (pkt : Packet) (s : State) : Out := .next (packetArrives (· == .put) pkt s)
/-- FABRIC_FLAG_RECEIVE (R274): a store with a package-scope release; every earlier store of the module's flow is
performed. -/
def execFabricFlagReceive (pkt : Packet) (s : State) : Out := .next (packetArrives (· == .flag) pkt s)
/-- FABRIC_ATOMIC_RECEIVE (R280). -/
def execFabricAtomicReceive (pkt : Packet) (s : State) : Out :=
  .next (packetArrives (fun k => match k with | .atomic _ => true | _ => false) pkt s)
/-- DELIVERY_RECEIVE (R262). -/
def execDeliveryReceive (pkt : Packet) (s : State) : Out := .next (packetArrives (· == .deliver) pkt s)

/-- GAP_NOTICE_SEND (R278): a packet has been held for GAP_US with a predecessor missing. -/
def execGapNoticeSend (peer seq : Nat) (s : State) : Out :=
  let r := rxOf s peer
  .next (if !seqSeen r seq && r.held.any (fun p => decide (seqAhead r.base seq < seqAhead r.base p.seq)) then
      answer peer 0 (.gap peer seq) (s.onFab fun f => { f with gapNotices := advance f.gapNotices 1 })
    else s)

/-! ### Acknowledgements and timers at the sender (R276, R278, R279) -/

def txOf (s : State) (peer seq : Nat) : Option TxPkt := s.fab.tx.find? fun t => t.peer == peer && t.seq == seq

def onTx (peer seq : Nat) (f : TxPkt → TxPkt) (s : State) : State :=
  s.onFab fun b => { b with tx := b.tx.map fun t => if t.peer = peer ∧ t.seq = seq then f t else t }

/-- The packet is over: it leaves the context, and no fence waits for it any more. -/
def txEnd (t : TxPkt) (lost : Bool) (s : State) : State :=
  let s := s.onFab fun b => { b with tx := b.tx.filter fun x => !(x.peer == t.peer && x.seq == t.seq) }
  let free (r : Nat × Ring) : Nat × Ring :=
    match r.2.op with
    | some (.fabric f) =>
      if f.fenceSeqs.contains (t.peer, t.seq) then
        (r.1, { r.2 with op := some (.fabric { f with fenceSeqs := f.fenceSeqs.erase (t.peer, t.seq), timedOut := f.timedOut || lost }) })
      else r
    | _ => r
  { s with rings := s.rings.map free }

/-- What a packet brought, or how it failed, is kept for its access (R275). -/
def arrive (t : TxPkt) (bytes : List Byte) (bad : BitVec 4) (status reason : Nat) (s : State) : State :=
  s.onLink fun l => { l with arrived := l.arrived ++ [{
    owner := t.owner, pa := fabricPa t.peer t.offset, bytes := bytes, poisoned := bad, status := status, reason := reason
    op := if t.kind == .get then t.op else 0 }] }

/-- An access of an engine failed after its instruction: the program stops at the element (R166, R260). -/
def engineFails (t : TxPkt) (e k status reason : Nat) (s : State) : State :=
  if k < 8192 then match tfind (s.engine e).slots (k / 32) with
    | some g => stopProgram g.ring { status := status, role := 11, reason := reason, element := g.index * 32 + k % 32, address := t.va } s
    | none => s
  else match (s.engine e).copies.find? fun c => c.id + 8192 == k with
    | some c => stopProgram c.ring { status := status, role := 11, reason := reason, element := c.element, address := t.va } s
    | none => s

/-- The element of a tensor whose bytes begin at an address. -/
def putElement (d : TDesc) (va : Nat) : Option Nat :=
  (List.range (tcount d)).find? fun i => (elemAddr d (unlinear (ownExts d) i)).1 == (va : Int)
/-- The element of a tensor whose scale is at an address. -/
def putScale (d : TDesc) (va : Nat) : Option Nat :=
  if d.scaleFmt == .none then none else (List.range (tcount d)).find? fun i => scaleAddr d (unlinear (ownExts d) i) == va

/-- The result of a chain whose packet was not performed: of a store, the role and element of the tensor it belongs to (R245,
R260). -/
def chainPutRes (c : ChainRun) (t : TxPkt) (status reason : Nat) : Res :=
  let r (role element : Nat) : Res := { status := status, role := role, reason := reason, element := element, address := t.va }
  if t.kind != .put then { status := status }
  else match c.c.bind (putElement · t.va), c.c.bind (putScale · t.va), c.stats.bind (putElement · t.va) with
    | some e, _, _ => r 3 e
    | _, some _, _ => r 8 (t.va - (match c.c with | some d => d.scaleBase | none => 0))
    | _, _, some e => r 4 e
    | _, _, _ => if c.d.creditAddr != 0 then r 13 (t.va - c.d.creditAddr) else { status := status }

/-- A transform whose last put was refused: its element is not written, and its pair is not done (R135, R137). One put is on its way
at a time (`putsPending`). -/
def takeBackPut (x : TransformRun) : TransformRun :=
  { x with written := x.written - 1, done := x.done - one (!x.inPlace || x.todo.isEmpty), todo := [] }

/-- A packet ended without being performed: its sender's operation ends (R260, R278, R282). -/
def txFails (t : TxPkt) (status reason : Nat) (s : State) : State :=
  match t.owner with
  | .ring n => match (s.ring n).op with
    | some (.fabric f) =>
      let atom := if f.op = 4 then (if status = 0x32 then 2 else 3) else 0
      setFabric n { f with stop := orStop f.stop (fabricRes status t.peer t.offset reason atom) } s
    | some (.chain c) =>
      if txAnswers t then arrive t [] 0 status reason s else stopChain n (chainPutRes c t status reason) c.committed s
    | some (.transform x) =>
      if txAnswers t then arrive t [] 0 status reason s
      else
        let e := if x.inPlace then (putElement x.dst t.va).getD 0 else x.done - 1
        setTransform n { takeBackPut x with
          stop := orStop x.stop { status := status, role := 10, reason := reason, element := e, address := t.va } } s
    | _ => if txAnswers t then arrive t [] 0 status reason s else s
  | .engine e k => if txAnswers t then arrive t [] 0 status reason s else engineFails t e k status reason s
  | .core k => if txAnswers t then arrive t [] 0 status reason s else s.onCore k fun c => { c with exception := some 7, waitsFabric := false }
  | _ => s

/-- A packet has been performed at its target (R278): its bytes are committed, and what it brought goes to its sender. -/
def txPerformed (t : TxPkt) (bytes : List Byte) (bad : BitVec 4) (s : State) : State :=
  match t.owner with
  | .ring n => match fabricOf s n with
    | some f =>
      if t.isFlag then fabricRoom (setFabric n { f with flagAcked := true } (txEnd t false s))
      else fabricRoom (pieceDone n t.localOff t.length (withSectors bad t.offset bytes) (txEnd t false s))
    | none => fabricRoom (txEnd t false (if txAnswers t then arrive t bytes bad 0 0 s else s))
  | _ => fabricRoom (txEnd t false (if txAnswers t then arrive t bytes bad 0 0 s else s))

/-- RECEIVED_ACK. -/
def execReceivedAck (src : AckSrc) (seq : Nat) (s : State) : Out :=
  .next (onTx src.peer seq (fun t => { t with received := true }) (countIn src.port 0 s))

/-- PERFORMED_ACK: the first one counts; those of a packet that is over are discarded. -/
def execPerformedAck (src : AckSrc) (seq : Nat) (data : List Byte) (poisoned : BitVec 4) (s : State) : Out :=
  let s := countIn src.port data.length s
  .next (match txOf s src.peer seq with
    | some t => txPerformed t data poisoned s
    | none => s)

/-- NEGATIVE_ACK_RECEIVE (R260): FABRIC_WINDOW_FAULT. -/
def execNegativeAckReceive (src : AckSrc) (seq reason : Nat) (s : State) : Out :=
  let s := countIn src.port 0 s
  .next (match txOf s src.peer seq with
    | some t => fabricRoom (txFails t 0x32 reason (txEnd t false s))
    | none => s)

/-- Sends a packet again; without a route its operation ends (R282). -/
def resend (t : TxPkt) (s : State) : State :=
  match sendPacket t s with
  | some s => s
  | none => fabricRoom (txFails t 0x51 0 (txEnd t true (event 0x41 0 0 t.peer s)))

def countRetransmit (s : State) : State := s.onFab fun f => { f with retransmits := advance f.retransmits 1 }

/-- GAP_NOTICE_RECEIVE: the missing packet is resent at once. -/
def execGapNoticeReceive (src : AckSrc) (seq : Nat) (s : State) : Out :=
  let s := countIn src.port 0 s
  .next (match txOf s src.peer seq with
    | some t => resend t (countRetransmit s)
    | none => s)

/-- RTO_EXPIRE: a packet without an acknowledgement is resent, at most as many times as RETRIES had it when the packet was
sent. -/
def execRtoExpire (peer seq : Nat) (s : State) : Out :=
  .next (match txOf s peer seq with
    | some t =>
      if t.received || decide (field t.e2e 44 4 ≤ t.resends) then s
      else resend t (countRetransmit (onTx peer seq (fun t => { t with resends := t.resends + 1 }) s))
    | none => s)

/-- E2E_TIMEOUT: every operation to the peer with an unacknowledged packet ends with FABRIC_TIMEOUT; the context waits for
its handshake, which is sent again each time that T passes without an answer (log entry 98). -/
def execE2eTimeout (peer : Nat) (s : State) : Out :=
  let mine := s.fab.tx.filter fun t => t.peer == peer
  .next (if mine.isEmpty && !s.fab.broken.contains peer then s
    else
      let s := mine.foldl (fun s t => txFails t 0x51 0 (txEnd t true s)) s
      let s := s.onFab fun f => { f with broken := setAdd f.broken peer }
      fabricRoom (answer peer 0 (.handshake peer false) s))

/-- E2E_HANDSHAKE: the context is established again in the direction of the module whose packets timed out. That module's own
handshake makes its peer forget its packets and answer; the answer lets it begin again with number 0 (log entry 98). -/
def execE2eHandshake (shake : Handshake) (s : State) : Out :=
  let peer := shake.peer
  let s := countIn shake.port 0 s
  .next (if shake.reply then
      (if s.fab.broken.contains peer then
        fabricRoom (s.onFab fun f => { f with broken := without f.broken peer, nextSeq := tdel f.nextSeq peer })
      else s)
    else answer peer 0 (.handshake peer true) (s.onFab fun f => { f with rx := tdel f.rx peer }))

/-- BUSY_NOTICE_RECEIVE: the packet is resent after 2 us. -/
def execBusyNoticeReceive (src : AckSrc) (seq : Nat) (s : State) : Out :=
  .next (onTx src.peer seq (fun t => { t with busy := true }) (countIn src.port 0 s))

/-- BUSY_RESEND: not a retransmission. -/
def execBusyResend (peer seq : Nat) (s : State) : Out :=
  .next (match txOf s peer seq with
    | some t => if t.busy then resend { t with busy := false } (onTx peer seq (fun t => { t with busy := false }) s) else s
    | none => s)

/-! ### Export windows (R259, R263) -/

/-- A word of a window after a write: reserved codes of KIND and FILTER leave their field unchanged. -/
def winWord (word : Nat) (old : Word) (part : Part) (val : Word) : Word :=
  match word with
  | 0 =>
    let kind := if 2 ≤ field (partWrite old (partMask .whole) part val) 61 2 then 0 else fieldMask 61 2
    let filter := if field (partWrite old (partMask .whole) part val) 56 2 = 3 then 0 else fieldMask 56 2
    partWrite old (fieldMask 63 1 ||| fieldMask 58 3 ||| fieldMask 0 50 ||| kind ||| filter) part val
  | 1 => partWrite old (fieldMask 16 40 ||| fieldMask 0 12) part val
  | 2 => partWrite old (fieldMask 32 4 ||| fieldMask 16 14 ||| fieldMask 0 14) part val
  | _ => old

/-- A write of a window: later packets are checked under the new setting, and WIN_DRAINING is set. A write of the reserved word
W3 sets it too, as R263 has it for a write of any word (log entry 84). -/
def winWrite (window word : Nat) (part : Part) (val : Word) (s : State) : State :=
  let w := winOf s window
  let new : FabWin := match word with
    | 0 => { w with w0 := winWord 0 w.w0 part val }
    | 1 => { w with w1 := winWord 1 w.w1 part val }
    | 2 => { w with w2 := winWord 2 w.w2 part val }
    | _ => w
  s.onFab fun f => { f with wins := tput {} f.wins window new, winDraining := true }

/-- FAB_WIN_WRITE. -/
def execFabWinWrite (window word : Nat) (part : Part) (val : Word) (s : State) : Out :=
  .next (whenReady (winWrite window word part val) s)

/-- WIN_DRAIN_DONE: packets are checked and performed in one command, so none remains under an old setting. -/
def execWinDrainDone (s : State) : Out := .next (s.onFab fun f => { f with winDraining := false })

/-- Every export is withdrawn, as at a reset (R263). -/
def exportsClear (s : State) : State :=
  s.onFab fun f => { f with wins := (f.wins.map fun w => (w.1, { w.2 with w0 := maskWrite w.2.w0 (fieldMask 63 1) 0 })).filter fun w => w.2 != {} }

/-! ### The Dodgem unit (R401, R403) -/

/-- A write of DODGEM_CTL: ALLOW before the set-up commit only, EN while ALLOW is 1; setting EN restarts the packet indices,
and a change of EN places record 0x78. -/
def dodgemCtlWrite (part : Part) (val : Word) (s : State) : State :=
  let old := s.dod.ctl
  let allow := if s.locked then 0 else fieldMask 63 1
  let cls := if field (partWrite old (partMask .whole) part val) 23 2 = 3 then 0 else fieldMask 23 2
  let new := partWrite old (allow ||| fieldMask 62 1 ||| cls ||| fieldMask 22 1 ||| fieldMask 8 14 ||| fieldMask 0 6) part val
  let new := if flag new 62 && !flag new 63 then maskWrite new (fieldMask 62 1) (old &&& fieldMask 62 1) else new
  let on := flag new 62 && !flag old 62
  let s := s.onDod fun d => { d with
    ctl := new, index := if on then [] else d.index, burst := if on then [] else d.burst }
  if flag new 62 = flag old 62 then s else dodgemRecord (if on then 1 else 2) (field new 0 6) s

/-- DODGEM_CTL_WRITE. -/
def execDodgemCtlWrite (part : Part) (val : Word) (s : State) : Out := .next (whenReady (dodgemCtlWrite part val) s)

/-- DODGEM_REORDER_RELEASE: the packet held longest leaves after 10 us. -/
def execDodgemReorderRelease (s : State) : Out :=
  .next (match s.dod.heldPkts with
    | h :: rest => leaveAll h.2 (s.onDod fun d => { d with heldPkts := rest })
    | [] => s)

end Sys2Proof.Machine
end

