-- ==== Sys2Proof/Machine/BootOps.lean ====
section
/-! DEFINITION. What resets, boots and rungs share: the state that a cold reset leaves (R301, R386), the verification of
firmware slots at boot (R409-R411), whether the module is idle (R384), and how it leaves and enters rungs (R383-R386). -/

namespace Sys2Proof.Machine

/-! ### Firmware slots (R408-R411) -/

/-- The image that a slot holds from manufacture (R408): a well-formed header with KEY 0, VERSION 1 and SVN 1, and a body that the
manual does not give (log entry 102). -/
def shippedImage (comp : Nat) : Image :=
  { header := toBytes 4 0x5746514A ++ toBytes 4 comp ++ toBytes 4 1 ++ toBytes 4 1 ++ List.replicate 816 0, body := [] }

/-- The slot of a component: 1 for slot B. A slot that nothing has been transferred into holds its shipped image. -/
def slotOf (s : State) (comp b : Nat) : Slot :=
  (tfind s.flash.slots (comp * 2 + b)).getD { image := shippedImage comp, shipped := true }

/-- Key hash of a one-time-programmable slot. -/
def keyHash (s : State) (k : Nat) : BitVec 256 := (tfind s.flash.otp k).getD (Config.otpKeyHash k)

/-- The key of an image is revoked, or its SVN is below the component's minimum, in the codes of record 0x81. -/
def imageStale (s : State) (comp : Nat) (i : Image) : Option Nat :=
  if bit s.flash.revoked i.key then some 2
  else if i.svn < tget 0 s.flash.minSvn comp then some 3 else none

/-- Why the Ticket Booth refuses an image of a component, in the codes of record 0x81: 1 signature, 2 key revoked, 3 SVN
below the minimum (R409, R410). -/
def imageFault (s : State) (comp : Nat) (i : Image) : Option Nat :=
  if !imageFormed i || i.component != comp || bit i.revoke i.key || !imageAuthentic (keyHash s i.key) i then some 1
  else imageStale s comp i

/-- Why a slot cannot be booted: it is marked invalid, or its image is refused. A shipped image is authentic (log entry 102). -/
def slotFault (s : State) (comp b : Nat) : Option Nat :=
  let x := slotOf s comp b
  if x.invalid then some 1 else if x.shipped then imageStale s comp x.image else imageFault s comp x.image

/-- The component runs: its island has power, and a boot has verified it (R411, R414). -/
def componentRuns (s : State) (c : Nat) : Bool :=
  s.boot.island && !s.boot.lidFault && s.pwr.rung != 5 && !((s.boot.fail == 1 || s.boot.fail == 5) && decide (s.boot.comp ≤ c))

/-- The slot of a component that an image may be transferred into: not the one that it runs from, nor that of the boot record where
it does not run (R420). -/
def inactiveSlot (s : State) (c : Nat) : Nat := 1 - one (bit (if componentRuns s c then s.boot.slots else s.flash.active) c)

/-- Verifies one component at boot: the active slot, else the other, with record 0x81; with neither, boot stops there
(R411). -/
def verifyComponent (exhausted : Nat) (s : State) (comp : Nat) : State :=
  if s.boot.fail ≠ 0 then s
  else
    let b := one (bit s.flash.active comp)
    let runs (b : Nat) (s : State) : State := s.onBoot fun x => { x with
      slots := if b = 1 then x.slots ||| 2 ^ comp else if bit x.slots comp then x.slots - 2 ^ comp else x.slots }
    match slotFault s comp b with
    | none => runs b s
    | some r => match slotFault s comp (1 - b) with
      | none => event 0x81 r comp (1 - b) (runs (1 - b) s)
      | some _ => s.onBoot fun x => { x with fail := if bit exhausted comp then 5 else 1, comp := comp, stage := 7 }

/-- The components of the last activation return to their previous slots, with record 0x81 for each (R411). -/
def revertActivation (s : State) : State :=
  let a := s.flash.lastActivated
  let s := s.onFlash fun f => { f with
    active := (List.range 5).foldl (fun m c => if bit a c then m ^^^ 2 ^ c else m) f.active, lastActivated := 0, badBoots := 0 }
  (List.range 5).foldl (fun s c => if bit a c then event 0x81 4 c (one (bit s.flash.active c)) s else s) s

/-- The Ticket Booth's part of a boot (Table 4 of chapter 16, step 2): an activated set that has failed two boots is
reverted, then each component is verified, and the controllers are released (step 4). `kind` is that of record 0x80. -/
def bootFrom (kind : Nat) (s : State) : State :=
  let s := s.onBoot fun b => { b with kind := kind, stage := 2, fail := 0, failDie := 0, comp := 0 }
  let revert := s.flash.lastActivated != 0 && decide (2 ≤ s.flash.badBoots)
  let exhausted := if revert then s.flash.lastActivated else 0
  let s := if revert then revertActivation s
    else if s.flash.lastActivated != 0 then s.onFlash fun f => { f with badBoots := f.badBoots + 1 } else s
  let s := (List.range 5).foldl (verifyComponent exhausted) s
  if s.boot.fail = 0 then s.onBoot fun b => { b with stage := 4 } else s

/-! ### Cold reset (R301, R386, R390) -/

/-- Profile of a lid code (Table 1 of chapter 14), 0 for any other code. -/
def lidProfile (lid : BitVec 3) : Nat := if lid = 1 then 1 else if lid = 2 then 2 else if lid = 4 then 3 else 0

/-- Role and its source at a cold reset (Table 1 of chapter 11). -/
def roleFrom (pins : BitVec 2) (flash : Option (BitVec 2)) : BitVec 2 × BitVec 2 :=
  if pins ≠ 3 then (pins, 0)
  else match flash with
    | some r => if r = 3 then (0, 2) else (r, 1)
    | none => (0, 2)

/-- The repair map at boot: a stand-in becomes a free spare, a unit on the sideshow comes back (R390), a retired one that a RESTORE
was testing as retired. -/
def bootedEntry (e : RepEntry) : RepEntry :=
  if e.state = 2 then { state := 1 }
  else if e.state = 3 then { e with state := if e.cause = 0 then 0 else 4, partner := 0xFFFF } else e

/-- Every item at its cold reset value but for what survives: flash and the repair map (R364, R390, R408), the wear
ledgers (R373), the die links' repairs (R348, R349), and the retired granules unless CLEAR_PAGES was commanded (R396). The
profile is that of the lid code read at power-up (R357). -/
def coldState (s : State) : State :=
  let (role, source) := roleFrom s.pins.rolePins s.flash.role
  let cold : State := {}
  let s' : State := { cold with
    pins := { s.pins with thermtrip := false, perstOut := 0 }
    flash := s.flash
    link := { cold.link with role := role, source := source, serial := s.link.serial, stepping := s.link.stepping }
    pool := { cold.pool with
      retired1 := if s.pool.clearPages then [] else s.pool.retired1
      retired2 := if s.pool.clearPages then [] else s.pool.retired2 }
    rep := { cold.rep with
      map := s.rep.map.map fun (e : Nat × RepEntry) => (e.1, bootedEntry e.2)
      rowsUsed := s.rep.rowsUsed, waysUsed := s.rep.waysUsed, phases := s.rep.phases, lanes := s.rep.lanes }
    dl := s.dl.map fun (p : Nat × DlPort) =>
      (p.1, { spares := p.2.spares, strobeUp := p.2.strobeUp, strobeDn := p.2.strobeDn, retired := p.2.retired })
    pwr := { cold.pwr with
      profile := lidProfile s.pins.lidAtReset, shutdown := s.pwr.shutdown
      domains := s.pwr.domains.map fun (d : Nat × Domain) => (d.1, { wear := d.2.wear, wearCapped := d.2.wearCapped }) }
    free := s.free, pending := s.pending }
  s'.onPwr fun p => { p with balanceUj := capacityUj s' }

/-! ### Die-link ports at training (R353, R355) -/

/-- KIND of the die of a port. -/
def dlKind (p : Nat) : Nat := if p < 4 then 1 else if p < 6 then 2 else 3
/-- Lanes retired of a direction: their numbers are lane × 2 + direction, 1 to the die. -/
def dlRetired (x : DlPort) (dir : Nat) : Nat := (x.retired.filter fun k => k % 2 == dir).length

/-- The entries of a port in the repair map (R355, R390). -/
def portEntries (s : State) (p : Nat) : Sparse RepEntry := s.rep.map.filter fun e => e.1 / 65536 == (p + 1) * 256 + 9

/-- H answers the frame of a port's die: its designator, and the port's entries of the repair map (R355). -/
def dlAnswer (p : Nat) (s : State) : State :=
  let l := portEntries s p
  s.onDl p fun x => { x with designator := some (p + 1), entries := l }

/-- A port trains on the lanes that are left, with its remaps applied: STATE 3, 4, or 5 with none in a direction (R348 to R350). -/
def dlTrain (p : Nat) (s : State) : State :=
  s.onDl p fun x =>
    let up := dlLanes p - dlRetired x 0
    let dn := dlLanes p - dlRetired x 1
    { x with
      kind := dlKind p, lanesUp := up, lanesDn := dn, lanes := [], applied := true
      state := if up = 0 ∨ dn = 0 then 5 else if x.retired.isEmpty then 3 else 4 }

/-! ### Idle (R384) -/

/-- A ring in none of the states 2, 3, 6 and 7. -/
def ringQuiet (q : Ring) : Bool :=
  match q.state with
  | .running | .waiting | .rereading | .aborting => false
  | _ => true

/-- Every in-service core is in WFI. -/
def coresWait (s : State) : Bool :=
  (List.range 152).all fun k => !unitWorks s 4 (k / 76 + 5) (k % 76) || (s.core k).wfi

/-- The module is idle. -/
def moduleIdle (s : State) : Bool :=
  s.rings.all (fun r => ringQuiet r.2) && coresWait s && s.fab.tx.isEmpty && s.xlt.ops.isEmpty
    && s.link.reads.isEmpty && s.link.posted.isEmpty && s.link.heldAccesses.isEmpty && !s.pwr.memInit && !s.link.scrubBusy

/-- The link lets the module go below rung 2: D3hot, link down, or root ports (R384). -/
def linkQuiet (s : State) : Bool := !s.link.up || (s.endpoint && s.link.d3hot)

/-! ### Entering rungs -/

def setRung (r : Nat) (s : State) : State := s.onPwr fun p => { p with rung := r }

/-- A descent to a rung is noted in the carry-over record (Table 11 of chapter 11). -/
def noteRung (s : State) : State :=
  if s.pickle.valid then s.onPickle fun k => { k with rung := max k.rung s.pwr.rung } else s

/-- Rung 2: the Dembet ports go down (R254). -/
def enterRung2 (s : State) : State := noteRung (portsSettle (powerSettle (setRung 2 s)))

/-- Dies are powered off: what their units and TLBs held is lost, and their ports are down (R383). -/
def diesOff (dies : List Nat) (s : State) : State :=
  let s := { s with
    engines := [], arrays := []
    dieTicks := s.dieTicks.filter fun d => !dies.contains d.1 }
  let s := s.onXlt fun x => { x with l1 := [] }
  let s := s.onCoh fun c => { c with
    priv := [], wbuf := []
    outs := (c.outs.filter fun o => !dies.contains (o.1 + 1)).map fun (o : Nat × SwitchOut) =>
      (o.1, { o.2 with waiting := o.2.waiting.filter fun f => !dies.contains (f.input + 1) })
    timeP1 := 0
    cores := c.cores.map fun (k : Nat × Core) => (k.1, { k.2 with
      env := {}, reservation := none, lrDelay := false, cycle := 0, instret := 0, time := 0, pending := [], l1d := [], l1i := [] }) }
  let s := s.onPwr fun p => { p with dieOff := dies }
  { s with dl := s.dl.map fun (p : Nat × DlPort) => if dies.contains (p.1 + 1) then (p.1, { p.2 with state := 0, lanes := [], due := [], errors := [], credits := [], designator := none, entries := [] }) else p }

/-- Rung 3: every coherent cache is cleaned and invalidated, then the compute and processor dies go off. -/
def enterRung3 (s : State) : State :=
  let s := (heldLines s).foldl (fun s l => lineMaint .both l s) s
  noteRung (diesOff [1, 2, 3, 4, 5, 6] (portsSettle (powerSettle (setRung 3 s))))

/-- A request for rung 4 or 5 is refused (R386, R421). -/
def enterRefused (s : State) : Bool :=
  !moduleIdle s || s.rings.any (fun r => flag r.2.cfg 0) || !s.pickle.entries.isEmpty || !linkQuiet s || s.boot.act.isSome

/-- Rung 4: the pool is lost; set-up, banks and windows are kept. -/
def enterRung4 (s : State) : State :=
  let s := diesOff [1, 2, 3, 4, 5, 6, 8] (portsSettle (powerSettle (setRung 4 s)))
  let s := emptyPool { s with dl := s.dl.map fun (p : Nat × DlPort) =>
    (p.1, { p.2 with flitsTx := 0, flitsRx := 0, crcFails := 0, retries := 0, remaps := 0, laneRet := 0, metered := 0 }) }
  portsOffX1 (s.onCoh fun c => { c with ctr := [], rx := [], outs := [] })
where
  /-- X1 holds ports 32 to 63 (R253): their records start from 0 when it comes on again (R22, R284). -/
  portsOffX1 (s : State) : State :=
    s.onFab fun f => { f with ports := f.ports.map fun (p : Nat × FabPort) => if p.1 < 32 then p else (p.1, { p.2 with
      txPackets := 0, rxPackets := 0, txBytes := 0, rxBytes := 0, transit := 0, retries := 0, degrades := 0 }) }

/-- What the management island keeps while everything else is off: H's interval counter and the throttle record (R386). -/
def keepIsland (old s : State) : State :=
  let s := { s with hTicks := old.hTicks }
  s.onPwr fun p => { p with throttle := old.pwr.throttle, rnh := old.pwr.rnh }

/-- Rung 5: the ledger is written (R434), and only the island stays on. -/
def enterRung5 (s : State) : State :=
  setRung 5 { keepIsland s (coldState (ledgerWritten s)) with mgmt := s.mgmt }

/-! ### Leaving rungs (R385, R386) -/

/-- Every die is powered; the fault counts of the items of those that were off start again (R391). -/
def diesPowered (s : State) : State :=
  (s.onRep fun r => { r with counts := r.counts.filter fun x => !s.pwr.dieOff.contains x.die }).onPwr fun p => { p with dieOff := [] }

/-- A port of a die that is powered on again: the die identifies itself as it did at the boot, and the port trains, or fails as it
did then (R355; log entry 103). -/
def dlAgain (p : Nat) (s : State) : State :=
  if (s.dlPort p).state ≠ 0 then s
  else if (s.dlPort p).kind = dlKind p then dlTrain p (dlAnswer p s)
  else s.onDl p fun x => { x with state := 5 }

/-- The dies power on again, and their ports run discovery and train (R355). -/
def diesOn (s : State) : State := (List.range 8).foldl (fun s p => dlAgain p s) (diesPowered s)

/-- Rung 4 is left: the fill begins; TLBs, walk cache and holds are emptied. -/
def leaveRung4 (s : State) : State :=
  endHolds (tlbsEmpty ((diesOn s).onPwr fun p => { p with memInit := true }))

/-- Rung 5 is left: the boot sequence from the Ticket Booth's verification onward. -/
def leaveRung5 (s : State) : State := bootFrom 3 (keepIsland s (coldState s))

/-- Rung 1: the domains are at OP0. From a deeper one everything is powered again first (R303, R383). -/
def enterRung1 (s : State) : State :=
  let s := if s.pwr.rung = 4 then leaveRung4 s else if s.pwr.dieOff.isEmpty || !s.boot.ready then s else diesOn s
  noteRung (portsSettle (powerSettle (setRung 1 s)))

/-- The module wakes to rung 0 (R385). -/
def wakeUp (w : Wake) (s : State) : State :=
  match s.pwr.rung with
  | 0 => s
  | 1 => reasonsUpdate (setRung 0 s)
  | 5 => if w = .managementBus ∨ w = .perst then leaveRung5 s else s
  | r =>
    if w = .fabricPacket then s
    else
      let s := if r = 4 then leaveRung4 s else if s.pwr.dieOff.isEmpty || !s.boot.ready then s else diesOn s
      portsSettle (reasonsUpdate (setRung 0 s))

end Sys2Proof.Machine
end

