-- ==== Sys2Proof/Machine/Repair.lean ====
section
/-! DEFINITION. Commands of repair and self-test (chapter 15): fault counting (R391), substitution (R394), REP_CMD
(R396), tests on the sideshow (R397-R400), ageing (R364). -/

namespace Sys2Proof.Machine

/-! ### Fault counting (R391, R392) -/

/-- REP_RULE[c] (Table 4 of chapter 15); classes 12 to 15 read as 0. -/
def ruleOf (s : State) (c : Nat) : Word :=
  match tfind s.rep.rules c with
  | some w => w
  | none => match Config.ruleDefault[c]? with
    | some (n, w, u) => pack [(1, 31), (u, 24), (w, 8), (n, 0)]
    | none => 0

/-- Wire groups per direction of a die-link port, sideband groups included (Table 1 of chapter 13, R341). A group's
unit number in the repair map is its number, plus these for the direction to the die (log entry 20). -/
def groupsOf (port : Nat) : Nat := if port < 4 then 144 else if port < 6 then 36 else 113

/-- WINDOW of a rule in ticks of 10 ns. -/
def windowTicks (w : Word) : Nat := field w 8 16 * (match field w 24 2 with | 0 => 100000 | 1 => 100000000 | _ => 360000000000)

/-- Something at a tick lies within the window of a class that ends now. -/
def inWindow (s : State) (cls t : Nat) : Bool := decide (s.hTicks.toNat < t + windowTicks (ruleOf s cls))

/-- Counts an event of a class against an item of a die: whether COUNT of the item's events now lie within WINDOW, and how many
do. The count then restarts. An item beyond 4,096 takes the place of the one whose last event is oldest. -/
def countItem (cls item die : Nat) (s : State) : (Bool × Nat) × State :=
  let mine (x : ItemCount) : Bool := x.cls == cls && x.item == item && x.die == die
  let old := match s.rep.counts.find? mine with | some x => x.times.filter (inWindow s cls) | none => []
  let times := old ++ [s.hTicks.toNat]
  let rest := s.rep.counts.filter fun x => !mine x
  let fired := decide (field (ruleOf s cls) 0 8 ≤ times.length)
  let full := decide ((rest.filter fun x => x.cls == cls).length ≥ 4096)
  let rest := if full && !fired then
      match rest.find? fun x => x.cls == cls with
      | some x => rest.erase x
      | none => rest
    else rest
  ((fired, times.length), s.onRep fun r => { r with counts := if fired then rest else rest ++ [⟨cls, item, die, times⟩] })

/-- The count of an item restarts. -/
def countDrop (cls item die : Nat) (s : State) : State :=
  s.onRep fun r => { r with counts := r.counts.filter fun x => !(x.cls == cls && x.item == item && x.die == die) }

/-- Record 0x70, with the unit layer of classes about a unit, wire group, lane or phase; its ADDR is the item: of a unit or a wire
group its number, else what the event names (R405). -/
def ruleRecord (cls item n die unit : Nat) (s : State) : State :=
  match cls with
  | 1 => eventRep 0x70 cls unit n 9 die unit n s
  | 2 => eventRep 0x70 cls unit n 1 die unit n s
  | 3 => eventRep 0x70 cls unit n 1 die unit n s
  | 4 => eventRep 0x70 cls unit n 4 die unit n s
  | 5 => eventRep 0x70 cls unit n 5 die unit n s
  | 9 => eventRep 0x70 cls item n 8 die unit n s
  | 10 => eventRep 0x70 cls item n 10 (domainDie (item / 256)) (item / 256) n s
  | 11 => eventRep 0x70 cls unit n 4 die unit n s
  | _ => eventDie 0x70 cls item n die 0 s

/-- A rule of class 1 fires with its action: the group waits for its repair, which WIRE_REMAP or LANE_RETIRE brings (R347 to
R349). Its number in the repair map counts the groups of the direction to the die after the others (log entry 20). -/
def markDue (port unit : Nat) (s : State) : State :=
  let n := groupsOf port
  s.onDl port fun x => { x with due := setAdd x.due (unit % n * 2 + one (decide (n ≤ unit))) }

/-- Errors are charged to wires of a group (R347). -/
def chargeWires (port g dir : Nat) (wires : List (Nat × Nat)) (s : State) : State :=
  s.onDl port fun x => { x with
    errors := (x.errors.filter fun e => inWindow s 1 e.2.2) ++ wires.map fun w => ((g * 2 + dir) * 48 + w.1, w.2, s.hTicks.toNat) }

/-- Retires the unit of a die that holds an SRAM macro: a way, a pair or a core (Table 3, class 0). -/
def retireHolder (die unit cls : Nat) (s : State) : State :=
  if die = 0 then retireWay unit 1 cls s
  else if die ≤ 4 then retireUnit 1 die unit 1 cls s
  else retireUnit 4 die unit 1 cls s

/-- Class 0: a spare row of the macro, item = macro × 2^16 + row; with none left the holder is retired (R388). -/
def replaceRow (ev : ErrEvent) (s : State) : State :=
  let macro_ := ev.item / 65536
  let used := tget 0 s.rep.rowsUsed macro_
  if used < 4 then
    eventDie 0x74 1 (ev.item % 65536) (3 - used) ev.die 0
      (s.onRep fun r => { r with rowsUsed := tput 0 r.rowsUsed macro_ (used + 1) })
  else retireHolder ev.die ev.unit 0 (eventDie 0x79 4 0 0 ev.die 0 s)

/-- Class 6: hard post-package repair, or with no resource left the retirement of every granule with a piece in the row, which
the event names. The manual
leaves the resources of a stack to HBM4: whether one is left, and how many, are free values (log entry 19). -/
def repairHbmRow (ev : ErrEvent) (s : State) : State :=
  let (w, s) := s.draw
  let (left, s) := s.draw
  if w.toNat % 2 = 1 then eventDie 0x74 2 ev.item left.toNat ev.die 0 s
  else (ev.pa :: ev.rowGranules).foldl (fun s pa => retireGranule pa s) (eventDie 0x79 5 0 0 ev.die 0 s)

/-- Class 9: the port runs on its other lane, as the repair map keeps it; item = port × 2 + lane (R253, R390). -/
def degradePort (ev : ErrEvent) (s : State) : State :=
  let p := ev.item / 2
  if (s.port p).state = 3 then
    let s := s.onPort p fun x => { x with state := if ev.item % 2 = 0 then 5 else 4, degrades := advance x.degrades 1 }
    let s := (setRep 8 (portDie p) p { state := 4, cause := 1, cls := 9 } s).onRep fun r => { r with lanes := tput 0 r.lanes p (ev.item % 2) }
    eventRep 0x75 2 0 1 8 (portDie p) p 0 s
  else if portUp s p then eventRep 0x79 8 0 0 8 (portDie p) p 0 s else s

/-- Class 10: the phase is retired, item = rail × 256 + phase, a rail being numbered as its domain (R395). -/
def retirePhase (ev : ErrEvent) (s : State) : State :=
  let rail := ev.item / 256
  let n := tget 0 s.rep.phases rail + 1
  let s := s.onRep fun r => { r with phases := tput 0 r.phases rail n }
  let s := eventRep 0x74 6 rail (2 - n) 10 (domainDie rail) rail 0 s
  powerSettle (if n > 2 then eventRep 0x79 9 0 0 10 (domainDie rail) rail 0 s else s)

/-- The action of a rule (Table 3 of chapter 15). -/
def ruleAction (ev : ErrEvent) (s : State) : State :=
  match ev.cls with
  | 0 => replaceRow ev s
  | 1 => markDue (ev.die - 1) ev.unit s
  | 2 => retireUnit 1 ev.die ev.unit 1 2 s
  | 3 => retireUnit 1 ev.die ev.unit 1 3 s
  | 4 => retireUnit 4 ev.die ev.unit 1 4 s
  | 5 => retireWay ev.unit 1 5 s
  | 6 => repairHbmRow ev s
  | 7 => retireGranule ev.pa s
  | 8 => retireGranule ev.pa s
  | 9 => degradePort ev s
  | 10 => retirePhase ev s
  | 11 => retireUnit 4 ev.die ev.unit 1 11 s
  | _ => s

/-- A line of the system cache with a change, in its set or in the victim cache. -/
def scUpdate (line : Nat) (f : ScLine → ScLine) (s : State) : State :=
  match scFind s line with
  | some k => match tfind s.coh.sc k with
    | some l => scSet k (f l) s
    | none => s
  | none => s.onCoh fun c => { c with
      victim := tput [] c.victim (sliceOf line) ((tget [] c.victim (sliceOf line)).map fun l => if l.line = line then f l else l) }

/-- A clean sector is discarded and read again from memory. -/
def refilled (s : State) (sec : Nat) (l : ScLine) : ScLine :=
  let b := memRead s.pool.mem (l.line * 128 + sec * 64) 64
  let ep := dramPoison s (2 * l.line + sec)
  if sec = 0 then { l with data := patch l.data 0 b, poison0 := ep } else { l with data := patch l.data 64 b, poison1 := ep }

/-- An uncorrectable error in a valid sector of the system cache or of a victim cache (R192): a clean one is read again from
memory, and counts as a corrected error; a dirty one is poisoned, with record 0x10. -/
def sramUncorrectable (pa : Nat) (s : State) : Bool × State :=
  let line := pa / 128
  let sec := pa % 128 / 64
  match scCopy s line with
  | none => (false, s)
  | some l =>
    if !(if sec = 0 then l.valid0 else l.valid1) then (false, s)
    else if (if sec = 0 then l.dirty0 else l.dirty1) then
      (false, event 0x10 3 (pa / 64 * 64) 0 (scUpdate line (fun l => if sec = 0 then { l with poison0 := true } else { l with poison1 := true }) s))
    else (true, scUpdate line (refilled s sec) s)

/-- An uncorrectable error in another SRAM word (R191; log entry 96): a byte's sector of a slice buffer and a register are marked
poisoned, and so are a sector of scratch and one of a private cache's line, a tile whose accumulators hold it writes nothing, as with a poisoned operand, and a TLB drops the entry. -/
def sramMark (ev : ErrEvent) (s : State) : State :=
  let u := pairIndex ev.die ev.unit
  match ev.spot with
  | .staging byte => s.onArray u fun a => { a with landedBad := (span (byte / 64 * 64) 64).foldl setAdd a.landedBad }
  | .accumulator tile => match (s.array u).ring with
    | some n => if (s.array u).tiles.any (·.tile == tile) then stopChain n { status := 0x50 } tile s else s
    | none => s
  | .register slot lane reg => s.onEngine u fun e => { e with slots := e.slots.map fun (p : Nat × Group) =>
      if p.1 = slot then (p.1, { p.2 with badRegs := setAdd p.2.badRegs (lane * 256 + reg) }) else p }
  | .tlb agent va => s.onXlt fun x => { x with
      l1 := tput [] x.l1 agent ((tget [] x.l1 agent).filter fun e => !tlbCovers e va)
      l2 := if hasL1 agent then x.l2 else x.l2.filter fun p => !tlbCovers p.2 va }
  | .scratch ring byte => s.onEngine u fun e => { e with grants := e.grants.map fun g =>
      if g.ring = ring then { g with scratchPoison := (span (byte / 64 * 64) 64).foldl setAdd g.scratchPoison } else g }
  | .cache cache line sector =>
    let mark (p : PrivLine) : PrivLine :=
      if p.cache = cache ∧ p.line = line then (if sector = 0 then { p with poison0 := true } else { p with poison1 := true }) else p
    s.onCoh fun c => { c with priv := c.priv.map mark, wbuf := c.wbuf.map mark }
  | .other => s

/-- What an error does before it is counted, and whether it counts as a corrected one: recovery mode of an engine with a
corrected error (R148: in the register file, or with `pa` set in its issue state), an uncorrectable error of an SRAM word, the errors
of a flit that failed at the die's end, and the safety-net event of a phase fault (R395). -/
def errorEffect (ev : ErrEvent) (s : State) : Bool × State :=
  if ev.cls = 10 then (true, safetyNet (ev.item / 256) s)
  else if ev.cls = 1 then
    let n := groupsOf (ev.die - 1)
    (true, chargeWires (ev.die - 1) (ev.unit % n) (one (decide (n ≤ ev.unit))) ev.charges s)
  else if ev.structural then (true, s)
  else if eccFinds .sram ev.wrong = .uncorrectable ∧ (ev.cls = 0 ∨ ev.cls = 3 ∨ ev.cls = 4 ∨ ev.cls = 5) then
    if ev.cls = 5 then sramUncorrectable ev.pa s else (false, sramMark ev s)
  else if ev.cls = 3 ∧ 1 ≤ ev.die ∧ ev.die ≤ 4 then
    (true, enterRecovery (pairIndex ev.die ev.unit) (if ev.pa = 0 then 3 else 4) s)
  else (true, s)

/-- An error event is counted; a rule that fires places record 0x70 and takes its action where ACT is 1 (R391). -/
def countError (ev : ErrEvent) (s : State) : State :=
  if decide (12 ≤ ev.cls) then s
  else
    let (counts, s) := errorEffect ev s
    if !counts then s
    else
      let ((fired, n), s) := countItem ev.cls ev.item ev.die s
      if fired then
        let s := ruleRecord ev.cls ev.item n ev.die ev.unit s
        if flag (ruleOf s ev.cls) 31 then ruleAction ev s else s
      else s

/-- An event waits while its die's controller is away; beyond 1,024 one of the lost events of an item stands for all
of them (R415). -/
def queueError (ev : ErrEvent) (s : State) : State :=
  s.onBoot fun b =>
    if b.queued.length < 1024 then { b with queued := b.queued ++ [ev] }
    else if b.queuedLost.any fun x => x.cls == ev.cls && x.item == ev.item then b
    else { b with queuedLost := b.queuedLost ++ [ev] }

/-- CORRECTED_ERROR (R391, R404, R194): injected errors are never counted; a tag or directory entry with more wrong bits than its
code corrects (R191) stops every ring. -/
def execCorrectedError (ev : ErrEvent) (s : State) : Out :=
  .next (if ev.injected then s
    else if ev.structural && eccFinds .tags ev.wrong == .uncorrectable then structureError ev.unit s
    else if dieFrozen s ev.die then queueError ev s
    else countError ev s)

/-- Events in ascending order of their units, those of one unit in order of arrival (R389). -/
def byUnit (l : List ErrEvent) : List ErrEvent :=
  l.foldl (fun (a : List ErrEvent) e => (a.takeWhile fun x => decide (x.unit ≤ e.unit)) ++ e :: a.dropWhile fun x => decide (x.unit ≤ e.unit)) []

/-- Events that waited for a die's controller are counted once it runs again. -/
def releaseErrors (die : Nat) (s : State) : State :=
  let l := (s.boot.queued ++ s.boot.queuedLost).filter fun e => e.die == die
  let s := s.onBoot fun b => { b with
    queued := b.queued.filter fun e => e.die != die, queuedLost := b.queuedLost.filter fun e => e.die != die }
  (byUnit l).foldl (fun s e => countError e s) s

/-! ### Substitution (R394) -/

/-- PAIR_SUBSTITUTE: the array's oldest tile has drained and the groups stand at an issue boundary. -/
def execPairSubstitute (die unit : Nat) (s : State) : Out := .next (boundaryMove 1 die unit s)

/-- CORE_SUBSTITUTE: the core stands at an instruction boundary. -/
def execCoreSubstitute (core : Nat) (s : State) : Out := .next (boundaryMove 4 (core / 76 + 5) (core % 76) s)

/-- RETIRE_PENDING_DONE: the pair's resident chain and programs have ended. -/
def execRetirePendingDone (die unit : Nat) (s : State) : Out :=
  .next (if (repEntry s 1 die unit).state = 5 && pairIdle s (pairIndex die unit) then retireAlone 1 die unit s else s)

/-! ### REP_CMD (R396) -/

def repNotTaken (s : State) : State := s.onRep fun r => { r with err := true, result := 3 }

/-- The core is in WFI, and has been for 1 ms where its die has no free spare (R396). -/
def coreLeft (die unit : Nat) (s : State) : Bool :=
  let c := s.core (coreIndex die unit)
  c.wfi && (!(freeSpares s 4 die).isEmpty || decide (c.wfiSince + 100000 ≤ s.hTicks.toNat))

/-- RETIRE is taken: a pair, way or core that is not retired; a core only in WFI. -/
def retireTaken (kind die unit : Nat) (s : State) : Bool :=
  let st := (repEntry s kind die unit).state
  if kind = 5 then die == 0 && st != 4 && decide (unit / 256 < 64) && decide (unit / 16 % 16 < 12)
  else unitExists kind die unit && st != 4 && (kind == 1 || st == 1 || coreLeft die unit s)

/-- The domain of a unit of the repair map has one on the sideshow. -/
def domainTested (s : State) (kind die unit : Nat) : Bool :=
  s.rep.side.any fun x => x.1 == die && x.2.1 == kind && x.2.2.1 / unitsPerDomain kind == unit / unitsPerDomain kind

/-- RESTORE is taken: a retired pair or core of a powered die whose domain has no unit on the sideshow, a retired Dembet lane, or a
wire group with a repair. -/
def restoreTaken (kind die unit : Nat) (s : State) : Bool :=
  let e := repEntry s kind die unit
  if kind = 8 then e.state == 4
  else if kind = 9 then e.state == 4 || e.cause != 0
  else unitExists kind die unit && e.state == 4 && dieOn s die && !domainTested s kind die unit

/-- A core in state 5 that has left its work is retired by the command; other units as R394 states. -/
def retireCommand (kind die unit : Nat) (s : State) : State :=
  if kind = 5 then retireWay unit 3 0 s
  else if kind = 4 ∧ (repEntry s 4 die unit).state = 5 then alone s
  else if kind = 4 ∧ (repEntry s 4 die unit).state = 0 ∧ (freeSpares s 4 die).isEmpty then
    let s := takeStandIn 4 die s
    if (freeSpares s 4 die).isEmpty then alone s else retireUnit 4 die unit 3 0 s
  else retireUnit kind die unit 3 0 s
where
  /-- A core without a spare, out of use, is retired. -/
  alone (s : State) : State := retireAlone 4 die unit (setRep 4 die unit { repEntry s 4 die unit with cause := 3, cls := 0 } s)

/-- A retired pair or core is tested as on the sideshow, with no work to move (R396, R398). -/
def restoreBegin (kind die unit : Nat) (s : State) : State :=
  let s := setRep kind die unit { repEntry s kind die unit with state := 3, partner := 0xFFFF } s
  let s := if kind = 1 then testMode (pairIndex die unit) s else s
  let s := s.onRep fun r => { r with side := r.side ++ [(die, kind, unit, 0xFFFF)], retest := false }
  eventRep 0x76 1 0 0xFFFF kind die unit 0 s

/-- Its test ends: it becomes a free spare, or stays retired. -/
def restoreEnd (kind die unit : Nat) (e : RepEntry) (passed : Bool) (s : State) : State :=
  let s := sideReturn kind die unit s
  let s := if passed then s else setRep kind die unit { e with state := 4 } s
  eventRep 0x76 (if passed then 2 else 3) 0 0xFFFF kind die unit 0 s

/-- A command of REP_CMD (Table 6 of chapter 15). -/
def repCommand (op kind die unit : Nat) (s : State) : State :=
  if op = 0 ∨ 3 < op then s
  else if s.rep.busy then s.onRep fun r => { r with err := true }
  else
    let taken := match op with
      | 1 => retireTaken kind die unit s
      | 2 => restoreTaken kind die unit s
      | _ => true
    if !taken then repNotTaken s
    else
      let s := s.onRep fun r => { r with busy := true, cmd := some (op, kind, die, unit) }
      match op with
      | 1 => retireCommand kind die unit s
      | 2 => if kind = 1 ∨ kind = 4 then restoreBegin kind die unit s else s
      | 3 => s.onPool fun p => { p with clearPages := true }
      | _ => s

/-- RETIRE. -/
def execRetire (kind die unit : Nat) (s : State) : Out := .next (whenReady (repCommand 1 kind die unit) s)

/-- RESTORE. -/
def execRestore (kind die unit : Nat) (s : State) : Out := .next (whenReady (repCommand 2 kind die unit) s)

/-- CLEAR_PAGES. -/
def execClearPages (s : State) : Out := .next (whenReady (repCommand 3 0 0 0) s)

/-- Data wire groups per direction of a port; the sideband groups are numbered after them. -/
def dataGroups (port : Nat) : Nat := if port < 4 then 128 else if port < 6 then 32 else 100

/-- Flit lanes that use a group: four data groups make a lane, and a sideband group serves two (R343). -/
def groupLanes (port g : Nat) : List Nat :=
  if g < dataGroups port then [g / 4]
  else (span ((g - dataGroups port) * 2) 2).filter fun l => decide (l < dataGroups port / 4)

/-- Groups of a lane, its sideband group last. -/
def laneGroups (port lane : Nat) : List Nat := span (lane * 4) 4 ++ [dataGroups port + lane / 2]

/-- A wire group comes back: its wires are its own again, and lanes that were retired for it are in service with all their
groups. -/
def restoreGroup (die unit : Nat) (s : State) : State :=
  let p := die - 1
  let per := groupsOf p
  let dir := one (decide (per ≤ unit))
  let back := (groupLanes p (unit % per)).filter fun l => (s.dlPort p).retired.contains (l * 2 + dir)
  let groups := unit % per :: back.flatMap (laneGroups p)
  let s := groups.foldl (fun s g => setRep 9 die (g + per * dir) {} s) s
  s.onDl p fun x =>
    let retired := back.foldl (fun r l => without r (l * 2 + dir)) x.retired
    { x with spares := groups.foldl (fun t g => tdel t (g * 2 + dir)) x.spares
             retired := retired
             lanesUp := if dir = 0 then x.lanesUp + back.length else x.lanesUp
             lanesDn := if dir = 1 then x.lanesDn + back.length else x.lanesDn
             state := if x.state = 4 ∧ retired.isEmpty then 3 else x.state }

/-- A RESTORE of a lane or wire group trained cleanly. -/
def restoreDone (kind die unit : Nat) (s : State) : State :=
  if kind = 8 then
    let s := (setRep 8 die unit {} s).onRep fun r => { r with lanes := tdel r.lanes unit }
    if (s.port unit).state = 4 ∨ (s.port unit).state = 5 then s.onPort unit fun x => { x with state := 3 } else s
  else restoreGroup die unit s

/-- A mismatch of a unit on the sideshow (R398): record 0x77, and the count of class 2 or 11; whether its rule fires. -/
def mismatch (kind die unit outputs : Nat) (s : State) : Bool × State :=
  let cls := if kind = 1 then 2 else 11
  let s := eventRep 0x77 (if kind = 1 then 1 else 2) 0 outputs kind die unit 0 s
  let ((fired, n), s) := countItem cls unit die s
  (fired, if fired then ruleRecord cls unit n die unit s else s)

/-- The test of a RESTORE gives its result: after a mismatch the unit is tested again at once, and stays retired where the rule has
fired or the new test fails too. The command does not tell how many outputs mismatched: PARAM of record 0x77 is a free value (log
entry 22). -/
def restoreResult (kind die unit : Nat) (passed : Bool) (s : State) : State :=
  let e := repEntry s kind die unit
  let ends (ok : Bool) (s : State) : State :=
    (restoreEnd kind die unit e ok s).onRep fun r => { r with busy := false, cmd := none, retest := false, result := if ok then 1 else 2 }
  if passed then ends true s
  else
    let (x, s) := s.draw
    let (fired, s) := mismatch kind die unit x.toNat s
    if fired || s.rep.retest then ends false s else s.onRep fun r => { r with retest := true }

/-- REP_CMD_DONE. -/
def execRepCmdDone (passed : Bool) (s : State) : Out :=
  .next (match s.rep.cmd with
    | none => s
    | some (op, kind, die, unit) =>
      if op = 2 ∧ (kind = 1 ∨ kind = 4) then restoreResult kind die unit passed s
      else
        let s := if op = 2 && passed then restoreDone kind die unit s else s
        s.onRep fun r => { r with busy := false, cmd := none, result := if op = 2 && !passed then 2 else 1 })

/-! ### TEST (R397-R400) -/

/-- Units that a kind has on a die for a TEST, and the operation it takes (R397). -/
def testUnits (kind die : Nat) : List Nat :=
  match kind with
  | 1 => if 1 ≤ die ∧ die ≤ 4 then List.range 136 else []
  | 4 => if 5 ≤ die ∧ die ≤ 6 then List.range 76 else []
  | 6 => if 1 ≤ die ∧ die ≤ 4 then span (3 * (die - 1)) 3 else []
  | 7 => if die = 7 then List.range 24 else if die = 8 then span 24 24 else []
  | 8 => if die = 7 then List.range 32 else if die = 8 then span 32 32 else []
  | 9 => if die = 0 then List.range 8 else []
  | _ => []

def testOp (kind : Nat) : Nat := if kind = 1 ∨ kind = 4 then 1 else 2

def setTest (n : Nat) (t : TestRun) (s : State) : State := s.onRing n fun q => { q with op := some (.test t) }

def testOf (s : State) (n : Nat) : Option TestRun :=
  match (s.ring n).op with
  | some (.test t) => some t
  | _ => none

/-- TEST (R397): the named units wait for the sideshow. -/
def execTest (ring : Nat) (s : State) : Out :=
  .next (onDesc ring 0x0A (fun d s =>
    let kind := descWord d 8 1
    let die := descWord d 9 1
    let unit := descWord d 10 2
    let op := descWord d 12 1
    let all := testUnits kind die
    let units := if unit = 0xFFFF then all else all.filter (· == unit)
    if units.isEmpty ∨ op ≠ testOp kind then refuse ring 0x13 s
    else beginOp ring (.test { kind := kind, die := die, op := op, units := units }) s) s)

/-- Why a unit cannot be treated now (Table 9 of chapter 15); the lowest reason that holds. A unit that stands in for another
waits for that one, and the stacks of a compute die count as one domain (log entry 21). -/
def deferReason (t : TestRun) (u : Nat) (s : State) : Option Nat :=
  let e := repEntry s t.kind t.die u
  let ofMap := t.kind == 1 || t.kind == 4
  let per := unitsPerDomain t.kind
  let same (x : Nat × Nat × Nat × Nat) : Bool :=
    x.1 == t.die && (if ofMap then x.2.1 == t.kind && x.2.2.1 / per == u / per else t.kind != 6 || x.2.1 == 6)
  if ofMap && e.state != 1 && (freeSpares s t.kind t.die).isEmpty then some 1
  else if t.kind = 8 ∧ ((s.port u).state = 4 ∨ (s.port u).state = 5) then some 1
  else if ofMap && (e.state == 4 || e.state == 5 || e.cause != 0) then some 2
  else if !dieOn s t.die then some 3
  else if s.rep.side.any same || (ofMap && e.state == 2) then some 4
  else if s.boot.act.isSome then some 6
  else none

/-- A unit goes on the sideshow: its work moves to a spare, and an engine enters test mode (R148, R398). A Dembet port runs on its
other lane, lane 1 being shown while the two are treated in turn (log entry 22). -/
def sideBegin (n : Nat) (t : TestRun) (u : Nat) (s : State) : State :=
  let e := repEntry s t.kind t.die u
  let ofMap := t.kind == 1 || t.kind == 4
  let sp := if ofMap && e.state != 1 then (pickSpare s t.kind t.die u).getD 0xFFFF else 0xFFFF
  let s := if sp = 0xFFFF then s
    else setRep t.kind t.die sp { state := 2, partner := u } (moveUnit t.kind t.die u sp s)
  let s := if ofMap then setRep t.kind t.die u { state := 3, partner := sp } s else s
  let s := if t.kind = 1 then testMode (pairIndex t.die u) s else s
  let s := if t.kind = 8 ∧ (s.port u).state = 3 then s.onPort u fun x => { x with state := 5 } else s
  let s := s.onRep fun r => { r with side := r.side ++ [(t.die, t.kind, u, sp)] }
  eventRep 0x76 1 0 sp t.kind t.die u 0 (setTest n { t with onSide := some u, standIn := sp, retest := false } (powerSettle s))

/-- SIDESHOW_BEGIN: the next unit of the test, or the test's deferral at it (R398, R399). -/
def execSideshowBegin (ring : Nat) (s : State) : Out :=
  .next (match testOf s ring with
    | none => s
    | some t =>
      match (if t.stop.isNone && t.onSide.isNone then t.units[t.treated]? else none) with
      | none => s
      | some u => match deferReason t u s with
        | some r => setTest ring { t with stop := some { status := 0x01, progress := t.treated, second := r } } s
        | none => sideBegin ring t u s)

/-- The unit's treatment ends and it returns. -/
def sideEnd (n : Nat) (t : TestRun) (u reason : Nat) (s : State) : State :=
  let s := eventRep 0x76 reason 0 t.standIn t.kind t.die u 0 (sideReturn t.kind t.die u s)
  setTest n { t with onSide := none, retest := false, treated := t.treated + 1, failed := t.failed + one (reason == 3) } s

/-- A self-test mismatch (R398): counted in class 2 or 11; the unit is tested again at once, and does not return where the rule has
fired or the new test fails too: it is retired, by the rule where ACT is 1, else as R390 names a self-test mismatch. A unit that its
own mismatch retires counts as failed (log entry 22). -/
def sideMismatch (n : Nat) (t : TestRun) (u outputs : Nat) (s : State) : State :=
  let cls := if t.kind = 1 then 2 else 11
  let (fired, s) := mismatch t.kind t.die u outputs s
  if fired || t.retest then
    let s := retireUnit t.kind t.die u (if fired && flag (ruleOf s cls) 31 then 1 else 4) cls s
    let s := eventRep 0x76 3 0 t.standIn t.kind t.die u 0 s
    setTest n { t with onSide := none, retest := false, treated := t.treated + 1, failed := t.failed + 1 } s
  else setTest n { t with retest := true } s

/-- SIDESHOW_END. -/
def execSideshowEnd (ring : Nat) (result : SideResult) (s : State) : Out :=
  .next (match testOf s ring with
    | none => s
    | some t => match t.onSide with
      | none => s
      | some u => match result with
        | .passed => sideEnd ring t u 2 s
        | .failed k => if t.kind = 1 ∨ t.kind = 4 then sideMismatch ring t u k s else sideEnd ring t u 3 s
        | .untreatable r => setTest ring { t with
            onSide := none, stop := some { status := 0x01, progress := t.treated, second := r } } (testReturn t s))

/-! ### Ageing (R364) -/

/-- Die code, kind, unit and domain of a unit of the rated-maximum table (R445). -/
def ratedUnit (i : Nat) : Nat × Nat × Nat × Nat :=
  if i < 544 then (i / 136 + 1, 1, i % 136, i / 136 * 8 + i % 136 / 17)
  else if i < 1088 then let e := i - 544; (e / 136 + 1, 2, e % 136, e / 136 * 8 + e % 136 / 17)
  else if i < 1120 then let n := i - 1088; (n / 8 + 1, 3, n % 8, n)
  else let k := i - 1120; (k / 76 + 5, 4, k % 76, 32 + k / 76 * 4 + k % 76 / 19)

/-- AGEING_CHECK: a short margin lowers the unit's rated maximum by one point, with record 0x63; a unit that falls below OP5 is
retired. A transform engine has no spare (R388): it takes no more work, and ends what it has. -/
def execAgeingCheck (unit : Nat) (short : Bool) (s : State) : Out :=
  .next (if !short || decide (1272 ≤ unit) || ratedOf s unit == 0 then s
    else
      let (die, kind, u, dom) := ratedUnit unit
      let new := ratedOf s unit - 1
      let s := s.onFlash fun f => { f with rated := tput 7 f.rated unit new }
      let s := eventUnit 0x63 0 dom new die (domainInDie dom) kind u 0 0 s
      let s := if new ≥ 5 then s
        else if kind = 3 then (if new = 4 then eventRep 0x71 2 0 0xFFFF 3 die u 0 s else s)
        else retireUnit (if kind = 4 then 4 else 1) die u 2 0 s
      powerSettle s)

end Sys2Proof.Machine
end

