-- ==== Sys2Proof/Machine/Translation.lean ====
section
/-! DEFINITION. Translation operations (R240-R243), holds (R249) and page walks (R228). -/

namespace Sys2Proof.Machine

/-- A translation descriptor (Table 6 of chapter 09). -/
def parseXlt (b : List Byte) : XltRun :=
  { op := bits (descWord b 0 8) 8 4, start := descWord b 8 8, length := descWord b 0x10 8, root := descWord b 0x18 8,
    holdMs := bits (descWord b 0x20 8) 0 16 }

/-- The operation names a range. -/
def xltRanged (op : Nat) : Bool := op == 1 || op == 4 || op == 5

/-- The hold of exactly a range. -/
def holdOf (s : State) (start length : Nat) : Option HoldRange :=
  s.xlt.holds.find? fun h => h.start == start && h.length == length

/-- The descriptor is refused (R240, R119). -/
def xltBad (b : List Byte) (x : XltRun) (s : State) : Bool :=
  bits (descWord b 0 8) 0 8 != 1 || bits (descWord b 0 8) 12 52 != 0 || bits (descWord b 0x20 8) 16 48 != 0
    || descWord b 0x28 24 != 0 || x.op == 0 || decide (5 < x.op)
    || (xltRanged x.op && (x.length == 0 || x.start % 4096 != 0 || x.length % 4096 != 0))
    || (!xltRanged x.op && (x.start != 0 || x.length != 0))
    || (x.op == 3 && (bits x.root 60 4 != 10 || bits x.root 44 16 != 0)) || (x.op != 3 && x.root != 0)
    || (x.op != 4 && x.holdMs != 0) || (x.op == 5 && (holdOf s x.start x.length).isNone)

/-- HOLD operations in progress and ranges held. -/
def holdsUsed (s : State) : Nat :=
  s.xlt.holds.length + (s.xlt.ops.filter fun n => match (s.ring n).op with
    | some (.xlt x) => x.op == 4
    | _ => false).length

/-- The operation may start: at most 8 are in progress, and at most 16 ranges are held (R241, R249). -/
def xltFits (x : XltRun) (s : State) : Bool :=
  decide (s.xlt.ops.length < 8) && (x.op != 4 || decide (holdsUsed s < 16))

/-- Accepts an operation: the epoch rises, the affected translations leave every TLB, the walk cache empties, and a new
root takes effect (R241). -/
def startXlt (n : Nat) (x : XltRun) (s : State) : State :=
  let s := s.onXlt fun t => { t with epoch := t.epoch + 1, ops := t.ops ++ [n] }
  let s := if x.op = 1 ∨ x.op = 4 then tlbsRemove x.start x.length s else tlbsEmpty s
  let s := if x.op = 3 then s.onXlt fun t => { t with root := BitVec.ofNat 64 x.root } else s
  beginOp n (.xlt { x with epochAfter := s.xlt.epoch, started := true }) s

/-- RELEASE ends the hold of its range, and completes (R249); of a range that is held no more, after a wait, it is refused. -/
def releaseHold (n : Nat) (x : XltRun) (s : State) : State :=
  if (holdOf s x.start x.length).isNone then refuse n 0x13 s
  else
    let s := s.onRing n fun q => { q with state := .running, startTicks := s.hTicks }
    let s := afterHold (s.onXlt fun t => { t with holds := t.holds.filter fun h => !(h.start == x.start && h.length == x.length) })
    complete n { second := s.xlt.epoch.toNat } s

/-- Starts the operation, or keeps it waiting in its ring. -/
def admitXlt (n : Nat) (x : XltRun) (s : State) : State :=
  if !xltFits x s then waitRing n (s.onRing n fun q => { q with op := some (.xlt x) })
  else if x.op = 5 then releaseHold n x s else startXlt n x s

/-- A translation descriptor of ring n, where it is the command's. -/
def xltDesc (op n : Nat) (run : XltRun → State → State) (s : State) : State :=
  match descOf s n 0x05 with
  | none => s
  | some d =>
    if !admitsXlt s then waitRing n s
    else
      let va := descAddrOf d
      if va % 64 != 0 then refuse n 0x13 s
      else withStruct n va 64 va (fun b s =>
        let x := parseXlt b
        if xltBad b x s then refuse n 0x13 s else if x.op = op then run x s else s) s

/-- INVALIDATE_RANGE (R241). -/
def execInvalidateRange (ring : Nat) (s : State) : Out := .next (xltDesc 1 ring (fun x s => admitXlt ring x s) s)
/-- INVALIDATE_ALL (R241). -/
def execInvalidateAll (ring : Nat) (s : State) : Out := .next (xltDesc 2 ring (fun x s => admitXlt ring x s) s)
/-- SET_ROOT (R241). -/
def execSetRoot (ring : Nat) (s : State) : Out := .next (xltDesc 3 ring (fun x s => admitXlt ring x s) s)
/-- HOLD (R249): the range is held once its transfers have drained. -/
def execHold (ring : Nat) (s : State) : Out := .next (xltDesc 4 ring (fun x s => admitXlt ring x s) s)

/-- RELEASE (R249): the hold ends, and the operation completes. -/
def execRelease (ring : Nat) (s : State) : Out :=
  .next (xltDesc 5 ring (fun x s => admitXlt ring x s) s)

/-- A transfer of an epoch below the operation's at a virtual address, in a page of a size, used a translation that the operation
affects: for a range, one whose page intersects it (R241). -/
def xltAffects (x : XltRun) (epoch : BitVec 32) (va page : Nat) : Bool :=
  let first := va / 2 ^ page * 2 ^ page
  let older := decide (0 < countDiff x.epochAfter epoch) && decide (countDiff x.epochAfter epoch < 2 ^ 31)
  older && (x.op == 2 || x.op == 3 || (decide (x.start < first + 2 ^ page) && decide (first < x.start + x.length)))

/-- Every affected transfer has drained (Table 7 of chapter 09). Accesses to the pool are performed within their command, and
posted writes are on the link at once. What a copy has not yet asked for translates again (R243). -/
def xltDrained (x : XltRun) (s : State) : Bool :=
  !(s.link.reads.any fun r => (match r.owner with | .core _ => false | .fetch _ => false | _ => true) && xltAffects x r.epoch r.va r.page)
    && !(s.fab.tx.any fun t => (match t.owner with | .core _ => false | _ => true) && t.xlt && xltAffects x t.epoch t.va t.page)

/-- Lowest free slot of the hold table (R445). -/
def freeHoldSlot (s : State) : Nat := (firstBelow 16 fun k => s.xlt.holds.all fun h => h.slot != k).getD 16

/-- XLT_OP_DRAINED (R241, R249): the operation completes with DONE; a HOLD then holds its range. -/
def execXltOpDrained (ring : Nat) (s : State) : Out :=
  .next (match (s.ring ring).op with
    | some (.xlt x) =>
      if x.started && xltDrained x s then
        let s := s.onXlt fun t => { t with ops := without t.ops ring }
        let s := if x.op = 4 then
            s.onXlt fun t => { t with holds := t.holds ++ [{
              slot := freeHoldSlot s, start := x.start, length := x.length
              limitMs := if x.holdMs = 0 then 10 else x.holdMs, since := s.hTicks.toNat }] }
          else s
        complete ring { second := s.xlt.epoch.toNat } s
      else s
    | _ => s)

/-- HOLD_LIMIT_EXPIRE (R249): the module ends a hold itself, with record 0x31. -/
def execHoldLimitExpire (start : Nat) (s : State) : Out :=
  .next (match s.xlt.holds.find? fun h => h.start == start with
    | some h => afterHold (event 0x31 0 h.start h.length (s.onXlt fun t => { t with holds := t.holds.filter fun k => k.slot != h.slot }))
    | none => s)

/-- PAGE_WALK_DONE (R228, R241): a walk ends and fills the TLBs, unless an operation was accepted while it ran. What its
access meets is the access's own. -/
def execPageWalkDone (agent va : Nat) (access : Access) (began : BitVec 32) (s : State) : Out :=
  .next (if isHeld s va || !canonical va then s
    else if began = s.xlt.epoch then (walkFill agent access va s).2
    else
      let t := (walk access va s).2
      { t with xlt := { s.xlt with hot := t.xlt.hot } })

end Sys2Proof.Machine
end

