-- ==== Sys2Proof/Machine/OpEnd.lean ====
section
/-! DEFINITION. How the operation of a ring ends: whether it has come to its end or its boundary, the figures of its
record (R116, R135, R137, R166, R276, R296, R328, R399), what it gives back, and the end forced by a reset (R299, R301). -/

namespace Sys2Proof.Machine

/-- A stop's result, or DONE. -/
def resOr (r : Option Res) : Res := r.getD {}

def pushOf (s : State) (n : Nat) : Option PushRun :=
  match (s.ring n).op with
  | some (.push p) => some p
  | _ => none

/-- Stores of ring n's operation in the fabric region that no answer has come for. -/
def unackedPuts (s : State) (n : Nat) : List TxPkt := s.fab.tx.filter fun t => ownsRing s n t.owner && !txAnswers t

/-- What ring n's operation has written to the host is acknowledged, or its outcome is told as unknown (R219, R296); what it has
stored in the fabric region is performed, since a refusal ends it otherwise (R260), or it has stopped. -/
def hostSettled (n : Nat) (r : Option Res) (s : State) : Bool :=
  ((match r with | some x => x.unk | none => false) || (unackedWrites s n).isEmpty) && (r.isSome || (unackedPuts s n).isEmpty)

/-- A push has issued all it will, and what it issued is acknowledged or lost (R323, R296). -/
def pushEnded (n : Nat) (p : PushRun) (s : State) : Bool :=
  match p.stop with
  | some r => hostSettled n (some r) s
  | none => decide (p.length ≤ p.acked)

/-- The record of a push: poison makes it UNCORRECTABLE_DATA at its end, with the first poisoned sector (R323). -/
def pushRes (p : PushRun) : Res :=
  match p.stop, p.poisonAt with
  | some r, _ => { r with progress := p.acked }
  | none, some a => { status := 0x50, role := 14, element := a - p.src, address := a, progress := p.acked }
  | none, none => { progress := p.acked }

/-- Figures of an operation at its present boundary, with a stop's result or DONE. -/
def opFigures (o : Op) (r : Option Res) : Res :=
  match o with
  | .chain c => { resOr r with progress := c.committed, second := cdiv c.bytes 8 }
  | .transform t => { resOr r with progress := t.done, second := cdiv (t.written * tbits t.dst) 8 }
  | .program p => programRes { p with stop := r }
  | .fabric f => fabricEnd { f with stop := r }
  | .push p => pushRes { p with stop := r }
  | .census c => { resOr r with progress := c.written, second := c.bytes.length }
  | .test t => { resOr r with progress := t.treated, second := if (resOr r).status = 1 then (resOr r).second else t.failed }
  | .finished x => x
  | _ => resOr r

/-- The stop of an operation, where one stands. -/
def opStop : Op → Option Res
  | .chain c => c.stop
  | .transform t => t.stop
  | .program p => p.stop
  | .fabric f => f.stop
  | .push p => p.stop
  | .census c => c.stop
  | .test t => t.stop
  | _ => none

/-- Tiles that a chain's stop lets it commit (R116). A row that needs a tile at or past the stop cannot finish: a band with a hold, and
a strip of a SOFTMAX completion chain, commit whole or not at all (R76, R104, R106). -/
def commitEnd (c : ChainRun) : Nat :=
  if c.stop.isNone then tileCount c
  else if usesHold c.d then stopAt c / (blockRows c * gridCols c) * (blockRows c * gridCols c)
  else if completes c && rowSoftmax c.d then stopAt c / gridCols c * gridCols c
  else stopAt c

/-- The operation has come to its end, or to the boundary at which its stop takes effect. -/
def opEnded (n : Nat) (s : State) : Op → Bool
  | .chain c => c.admitted && decide (commitEnd c ≤ c.committed)
  | .transform t => t.admitted && (t.stop.isSome || decide ((if t.inPlace then pairCount t else tcount t.dst) ≤ t.done))
  | .program p => p.admitted && (p.stop.isSome || programDone p)
  | .fabric f => f.stop.isSome || fabricDone f
  | .push p => pushEnded n p s
  | .census c => c.stop.isSome || decide (c.bytes.length ≤ c.written)
  | .test t => t.stop.isSome || (decide (t.units.length ≤ t.treated) && t.onSide.isNone)
  | .finished _ => true
  | .xlt _ => false
  | .wait _ _ _ => false

/-- The operation gives back what it holds, and nothing that comes for it later has an owner. -/
def releaseOp (n : Nat) (o : Op) (s : State) : State :=
  let s := match o with
    | .chain c => if c.admitted then releaseChain n c s else s
    | .transform t => releaseTransform t s
    | .program p => if p.admitted then releaseProgram n p s else s
    | .test t => testReturn t s
    | .xlt _ => s.onXlt fun x => { x with ops := without x.ops n }
    | _ => s
  let s := s.onLink fun l => { l with
    reads := l.reads.filter fun r => r.owner != .ring n
    arrived := l.arrived.filter fun a => a.owner != .ring n }
  disownPackets n s

/-- The operation of ring n ends with a record (R219, R319, R320). A record of HOST_LINK_LOST or ABORTED_FLR does not wait
for the host: it is kept in the ring (R297, R299, R330). -/
def endOp (n : Nat) (o : Op) (r : Res) (s : State) : State :=
  let s := releaseOp n o s
  if r.status = 0x40 ∨ r.status = 0x41 then finishRing n r s else complete n r s

/-- OPERATION_COMPLETE (R319). In a freeze an operation that has stopped goes into the carry-over record (R303, R305). -/
def execOperationComplete (ring : Nat) (s : State) : Out :=
  .next (match (s.ring ring).op with
    | some o =>
      if !opEnded ring s o || !hostSettled ring (opStop o) s || (s.pickle.freezing && (opStop o).isSome && !runsOn o) then s
      else endOp ring o (opFigures o (opStop o)) s
    | none => s)

/-- ATOM of a fabric ATOMIC that a reset ends: not sent, or unknown (R276). -/
def atomAtEnd (f : FabricRun) : Nat := if f.op = 4 then (if f.sent = 0 then 2 else 3) else 0

/-- The result of an operation that a status ends where it stands. A descriptor that waits for admission, and a WAIT, have
no progress (R299, R301); an operation whose record waits for the host is one that next needs the host (R297). -/
def cutRes (n status : Nat) (o : Op) (s : State) : Res :=
  match o with
  | .finished r => if status = 0x40 then abortedRes 0x40 r else r
  | .wait _ _ _ => { status := status }
  | .xlt _ => plainRes n status s
  | .fabric f => opFigures o (some (withUnknown s n ((opStop o).getD { status := status, atom := atomAtEnd f })))
  | _ => if opAdmitted o then opFigures o (some (withUnknown s n ((opStop o).getD { status := status }))) else { status := status }

/-- Ring n's operation, or the descriptor it waits with, ends at once with a status; a ring that reads its descriptor stops
with no record (R299, R301). `on` spares operations that run to completion. -/
def cutRing (status : Nat) (on : Bool) (n : Nat) (s : State) : State :=
  let q := s.ring n
  match q.state with
  | .running | .waiting | .aborting =>
    match q.op with
    | some o =>
      if on && runsOn o && opAdmitted o then s.onRing n fun q => { q with state := .aborting, flr := true }
      else
        let r := cutRes n status o s
        finishRing n r ((releaseOp n o s).onRing n fun q => { q with state := .aborting })
    | none =>
      if q.desc.isSome then finishRing n (plainRes n status s) s else stopRing n true s
  | .rereading => stopRing n true s
  | _ => s

end Sys2Proof.Machine
end

