-- ==== Sys2Proof/Machine/Rings.lean ====
section
/-! DEFINITION. Commands of the rings (chapter 12): set-up, doorbells, RING_CTL, descriptor reads, NOP, PUSH, WAIT, late
admission, MSI-X, and the event ring. -/

namespace Sys2Proof.Machine

/-! ### Set-up (R310, R311) -/

/-- A range of physical addresses lies wholly within the backed pool. -/
def poolRange (a n : Nat) : Bool := decide (a + n ≤ 0x9000000000) || (decide (0x10000000000 ≤ a) && decide (a + n ≤ 0x28000000000))

/-- A ring's memory can be used: in the reachable host window, or in the pool (R311). -/
def ringPlaceOk (base : Word) (n : Nat) : Bool :=
  if ringHost base then decide (ringBase base + n ≤ hioTop) else poolRange (ringBase base) n

/-- Conditions of a write of EN = 1 (R311). -/
def enableOk (sq cq : Word) : Bool :=
  let n := 2 ^ ringLog2 sq
  decide (6 ≤ ringLog2 sq) && decide (ringLog2 sq ≤ 16) && ringPlaceOk sq (64 * n) && ringPlaceOk cq (32 * n)

/-- Fields of RING_CFG and RING_EVT_CFG. -/
def cfgMask : Word := 0x00000FFFFFFFF001

/-- The ring has a carry-over entry, which holds its set-up registers (R306). -/
def carried (s : State) (n : Nat) : Bool := s.pickle.entries.any fun e => e.ring == n

/-- A write of EN = 1 to a disabled ring is judged (R311, R330). -/
def enableRing (n : Nat) (cfg : Word) (s : State) : State :=
  let q := s.ring n
  if enableOk q.sq q.cq then
    s.onRing n fun q => { q with
      cfg := cfg, tail := 0, head := 0, completed := 0, state := .idle, held := false, sdesc := false
      log2 := ringLog2 q.sq, rereads := 0, desc := none, op := none, reading := false, readTag := none, fetchWaits := false }
  else s.onRing n fun q => { q with cfg := maskWrite cfg 1 0, cfgErr := true }

/-- A write of RING_CFG (R311, R330). On a disabled ring a write with EN = 0 writes the other fields. -/
def ringCfgWrite (n : Nat) (part : Part) (val : Word) (s : State) : State :=
  let q := s.ring n
  let new := partWrite q.cfg cfgMask part val
  if carried s n then s
  else if ringEn q then
    if flag new 0 then s
    else if q.state = .idle ∨ q.state = .stopped then
      s.onRing n fun q => { q with cfg := maskWrite q.cfg 1 0, state := .disabled, held := false, sdesc := false }
    else s.onRing n fun q => { q with cfgErr := true }
  else if flag new 0 then enableRing n new s
  else s.onRing n fun q => { q with cfg := new }

/-- RING_CFG_WRITE. -/
def execRingCfgWrite (ring : Nat) (part : Part) (val : Word) (s : State) : Out :=
  .next (whenReady (ringCfgWrite ring part val) s)

/-- A write of RING_SQ or RING_CQ: ignored while the ring is enabled or carried (R306, R311). -/
def ringBaseWrite (n : Nat) (cq : Bool) (part : Part) (val : Word) (s : State) : State :=
  let q := s.ring n
  if ringEn q || carried s n then s
  else if cq then s.onRing n fun q => { q with cq := partWrite q.cq 0x80FFFFFFFFFFF000 part val }
  else s.onRing n fun q => { q with sq := partWrite q.sq 0x80FFFFFFFFFFF01F part val }

/-! ### The event ring (R333, R334) -/

/-- A write of RING_EVT_CFG. -/
def evtCfgWrite (part : Part) (val : Word) (s : State) : State :=
  let e := s.evt
  let new := partWrite e.cfg cfgMask part val
  if flag e.cfg 0 then (if flag new 0 then s else s.onEvt fun e => { e with cfg := maskWrite e.cfg 1 0 })
  else if !flag new 0 then s.onEvt fun e => { e with cfg := new }
  else if decide (6 ≤ ringLog2 e.base) && decide (ringLog2 e.base ≤ 16) && ringPlaceOk e.base (64 * 2 ^ ringLog2 e.base) then
    evtPump (s.onEvt fun e => { e with cfg := new, produced := 0, head := 0 })
  else s

/-- EVENT_RING_CFG_WRITE. -/
def execEventRingCfgWrite (part : Part) (val : Word) (s : State) : Out :=
  .next (whenReady (evtCfgWrite part val) s)

/-- A write of RING_EVT_BASE. -/
def evtBaseWrite (part : Part) (val : Word) (s : State) : State :=
  if flag s.evt.cfg 0 then s else s.onEvt fun e => { e with base := partWrite e.base 0x80FFFFFFFFFFF01F part val }

/-- A write of RING_EVT_HEAD: the space it frees is used. -/
def evtHeadWrite (part : Part) (val : Word) (s : State) : State :=
  evtPump (s.onEvt fun e => { e with head := (partWrite (e.head.setWidth 64) 0xFFFFFFFF part val).setWidth 32 })

/-- EVENT_RING_HEAD_WRITE. -/
def execEventRingHeadWrite (part : Part) (val : Word) (s : State) : Out :=
  .next (whenReady (evtHeadWrite part val) s)

/-! ### Doorbells (R312, R313) -/

/-- Doorbells are ignored (R300, R386, R413, R441). -/
def doorbellsClosed (s : State) : Bool := !s.boot.ready || s.setup.busy || s.link.scrubBusy || s.pwr.memInit

def doorbellError (n reason tail : Nat) (s : State) : State :=
  event 0x24 reason tail n (s.onRing n fun q => { q with dbErr := true })

/-- A doorbell with TAIL and TAG (R313). -/
def doorbell (n : Nat) (tail tag : BitVec 32) (s : State) : State :=
  let q := s.ring n
  let note (s : State) := s.onRing n fun q => { q with dbTag := tag, dbTicks := s.hTicks }
  if !ringEn q then doorbellError n 2 tail.toNat s
  else if q.state = .frozen then s
  else if tail = q.tail then note s
  else if 2 ^ 31 ≤ countDiff tail q.tail then s
  else if ringSize q < countDiff tail q.completed then doorbellError n 1 tail.toNat s
  else startFetch n (note (s.onRing n fun q => { q with tail := tail }))

/-- RING_DB: a 4-byte write to the low half has TAG 0, one to the high half is ignored (R312). A doorbell wakes the module
(R385). -/
def ringDb (n : Nat) (part : Part) (val : Word) (s : State) : State :=
  if part = .high ∨ !s.boot.ready then s
  else
    let s := wakeUp .doorbell s
    if doorbellsClosed s then s
    else doorbell n (val.setWidth 32) (if part = .whole then (val >>> 32).setWidth 32 else 0) s

def execRingDb (ring : Nat) (part : Part) (val : Word) (s : State) : Out := .next (ringDb ring part val s)

/-! ### RING_CTL (R314, R315) -/

/-- The action does not apply to the ring's state. -/
def ctlError (n : Nat) (s : State) : State := s.onRing n fun q => { q with cfgErr := true }

/-- ABORT: a running, admitting, waiting, reading or re-reading ring. -/
def abortRing (n : Nat) (s : State) : State :=
  match (s.ring n).state with
  | .running | .waiting | .rereading => haltRing complete false 0x42 n s
  | _ => ctlError n s

def execAbort (ring : Nat) (s : State) : Out := .next (whenReady (abortRing ring) s)

/-- A stopped ring goes on with given counts. Only a doorbell raises the rung (R385). -/
def resumeRing (n : Nat) (head completed : BitVec 32) (s : State) : State :=
  let s := s.onRing n fun q => { q with
    head := head, completed := completed, state := .idle, sdesc := false, held := false, desc := none, rereads := 0 }
  startFetch n s

/-- RESTART_NEXT: the stopped descriptor counts as completed. -/
def restartNext (n : Nat) (s : State) : State :=
  let q := s.ring n
  if q.state ≠ .stopped then ctlError n s
  else if q.sdesc then resumeRing n (q.completed + 1) (q.completed + 1) s
  else resumeRing n q.head q.completed s

def execRestartNext (ring : Nat) (s : State) : Out := .next (whenReady (restartNext ring) s)

/-- RESTART_SAME: the stopped descriptor is fetched again. -/
def restartSame (n : Nat) (s : State) : State :=
  let q := s.ring n
  if q.state ≠ .stopped then ctlError n s
  else if q.sdesc then resumeRing n q.completed q.completed s
  else resumeRing n q.head q.completed s

def execRestartSame (ring : Nat) (s : State) : Out := .next (whenReady (restartSame ring) s)

/-- CLR_ERR. -/
def clearErr (n : Nat) (s : State) : State := s.onRing n fun q => { q with dbErr := false, cfgErr := false }

def execClrErr (ring : Nat) (s : State) : Out := .next (whenReady (clearErr ring) s)

/-- A write of RING_CTL: CLR_ERR, then the action. -/
def ringCtl (n : Nat) (part : Part) (val : Word) (s : State) : State :=
  let w := partWo part val
  let s := if flag w 2 then clearErr n s else s
  match field w 0 2 with
  | 1 => abortRing n s
  | 2 => restartNext n s
  | 3 => restartSame n s
  | _ => s

/-! ### Reading descriptors (R317, R318, R321) -/

/-- First reserved byte of a descriptor of a kind, or none for a reserved kind (Table 8 of chapter 12, R382, R397). -/
def reservedFrom (kind : Nat) : Option Nat :=
  if kind = 0 then some 8
  else if kind ≤ 6 then some 16
  else if kind ≤ 8 then some 32
  else if kind = 9 then some 18
  else if kind = 10 then some 13
  else if kind = 11 then some 16 else none

/-- The header or a reserved byte refuses the descriptor (R321). -/
def headerBad (d : List Byte) : Bool :=
  let h := descWord d 0 8
  match reservedFrom (bits h 0 8) with
  | none => true
  | some k => bits h 8 8 != 0 || bits h 18 6 != 0 || bits h 32 8 != 0 || (d.drop k).any (· != 0)
      || (bits h 0 8 == 11 && bits (descWord d 12 2) 10 6 != 0)

/-- Phase and sequence match the count at HEAD (R309, R317). -/
def headerMatches (q : Ring) (d : List Byte) : Bool :=
  let h := descWord d 0 8
  bits h 16 1 == phaseOf q.head.toNat (ringLog2 q.sq) && bits h 24 8 == ringIndex q q.head.toNat % 256

/-- The bytes of the descriptor at HEAD have come. -/
def gotDesc (n : Nat) (b : List Byte) (bad : Bool) (s : State) : State :=
  let q := s.ring n
  if bad then failFetch n { status := 0x50, role := 13, address := descAddr q } s
  else if headerMatches q b then
    let s := s.onRing n fun q => { q with
      head := q.head + 1, desc := some b, kind := bits (descWord b 0 8) 0 8, state := .running, reading := false
      readTag := none, op := none, flr := false }
    let s := clearHost n s
    if headerBad b then complete n { status := 0x13 } s else s
  else if 64 ≤ q.rereads then failFetch n { status := 0x20 } s
  else s.onRing n fun q => { q with state := .rereading, reading := false, readTag := none }

/-- A ring is reading its descriptor. -/
def isReading (q : Ring) : Bool := q.reading && (q.state == .running || q.state == .rereading)

/-- DESC_READ_RETURN: from device memory at this moment; from the host with the completion that has come (R290). A fetch
that ends in UR or CA stops its ring with PROTECTION_FAULT. -/
def descReadReturn (n : Nat) (s : State) : State :=
  let q := s.ring n
  if !isReading q then s
  else if ringHost q.sq then
    match arrivedFor s (.fetch n) (hostPa (descAddr q)) 64 with
    | none => s
    | some a =>
      let s := arrivedDrop a s
      if a.status = 0x40 then failFetch n { status := 0x40 } s
      else if a.status ≠ 0 then failFetch n { status := a.status, role := 13, reason := a.reason, address := descAddr q } s
      else gotDesc n a.bytes (a.poisoned != 0) s
  else
    let (b, s) := poolRead .once agentHub (descAddr q) 64 s
    gotDesc n (plain b) (anyPoison b) s

def execDescReadReturn (ring : Nat) (s : State) : Out := .next (descReadReturn ring s)

/-- DESC_REREAD: the interval has passed, and the descriptor is read again (R318), but not in a freeze (R303). -/
def execDescReread (ring : Nat) (s : State) : Out :=
  .next (
    let q := s.ring ring
    if q.state = .rereading ∧ !q.reading ∧ !q.fetchWaits ∧ !s.pickle.freezing then
      issueRead ring (s.onRing ring fun q => { q with rereads := q.rereads + 1 })
    else s)

/-! ### NOP, PUSH, WAIT -/

/-- DESC_NOP (R322). -/
def execDescNop (ring : Nat) (s : State) : Out :=
  .next (onDesc ring 0x00 (fun _ s => complete ring {} (s.onRing ring fun q => { q with startTicks := s.hTicks })) s)

def setPush (n : Nat) (p : PushRun) (s : State) : State := s.onRing n fun q => { q with op := some (.push p) }

/-- A push stops at a source page (R323); in an episode whose limit has passed it stops as R298 says. -/
def pushStop (n : Nat) (p : PushRun) (status reason va : Nat) (s : State) : State :=
  setPush n { p with stop := orStop p.stop { status := status, role := 14, reason := reason, element := va - p.src, address := va } } s

/-- Issues the writes of a push in ascending order while the host can be reached (R289, R297, R298, R323). -/
def pushSend (n : Nat) : Nat → State → State
  | 0, s => s
  | k + 1, s =>
    match pushOf s n with
    | none => s
    | some p =>
      let va := (p.src + p.issued) % 2 ^ 64
      let len := min (p.length - p.issued) (128 - va % 128)
      if p.stop.isSome || decide (p.length ≤ p.issued) then s
      else if !s.link.up then setPush n { p with stop := some (withUnknown s n { status := 0x40 }) } s
      else if limitPassed s then setPush n { p with stop := some { status := 0x42 } } (noteWaits (blockedWait (.ring n) s))
      else if !canSend s then noteWaits (blockedWait (.ring n) s)
      else match sourceRead n va len s with
        | (.data b, s) =>
          let bad := anyPoison b
          let first := match b.findIdx? (·.2) with | some i => (va + i) / 64 * 64 | none => va
          let s := setPush n { p with issued := p.issued + len
                                      poisonAt := if bad && p.poisonAt.isNone then some first else p.poisonAt } s
          pushSend n k (hotPump (postWrite (.ring n) (p.dst + p.issued) (plain b) bad s))
        | (.fault st c a, s) => pushStop n p st c a s
        | (.wait, s1) => keepAsked s s1

/-- A push goes on. -/
def pushGo (n : Nat) (s : State) : State :=
  match pushOf s n with
  | some p => pushSend n ((p.length - p.issued) / 64 + 2) s
  | none => s

/-- PUSH (R323): it begins, or goes on where it runs already. -/
def execPush (ring : Nat) (s : State) : Out :=
  .next (match pushOf s ring with
    | some _ => pushGo ring s
    | none => onDesc ring 0x07 (fun d s =>
        let p : PushRun := { src := descWord d 8 8, dst := descWord d 16 8, length := descWord d 24 8 }
        if p.length = 0 ∨ 2 ^ 40 < p.length ∨ hioTop < p.dst + p.length then refuse ring 0x13 s
        else pushGo ring (beginOp ring (.push p) s)) s)

/-- The condition of a WAIT (R325). -/
def waitMet (s : State) (target : BitVec 32) (w : Nat) : Bool := decide (countDiff (s.ring w).completed target < 2 ^ 31)

/-- DESC_WAIT (R325). -/
def execDescWait (ring : Nat) (s : State) : Out :=
  .next (onDesc ring 0x0B (fun d s =>
    let target := BitVec.ofNat 32 (descWord d 8 4)
    let w := bits (descWord d 12 2) 0 10
    if w = ring then refuse ring 0x13 s
    else
      let s := s.onRing ring fun q => { q with startTicks := s.hTicks }
      if waitMet s target w then complete ring { progress := (s.ring w).completed.toNat } s
      else s.onRing ring fun q => { q with op := some (.wait target w (descWord d 14 2)), state := .waiting }) s)

/-- The WAIT in a ring ends with a status (R325). -/
def waitEnd (n status : Nat) (w : Nat) (s : State) : State := complete n { status := status, progress := (s.ring w).completed.toNat } s

/-- RING_WAIT_SATISFIED. -/
def execRingWaitSatisfied (ring : Nat) (s : State) : Out :=
  .next (match (s.ring ring).op with
    | some (.wait target w _) => if waitMet s target w && !s.pickle.freezing then waitEnd ring 0 w s else s
    | _ => s)

/-- WAIT_EXPIRED. -/
def execWaitExpired (ring : Nat) (s : State) : Out :=
  .next (match (s.ring ring).op with
    | some (.wait target w ms) =>
      if s.pickle.freezing then s
      else if waitMet s target w then waitEnd ring 0 w s
      else if ms = 0 then s else waitEnd ring 0x21 w s
    | _ => s)

/-! ### Late admission (R117, R132, R164, R241) -/

/-- OPERATION_ADMIT: what waited in its ring is admitted where its resources are free. -/
def execOperationAdmit (ring : Nat) (s : State) : Out :=
  .next (
    let q := s.ring ring
    if q.state ≠ .waiting then s
    else match q.op with
      | some (.chain c) => if admits s && !c.admitted then admitChain ring c s else s
      | some (.transform t) => if admits s && !t.admitted then admitTransform ring t s else s
      | some (.program p) => if admits s && !p.admitted then admitProgram ring p s else s
      | some (.xlt x) => if admitsXlt s && !x.started then admitXlt ring x s else s
      | _ => s)

/-! ### MSI-X (R331, R332) -/

/-- MSIX_MODERATION_EXPIRE: MOD_US has passed since the oldest unsignalled record of a ring, or of the event ring. -/
def execMsixModerationExpire (ring : Option Nat) (s : State) : Out :=
  .next (match ring with
    | some n => signalRing n s
    | none => signalEvents s)

/-- Pending vectors that are not masked are sent once they may be. -/
def sendPending (s : State) : State :=
  if canSignal s then
    s.link.pba.foldl (fun s v =>
      if vectorMasked s v then s
      else sendVector v (s.onLink fun l => { l with pba := without l.pba v })) s
  else s

/-- The module may send to the host again: what waited for it goes on (R298, R331). -/
def hostAgain (s : State) : State :=
  if !canSend s then s
  else
    let s := sendPending (resignal s)
    let s := s.rings.foldl (fun s r =>
      let q := s.ring r.1
      if q.fetchWaits then issueRead r.1 s
      else match q.op with
        | some (.finished x) => complete r.1 x s
        | some (.push _) => pushGo r.1 s
        | some (.census _) => censusGo r.1 s
        | some (.fabric _) => fabricGo r.1 s
        | _ => s) s
    wakeEngines s

/-- A write to an entry of the MSI-X table in BAR4: 16 bytes of address, data and mask. -/
def msixWrite (offset : Nat) (part : Part) (val : Word) (s : State) : State :=
  let v := offset / 16
  let e := tget {} s.link.msix v
  let e' : Msix :=
    if offset / 8 % 2 = 0 then { e with addr := partWrite e.addr (partMask .whole) part val }
    else
      let w := partWrite (e.data.setWidth 64 ||| (if e.masked then 0x100000000 else 0)) 0x1FFFFFFFF part val
      { e with data := w.setWidth 32, masked := flag w 32 }
  sendPending (s.onLink fun l => { l with msix := tput {} l.msix v e' })

/-- MSIX_TABLE_WRITE (R287, R331): outside the table a write is ignored. -/
def execMsixTableWrite (offset size : Nat) (val : Word) (s : State) : Out :=
  .next (if !s.endpoint || !s.link.up || decide (32768 ≤ offset) || offset % size != 0 then s
    else if size = 8 then msixWrite offset .whole val s
    else if size = 4 then msixWrite (offset / 8 * 8) (if offset % 8 = 0 then .low else .high) val s
    else s)

end Sys2Proof.Machine
end

