-- ==== Sys2Proof/Machine/Resets.lean ====
section
/-! DEFINITION. Power, resets, Pickle mode and the host link (chapters 11, 16 and 17). -/

namespace Sys2Proof.Machine

/-! ### Pieces of a reset (Table 7 of chapter 11) -/

/-- Root ports of the role in force (R291): none, one, or four. -/
def rootPortCount (s : State) : Nat := if s.link.role = 1 then 1 else if s.link.role = 2 then 4 else 0

/-- Configuration space and the MSI-X table at their reset values; the episode of R298 ends with them. -/
def configReset (s : State) : State :=
  s.onLink fun l => { l with
    bme := false, d3hot := false, msixEn := false, msixMask := false, atomicEn := false, mpsLog2 := 7, ctRange := 0, bar2Log2 := 36
    memSpace := false, bars := [], msix := [], pba := [], episode := none, waits := [] }

/-- Configuration space at an FLR: as PCIe defines, Max_Payload_Size stays (log entry 82). -/
def configFlr (s : State) : State := (configReset s).onLink fun l => { l with mpsLog2 := s.link.mpsLog2 }

/-- The link goes down, counted (R295). -/
def linkDown (s : State) : State :=
  s.onLink fun l => { l with
    up := false, speed := 0, width := 0, flit := false, losses := l.losses + 1
    rootPorts := l.rootPorts.map fun (r : Nat × RootPort) => (r.1, { r.2 with up := false, speed := 0, width := 0, flit := false }) }

/-- What was on the link is lost (R296): a core's read ends as one that the host does not answer. -/
def linkDrop (s : State) : State :=
  let lost (r : HostRead) : Option Arrived := match r.owner with
    | .core _ => some { owner := r.owner, pa := hostPa r.hio, bytes := [], status := 0x40 }
    | _ => none
  s.onLink fun l => { l with posted := [], reads := [], arrived := l.arrived ++ l.reads.filterMap lost, heldAccesses := [] }

/-- TLBs, walk cache and holds (R233). -/
def xltReset (s : State) : State := endHolds (tlbsEmpty (s.onLink fun l => { l with heldAccesses := [] }))

/-- Export windows are withdrawn (R263). -/
def windowsReset (s : State) : State := (exportsClear s).onFab fun f => { f with winDraining := false }

/-- The set-up lock and the commit are released (R10, R442). -/
def lockRelease (s : State) : State := portsSettle (s.onSetup fun u => { u with committed := false, busy := false, fill := false })

/-- Fault injection stops, with record 0x78 where it was on: packets held leave (R401, R403, R405). -/
def dodgemOff (s : State) : State :=
  let held := s.dod.heldPkts
  let s := if flag s.dod.ctl 62 then dodgemRecord 2 (field s.dod.ctl 0 6) s else s
  let s := s.onDod fun d => { d with ctl := maskWrite d.ctl (fieldMask 62 1) 0, heldPkts := [], burst := [] }
  held.foldl (fun s h => leaveAll h.2 s) s

/-! ### Freezes (R302-R305) -/

/-- Pickle mode is on, after device-ready (R302). -/
def pickleOn (s : State) : Bool := flag s.pickle.ctl 0 && s.endpoint && s.boot.ready

/-- The ring has an entry to come: it is enabled, and not stopped (R304). -/
def freezable (q : Ring) : Bool := ringEn q && q.state != .stopped && q.state != .frozen && q.state != .disabled

/-- The first tile of a chain, from the committed ones on, that has not started (R303). -/
def firstUnstarted (s : State) (c : ChainRun) : Nat :=
  let run := c.arrays.flatMap fun a => ((s.array a).tiles ++ (s.array a).drainable).map (·.tile)
  let started := run ++ c.ready.map (·.1) ++ c.tree.map (fun x => x.1 / 16)
  let rec go : Nat → Nat → Nat
    | 0, t => t
    | k + 1, t => if started.contains t then go k (t + 1) else t
  go (started.length + 1) c.committed

/-- A frozen operation's status: the link's loss where it had used the host or lies on a ring in host memory, FROZEN
otherwise (Table 12 of chapter 11). -/
def freezeStatus (n : Nat) (s : State) : Nat :=
  let q := s.ring n
  let push := match q.op with | some (.push _) => true | _ => false
  if s.hostUsed n || push || ringHost q.sq || ringHost q.cq then 0x40 else 0x60

/-- Ring n at the trigger of a freeze: its operation stops at its next boundary, and a record that waited for the host is
kept (R303). -/
def freezeRing (n : Nat) (s : State) : State :=
  let q := s.ring n
  if !freezable q then s
  else match q.op with
    | some (.finished r) => finishRing n r s
    | some (.chain c) =>
      if c.admitted then stopChain n (withUnknown s n { status := freezeStatus n s }) (firstUnstarted s c) s else s
    | some o => if opAdmitted o && !runsOn o then stopOp n { status := freezeStatus n s } s else s
    | none => if q.reading || q.fetchWaits then cancelFetch n s else s

/-- The trigger of a freeze; it has no further effect while one is in progress, or complete with entries that await action
(R302, R303; log entry 83). -/
def freeze (cause : BitVec 2) (s : State) : State :=
  if s.pickle.freezing || !s.pickle.entries.isEmpty then s
  else
    let s := s.onPickle fun k => { k with freezing := true, valid := false, cause := cause, freezeTicks := s.hTicks, rung := 0 }
    (s.rings.map (·.1)).foldl (fun s n => freezeRing n s) s

/-- A virtual address lies in the host window. -/
def inHostWindow (s : State) (va : Nat) : Bool :=
  match (translate agentHub .read va s).1 with
  | .ok pa _ _ => regionOf pa == .host
  | _ => false

/-- A page of a range of virtual addresses lies in the host window. -/
def rangeInHost (s : State) (va n : Nat) : Bool := (pieces 4096 (n / 4096 + 2) va n).any fun p => inHostWindow s (p.1 % 2 ^ 64)

/-- A tensor's descriptor, an element or a scale lies in the host window. -/
def tensorInHost (s : State) (d : TDesc) : Bool :=
  rangeInHost s d.at_ 128 || (List.range (tcount d)).any fun i =>
    let idx := unlinear (ownExts d) i
    inHostWindow s (ofSigned 64 (elemAddr d idx).1) || (d.scaleFmt != .none && inHostWindow s (scaleAddr d idx))

/-- A structure or tensor that an operation names lies in the host window; `d` is its descriptor's ADDR. -/
def opInHost (s : State) (d : Nat) : Op → Bool
  | .chain c =>
    rangeInHost s d 320 || (c.a.toList ++ c.b.toList ++ c.c.toList ++ c.stats.toList ++ c.opnds.map (·.2)).any (tensorInHost s)
      || (c.d.operands != 0 && rangeInHost s c.d.operands 128) || (c.d.slices != 0 && rangeInHost s c.d.slices (8 + 16 * c.slices.length))
      || (match c.plan with
          | some p => rangeInHost s c.d.partials 64 || rangeInHost s (ofBytes (plain (poolRead .once agentHub c.d.partials 8 s).1)) (2 * p.nodes.length)
          | none => false)
  | .transform t => rangeInHost s d 64 || tensorInHost s t.src || tensorInHost s t.dst
  | .program p => rangeInHost s d 64 || inHostWindow s p.entry || (p.args != 0 && inHostWindow s p.args)
  | .fabric f => rangeInHost s d 64 || (f.localVa != 0 && rangeInHost s f.localVa (max 8 f.length))
  | .census c => rangeInHost s c.buf c.bytes.length
  | .xlt _ => rangeInHost s d 64
  | _ => false

/-- Kinds that may be resumed once in progress (Table 10 of chapter 11). -/
def kindResumes : Op → Bool
  | .chain c => c.slices.isEmpty && c.plan.isNone
  | .fabric f => f.op != 3
  | .push _ => false
  | _ => true

/-- A load of structures meets one in the host window, were the link up: it asks for a read. -/
def loadInHost {α : Type} (s : State) (d : Nat) (op : α → Op) (load : State → Load (α × State)) : Bool :=
  let s1 := { s with
    link := { s.link with up := true, bme := true, d3hot := false, reads := [] }, pickle := { s.pickle with freezing := false } }
  match load s1 with
  | .ok (a, _) => opInHost s d (op a)
  | .error (.wait s2) => !s2.link.reads.isEmpty
  | .error (.done _) => false

/-- A descriptor that has not been loaded names a structure or tensor in the host window. -/
def descInHost (n : Nat) (d : List Byte) (s : State) : Bool :=
  let va := descAddrOf d
  match descWord d 0 1 with
  | 1 => loadInHost s va .chain (loadChain n va)
  | 2 => loadInHost s va .transform (loadTransform n va)
  | 3 => loadInHost s va .program (loadProgram n va)
  | 4 => rangeInHost s va 64
  | 5 => rangeInHost s va 64
  | 6 => loadInHost s va .fabric fun s => do
    let (b, s) ← loadBytes n va 64 va s
    .ok (parseFabric b, s)
  | 8 => rangeInHost s va (descWord d 16 8)
  | _ => false

/-- The descriptor at HEAD that a ring is reading, where it stands in device memory already (R304). -/
def readingDesc (q : Ring) (s : State) : Option (List Byte) :=
  if ringHost q.sq then none
  else
    let b := plain (poolRead .once agentHub (descAddr q) 64 s).1
    if headerMatches q b then some b else none

/-- The operation or descriptor of ring n may be resumed (R304). A descriptor that was never in progress is held to the cases
of R304's list alone. -/
def mayResume (s : State) (n : Nat) : Bool :=
  let q := s.ring n
  !ringHost q.sq && !ringHost q.cq && !s.hostUsed n && (match q.op with
    | some o => (kindResumes o || !opAdmitted o) && !opInHost s (descAddrOf (q.desc.getD [])) o
    | none => match (match q.desc with | some d => some d | none => readingDesc q s) with
      | some d => !descInHost n d s
      | none => true)

/-- The carry-over entry of ring n (R304, Table 12 of chapter 11). -/
def carryOf (n : Nat) (s : State) : Carry :=
  let q := s.ring n
  let at_ (c : BitVec 32) : Nat := ringIndex q c.toNat
  let entry (c : BitVec 32) : Carry :=
    { ring := n, resumable := mayResume s n, status := freezeStatus n s, descIndex := at_ c, progress := 0
      second := (plainRes n 0 s).second }
  match q.op with
  | some (.wait t w ms) => { entry q.completed with op := some (.wait t w ms) }
  | some o =>
    if opAdmitted o && !runsOn o then
      let r := opFigures o (opStop o)
      { entry q.completed with
        status := r.status, progress := r.progress, second := r.second, unk := r.unk, unkLo := r.unkLo, unkHi := r.unkHi, op := some o }
    else entry q.completed
  | none =>
    if q.desc.isSome then entry q.completed
    else if q.state = .idle then { entry q.head with resumable := true, status := 0x60, hasDesc := false }
    else entry q.head

/-- An operation that has done all its work, its stop apart. -/
def workDone (o : Op) : Bool :=
  match o with
  | .chain c => c.admitted && decide (tileCount c ≤ c.committed)
  | .transform t => t.admitted && decide ((if t.inPlace then pairCount t else tcount t.dst) ≤ t.done)
  | .program p => p.admitted && programDone p
  | .fabric f => fabricDone f
  | .push p => decide (p.length ≤ p.acked)
  | .census c => decide (c.bytes.length ≤ c.written)
  | .test t => decide (t.units.length ≤ t.treated) && t.onSide.isNone
  | _ => false

/-- Ring n is frozen: an operation that had come to its end has its record; any other goes into an entry. -/
def carryRing (n : Nat) (s : State) : State :=
  let s := match (s.ring n).op with
    | some o => if workDone o && !(resOr (opStop o)).unk then finishRing n (opFigures o none) (releaseOp n o s) else s
    | none => s
  let q := s.ring n
  if !freezable q then s
  else
    let e := carryOf n s
    let s := match q.op with | some o => releaseOp n o s | none => s
    let s := (clearHost n (cancelFetch n s)).onRing n fun q => { q with state := .frozen, op := none }
    s.onPickle fun k => { k with
      entries := (k.entries.filter fun x => decide (x.ring < n)) ++ e :: k.entries.filter fun x => decide (n < x.ring) }

/-- An operation in progress that must run to completion holds its ring's freeze (R303). -/
def holdsFreeze (q : Ring) : Bool := match q.op with | some o => runsOn o && opAdmitted o | none => false

/-- FREEZE_COMPLETE (R303): every ring that held work is in the record, but for those whose operation still has to run to
completion; the freeze is complete once none is left. -/
def execFreezeComplete (s : State) : Out :=
  .next (if !s.pickle.freezing then s
    else
      let held := s.rings.any fun r => holdsFreeze r.2
      let s := ((s.rings.filter fun r => !holdsFreeze r.2).map (·.1)).foldl (fun s n => carryRing n s) s
      if held then s
      else hostAgain (enterRung1 (s.onPickle fun k => { k with freezing := false, valid := true })))

/-- PICKLE_DESCEND (R303): the module descends to DEEPEST. -/
def execPickleDescend (s : State) : Out :=
  let deepest := field s.pickle.ctl 4 2
  .next (if !s.pickle.valid || s.pwr.rung != 1 || field s.pickle.ctl 8 16 == 0 || decide (deepest < 2) then s
    else
      let s := enterRung2 s
      if deepest = 3 then enterRung3 s else s)

/-! ### Resume and discard (R307) -/

def entryOf (s : State) (n : Nat) : Option Carry := s.pickle.entries.find? fun e => e.ring == n

/-- The entry is removed. -/
def entryDrop (n : Nat) (s : State) : State :=
  s.onPickle fun k =>
    let l := k.entries.filter fun e => e.ring != n
    { k with entries := l, valid := !l.isEmpty }

def actError (s : State) : State := s.onPickle fun k => { k with actErr := true }

/-- A resumed operation is admitted, or waits for admission. -/
def readmit (n : Nat) (o : Op) (go : State → State) (s : State) : State :=
  if admits s then go s else (s.onRing n fun q => { q with op := some o }) |> waitRing n

/-- Ring n goes on with a frozen operation (Table 10 of chapter 11). A census begins again with the descriptor that was accepted; a
chain is loaded again; `s0` is the state to which a
load that has to wait goes back. -/
def resumeOp (n : Nat) (e : Carry) (s0 s : State) : State :=
  let run (s : State) := s.onRing n fun q => { q with state := .running }
  match e.op with
  | some (.chain c) =>
    let d := (s.ring n).desc.getD []
    runLoad s0 (loadChain n (descAddrOf d) (run s)) fun new s =>
      let new := { new with first := e.progress, bytes := c.bytes }
      readmit n (.chain new) (admitChain n new) s
  | some (.transform t) =>
    let t := { t with admitted := false, stop := none, done := e.progress }
    readmit n (.transform t) (admitTransform n t) (run s)
  | some (.program p) =>
    let p := { p with admitted := false, stop := none, used := [], first := e.progress, next := e.progress, live := [], finished := 0 }
    readmit n (.program p) (admitProgram n p) (run s)
  | some (.fabric f) =>
    let c := e.progress
    let f := { f with stop := none, sent := c, flagSent := false, flagAcked := false
                      acked := if f.op = 6 ∨ c = 0 then [] else [(0, c)] }
    fabricGo n (setFabric n f (run s))
  | some (.test t) => setTest n { t with stop := none, onSide := none, retest := false } (run s)
  | some (.wait t w ms) => s.onRing n fun q => { q with op := some (.wait t w ms), state := .waiting, startTicks := s.hTicks }
  | some (.census _) => run s
  | _ =>
    -- an idle ring, or a descriptor that was never in progress: it is fetched again
    let s := s.onRing n fun q => { q with head := q.completed, desc := none, state := .idle, rereads := 0 }
    startFetch n s

/-- The pages of BAR0 that are served before device-ready answer: the hub is on (R413, R383). -/
def hubServed (s : State) : Bool := s.boot.island && !s.boot.lidFault && s.pwr.rung != 5

/-- HUB_PICKLE_ACT, resume. A ring that a warm reset with Pickle mode off has disabled since has nothing to go on with: its entry is
removed (log entry 83). Only a doorbell raises the rung (R385). -/
def pickleResume (n : Nat) (s : State) : State :=
  match entryOf s n with
  | none => actError s
  | some e =>
    if s.pickle.freezing || !e.resumable || !s.setup.committed then actError s
    else if (s.ring n).state != .frozen then entryDrop n s
    else resumeOp n e s (entryDrop n s)

/-- PICKLE_RESUME. -/
def execPickleResume (ring : Nat) (s : State) : Out := .next (if hubServed s then pickleResume ring s else s)

/-- HUB_PICKLE_ACT, discard. -/
def pickleDiscard (n : Nat) (s : State) : State :=
  match entryOf s n with
  | none => actError s
  | some e =>
    if s.pickle.freezing then actError s
    else if (s.ring n).state != .frozen then entryDrop n s
    else
      let q := s.ring n
      let d := q.desc.getD []
      let s := entryDrop n s
      let s := if ringHost q.cq then s else writeRecord n (discardCount q) (discardRes e) (descTag d) (descIrq d) s
      discardStop n e s

/-- PICKLE_DISCARD. -/
def execPickleDiscard (ring : Nat) (s : State) : Out := .next (if hubServed s then pickleDiscard ring s else s)

/-- A write of HUB_PICKLE_ACT. -/
def pickleAct (part : Part) (val : Word) (s : State) : State :=
  let w := partWo part val
  match field w 16 2 with
  | 1 => pickleResume (field w 0 10) s
  | 2 => pickleDiscard (field w 0 10) s
  | _ => s

/-! ### Warm resets and link loss (R295, R297, R301) -/

/-- With Pickle mode off, every operation stops with HOST_LINK_LOST and the rings are disabled: their set-up registers
take 0, and their state entries keep every field but STATE (R301, R310, R336). -/
def ringsOff (s : State) : State :=
  let s := (enabledRings s).foldl (fun s n => cutRing 0x40 false n s) s
  let off (r : Nat × Ring) : Nat × Ring := (r.1, { r.2 with
    sq := 0, cq := 0, cfg := 0, state := .disabled, op := none, desc := none, reading := false, readTag := none
    fetchWaits := false, flr := false })
  let s := { s with rings := s.rings.map off }
  s.onEvt fun e => { e with base := 0, cfg := 0, head := 0, produced := 0, lost := 0, unsignalled := 0 }

/-- What a warm reset does to the boot: a module that was ready boots again without verification, and a boot in progress
goes on from where it stands (R412-R414). A structure error is over (R194). -/
def bootAgain (b : Boot) : Boot :=
  if b.ready then
    { b with ready := false, stage := 0, fail := 0, failDie := 0, comp := 0, kind := 2, structural := false, restarting := [] }
  else { b with stage := if b.fail = 0 then 0 else b.stage, structural := false }

/-- A warm reset (Table 7 of chapter 11). The controllers that were restarting are back, and what waited for them is counted (R415). REP_STATUS, REP_CMD in progress and SCRUB_BUSY are kept (Table 5 of chapter 18). -/
def warmReset (cause : BitVec 2) (s : State) : State :=
  let ready := s.boot.ready
  let away := s.boot.restarting
  let on := pickleOn s
  let s := linkDown (abandonActivation s)
  let s := linkDrop (if on then freeze cause s else if flag s.pickle.ctl 0 && s.endpoint then s else ringsOff s)
  let s := dodgemOff (windowsReset (xltReset (configReset s)))
  let s := portsSettle { s with setup := { share := s.setup.share }, dod := { } }
  let s := (s.onXlt fun x => { x with hot := [] }).onBoot bootAgain
  let s := away.foldl (fun s k => releaseErrors k s) s
  scrubCheck (if ready then (List.range 8).foldl (fun s p => if (s.dlPort p).state = 5 then dlTrain p s else s) s else s)

/-- The port takes part in resets of the link: an endpoint whose island and die are on. -/
def portLive (s : State) : Bool := s.boot.island && !s.boot.lidFault && s.endpoint

/-- PERST_ASSERT: a warm reset; in rung 5 the link is off, and only the pin is noted. -/
def execPerstAssert (s : State) : Out :=
  .next (if !portLive s || s.pins.perst then s
    else
      let s := s.onPins fun p => { p with perst := true }
      if s.pwr.rung = 5 then s else warmReset 1 s)

/-- PERST_DEASSERT (R385, R412). -/
def execPerstDeassert (s : State) : Out :=
  .next (if !portLive s || !s.pins.perst then s else wakeUp .perst (s.onPins fun p => { p with perst := false }))

/-- HOT_RESET. -/
def execHotReset (s : State) : Out :=
  .next (if portLive s && s.link.up then warmReset 2 s else s)

/-- Ring n at a link loss with Pickle mode off: an operation that has used the host or waits for it, or whose rings lie in host
memory, and a fetch from host memory (R297). -/
def lossRing (n : Nat) (s : State) : State :=
  let q := s.ring n
  let host := ringHost q.sq || ringHost q.cq
  if !ringEn q then s
  else if q.op.isNone && q.desc.isNone then
    if ringHost q.sq && (q.state == .running || q.state == .rereading) then failFetch n { status := 0x40 } s else s
  else if host || s.hostUsed n || s.hostWaits n then cutRing 0x40 false n s
  else match q.op with
    | some (.push _) => pushGo n s
    | some (.census _) => censusGo n s
    | _ => s

/-- LINK_LOSS: with Pickle mode on, a freeze with its resets (R10, R233, R263, R301, R442); with it off, R297. Each such loss
releases the set-up lock as Table 7 of chapter 11 has it, one that comes during or after a freeze too (log entry 84). -/
def execLinkLoss (s : State) : Out :=
  .next (if !s.link.up then s
    else
      let on := pickleOn s
      let s := linkDown s
      if on then
        let s := linkDrop (freeze 3 (abandonActivation s))
        lockRelease (windowsReset (xltReset (configReset s)))
      else
        wakeEngines (configReset (linkDrop ((s.rings.map (·.1)).foldl (fun s n => lossRing n s) s))))

/-- Every root port's link trains alike (log entry 85). -/
def rootLinks (speed width : BitVec 4) (flit : Bool) (s : State) : State :=
  s.onLink fun l => { l with rootPorts := (List.range (rootPortCount s)).foldl (fun t p =>
    tins t p { (tget {} t p : RootPort) with up := true, speed := speed, width := width, flit := flit }) l.rootPorts }

/-- LINK_UP: the link returns to Data Link Layer Link Active, Bus Master Enable at 0 (R301). -/
def execLinkUp (speed width : BitVec 4) (flit : Bool) (s : State) : Out :=
  .next (if s.link.up || !s.boot.island || s.boot.lidFault || s.pwr.rung == 5 || (s.endpoint && s.pins.perst) then s
    else hostAgain (rootLinks speed width flit (s.onLink fun l => { l with up := true, speed := speed, width := width, flit := flit })))

/-- RETRAIN (R294). -/
def execRetrain (speed width : BitVec 4) (s : State) : Out :=
  .next (if s.link.up then rootLinks speed width s.link.flit
      (s.onLink fun l => { l with retrains := l.retrains + 1, speed := speed, width := width }) else s)

/-! ### Function level reset (R299, R300) -/

/-- Ring n at an FLR: its work is cut, and an idle ring stops with no stopped descriptor. -/
def flrRing (n : Nat) (s : State) : State :=
  let s := cutRing 0x41 true n s
  if (s.ring n).state = .idle then s.onRing n fun q => { q with state := .stopped, sdesc := false } else s

/-- FLR: with SCRUB_FLR the scrub follows once its stops are complete; SCRUB_BUSY reads 1 from now. -/
def execFlr (s : State) : Out :=
  .next (if !portLive s || !s.link.up then s
    else
      let s := configFlr (abandonActivation s)
      let s := (enabledRings s).foldl (fun s n => flrRing n s) s
      let s := dodgemOff (windowsReset (xltReset s))
      if flag s.link.resetCtl 0 then scrubCheck (s.onLink fun l => { l with scrubBusy := true, scrubOwed := true }) else s)

/-- SCRUB_FILL_DONE. -/
def execScrubFillDone (s : State) : Out :=
  .next (if s.link.scrubOwed then s else s.onLink fun l => { l with scrubBusy := false })

/-! ### Configuration space and BAR4 (R286, R287) -/

/-- The capability list. Where each capability stands in configuration space is not stated. -/
def capabilities : List Capability :=
  [.pciExpress, .powerManagement, .msix, .aer, .doe, .resizableBar, .deviceSerialNumber, .dataLinkFeature
   , .physicalLayer16, .physicalLayer32, .physicalLayer64, .laneMargining]

/-- The ID by which PCI Express names a capability, and whether it is an extended one (PRESUMED, log entry 87). -/
def capabilityId : Capability → Nat × Bool
  | .pciExpress => (0x10, false)
  | .powerManagement => (0x01, false)
  | .msix => (0x11, false)
  | .aer => (0x01, true)
  | .doe => (0x2E, true)
  | .resizableBar => (0x15, true)
  | .deviceSerialNumber => (0x03, true)
  | .dataLinkFeature => (0x25, true)
  | .physicalLayer16 => (0x26, true)
  | .physicalLayer32 => (0x2A, true)
  | .physicalLayer64 => (0x31, true)
  | .laneMargining => (0x27, true)

/-- First double word of the k-th capability: its ID, and besides it what the manual does not give. Beyond the list there is
none. -/
def capabilityRead (k : Nat) : BitVec 32 :=
  match (capabilities[k]?).map capabilityId with
  | some (n, ext) => if ext then (Config.configWord (64 + k) &&& 0xFFFF0000) ||| BitVec.ofNat 32 n
      else (Config.configWord (64 + k) &&& 0xFFFFFF00) ||| BitVec.ofNat 32 n
  | none => 0

/-- Vendor and device, and subsystem vendor and subsystem, as one double word. -/
def idDword : Nat := 0x48121F6B

/-- Size of a BAR as a power of two: BAR0 64 MiB, BAR2 resizable, BAR4 64 KiB. -/
def barLog2 (s : State) (bar : Nat) : Nat := if bar = 0 then 26 else if bar = 2 then s.link.bar2Log2 else 16

/-- A double word of a 64-bit BAR: base and type, prefetchable for BAR2. -/
def barDword (s : State) (bar : Nat) (high : Bool) : Nat :=
  let base := (tget 0 s.link.bars bar).toNat
  if high then base / 2 ^ 32 else base % 2 ^ 32 + 4 + (if bar = 2 then 8 else 0)

/-- A double word of the Type 0 header; its Interrupt Pin is 0, since there is no INTx. The position of the capability list, and every double word that the manual does not
give, are free values (log entry 87). -/
def headerRead (s : State) (dword : Nat) : BitVec 32 :=
  let v (n : Nat) := BitVec.ofNat 32 n
  match dword with
  | 0 => v idDword
  | 1 => v (0x100000 + one s.link.bme * 4 + one s.link.memSpace * 2)
  | 2 => v (0x120000 * 256 + s.link.stepping.toNat)
  | 3 => 0
  | 4 => v (barDword s 0 false)
  | 5 => v (barDword s 0 true)
  | 6 => v (barDword s 2 false)
  | 7 => v (barDword s 2 true)
  | 8 => v (barDword s 4 false)
  | 9 => v (barDword s 4 true)
  | 11 => v idDword
  | 15 => Config.configWord 15 &&& 0xFFFF00FF
  | n => Config.configWord n

/-- A register of configuration space, the fields that the rules give in their PCIe places. -/
def configRead (s : State) (i : CfgItem) : BitVec 32 :=
  let v (l : List (Nat × Nat)) := (pack l).setWidth 32
  match i with
  | .header n => headerRead s n
  | .capability k => capabilityRead k
  | .powerStatus => v [(1, 3), (if s.link.d3hot then 3 else 0, 0)]
  | .deviceCapabilities => v [(1, 28), (2, 0)]
  | .deviceControl => v [(s.link.mpsLog2 - 7, 5)]
  | .deviceControl2 => v [(one s.link.atomicEn, 6), (s.link.ctRange.toNat, 0)]
  | .linkCapabilities => v [(16, 4), (6, 0)]
  | .linkStatus => v [(if s.link.up then 2 ^ s.link.width.toNat else 0, 20), (if s.link.up then s.link.speed.toNat else 0, 16)]
  | .msixControl => v [(one s.link.msixEn, 31), (one s.link.msixMask, 30), (2047, 16)]
  | .msixTable => v [(4, 0)]
  | .msixPba => v [(0x8000, 0), (4, 0)]
  | .rebarCapability => v [(0x7F, 20)]
  | .rebarControl => v [(s.link.bar2Log2 - 20, 8), (2, 0)]
  | .serial high => if high then (s.link.serial >>> 32).setWidth 32 else s.link.serial.setWidth 32

/-- A write of a double word of the header: the command register's Memory Space Enable, and the BARs, whose bits below their
sizes read as they are. Bus Master Enable is the command of its own. -/
def headerWrite (dword : Nat) (val : BitVec 32) (s : State) : State :=
  if dword = 1 then s.onLink fun l => { l with memSpace := val.getLsbD 1 }
  else if 4 ≤ dword ∧ dword ≤ 9 then
    let bar := (dword - 4) / 2 * 2
    s.onLink fun l => { l with
      bars := tput 0 l.bars bar (partWrite (tget 0 l.bars bar) (maskWrite 0xFFFFFFFFFFFFFFFF (fieldMask 0 (barLog2 s bar)) 0)
        (if dword % 2 = 0 then .low else .high) (val.setWidth 64)) }
  else s

/-- One byte of BAR4: the MSI-X table at 0, the PBA at 0x8000, 0 elsewhere. -/
def bar4Byte (s : State) (a : Nat) : Byte :=
  if a < 0x8000 then
    let e := tget {} s.link.msix (a / 16)
    nth 0 (toBytes 16 (e.addr.toNat + e.data.toNat * 2 ^ 64 + one e.masked * 2 ^ 96)) (a % 16)
  else if a < 0x8100 then BitVec.ofNat 8 (((List.range 8).map fun i => one (s.link.pba.contains ((a - 0x8000) * 8 + i)) * 2 ^ i).foldl (· + ·) 0)
  else 0

/-! ### Configuration, Bus Master Enable and D3hot (R286, R298) -/

/-- What waited for one of the 512 reads when an episode begins waits in the episode from then on (R288, R298). -/
def episodeBegins (s : State) : State :=
  (s.link.waits ++ (s.rings.filter fun r => r.2.fetchWaits).map (·.1)).foldl (fun s n => bmeWait n s) s

/-- The episode's account ends with the episode, and what waited goes on. -/
def episodeCheck (s : State) : State :=
  if inEpisode s then episodeBegins s else hostAgain (s.onLink fun l => { l with episode := none, waits := [] })

/-- CONFIG_WRITE. -/
def execConfigWrite (w : CfgWrite) (s : State) : Out :=
  .next (if !portLive s || !s.link.up then s
    else match w with
      | .busMaster on => episodeCheck (s.onLink fun l => { l with bme := on })
      | .d3hot on =>
        let woken := !on && s.link.d3hot
        let s := s.onLink fun l => { l with d3hot := on }
        episodeCheck (if woken then wakeUp .d0 s else s)
      | .msixEnable on => hostAgain (s.onLink fun l => { l with msixEn := on })
      | .msixMask on => sendPending (s.onLink fun l => { l with msixMask := on })
      | .atomicRequester on => s.onLink fun l => { l with atomicEn := on }
      | .maxPayload k => if 7 ≤ k ∧ k ≤ 12 then s.onLink fun l => { l with mpsLog2 := k } else s
      | .timeoutRange c => s.onLink fun l => { l with ctRange := c }
      | .bar2Size k => if 6 ≤ k ∧ k ≤ 12 then s.onLink fun l => { l with bar2Log2 := 30 + k } else s
      | .headerDword n v => headerWrite n v s
      | .read i => giveAnswer (.data (toBytes 4 (configRead s i).toNat) false) s
      | .bar4Read a n => giveAnswer (.data ((span a n).map (bar4Byte s)) false) s)

/-- What waits in the episode when its limit passes stops with ABORTED_BY_HOST, its unknown range empty (R298): a fetch, an
operation that waits for its record, and one that waits at its next host request. -/
def limitRing (s : State) (n : Nat) : State :=
  let q := s.ring n
  if q.fetchWaits then failFetch n { status := 0x42 } s
  else match q.op with
    | some (.finished r) => finishRing n (abortedRes 0x42 r) s
    | some o => if s.hostWaits n && opAdmitted o then stopWith n { status := 0x42 } s else s
    | none => if s.hostWaits n && q.desc.isSome then finishRing n (plainRes n 0x42 s) s else s

/-- BME_WAIT_EXPIRE; no limit with BME_WAIT_MS = 0. -/
def execBmeWaitExpire (s : State) : Out :=
  .next (if !inEpisode s || field s.link.resetCtl 16 16 == 0 then s
    else
      let e := episodeOf s
      let s := s.onLink fun l => { l with episode := some { e with limitPassed := true } }
      e.rings.foldl limitRing s)

/-! ### Requests of the module (R290, R296) -/

/-- A read or atomic ends: what it brought waits for its owner, which goes on. Where every tag was in use, so does what waited
for one (R288). -/
def readEnds (r : HostRead) (bytes : List Byte) (bad : Bool) (status reason : Nat) (s : State) : State :=
  let full := readsFull s
  let s := s.onLink fun l => { l with
    reads := l.reads.filter fun x => x.tag != r.tag
    arrived := l.arrived ++ [{ owner := r.owner, pa := hostPa r.hio, bytes := bytes, poisoned := if bad then 0xF else 0, status := status, reason := reason }] }
  let s := match r.owner with
    | .engine e _ => wakeEngine e s
    | .ring n => fabricGo n s
    | _ => s
  if full then hostAgain s else s

def readOf (s : State) (tag : Nat) : Option HostRead := s.link.reads.find? fun r => r.tag == tag

/-- HOST_READ_COMPLETION. -/
def execHostReadCompletion (tag : Nat) (reply : ReadReply) (s : State) : Out :=
  .next (match readOf s tag with
    | none => s
    | some r => match reply with
      | .data b => if b.length = r.len then readEnds r b false 0 0 s else s
      | .poisoned b => if b.length = r.len then readEnds r b true 0 0 s else s
      | .ur => readEnds r [] false 0x31 0xC s
      | .ca => readEnds r [] false 0x31 0xC s)

/-- COMPLETION_TIMEOUT. -/
def execCompletionTimeout (tag : Nat) (s : State) : Out :=
  .next (match readOf s tag with
    | none => s
    | some r => match r.owner with
      | .fetch n => failFetch n { status := 0x40 } s
      | _ => readEnds r [] false 0x40 0 s)

/-- POSTED_WRITE_ACK: acknowledgements come in the order of the writes. -/
def execPostedWriteAck (s : State) : Out :=
  .next (match s.link.posted with
    | [] => s
    | p :: rest =>
      let s := s.onLink fun l => { l with posted := rest }
      match p.owner with
      | .ring n => match pushOf s n with
        | some x => setPush n { x with acked := x.acked + p.bytes.length } s
        | none => s
      | _ => s)

/-! ### Requests of the host and of downstream devices (R236, R287, R293) -/

/-- HOST_ATOMICOP_RECEIVE: Unsupported Request, and nothing is performed. -/
def execHostAtomicopReceive (_bar : Nat) (s : State) : Out :=
  .next (if portLive s && s.link.up then giveAnswer .unsupported s else s)

/-- A host access to BAR2 can be made: it lies below the BAR's size on a link that is up. -/
def bar2Reach (s : State) (v n : Nat) : Bool := portLive s && s.link.up && decide (v + n ≤ 2 ^ s.link.bar2Log2)

/-- BAR2_READ (R236, R239). -/
def execBar2Read (v len : Nat) (s : State) : Out :=
  .next (if !bar2Reach s v len then s
    else
      let s := if s.boot.ready then wakeUp .bar2 s else s
      if bar2Closed s then giveAnswer (.data (List.replicate len 0) false) s else hostRead v len s)

/-- BAR2_WRITE (R236, R239). -/
def execBar2Write (v : Nat) (data : List Byte) (ep : Bool) (s : State) : Out :=
  .next (if !bar2Reach s v data.length then s
    else
      let s := if s.boot.ready then wakeUp .bar2 s else s
      if bar2Closed s then giveAnswer .discarded s else hostWrite v data ep s)

/-- The inbound MSI range (Table 4 of chapter 11). -/
def msiHit (s : State) (addr : Nat) : Bool :=
  !s.endpoint && flag s.link.rpCtl 0 && addr / 2 ^ 20 == field s.link.rpCtl 20 36

/-- The core that has a mhartid: the one to which it has moved, or the core of that number (R394). -/
def coreOfHart (s : State) (h : Nat) : Nat := ((s.coh.cores.find? fun c => c.2.hart == some h).map (·.1)).getD h

/-- The identity that a write of an interrupt file makes pending: a whole word to seteipnum_le or seteipnum_be of its page. -/
def fileIdentity (addr : Nat) (b : List Byte) : Nat :=
  if b.length != 4 then 0
  else if addr % 4096 = 0 then ofBytes b
  else if addr % 4096 = 4 then ofBytes b.reverse
  else 0

/-- An inbound message reaches the interrupt file of a core, whose pending bit it sets, and wakes the module (R293). Poisoned data
set none, and other accesses of a file do nothing (log entry 106). -/
def msiDeliver (addr : Nat) (b : List Byte) (ep : Bool) (s : State) : State :=
  let page := addr % 2 ^ 20 / 4096
  let h := (Config.interruptFile page).toNat
  let id := fileIdentity addr b
  let s := wakeUp .coreInterrupt (giveAnswer .none (s.onLink fun l => { l with msiIn := l.msiIn ++ [(addr % 2 ^ 20, BitVec.ofNat 32 (ofBytes (b.take 4)))] }))
  if ep || id = 0 || decide (Config.interruptIdentities.toNat < id) || decide (152 ≤ h) then s
  else s.onCore (coreOfHart s h) fun c => { c with pending := setAdd c.pending (page * 2048 + id) }

/-- A downstream write outside the MSI range. -/
def downWrite (addr : Nat) (b : List Byte) (ep : Bool) (s : State) : State :=
  if bar2Closed s then giveAnswer .discarded s else hostWrite addr b ep s

/-- INBOUND_MSI_WRITE. -/
def execInboundMsiWrite (addr : Nat) (data : BitVec 32) (s : State) : Out :=
  .next (if s.endpoint || !s.link.up then s
    else if msiHit s addr then msiDeliver addr (toBytes 4 data.toNat) false s else downWrite addr (toBytes 4 data.toNat) false s)

/-- INBOUND_DOWNSTREAM_REQUEST. -/
def execInboundDownstreamRequest (req : DownReq) (s : State) : Out :=
  .next (if s.endpoint || !s.link.up then s
    else match req with
      | .peer => giveAnswer .unsupported s
      | .read a n => if bar2Closed s then giveAnswer (.data (List.replicate n 0) false) s else hostRead a n s
      | .write a b ep =>
        if msiHit s a then msiDeliver a b ep s else downWrite a b ep s)

/-- ROOT_PORT_ERROR_RECEIVE (R291). -/
def execRootPortErrorReceive (port : Nat) (status : BitVec 32) (s : State) : Out :=
  .next (if s.endpoint || decide ((if s.link.role = 2 then 4 else 1) ≤ port) then s else event 0x23 port 0 status.toNat s)

/-! ### Power (R412, R433, R434) -/

/-- POWER_ON: the island comes up, straps and lid are read, and the boot begins; with a lid fault nothing else does
(R358, R427). -/
def execPowerOn (lid : BitVec 3) (rolePins : BitVec 2) (addrSel : BitVec 3) (slotId : BitVec 6) (s : State) : Out :=
  let s := coldState (s.onPins fun p => { p with
    lid := lid, lidAtReset := lid, rolePins := rolePins, addrSel := addrSel, slotId := slotId, perst := true, pgood := true })
  let fault := lidProfile lid == 0
  let s := s.onBoot fun b => { b with island := true, lidFault := fault, stage := 1 }
  .next (if fault then s else bootFrom 1 s)

/-- POWER_LOSS: everything but flash is lost (R373, R434). -/
def execPowerLoss (s : State) : Out :=
  .next (if !s.boot.island then s
    else
      let s := coldState ((ledgerCharged s).onPwr fun p => { p with shutdown := none })
      (s.onBoot fun b => { b with island := false, stage := 0 }).onPins fun p => { p with pgood := false, perst := true })

/-- Training of what the dies need has failed: the boot stops (R414). -/
def bootStop (fail die : Nat) (s : State) : State := s.onBoot fun b => { b with stage := 7, fail := fail, failDie := die }

/-- The first die-link port that has failed, and how: cut off, or in discovery (R350, R355). -/
def badPort (s : State) : Option (Nat × Nat) :=
  (firstBelow 8 fun p => (s.dlPort p).state == 5).map fun p =>
    (p, if decide (dlLanes p ≤ dlRetired (s.dlPort p) 0) || decide (dlLanes p ≤ dlRetired (s.dlPort p) 1) then 4 else 2)

/-- A port whose discovery has not ended by now has no group that exchanges frames (R355). -/
def portReady (s : State) (p : Nat) : State :=
  if (s.dlPort p).state < 3 then s.onDl p fun x => { x with state := 5 } else s

/-- The module becomes ready (R412): record 0x80, and record 0x67 after a thermal shutdown (R372). All dies count as powered on
at the same moment, and their interval counters start together (log entry 88). -/
def becomeReady (s : State) : State :=
  let s := s.onBoot fun b => { b with ready := true, stage := 7, trained := true }
  let s := diesPowered (s.onFlash fun f => { f with badBoots := 0 })
  let s := s.onPins fun p => { p with perstOut := BitVec.ofNat 4 (2 ^ rootPortCount s - 1) }
  let s := event 0x80 s.boot.kind 0 s.boot.slots s
  let s := match s.pwr.shutdown with
    | some (die, j) => event 0x67 0 die (ofSigned 64 j) (s.onPwr fun p => { p with shutdown := none })
    | none => s
  let s := wearCheckAll s
  if moduleIdle s then s else stir s

/-- Step 6 has completed: with PERST# asserted the boot waits there, else the module becomes ready (R412). -/
def bootTrained (s : State) : State :=
  if s.endpoint && s.pins.perst then s.onBoot fun b => { b with stage := 6, trained := true } else becomeReady s

/-- DEVICE_READY: the dies' links, memory and pool are ready (Table 4 of chapter 16). Memory that fails to train stops the boot, on a
die the event does not name (log entry 1). A boot that had completed step 6 before goes on to step 7. -/
def execDeviceReady (memTrained : Bool) (s : State) : Out :=
  .next (if !s.boot.island || s.boot.lidFault || s.boot.ready || s.boot.fail != 0 || s.pwr.rung == 5 then s
    else
      let s := (List.range 8).foldl (fun s p => if s.boot.trained then dlAgain p s else portReady s p) s
      match badPort s with
      | some (p, why) => bootStop why (p + 1) s
      | none =>
        if memTrained || s.boot.trained then bootTrained s
        else let (w, s) := s.draw; bootStop 3 (w.toNat % 9) s)

end Sys2Proof.Machine
end

