-- ==== Sys2Proof/Machine/Tables.lean ====
section
/-! DEFINITION. The state tables of Table 7 of chapter 18 (R445): their sizes and their entries, as state readout (R444) and
a census (R324) read them. -/

namespace Sys2Proof.Machine

/-- A number of fields, each (value, lowest bit, width). -/
def packed (l : List (Nat × Nat × Nat)) : Nat := l.foldl (fun a f => a + f.1 % 2 ^ f.2.2 * 2 ^ f.2.1) 0

/-- 64-bit words from the lowest. -/
def words (l : List Word) : List Byte := l.flatMap fun w => toBytes 8 w.toNat

/-- Entries and bytes of an entry of each table. -/
def tableShapes : List (Nat × Nat) :=
  [(1, 64), (1024, 128), (1024, 64), (544, 128), (544, 128), (1272, 8), (14796, 16), (131072, 8), (64, 64), (8, 64),
   (1, 64), (64, 64), (65536, 16), (59, 16), (43, 128), (1, 160), (1025, 64), (32768, 8), (16, 32)]

/-- HUB_ID (Table 2 of chapter 18). -/
def hubId (s : State) : Word := pack [(0x4812, 32), (0x1F6B, 16), (s.link.stepping.toNat, 8), (1, 0)]

/-- Table 0: capacity without the retired granules of 4 KiB (R17, R393). -/
def identityEntry (s : State) : List Byte :=
  words [hubId s, s.link.serial, BitVec.ofNat 64 (576 * 2 ^ 30 - 4096 * s.pool.retired1.length),
         BitVec.ofNat 64 (1536 * 2 ^ 30 - 4096 * s.pool.retired2.length)]
    ++ ([1, 2, 3, 4].map fun d => BitVec.ofNat 8 (inService s 1 d)) ++ ([5, 6].map fun d => BitVec.ofNat 8 (inService s 4 d))
    ++ [8] ++ List.replicate 25 0

/-- Code of STATE (Table 15 of chapter 12). -/
def ringStateCode : RingState → Nat
  | .disabled => 0
  | .idle => 1
  | .running => 2
  | .waiting => 3
  | .stopped => 4
  | .frozen => 5
  | .rereading => 6
  | .aborting => 7

/-- Ring state entry (R336, Table 15 of chapter 12). PHASE is that of HEAD, from the ring's enabling on. -/
def ringEntry (q : Ring) : Nat :=
  let phase := if q.log2 = 0 then 0 else phaseOf q.head.toNat q.log2
  packed [
    (q.unkHi, 960, 64), (q.unkLo, 896, 64), (q.address, 832, 64), (q.element, 768, 64), (q.second, 704, 64),
    (q.progress, 640, 64), (q.reason, 636, 4), (q.role, 632, 4), (q.node, 576, 14), (q.dbTicks.toNat, 512, 64),
    (q.last.w3, 448, 64), (q.last.w2, 384, 64), (q.last.w1, 320, 64), (q.last.w0, 256, 64), (q.dbTag.toNat, 224, 32),
    (q.completed.toNat, 192, 32), (q.head.toNat, 160, 32), (q.tail.toNat, 128, 32), (q.startTicks.toNat, 64, 64),
    (q.rereads, 24, 8), (q.kind, 16, 8), (one q.sdesc, 9, 1), (one q.held, 8, 1), (one q.unk, 7, 1), (one q.cfgErr, 6, 1),
    (one q.dbErr, 5, 1), (phase, 4, 1), (ringStateCode q.state, 0, 4)]

/-- DIE, physical arrays or engines in use, and transform engine of an operation. -/
def opPlace (o : Option Op) : Nat × List Nat × Nat :=
  match o with
  | some (.chain c) => (c.d.die + 1, if c.admitted then c.arrays.map (· % 136) else [], 0xFF)
  | some (.program p) => (p.die + 1, if p.admitted then p.used.map (· % 136) else [], 0xFF)
  | some (.transform t) => (t.die + 1, [], if t.admitted then t.engine else 0xFF)
  | some (.test t) => (t.die, [], 0xFF)
  | _ => (0, [], 0xFF)

/-- Table 2. -/
def opEntry (q : Ring) : Nat :=
  let (die, units, eng) := opPlace q.op
  packed [(q.kind, 0, 8), (die, 8, 8), ((units.foldl (fun m u => m ||| 2 ^ u) 0), 64, 136), (eng, 200, 8)]

/-- Place of an array in its chain (R108). -/
def arrayPos (s : State) (a : Nat) : Nat :=
  match (s.array a).ring with
  | some n => match (s.ring n).op with
    | some (.chain c) => (c.arrays.findIdx? (· == a)).getD 0
    | _ => 0
  | none => 0

/-- Table 3: the counter record (Table 8 of chapter 03), the ring and the logical position. -/
def arrayEntry (s : State) (a : Nat) : List Byte :=
  let x := s.array a
  let c := x.ctr
  words [c.product, c.range, c.arrival, c.epilogue, c.drain, c.tiles, c.special, 0]
    ++ toBytes 2 (x.ring.getD 0xFFFF) ++ toBytes 2 (arrayPos s a) ++ List.replicate 60 0

/-- Engine state entry (Table 5 of chapter 06). -/
def engineWord (s : State) (e : Engine) : Nat :=
  packed [
    (e.grants.foldl (fun m g => m ||| g.counters) 0, 96, 32),
    (readyGroups s e, 72, 8),
    (e.slots.length + chainGroups e, 64, 8), (grantSum e (·.ways), 40, 5), (grantSum e (fun g => if g.isChain then 0 else g.stagingKib), 30, 10),
    (one (e.grants.any (·.isChain)), 24, 4), (e.reason, 4, 4), (e.mode, 0, 2)]

/-- Table 4: the state entry and the counter record (Table 9 of chapter 06). -/
def engineEntry (s : State) (e : Engine) : List Byte :=
  let c := e.ctr
  toBytes 16 (engineWord s e) ++ List.replicate 48 0
    ++ words [c.slots, c.rrTurns, c.idle, c.rotations, c.atomics, c.waitTurns, c.rrEntries, 0]

/-- Table 5. -/
def ratedEntry (s : State) (i : Nat) : Nat := packed [(ratedOf s i, 0, 8), (tget 7 s.flash.atMake i, 8, 8)]

/-- Kind, die and unit of an entry of the repair map, in ascending order of DIE, UNIT_KIND and unit (R390): ways of H; pairs
and wire groups of the compute dies; cores and wire groups of the processor dies; Dembet ports and wire groups of the
I/O dies (log entry 20). -/
def mapUnit (i : Nat) : Nat × Nat × Nat :=
  if i < 12288 then (5, 0, i / 192 * 256 + i % 192)
  else if i < 13984 then
    let j := (i - 12288) % 424
    let die := (i - 12288) / 424 + 1
    if j < 136 then (1, die, j) else (9, die, j - 136)
  else if i < 14280 then
    let j := (i - 13984) % 148
    let die := (i - 13984) / 148 + 5
    if j < 76 then (4, die, j) else (9, die, j - 76)
  else
    let j := (i - 14280) % 258
    let die := (i - 14280) / 258 + 7
    if j < 32 then (8, die, (die - 7) * 32 + j) else (9, die, j - 32)

/-- Table 6 (Table 2 of chapter 15). -/
def mapEntry (s : State) (i : Nat) : Nat :=
  let (kind, die, unit) := mapUnit i
  let e := repEntry s kind die unit
  packed [(kind, 64, 8), (die, 72, 8), (unit, 80, 16), (e.cls, 48, 4), (e.cause, 40, 8), (e.partner, 24, 16), (e.state, 0, 3)]

/-- Table 7. -/
def retiredEntry (s : State) (i : Nat) : Nat := nth 0 (if i < 65536 then s.pool.retired1 else s.pool.retired2) (i % 65536)

/-- Table 8 (Table 10 of chapter 08). -/
def sliceEntry (c : SliceCtr) : List Byte :=
  words [c.snoops, c.forwarded, c.backInv, c.blocked, c.atomics, c.exactAdds, c.loans, 0]

/-- Table 9 (Table 6 of chapter 13). -/
def hubPortEntry (p : DlPort) (sent : Word) : List Byte :=
  words [p.flitsTx, p.flitsRx + sent, p.crcFails, p.retries, p.remaps, p.laneRet, p.metered, 0]

/-- Table 10 (Table 16 of chapter 10). -/
def fabricEntry (f : Fabric) : List Byte :=
  words [f.retransmits, f.duplicates, f.gapNotices, f.busyNacks, f.winFaults, f.crcDrops, f.hopDrops, f.noRoute]

/-- Table 11 (Table 17 of chapter 10). -/
def fabPortEntry (p : FabPort) : List Byte :=
  words [p.txPackets, p.rxPackets, p.txBytes, p.rxBytes, p.transit, p.retries, p.degrades, 0]

/-- Table 12 (R248). -/
def hotEntry (x : Xlt) (i : Nat) : Nat :=
  match tfind x.hot i with
  | some h => packed [(h.region * 65536, 0, 64), (h.cls, 64, 8), (h.count, 96, 32)]
  | none => 0

/-- Domains of a consumer group, in the order of Table 8 of chapter 01: the compute dies, HBM4, H, the processor dies, the I/O dies,
LPDDR5X and losses. -/
def groupDomains : Nat → List Nat
  | 0 => List.range 32
  | 2 => [40]
  | 3 => span 32 8
  | 4 => [41, 42]
  | _ => []

/-- Power of a consumer group in mW over the last 10 ms (R365): the average of its domains' samples; the memories and the losses,
which have no domain, are free values. -/
def groupPower (s : State) (i : Nat) : Nat :=
  if (groupDomains i).isEmpty then (Config.groupMw i s.hTicks.toNat).toNat
  else averageOf s fun r => ((groupDomains i).map fun d => nth 0 r.domainMw d).foldl (· + ·) 0

/-- Table 13 (R365): a domain's rail is that of its point in force (Table 4 of chapter 01). -/
def powerEntry (s : State) (i : Nat) : Nat :=
  if i < 7 then groupPower s i
  else if i < 16 then ofSigned 16 (thermOf s (i - 7)).junction
  else
    let op := (s.domain (i - 16)).inForce
    packed [(nth 0 Config.railMv op, 0, 16), (op, 16, 8)]

/-- Table 14 (R373, R374). -/
def wearEntry (s : State) (d : Nat) : List Byte :=
  let x := s.domain d
  ((List.range 30).flatMap fun k => toBytes 4 (nth 0 (wearBuckets x) k)) ++ toBytes 4 (wearTotal x) ++ toBytes 4 (wearBudget s)

/-- Table 15 (Table 9 of chapter 14). -/
def throttleEntry (p : Power) : List Byte :=
  ((List.range 8).flatMap fun r => let t := tget {} p.throttle (r + 1); words [t.ticks, t.entries])
    ++ words [p.rnh.ticks, p.rnh.entries, 0, 0]

/-- Carry-over header (Table 11 of chapter 11). -/
def carryHeader (k : Pickle) : Nat :=
  packed [(k.freezeTicks.toNat, 64, 64), (k.rung, 40, 3), (k.entries.length, 16, 11), (k.cause.toNat, 2, 2), (one k.valid, 0, 1)]

/-- Carry-over entry (Table 12 of chapter 11). -/
def carryEntry (e : Carry) : Nat :=
  packed [(e.unkHi, 192, 64), (e.unkLo, 128, 64), (e.progress, 64, 64), (e.descIndex, 48, 16), (e.status, 40, 8),
          (one e.unk, 33, 1), (one e.resumable, 32, 1), (e.ring, 0, 10)]

/-- Table 16: the header, then the entries in the record's order. -/
def carryTable (k : Pickle) (i : Nat) : Nat :=
  if i = 0 then carryHeader k else match k.entries[i - 1]? with | some e => carryEntry e | none => 0

/-- Table 18 (R249): the time left of a hold, in ms begun. -/
def holdEntry (s : State) (slot : Nat) : Nat :=
  match s.xlt.holds.find? fun h => h.slot == slot with
  | some h => packed [(h.start, 0, 64), (h.length, 64, 64), (cdiv (h.limitMs * 100000 - (s.hTicks.toNat - h.since)) 100000, 128, 32), (1, 160, 8)]
  | none => 0

/-- An entry of a table. -/
def tableEntry (s : State) (table i : Nat) : List Byte :=
  match table with
  | 0 => identityEntry s
  | 1 => toBytes 128 (ringEntry (s.ring i))
  | 2 => toBytes 64 (opEntry (s.ring i))
  | 3 => arrayEntry s i
  | 4 => engineEntry s (s.engine i)
  | 5 => toBytes 8 (ratedEntry s i)
  | 6 => toBytes 16 (mapEntry s i)
  | 7 => toBytes 8 (retiredEntry s i)
  | 8 => sliceEntry (tget {} s.coh.ctr i)
  | 9 => hubPortEntry (s.dlPort i) (tget 0 s.coh.rx i)
  | 10 => fabricEntry s.fab
  | 11 => fabPortEntry (s.port i)
  | 12 => toBytes 16 (hotEntry s.xlt i)
  | 13 => toBytes 16 (powerEntry s i)
  | 14 => wearEntry s i
  | 15 => throttleEntry s.pwr
  | 16 => toBytes 64 (carryTable s.pickle i)
  | 17 => toBytes 8 (tget 0 s.fab.routes i).toNat
  | _ => toBytes 32 (holdEntry s i)

/-- Die code of the die that an entry tells of. -/
def entryDie (table i : Nat) : Option Nat :=
  match table with
  | 3 => some (i / 136 + 1)
  | 4 => some (i / 136 + 1)
  | 11 => some (portDie i)
  | 13 => if 7 ≤ i ∧ i < 16 then some (i - 7) else none
  | _ => none

/-- The entry's die is powered off: its data read as 0 (Table 6 of chapter 18). -/
def entryOff (s : State) (table i : Nat) : Bool :=
  match entryDie table i with
  | some d => !dieOn s d
  | none => false

/-- An entry as a reader gets it. -/
def readEntry (s : State) (table i : Nat) : List Byte :=
  match tableShapes[table]? with
  | some (n, b) => if n ≤ i ∨ entryOff s table i then List.replicate b 0 else tableEntry s table i
  | none => []

/-! ### Census (R324, R337) -/

/-- Bytes of a section. -/
def sectionSize (t : Nat) : Nat := match tableShapes[t]? with | some (n, b) => cdiv (16 + b * n) 64 * 64 | none => 0

/-- A section of a census: its header, its entries in ascending order, zeros to its end. -/
def censusSection (s : State) (t : Nat) : List Byte :=
  match tableShapes[t]? with
  | some (n, b) =>
    toBytes 2 t ++ [0, 0] ++ toBytes 4 b ++ toBytes 8 n ++ ((List.range n).flatMap fun i => readEntry s t i)
      ++ List.replicate (sectionSize t - (16 + b * n)) 0
  | none => []

def censusTables (mask : Nat) : List Nat := (List.range 19).filter (bit mask ·)

/-- Size of a census. -/
def censusSize (mask : Nat) : Nat := (censusTables mask).foldl (fun a t => a + sectionSize t) 64

/-- The buffer of a census; every entry is read in one command, at one moment. -/
def censusBytes (s : State) (mask : Nat) : List Byte :=
  toBytes 8 s.hTicks.toNat ++ toBytes 8 s.hTicks.toNat ++ toBytes 8 (censusSize mask) ++ toBytes 8 mask
    ++ List.replicate 32 0 ++ (censusTables mask).flatMap (censusSection s)

/-- CENSUS (R324): it begins, or goes on where it runs already. -/
def execCensus (ring : Nat) (s : State) : Out :=
  .next (match (s.ring ring).op with
    | some (.census _) => censusGo ring s
    | _ => onDesc ring 0x08 (fun d s =>
        let buf := descWord d 8 8
        let mask := descWord d 24 8
        if buf % 64 ≠ 0 ∨ 2 ^ 19 ≤ mask then refuse ring 0x13 s
        else if descWord d 16 8 < censusSize mask then complete ring { status := 0x10, second := censusSize mask } s
        else
          let s := beginOp ring (.census { buf := buf, bytes := [] }) s
          censusGo ring (setCensus ring { buf := buf, bytes := censusBytes s mask } s)) s)

end Sys2Proof.Machine
end

