-- ==== Sys2Proof/Machine/Registers.lean ====
section
/-! DEFINITION. The map of BAR0 (chapter 18): what every register reads as, what a write does, the set-up commit and the
state readout window. -/

namespace Sys2Proof.Machine

/-! ### Accesses (R287, R413, R438-R440) -/

/-- The part of a register that an access addresses; none where the access is not 4 or 8 bytes, naturally aligned. -/
def partOf (offset size : Nat) : Option Part :=
  if size = 8 ∧ offset % 8 = 0 then some .whole
  else if size = 4 ∧ offset % 4 = 0 then some (if offset % 8 = 0 then .low else .high)
  else none

/-- The page of an offset is served (R413). -/
def pageServed (s : State) (offset : Nat) : Bool :=
  hubServed s && (s.boot.ready || decide (offset < 0x100000) || (decide (0x600000 ≤ offset) && decide (offset < 0x700000)))

/-- Index of a register in an array of them from a base, with a stride. -/
def regIndex (base stride count offset : Nat) : Option Nat :=
  if base ≤ offset ∧ offset < base + stride * count ∧ (offset - base) % stride = 0 then some ((offset - base) / stride) else none

/-! ### The set-up commit (R441, R442) -/

/-- Tier 1 filled with zeros with no poison; cached copies of its lines are invalidated (R176). -/
def fillTier1 (s : State) : State :=
  let out (line : Nat) : Bool := inTier2 (line * 128)
  let s := coreCachesKeep out s
  let s := s.onPool fun p => { p with mem := memClear p.mem 0 0x9000000000, poison := p.poison.filter fun k => out (k / 2) }
  s.onCoh fun c => { c with
    sc := c.sc.filter fun e => out e.2.line
    victim := (c.victim.map fun (e : Nat × List ScLine) => (e.1, e.2.filter fun l => out l.line)).filter fun e => !e.2.isEmpty
    dir := c.dir.filter fun e => out e.2.line
    priv := c.priv.filter fun p => out p.line
    wbuf := c.wbuf.filter fun p => out p.line
    txns := c.txns.filter fun t => out t.line
    queue := c.queue.filter fun w => out w.line
    snoops := c.snoops.filter fun w => out w.line
    resps := c.resps.filter fun w => out w.line
    wbAcks := c.wbAcks.filter fun w => out w.2
    loans := c.loans.filter fun g => out (g * 32)
    cores := c.cores.map fun (k : Nat × Core) =>
      (k.1, match k.2.reservation with
        | some l => if out l then k.2 else { k.2 with reservation := none, lrDelay := false }
        | none => k.2) }

/-- The commit ends: COMMITTED is 1, BUSY is 0, and enabled ports begin training. -/
def commitDone (s : State) : State :=
  portsSettle (s.onSetup fun u => { u with committed := true, busy := false, fill := false })

/-- Why a commit is refused: its cause, 0 where it is not. -/
def commitCause (s : State) : Nat :=
  if !s.boot.ready then 1
  else if s.rings.any (fun r => !ringQuiet r.2) then 2
  else if s.link.scrubBusy || s.pwr.memInit then 3 else 0

/-- A request for the set-up commit. Without a fill it completes in its own command. -/
def commitRequest (s : State) : State :=
  if s.setup.committed || s.setup.busy then s
  else if commitCause s ≠ 0 then s.onSetup fun u => { u with err := true, errCause := BitVec.ofNat 2 (commitCause s) }
  else
    let i := field s.pool.placement 0 6
    let fill := i != s.pool.ilvForce
    let s := if fill then (fillTier1 s).onPool fun p => { p with ilvForce := i } else s
    let s := tlbsEmpty (s.onSetup fun u => { u with busy := true, fill := fill })
    if fill then s else commitDone s

/-- A write of HUB_SETUP (Table 3 of chapter 18). -/
def setupWrite (part : Part) (val : Word) (s : State) : State :=
  let w := partWo part val
  let s := if flag w 2 then s.onSetup fun u => { u with err := false } else s
  if flag w 0 then commitRequest s else s

/-- SETUP_COMMIT: the write of HUB_SETUP that requests the commit. -/
def execSetupCommit (val : Word) (s : State) : Out := .next (if hubServed s then setupWrite .whole val s else s)

/-- SETUP_COMMIT_DONE. -/
def execSetupCommitDone (s : State) : Out := .next (if s.setup.busy then commitDone s else s)

/-! ### State readout (R444) -/

def readoutOf (s : State) (ch : Port) : Readout := match ch with | .host => s.setup.srHost | .core => s.setup.srCore
def onReadout (ch : Port) (f : Readout → Readout) (s : State) : State :=
  s.onSetup fun u => match ch with
    | .host => { u with srHost := f u.srHost }
    | .core => { u with srCore := f u.srCore }

/-- A write of HUB_SR_INDEX starts a snapshot and abandons one in progress. -/
def srWrite (ch : Port) (part : Part) (val : Word) (s : State) : State :=
  onReadout ch (fun r => { index := partWrite r.index (fieldMask 40 6 ||| fieldMask 0 32) part val, busy := true }) s

/-- SR_INDEX_WRITE. -/
def execSrIndexWrite (ch : Port) (part : Part) (val : Word) (s : State) : Out := .next (whenReady (srWrite ch part val) s)

/-- A snapshot of the entry that the index names, with its error (Table 6 of chapter 18). -/
def snapshot (s : State) (index : Word) : Readout :=
  let t := field index 40 6
  let i := field index 0 32
  match tableShapes[t]? with
  | none => { index := index, err := 1 }
  | some (n, b) =>
    if n ≤ i then { index := index, err := 2, entryBytes := b, entries := n }
    else if entryOff s t i then { index := index, err := 3, entryBytes := b, entries := n }
    else { index := index, entryBytes := b, entries := n, data := tableEntry s t i }

/-- SR_SNAPSHOT_DONE: while the Ringmaster hands over or restarts, the snapshot does not end (R415, R421, R444). -/
def execSrSnapshotDone (ch : Port) (s : State) : Out :=
  .next (if (readoutOf s ch).busy && !admissionPaused s then onReadout ch (fun r => snapshot s r.index) s else s)

/-- HUB_SR_STATUS. -/
def srStatus (r : Readout) : Word := pack [(one r.busy, 63), (r.err, 60), (r.entryBytes, 32), (r.entries, 0)]

/-- A word of HUB_SR_DATA: 0 while a snapshot is in progress and beyond the entry. -/
def srData (r : Readout) (k : Nat) : Word :=
  if r.busy then 0 else BitVec.ofNat 64 (ofBytes ((r.data.drop (8 * k)).take 8))

/-! ### Register values -/

def b64 (n : Nat) : Word := BitVec.ofNat 64 n

def portRole (s : State) : Word :=
  pack [((roleFrom s.pins.rolePins s.flash.role).1.toNat, 4), (s.link.source.toNat, 2), (s.link.role.toNat, 0)]

def linkStatus (l : Link) : Word :=
  pack [(l.losses.toNat, 48), (l.retrains.toNat, 16), (one l.flit, 8), (l.width.toNat, 4), (l.speed.toNat, 0)]

def pickleStatus (k : Pickle) : Word :=
  pack [(k.entries.length, 32), (one k.actErr, 7), (k.cause.toNat, 2), (one k.freezing, 1), (one k.valid, 0)]

def setupStatus (u : Setup) : Word :=
  pack [(u.errCause.toNat, 8), (one u.committed, 3), (one u.err, 2), (one u.busy, 1)]

def strapsWord (p : Pins) : Word :=
  pack [(p.slotId.toNat, 16), (p.addrSel.toNat, 8), (p.rolePins.toNat, 4), (one p.coolantLow, 0)]

/-- HUB_DLINK_STATUS (R353): the spares in use are those that a training since cold reset has applied (R11, R348). -/
def dlinkStatus (x : DlPort) : Word :=
  let used := if !x.applied then 0 else if x.spares.length < 256 then x.spares.length else (Config.sparesOver x.spares.length).toNat
  pack [(one (x.applied && x.strobeUp), 33), (one (x.applied && x.strobeDn), 32), (used, 24), (x.lanesDn, 16), (x.lanesUp, 8), (x.kind, 4), (x.state, 0)]

/-- The hub's page of the map. -/
def hubRead (s : State) (offset : Nat) : Word :=
  match offset with
  | 0x0 => hubId s
  | 0x8 => s.link.serial
  | 0x10 => s.hTicks
  | 0x100 => setupStatus s.setup
  | 0x1000 => portRole s
  | 0x1008 => if s.endpoint then linkStatus s.link else 0
  | 0x1010 => s.pickle.ctl
  | 0x1018 => pickleStatus s.pickle
  | 0x1028 => s.link.resetCtl ||| pack [(one s.link.scrubBusy, 1)]
  | 0x1030 => s.link.rpCtl
  | 0x1040 => strapsWord s.pins
  | _ => match regIndex 0x2000 8 9 offset with
    | some i => (shareOf s i).setWidth 64
    | none => match regIndex 0x2080 8 8 offset with
      | some p => dlinkStatus (s.dlPort p)
      | none => 0

/-- PWR_DOMAIN[d] (Table 3 of chapter 14). -/
def domainWord (s : State) (d : Nat) : Word :=
  let x := s.domain d
  pack [(min 1023 (wearTotal x * 50000 / wearFifty s), 32), (x.reason, 28), (one x.wearCapped, 27), (ratedMax s d, 24),
        (x.inForce, 20), (x.maxOp, 0)]

/-- PWR_STATUS (Table 10 of chapter 14). -/
def powerStatus (s : State) : Word :=
  let p := s.pwr
  pack [(one p.memInit, 16), (moduleReasons s, 8), (one p.fixErr, 4), (one p.rungErr, 3), (one p.safetyNet, 2),
        (one p.coolantLoss, 1), (one p.creditMode, 0)]

/-- The power page. -/
def powerRead (s : State) (offset : Nat) : Word :=
  match offset with
  | 0x100000 => pack [(ceiling s, 48), (envelope s, 32), (s.pwr.profile, 4), (s.pins.lidAtReset.toNat, 0)]
  | 0x100008 => s.pwr.cap
  | 0x100010 => s.pwr.inlet
  | 0x100018 => pack [(s.pwr.resumePct, 40), (capacityUj s / 1000000, 20), (s.pwr.balanceUj / 1000000, 0)]
  | 0x100020 => s.pwr.limiter
  | 0x100028 => s.pwr.fixed
  | 0x100030 => s.pwr.rungCtl ||| pack [(s.pwr.rung, 48)]
  | 0x100038 => s.pwr.forecast
  | 0x100040 => powerStatus s
  | _ => match regIndex 0x100100 8 43 offset with
    | some d => domainWord s d
    | none => 0

/-- The translation page. -/
def xltRead (x : Xlt) (offset : Nat) : Word :=
  match offset with
  | 0x200000 => x.root
  | 0x200008 => pack [(x.holds.length, 40), (x.ops.length, 32), (x.epoch.toNat, 0)]
  | 0x200010 => x.hotpage
  | _ => 0

/-- FAB_STATUS (Table 10 of chapter 10). -/
def fabStatus (s : State) : Word :=
  pack [(one s.fab.held, 9), (one s.fab.active, 8), (one s.fab.winDraining, 7), (((List.range 64).filter (portUp s)).length, 0)]

def portStateWord (p : FabPort) : Word := pack [(p.nbrNode, 48), (p.nbrPort, 42), (p.state, 0)]

/-- A word of an export window. -/
def winRead (w : FabWin) (k : Nat) : Word := match k with | 0 => w.w0 | 1 => w.w1 | 2 => w.w2 | _ => 0

/-- The fabric page. -/
def fabRead (s : State) (offset : Nat) : Word :=
  let f := s.fab
  match offset with
  | 0x300000 => f.node
  | 0x300008 => f.portEn
  | 0x300010 => f.e2e
  | 0x300018 => f.routeCtl
  | 0x300020 => fabStatus s
  | 0x300028 => f.rtIndex
  | 0x300030 => tget 0 f.routes (field f.rtIndex 15 1 * 16384 + field f.rtIndex 0 14)
  | _ => match regIndex 0x300400 8 64 offset with
    | some p => portStateWord (s.port p)
    | none => match regIndex 0x301000 8 256 offset with
      | some k => winRead (winOf s (k / 4)) (k % 4)
      | none => match regIndex 0x302000 8 256 offset with
        | some k => tget 0 f.src k
        | none => 0

/-- Ring set-up. -/
def ringsRead (s : State) (offset : Nat) : Word :=
  match offset with
  | 0x408000 => s.evt.base
  | 0x408008 => s.evt.cfg
  | 0x408010 => s.evt.head.setWidth 64
  | 0x408018 => pack [(s.evt.lost.toNat, 32), (s.evt.produced.toNat, 0)]
  | _ => match regIndex 0x400000 8 4096 offset with
    | some k =>
      let q := s.ring (k / 4)
      match k % 4 with | 0 => q.sq | 1 => q.cq | 2 => q.cfg | _ => 0
    | none => 0

/-- Repair and the Dodgem unit. -/
def repairRead (s : State) (offset : Nat) : Word :=
  match offset with
  | 0x500108 => pack [(s.rep.result, 8), (one s.rep.err, 1), (one s.rep.busy, 0)]
  | 0x501000 => s.dod.ctl
  | 0x501040 => s.dod.seed
  | _ => match regIndex 0x500000 8 16 offset with
    | some c => ruleOf s c
    | none => match regIndex 0x501010 8 5 offset with
      | some k => dodMode s k
      | none => 0

/-- FW_STATUS (Table 5 of chapter 16). -/
def fwStatus (b : Boot) : Word :=
  pack [(b.fail, 40), (b.failDie, 36), (b.comp, 32), (b.slots, 24), (b.stage, 16), (one b.act.isSome, 1), (one b.ready, 0)]

/-- The readout window. -/
def windowRead (s : State) (src : Port) (offset : Nat) : Word :=
  let r := readoutOf s src
  match offset with
  | 0x800000 => r.index
  | 0x800008 => srStatus r
  | _ => match regIndex 0x801000 8 512 offset with
    | some k => srData r k
    | none => 0

/-- A doorbell page: its registers are WO, and its state entry lies at 0x80. -/
def doorbellRead (s : State) (offset : Nat) : Word :=
  let k := offset % 0x1000
  if 0x80 ≤ k ∧ k < 0x100 then
    b64 (ringEntry (s.ring ((offset - 0xC00000) / 0x1000)) / 2 ^ (8 * (k - 0x80)))
  else 0

/-- What a register reads as (Tables 1 and 5 of chapter 18); a reserved offset reads as 0 (R12). -/
def mapRead (s : State) (src : Port) (offset : Nat) : Word :=
  match offset / 0x100000 with
  | 0 => hubRead s offset
  | 1 => powerRead s offset
  | 2 => xltRead s.xlt offset
  | 3 => fabRead s offset
  | 4 => ringsRead s offset
  | 5 => repairRead s offset
  | 6 => if offset = 0x600000 then fwStatus s.boot else 0
  | 7 => if offset = 0x700000 then s.pool.placement else if offset = 0x700008 then s.pool.scrub else 0
  | _ => if offset < 0x800000 then 0 else if offset < 0xC00000 then windowRead s src offset
    else if offset < 0x1000000 then doorbellRead s offset else 0

/-! ### Register writes (R9, R12, R439) -/

/-- A mask for a field whose write is ignored where the value is refused. -/
def fieldIf (ok : Bool) (lo w : Nat) : Word := if ok then fieldMask lo w else 0

/-- The register as the write would leave it, its refused values apart. -/
def written (old : Word) (part : Part) (val : Word) : Word := partWrite old (partMask .whole) part val

/-- Pickle mode's record has entries: writes to placement, MODE and node ID are ignored (R306). -/
def frozenSetup (s : State) : Bool := !s.pickle.entries.isEmpty

/-- The hub's page. -/
def hubWrite (offset : Nat) (part : Part) (val : Word) (s : State) : State :=
  match offset with
  | 0x100 => setupWrite part val s
  | 0x1010 =>
    let old := s.pickle.ctl
    let ok := field (written old part val) 4 2 != 0
    s.onPickle fun k => { k with ctl := partWrite old (fieldMask 8 16 ||| fieldIf ok 4 2 ||| fieldMask 0 1) part val }
  | 0x1018 => if flag (partWo part val) 7 then s.onPickle fun k => { k with actErr := false } else s
  | 0x1020 => pickleAct part val s
  | 0x1028 => s.onLink fun l => { l with resetCtl := partWrite l.resetCtl (fieldMask 16 16 ||| fieldMask 0 1) part val }
  | 0x1030 => if s.locked then s else s.onLink fun l => { l with rpCtl := partWrite l.rpCtl (fieldMask 20 36 ||| fieldMask 0 1) part val }
  | _ => match regIndex 0x2000 8 9 offset with
    | some i =>
      let w := partWrite ((shareOf s i).setWidth 64) 0xFF part val
      if w = 0 then s else s.onSetup fun u => { u with share := tput 32 u.share i (w.setWidth 8) }
    | none => s

/-- PWR_INLET: an INLET_DC above 1,000 is ignored; the inlet was written last here (R371). -/
def inletWrite (part : Part) (val : Word) (s : State) : State :=
  let ok := decide (field (written s.pwr.inlet part val) 0 16 ≤ 1000)
  if part = .high then s
  else capacityCut (s.onPwr fun p => { p with
    inlet := partWrite p.inlet (fieldIf ok 0 16 ||| fieldMask 16 1) part val, inletLast := if ok then 1 else p.inletLast })

/-- PWR_RUNG_CTL.ENTER (R386). -/
def enterRequest (code : Nat) (s : State) : State :=
  if code ≠ 4 ∧ code ≠ 5 then s
  else if enterRefused s then s.onPwr fun p => { p with rungErr := true }
  else if s.pwr.rung ≥ code then s
  else if code = 4 then enterRung4 s else enterRung5 s

/-- PWR_RUNG_CTL (Table 14 of chapter 14). -/
def rungCtlWrite (part : Part) (val : Word) (s : State) : State :=
  let old := s.pwr.rungCtl
  let w := written old part val
  let d := field w 32 4
  let mask := fieldIf (d != 0 && decide (d ≤ 3)) 32 4 ||| fieldIf (field w 16 16 != 0) 16 16 ||| fieldIf (field w 0 16 != 0) 0 16
  enterRequest (field (partWo part val) 40 4) (s.onPwr fun p => { p with rungCtl := partWrite old mask part val })

/-- The power page. -/
def powerWrite (offset : Nat) (part : Part) (val : Word) (s : State) : State :=
  match offset with
  | 0x100008 => powerSettle (s.onPwr fun p => { p with cap := partWrite p.cap 0xFFFF part val })
  | 0x100010 => inletWrite part val s
  | 0x100018 =>
    let w := field (written (pack [(s.pwr.resumePct, 40)]) part val) 40 7
    if w = 0 ∨ 100 < w then s else creditCheck (s.onPwr fun p => { p with resumePct := w })
  | 0x100020 => powerSettle (s.onPwr fun p => { p with limiter := partWrite p.limiter 0xFFFFFFFF part val })
  | 0x100028 => fixedWrite part val s
  | 0x100030 => rungCtlWrite part val s
  | 0x100040 =>
    let w := partWo part val
    s.onPwr fun p => { p with fixErr := p.fixErr && !flag w 4, rungErr := p.rungErr && !flag w 3 }
  | _ => match regIndex 0x100100 8 43 offset with
    | some d => powerSettle (s.onDomain d fun x => { x with maxOp := field (partWrite (b64 x.maxOp) 7 part val) 0 3 })
    | none => s

/-- XLT_ROOT: RWL; other values of MODE are ignored, and with entries in the carry-over record every value (R224, R306). -/
def rootWrite (part : Part) (val : Word) (s : State) : State :=
  let old := s.xlt.root
  let mode := field (written old part val) 60 4
  let ok := (mode == 0 || mode == 10) && !frozenSetup s
  if s.locked then s
  else s.onXlt fun x => { x with root := partWrite old (fieldIf ok 60 4 ||| fieldMask 0 44) part val }

/-- The translation page. A threshold that falls below counts makes them pass it (R248, log entry 81). -/
def xltWrite (offset : Nat) (part : Part) (val : Word) (s : State) : State :=
  match offset with
  | 0x200000 => rootWrite part val s
  | 0x200010 => hotCheck (s.onXlt fun x => { x with hotpage := partWrite x.hotpage 0x00FFFFFFFFFFFFFF part val })
  | _ => s

/-- FAB_E2E (Table 12 of chapter 10): RTO_MAX_US is held against RTO_US as the same write leaves it. -/
def e2eWrite (part : Part) (val : Word) (s : State) : State :=
  let old := s.fab.e2e
  let w := written old part val
  let rto := if field w 0 16 = 0 then field old 0 16 else field w 0 16
  let mask := fieldMask 44 4 ||| fieldIf (field w 32 8 != 0) 32 8 ||| fieldIf (decide (rto ≤ field w 16 16)) 16 16
    ||| fieldIf (field w 0 16 != 0) 0 16
  s.onFab fun f => { f with e2e := partWrite old mask part val }

/-- The fabric page. -/
def fabWrite (offset : Nat) (part : Part) (val : Word) (s : State) : State :=
  match offset with
  | 0x300000 =>
    if s.locked || frozenSetup s then s else s.onFab fun f => { f with node := partWrite f.node 0x3FFF part val }
  | 0x300008 => portEnWrite part val s
  | 0x300010 => e2eWrite part val s
  | 0x300018 => routeCtlWrite part val s
  | 0x300028 => s.onFab fun f => { f with rtIndex := partWrite f.rtIndex 0xBFFF part val }
  | 0x300030 => rtDataWrite part val s
  | _ => match regIndex 0x301000 8 256 offset with
    | some k => winWrite (k / 4) (k % 4) part val s
    | none => match regIndex 0x302000 8 256 offset with
      | some k => s.onFab fun f => { f with src := tput 0 f.src k (partWrite (tget 0 f.src k) 0xBFFFBFFFBFFFBFFF part val) }
      | none => s

/-- Ring set-up. -/
def ringsWrite (offset : Nat) (part : Part) (val : Word) (s : State) : State :=
  match offset with
  | 0x408000 => evtBaseWrite part val s
  | 0x408008 => evtCfgWrite part val s
  | 0x408010 => evtHeadWrite part val s
  | _ => match regIndex 0x400000 8 4096 offset with
    | some k => match k % 4 with
      | 0 => ringBaseWrite (k / 4) false part val s
      | 1 => ringBaseWrite (k / 4) true part val s
      | 2 => ringCfgWrite (k / 4) part val s
      | _ => s
    | none => s

/-- REP_RULE[c] (Table 4 of chapter 15). -/
def ruleWrite (c : Nat) (part : Part) (val : Word) (s : State) : State :=
  let old := ruleOf s c
  let w := written old part val
  let mask := fieldMask 31 1 ||| fieldIf (field w 24 2 != 3) 24 2 ||| fieldIf (field w 8 16 != 0) 8 16 ||| fieldIf (field w 0 8 != 0) 0 8
  if 12 ≤ c then s else s.onRep fun r => { r with rules := tins r.rules c (partWrite old mask part val) }

/-- DODGEM_MODE[k] (Table 11 of chapter 15): a DEPTH of 0 is ignored. -/
def modeWrite (k : Nat) (part : Part) (val : Word) (s : State) : State :=
  let old := dodMode s k
  let ok := field (written old part val) 32 8 != 0
  s.setDodMode k (partWrite old (fieldIf ok 32 8 ||| 0xFFFFFFFF) part val)

/-- Repair and the Dodgem unit. -/
def repairWrite (offset : Nat) (part : Part) (val : Word) (s : State) : State :=
  match offset with
  | 0x500100 =>
    let w := partWo part val
    repCommand (field w 60 4) (field w 48 4) (field w 40 8) (field w 0 16) s
  | 0x500108 => if flag (partWo part val) 1 then s.onRep fun r => { r with err := false } else s
  | 0x501000 => dodgemCtlWrite part val s
  | 0x501040 => s.onDod fun d => { d with seed := written d.seed part val }
  | _ => match regIndex 0x500000 8 16 offset with
    | some c => ruleWrite c part val s
    | none => match regIndex 0x501010 8 5 offset with
      | some k => modeWrite k part val s
      | none => s

/-- SVN of the image that a component runs; 0, which raises no minimum, where it runs none. -/
def runningSvn (s : State) (c : Nat) : Nat := if componentRuns s c then (slotOf s c (one (bit s.boot.slots c))).image.svn else 0

/-- FW_CTL.SVN_COMMIT: every minimum SVN becomes that of the running image where that is higher, and a rise places record
0x84 (R410). -/
def svnCommit (s : State) : State :=
  let up := (List.range 5).filter fun c => decide (tget 0 s.flash.minSvn c < runningSvn s c)
  if s.boot.act.isSome || up.isEmpty then s
  else event 0x84 1 0 s.flash.revoked
    (up.foldl (fun s c => s.onFlash fun f => { f with minSvn := tput 0 f.minSvn c (runningSvn s c) }) s)

/-- Memory and cache. -/
def memWriteReg (offset : Nat) (part : Part) (val : Word) (s : State) : State :=
  match offset with
  | 0x700000 =>
    let w := partWrite s.pool.placement 0x3F part val
    if s.locked || frozenSetup s || decide (48 < field w 0 6) then s else s.onPool fun p => { p with placement := w }
  | 0x700008 =>
    let h := field (written s.pool.scrub part val) 8 8
    s.onPool fun p => { p with scrub := partWrite p.scrub (fieldIf (h != 0 && decide (h ≤ 168)) 8 8 ||| 3) part val }
  | _ => s

/-- A doorbell page (Table 3 of chapter 12). -/
def doorbellWrite (offset : Nat) (part : Part) (val : Word) (s : State) : State :=
  let n := (offset - 0xC00000) / 0x1000
  match offset % 0x1000 with
  | 0 => ringDb n part val s
  | 8 => ringCtl n part val s
  | _ => s

/-- What a write of a register does; a reserved offset ignores it (R12). -/
def mapWrite (src : Port) (offset : Nat) (part : Part) (val : Word) (s : State) : State :=
  match offset / 0x100000 with
  | 0 => hubWrite offset part val s
  | 1 => powerWrite offset part val s
  | 2 => xltWrite offset part val s
  | 3 => fabWrite offset part val s
  | 4 => ringsWrite offset part val s
  | 5 => repairWrite offset part val s
  | 6 => if offset = 0x600008 ∧ flag (partWo part val) 0 then svnCommit s else s
  | 7 => memWriteReg offset part val s
  | _ => if offset = 0x800000 then srWrite src part val s
    else if 0xC00000 ≤ offset ∧ offset < 0x1000000 then doorbellWrite offset part val s else s

/-! ### Accesses to BAR0 -/

/-- A source can reach BAR0: the host while the endpoint's link is up, a core while its die is on (R440). -/
def bar0Reach (s : State) : Port → Bool
  | .host => portLive s && s.link.up
  | .core => dieOn s 5 || dieOn s 6

/-- A read of BAR0: its bytes as a number, or none where it is refused with record 0x20 (R287). -/
def bar0Load (src : Port) (offset size : Nat) (s : State) : Option Nat × State :=
  match partOf offset size with
  | none => (none, event 0x20 1 offset size s)
  | some p =>
    let w := if pageServed s offset then (mapRead s src (offset / 8 * 8)).toNat else 0
    (some (match p with | .whole => w | .low => w % 2 ^ 32 | .high => w / 2 ^ 32), s)

/-- A write to BAR0: whether it is taken, or discarded with record 0x20 (R287). -/
def bar0Store (src : Port) (offset size : Nat) (val : Word) (s : State) : Bool × State :=
  match partOf offset size with
  | none => (false, event 0x20 2 offset size s)
  | some p => (true, if pageServed s offset then mapWrite src (offset / 8 * 8) p val s else s)

/-- The answer of an access goes to the host; a core has its own (R440). -/
def answerTo (src : Port) (a : HostAnswer) (s : State) : State :=
  match src with | .host => giveAnswer a s | .core => s

/-- REGISTER_WRITE. -/
def execRegisterWrite (src : Port) (offset size : Nat) (val : Word) (s : State) : Out :=
  .next (if !bar0Reach s src || decide (0x4000000 ≤ offset) then s
    else
      let (ok, s) := bar0Store src offset size val s
      answerTo src (if ok then .none else .discarded) s)

/-- BAR0_READ. -/
def execBar0Read (src : Port) (offset size : Nat) (s : State) : Out :=
  .next (if !bar0Reach s src || decide (0x4000000 ≤ offset) then s
    else
      let (v, s) := bar0Load src offset size s
      answerTo src (match v with | some w => .data (toBytes size w) false | none => .unsupported) s)

end Sys2Proof.Machine
end

