-- ==== Sys2Proof/Machine/Cores.lean ====
section
/-! DEFINITION. The processor cores (R179, R190, R193, R195-R198, R210-R212, R216, R260, R290, R292, R384, R440). A core
presents physical addresses: its own MMU has translated, and its command brings the registers that rule the access (log entry
79). Its exceptions are told by their RISC-V causes: 1 an instruction access fault; 2 an illegal instruction; 4 and 5 a
misaligned load and a load access fault; 6 and 7 those of a store or an AMO. -/

namespace Sys2Proof.Machine

/-- The private cache of a core: its L2 (log entry 12). -/
def coreCache (core : Nat) : Nat := 544 + core

/-- Die code of a core. -/
def coreDie (core : Nat) : Nat := core / 76 + 5

/-- The core executes instructions: it is in service, and its die is powered. -/
def coreServes (s : State) (core : Nat) : Bool :=
  decide (core < 152) && dieOn s (coreDie core) && unitWorks s 4 (coreDie core) (core % 76)

/-! ### An instruction of a core -/

/-- The time CSR: P0's interval counter, or P1's copy of it (R196). -/
def coreTime (s : State) (core : Nat) : Word := if core < 76 then tget 0 s.dieTicks 5 else s.coh.timeP1

/-- A core executes an instruction: it is not in WFI, and its last exception is over. The registers that rule the instruction
are those its own instructions have left, and an issue turn is counted (R195, R196). -/
def coreRuns (core : Nat) (env : CoreEnv) (s : State) : State :=
  let s := if s.pickle.entries.isEmpty then stir s else s
  let t := coreTime s core
  s.onCore core fun c => { c with
    wfi := false, env := env, exception := none, tval := 0, waitsHost := false, waitsFabric := false, waitsLine := false, waitsFence := false
    cycle := advance c.cycle 1, time := t }

/-- The core waits at its instruction, to run it again. -/
def coreStays (c : Core) : Bool := c.waitsHost || c.waitsFabric || c.waitsLine

/-- An instruction that neither waits nor takes an exception has retired (R196). -/
def coreRetires (core : Nat) (s : State) : State :=
  s.onCore core fun c => if coreStays c || c.exception.isSome then c else { c with instret := advance c.instret 1 }

/-- A store of the core to the fabric region is not acknowledged end to end. -/
def coreStores (s : State) (core : Nat) : Bool := s.fab.tx.any fun t => t.owner == .core core && t.kind != .get

/-- The core's last FENCE is not complete, and orders an instruction of this kind after it (R216). -/
def fenced (s : State) (core : Nat) (after : FenceSets → Bool) : Bool :=
  (s.core core).waitsFence && coreStores s core && after (s.core core).fence

/-- An instruction of a core that executes them: one that a FENCE orders after itself waits until the FENCE is complete. -/
def coreIssue (core : Nat) (env : CoreEnv) (after : FenceSets → Bool) (f : State → State) (s : State) : Out :=
  .next (if !coreServes s core || fenced s core after then s
    else
      let waits := (s.core core).waitsFence && coreStores s core
      let s := coreRetires core (f (coreRuns core env s))
      if waits then s.onCore core fun c => { c with waitsFence := true } else s)

/-- A core takes an exception: its RISC-V cause and its trap value. -/
def coreFault (core cause tval : Nat) (s : State) : State :=
  s.onCore core fun c => { c with exception := some cause, tval := tval }

/-- A core's access to an unbacked address: its exception, and record 0x12 (R179). -/
def coreUnbacked (core cause pa : Nat) (s : State) : State := event 0x12 0 pa 0 (coreFault core cause pa s)

/-- A core consumed poison: an access fault, with the address in the trap value register, and record 0x13 (R193). -/
def corePoison (core cause pa : Nat) (s : State) : State := event 0x13 0 pa 0 (coreFault core cause pa s)

/-- The access of a core has its value. -/
def coreValue (core v : Nat) (s : State) : State := s.onCore core fun c => { c with result := v }

/-- The access of a core waits for an answer from outside. -/
def coreWaits (core : Nat) (fabric : Bool) (s : State) : State :=
  s.onCore core fun c => { c with waitsHost := !fabric, waitsFabric := fabric }

/-- The access of a core waits for the delay after another core's LR (R212). -/
def coreHeld (core : Nat) (s : State) : State := s.onCore core fun c => { c with waitsLine := true }

/-! ### PMP (Table 10 of chapter 07; log entry 79) -/

/-- Bytes that a PMP entry covers, as first and first beyond: TOR from the entry before, or NAPOT; 4 KiB is the grain. -/
def pmpRange (before : Nat) (e : PmpEntry) : Option (Nat × Nat) :=
  match bits e.cfg 3 2 with
  | 1 => some (before / 1024 * 4096, e.addr / 1024 * 4096)
  | 3 =>
    let a := e.addr ||| 0x1FF
    let ones := (firstBelow 54 fun i => !bit a i).getD 54
    some (a / 2 ^ (ones + 1) * 2 ^ (ones + 1) * 4, (a / 2 ^ (ones + 1) + 1) * 2 ^ (ones + 1) * 4)
  | _ => none

/-- The lowest-numbered entry that an access touches, with whether it covers it whole. -/
def pmpMatch (pa n : Nat) : Nat → List PmpEntry → Option (PmpEntry × Bool)
  | _, [] => none
  | before, e :: t =>
    match pmpRange before e with
    | some (lo, hi) =>
      if lo < pa + n ∧ pa < hi then some (e, decide (lo ≤ pa) && decide (pa + n ≤ hi)) else pmpMatch pa n e.addr t
    | none => pmpMatch pa n e.addr t

/-- The PMP permits an access: bit 0 of the configuration reads, 1 writes, 2 fetches; M mode is held to locked entries alone, and
S and U modes need one that permits. -/
def pmpPermits (env : CoreEnv) (right pa n : Nat) : Bool :=
  match pmpMatch pa n 0 env.pmp with
  | some (e, whole) => whole && ((env.mode == .m && !bit e.cfg 7) || bit e.cfg right)
  | none => env.mode == .m

/-- Where an access of n bytes leads: one that leaves its region, or configuration space where there is none, reaches
nothing (R179, R292). -/
def coreRegion (s : State) (pa n : Nat) : Region :=
  let r := regionOf pa
  if regionOf (pa + (n - 1)) != r || (r == .ecam && s.endpoint) then .unbacked else r

/-! ### Private caches (R197, R198) -/

/-- How an access of a core keeps what it reads (R182). -/
def coreKeep (uncached : Bool) : Keep := if uncached then .uncached else .cache

/-- A line comes into the L1 data cache: 64 KiB of 8 ways in 64 sets, its lines among those of the L2 (log entry 15). -/
def l1dFill (core line : Nat) (s : State) : State :=
  s.onCore core fun c =>
    if c.l1d.contains line then c
    else
      let mine := c.l1d.filter fun l => l % 64 == line % 64
      { c with l1d := (if mine.length < 8 then c.l1d else c.l1d.erase (mine.headD 0)) ++ [line] }

/-- A line comes into the L1 instruction cache, with the bytes it has now: 64 KiB of 4 ways in 128 sets, which no snoop reaches. -/
def l1iFill (core line : Nat) (s : State) : State :=
  let (d, p0, p1) := lineValue s line
  s.onCore core fun c =>
    let mine := c.l1i.filter fun l => l.line % 128 == line % 128
    { c with l1i := (if mine.length < 4 then c.l1i else match mine with | l :: _ => c.l1i.erase l | [] => c.l1i) ++ [⟨line, d, p0, p1⟩] }

/-- Fetches bytes of a line through the L1 instruction cache, filled coherently through the L2 (R198). -/
def coreFetch (core pa n : Nat) (s : State) : List (Byte × Bool) × State :=
  let line := pa / 128
  let (_, s) := if (s.core core).l1i.any fun l => l.line == line then ([], s) else
    let (b, s) := poolRead .cache (coreCache core) pa n s
    (b, l1iFill core line s)
  match (s.core core).l1i.find? fun l => l.line == line with
  | some l => ((List.range n).map fun i => (nth 0 l.data (pa % 128 + i), if pa % 128 + i < 64 then l.poison0 else l.poison1), s)
  | none => ([], s)

/-- Fetches bytes line by line. -/
def coreFetches (core : Nat) : List (Nat × Nat) → State → List (Byte × Bool) × State
  | [], s => ([], s)
  | (pa, n) :: ps, s =>
    let (b, s) := coreFetch core pa n s
    let (r, s) := coreFetches core ps s
    (b ++ r, s)

/-! ### Configuration space of the root ports (R291, R292) -/

/-- The root port whose own configuration space an access reaches: bus 0, its device number, function 0 (log entry 85). -/
def ownPort (s : State) (pa : Nat) : Option Nat :=
  let off := pa % 0x10000000
  if regionOf pa == .ecam && !s.endpoint && off / 2 ^ 20 == 0 && off / 2 ^ 12 % 8 == 0 && decide (off / 2 ^ 15 < rootPortCount s) then
    some (off / 2 ^ 15)
  else none

/-- A double word of a root port's Type 1 header and capabilities: its bus range, and its link's status. What else they hold, and
where the status stands, are free values (log entry 87). -/
def rootPortDword (s : State) (p d : Nat) : Nat :=
  let r : RootPort := tget {} s.link.rootPorts p
  if d = 6 then r.primary.toNat + r.secondary.toNat * 2 ^ 8 + r.subordinate.toNat * 2 ^ 16
  else if d = Config.rootLinkDword then (if r.up then (2 ^ r.width.toNat * 16 + r.speed.toNat) * 2 ^ 16 else 0)
  else (Config.configWord (4096 + p * 1024 + d)).toNat

/-- One byte of it. -/
def rootPortByte (s : State) (p a : Nat) : Byte := nth 0 (toBytes 4 (rootPortDword s p (a / 4))) (a % 4)

/-- A byte is written: of the bus range alone. -/
def rootPortPut (p a : Nat) (b : Byte) (s : State) : State :=
  let set (f : RootPort → RootPort) : State := s.onLink fun l => { l with rootPorts := tput {} l.rootPorts p (f (tget {} l.rootPorts p)) }
  match a with
  | 24 => set fun r => { r with primary := b }
  | 25 => set fun r => { r with secondary := b }
  | 26 => set fun r => { r with subordinate := b }
  | _ => s

/-- Bytes are written in order. -/
def rootPortStore (p : Nat) : Nat → List Byte → State → State
  | _, [], s => s
  | a, b :: t, s => rootPortStore p (a + 1) t (rootPortPut p a b s)

/-! ### Loads -/

/-- Reads a piece of the host window or of the fabric region by its physical address. -/
def coreGet (core op pa n : Nat) (s : State) : Got × State :=
  if regionOf pa == .fabric then
    let node := bits pa 41 14
    let off := bits pa 0 41
    takeArrived (.core core) (fabricPa node off) n pa (fun s =>
      if fabAsked s (.core core) node off n then (.wait, s)
      else
        let (r, s) := originate { peer := node, seq := 0, kind := .get, ordered := false, offset := off, length := n,
                                  owner := .core core, va := pa, epoch := s.xlt.epoch, op := op } s
        match r with
        | .sent => (.wait, s)
        | .full => (.wait, s)
        | .noRoute => (.fault 0x51 0 pa, s)
        | .loopback =>
          match performHere node .get off n [] s with
          | (.ok b, s) => (.data b, s)
          | (.error c, s) => (.fault 0x32 c pa, windowFault node off c s)) s
  else
    takeArrived (.core core) (hostPa (hioOf pa)) n pa (fun s =>
      if !s.link.up then (.fault 0x40 0 pa, s) else (.wait, hostAsk (.core core) (hioOf pa) n pa s)) s

/-- Reads pieces in order; all that must be asked for are asked for, and one that waits keeps the answers that have come. -/
def coreGets (core op : Nat) : List (Nat × Nat) → State → Got × State
  | [], s => (.data [], s)
  | (pa, n) :: ps, s =>
    let (g, s1) := coreGet core op pa n s
    let (h, s2) := coreGets core op ps s1
    match g, h with
    | .fault st c a, _ => (.fault st c a, s1)
    | _, .fault st c a => (.fault st c a, s2)
    | .data b, .data r => (.data (b ++ r), s2)
    | _, _ => (.wait, { s2 with link := { s2.link with arrived := s.link.arrived } })

/-- The end of a load or fetch that read bytes. -/
def endLoad (core cause pa : Nat) (b : List (Byte × Bool)) (s : State) : State :=
  if anyPoison b then corePoison core cause pa s else coreValue core (ofBytes (plain b)) s

/-- A load, or an instruction fetch, whose access faults are of a cause. -/
def coreRead (core pa : Nat) (acc : CoreAcc) (s : State) : State :=
  let n := acc.size
  let cause := if acc.fetch then 1 else 5
  if !pmpPermits acc.env (if acc.fetch then 2 else 0) pa n then coreFault core cause pa s
  else match coreRegion s pa n with
  | .unbacked => coreUnbacked core cause pa s
  | .pool =>
    if acc.fetch && !acc.uncached then
      let (b, s) := coreFetches core (linePieces pa n) s
      endLoad core cause pa b s
    else
      let (b, s) := poolRead (coreKeep acc.uncached) (coreCache core) pa n s
      endLoad core cause pa b (if acc.uncached then s else (linePieces pa n).foldl (fun s p => l1dFill core (p.1 / 128) s) s)
  | .bar0 =>
    match bar0Load .core (pa % 0x4000000) n s with
    | (some v, s) => coreValue core v s
    | (none, s) => coreFault core cause pa s
  | r =>
    match ownPort s pa with
    | some p => coreValue core (ofBytes ((span (pa % 4096) n).map (rootPortByte s p))) s
    | none =>
    match coreGets core (readOp (.core core) s) (pieces 128 (n / 128 + 2) pa n) s with
    | (.data b, s) => endLoad core cause pa b s
    | (.fault _ _ _, s) => coreFault core cause pa s
    | (.wait, s1) => coreWaits core (r == .fabric) (countAsked s s1)

/-- The kind of an access, in a FENCE's sets: I and O to the host window and the fabric region, R and W to the pool (R216). -/
def readAfter (pa : Nat) (f : FenceSets) : Bool := match regionOf pa with | .pool => f.succR | _ => f.succI
def writeAfter (pa : Nat) (f : FenceSets) : Bool := match regionOf pa with | .pool => f.succW | _ => f.succO

/-- CORE_LOAD. -/
def execCoreLoad (core pa : Nat) (acc : CoreAcc) (s : State) : Out := coreIssue core acc.env (readAfter pa) (coreRead core pa acc) s

/-! ### Stores -/

/-- Stores a piece to the fabric region: an ordered put (R275). -/
def corePut (core op pa : Nat) (bytes : List Byte) (s : State) : Put × State :=
  let node := bits pa 41 14
  let off := bits pa 0 41
  let (r, s) := originate { peer := node, seq := 0, kind := .put, ordered := true, offset := off, length := bytes.length,
                            data := bytes, owner := .core core, va := pa, epoch := s.xlt.epoch, op := op } s
  match r with
  | .sent => (.done, s)
  | .full => (.wait, s)
  | .noRoute => (.fault 0x51 0, s)
  | .loopback =>
    match performHere node .put off bytes.length (allWith false bytes) s with
    | (.ok _, s) => (.done, s)
    | (.error c, s) => (.fault 0x32 c, windowFault node off c s)

/-- Stores pieces in order, up to the first that waits or faults. -/
def corePuts (core op : Nat) : List (Nat × Nat) → List Byte → State → Put × State
  | [], _, s => (.done, s)
  | (pa, n) :: ps, bytes, s =>
    match corePut core op pa (bytes.take n) s with
    | (.done, s) => corePuts core op ps (bytes.drop n) s
    | r => r

/-- The end of a store. -/
def endStore (core pa : Nat) (fabric : Bool) (r : Put) (s : State) : State :=
  match r with
  | .done => s
  | .fault _ _ => coreFault core 7 pa s
  | .wait => coreWaits core fabric s

/-- A store of bytes, kept as an access keeps them. -/
def coreWrite (k : Keep) (core pa : Nat) (env : CoreEnv) (bytes : List Byte) (s : State) : State :=
  let n := bytes.length
  if !pmpPermits env 1 pa n then coreFault core 7 pa s
  else match coreRegion s pa n with
  | .unbacked => coreUnbacked core 7 pa s
  | .pool =>
    if (linePieces pa n).any fun p => lrHolds s (coreCache core) (p.1 / 128) then coreHeld core s
    else
      let s := poolWrite k (coreCache core) pa bytes false s
      if k == .cache then (linePieces pa n).foldl (fun s p => l1dFill core (p.1 / 128) s) s else s
  | .bar0 => (bar0Store .core (pa % 0x4000000) n (BitVec.ofNat 64 (ofBytes bytes)) s).2
  | .fabric =>
    -- a store that waits has sent nothing of itself
    let ps := packetPieces (bits pa 0 41) n
    if bits pa 41 14 ≠ nodeId s ∧ 1024 < unacked s (bits pa 41 14) + ps.length then endStore core pa true .wait s
    else match corePuts core (s.fab.nextOp + 1) (ps.map fun p => (fabricPa (bits pa 41 14) p.1, p.2)) bytes s with
    | (.wait, _) => endStore core pa true .wait s
    | (r, s) => endStore core pa true r s
  | _ =>
    if let some p := ownPort s pa then rootPortStore p (pa % 4096) bytes s
    else if canSend s then endStore core pa false .done (hotPump (postWrite (.core core) (hioOf pa) bytes false s))
    else endStore core pa false (if s.link.up then .wait else .fault 0x40 0) s

/-- CORE_STORE. -/
def execCoreStore (core pa : Nat) (acc : CoreAcc) (val : Nat) (s : State) : Out :=
  coreIssue core acc.env (writeAfter pa) (coreWrite (coreKeep acc.uncached) core pa acc.env (toBytes acc.size val)) s

/-! ### Atomics (R210, R211) -/

/-- The A extension's kinds at 32 and 64 bits, and Zacas at 32, 64 and 128 (R195, R210). -/
def coreAtomKnown (r : AtomReq) : Bool :=
  match r.kind with
  | .cas => r.size == 4 || r.size == 8 || r.size == 16
  | .fadd => false
  | .fmin => false
  | .fmax => false
  | .exactAdd => false
  | _ => r.size == 4 || r.size == 8

/-- The end of an atomic outside the pool. -/
def endAtom (core pa : Nat) (fabric : Bool) : LaneEnd × State → State
  | (.value v, s) => coreValue core v s
  | (.stop st _ _, s) => if st = 0x50 then corePoison core 7 pa s else coreFault core 7 pa s
  | (.wait, s) => coreWaits core fabric s

/-- An atomic of a core, at the home or, for a page of the NC or IO type, at the memory controller (R209). -/
def coreAtomic (core pa : Nat) (acc : CoreAcc) (req : AtomReq) (s : State) : State :=
  if !coreAtomKnown req then coreFault core 2 0 s
  else if pa % req.size != 0 then coreFault core 6 pa s
  else if !(pmpPermits acc.env 0 pa req.size && pmpPermits acc.env 1 pa req.size) then coreFault core 7 pa s
  else match coreRegion s pa req.size with
    | .unbacked => coreUnbacked core 7 pa s
    | .pool =>
      if lrHolds s (coreCache core) (pa / 128) then coreHeld core s
      else
        let s := homeWait (pa / 128) s
        if rangePoisoned s pa req.size then corePoison core 7 pa s
        else
          let (old, s) := poolAtom (if acc.uncached then .uncached else .once) (coreCache core) pa req s
          coreValue core old s
    | .host =>
      let (r, s1) := hostAtom (.core core) (hioOf pa) pa req s
      endAtom core pa false (r, if r == .wait then countAsked s s1 else s1)
    | .fabric => endAtom core pa true (fabricAtom (.core core) (bits pa 41 14) (bits pa 0 41) pa req s.xlt.epoch s)
    | _ => coreFault core 7 pa s

/-- CORE_AMO. -/
def execCoreAmo (core pa : Nat) (req : CoreAmoReq) (s : State) : Out :=
  coreIssue core req.acc.env (fun f => readAfter pa f || writeAfter pa f) (coreAtomic core pa req.acc req.atom) s

/-! ### LR and SC (R212) -/

/-- The core still holds the granule of its reservation: a Share snoop takes its exclusivity and leaves it there (R212). -/
def coreHolds (s : State) (core line : Nat) : Bool := (s.core core).reservation == some line && (privOf s (coreCache core) line).isSome

/-- LR: the granule is taken into the core's L1, and the answers to snoops that would take it are delayed. A new LR
replaces the reservation before it. Memory of the NC or IO type, which no cache holds (R182), takes no reservation: an access fault
(log entry 101). -/
def coreReserve (core pa : Nat) (acc : CoreAcc) (s : State) : State :=
  let n := acc.size
  if n != 4 && n != 8 then coreFault core 2 0 s
  else if pa % n != 0 then coreFault core 4 pa s
  else if !pmpPermits acc.env 0 pa n || acc.uncached then coreFault core 5 pa s
  else match coreRegion s pa n with
    | .unbacked => coreUnbacked core 5 pa s
    | .pool =>
      let line := pa / 128
      if lrHolds s (coreCache core) line then coreHeld core s
      else
        let s := if (s.core core).lrDelay then endDelay core s else s
        let here := servedHere .cache (coreCache core) line true s
        let s := ownLine (coreCache core) line (if here then s else hotPool pa n s)
        let b := lineBytes s pa n
        if anyPoison b then corePoison core 5 pa (hotAfter pa s)
        else
          let s := (l1dFill core line s).onCore core fun c => { c with reservation := some line, lrDelay := true }
          coreValue core (ofBytes (plain b)) (hotAfter pa s)
    | _ => coreFault core 5 pa s

/-- CORE_LR. -/
def execCoreLr (core pa : Nat) (acc : CoreAcc) (s : State) : Out := coreIssue core acc.env (readAfter pa) (coreReserve core pa acc) s

/-- SC: stores, with result 0, where the granule has not left the core since its LR; else it fails, with result 1. A granule that the
core shares by now is upgraded. Either way the reservation and the delay end. -/
def coreConditional (core pa : Nat) (acc : CoreAcc) (val : Nat) (s : State) : State :=
  let n := acc.size
  if n != 4 && n != 8 then coreFault core 2 0 s
  else if pa % n != 0 then coreFault core 6 pa s
  else if !pmpPermits acc.env 1 pa n || acc.uncached then coreFault core 7 pa s
  else match coreRegion s pa n with
    | .unbacked => coreUnbacked core 7 pa s
    | .pool =>
      let held := coreHolds s core (pa / 128)
      let s := if held then poolWrite .cache (coreCache core) pa (toBytes n val) false s else s
      let s := s.onCore core fun c => { c with reservation := none }
      let s := if (s.core core).lrDelay then endDelay core s else s
      coreValue core (if held then 0 else 1) s
    | _ => coreFault core 7 pa s

/-- CORE_SC. -/
def execCoreSc (core pa : Nat) (acc : CoreAcc) (val : Nat) (s : State) : Out :=
  coreIssue core acc.env (writeAfter pa) (coreConditional core pa acc val) s

/-! ### Maintenance (R190; log entry 79) -/

/-- A field of envcfg as the privilege mode sees it: menvcfg below M mode, and senvcfg as well in U mode. -/
def envcfgAll (env : CoreEnv) (f : Nat → Bool) : Bool :=
  match env.mode with
  | .m => true
  | .s => f env.menvcfg
  | .u => f env.menvcfg && f env.senvcfg

/-- CBO.INVAL: no instruction where a CBIE is 00, and a flush where one is 01. -/
def cbieOff (env : CoreEnv) : Bool := !envcfgAll env fun w => bits w 4 2 != 0
def cbieFlush (env : CoreEnv) : Bool := !envcfgAll env fun w => bits w 4 2 != 1

/-- A core's maintenance of one 128-byte block: a range of one line; a block outside the pool is skipped. -/
def coreMaint (m : Maint) (core addr : Nat) (env : CoreEnv) (s : State) : State :=
  let block := addr / 128 * 128
  if !(pmpPermits env 0 block 128 || pmpPermits env 1 block 128) then coreFault core 7 addr s
  else match regionOf addr with
  | .pool => if m != .clean && lrHolds s (coreCache core) (addr / 128) then coreHeld core s else lineMaint m (addr / 128) s
  | .unbacked => coreUnbacked core 7 addr s
  | _ => s

/-- An instruction of Zicbom or Zicboz that envcfg may disallow. -/
def cboIssue (core : Nat) (req : CboReq) (ok : Bool) (f : State → State) (s : State) : Out :=
  coreIssue core req.env (writeAfter req.addr) (fun s => if ok then f s else coreFault core 2 0 s) s

/-- CBO_CLEAN, where CBCFE permits it. -/
def execCboClean (core : Nat) (req : CboReq) (s : State) : Out :=
  cboIssue core req (envcfgAll req.env (bit · 6)) (coreMaint .clean core req.addr req.env) s
/-- CBO_FLUSH, where CBCFE permits it. -/
def execCboFlush (core : Nat) (req : CboReq) (s : State) : Out :=
  cboIssue core req (envcfgAll req.env (bit · 6)) (coreMaint .both core req.addr req.env) s
/-- CBO_INVAL: invalidate, or clean and invalidate as CBIE selects. -/
def execCboInval (core addr : Nat) (env : CoreEnv) (s : State) : Out :=
  cboIssue core ⟨addr, env, false⟩ (!cbieOff env) (coreMaint (if cbieFlush env then .both else .invalidate) core addr env) s
/-- CBO_ZERO, where CBZE permits it: zeros to the whole 128-byte block as a WrLine; its poison is cleared (R190, R193, R201). A block of the NC or IO type is written at its memory (R182). -/
def execCboZero (core : Nat) (req : CboReq) (s : State) : Out :=
  cboIssue core req (envcfgAll req.env (bit · 7)) (coreWrite (if req.uncached then .uncached else .once) core (req.addr / 128 * 128) req.env (List.replicate 128 0)) s

/-! ### FENCE and WFI -/

/-- A FENCE: with O among its predecessors it completes once the core's fabric stores are acknowledged, and what its successor
sets name waits for it (R216). Every access to the pool is performed when its command has run, so the other sets order nothing
more. FENCE.I empties the L1 instruction cache (R198). -/
def coreFence (core : Nat) (sets : FenceSets) (s : State) : State :=
  if sets.fencei then s.onCore core fun c => { c with l1i := [] }
  else if sets.predO && coreStores s core then s.onCore core fun c => { c with waitsFence := true, fence := sets }
  else s

/-- CORE_FENCE. A FENCE after one that waits joins it. -/
def execCoreFence (core : Nat) (sets : FenceSets) (s : State) : Out :=
  coreIssue core (s.core core).env (fun _ => !sets.fencei) (coreFence core sets) s

/-- CORE_WFI (R384): an instruction like others (R196), after which the core is not busy until its next one. A core in WFI stays
there. -/
def execCoreWfi (core : Nat) (s : State) : Out :=
  if (s.core core).wfi then .next s
  else coreIssue core (s.core core).env (fun _ => false)
    (fun s => s.onCore core fun c => { c with wfi := true, wfiSince := s.hTicks.toNat }) s

end Sys2Proof.Machine
end

