-- ==== Sys2Proof/Machine/DieLinks.lean ====
section
/-! DEFINITION. The die-to-die links (chapter 13): flits and their CRC, retries, errors of wires, remaps, lane retirement and
discovery. H's side of each lane is modelled: what it receives from the die, and the idle flits with which it answers. -/

namespace Sys2Proof.Machine

/-! ### Lanes -/

/-- A port is up, and a lane of a direction (1 to the die) is in service. -/
def dlUp (x : DlPort) : Bool := x.state == 3 || x.state == 4
def laneUp (p : Nat) (x : DlPort) (l dir : Nat) : Bool := dlUp x && decide (l < dlLanes p) && !x.retired.contains (l * 2 + dir)

/-! ### Errors of wires (R347) -/

/-- Ones of a byte. -/
def ones (b : Byte) : Nat := ((List.range 8).filter (b.getLsbD ·)).length

/-- Bits that differ in the bytes of two lists: byte index and number. -/
def byteDiffs : Nat → List Byte → List Byte → List (Nat × Nat)
  | i, a :: as, b :: bs => (if a = b then [] else [(i, ones (a ^^^ b))]) ++ byteDiffs (i + 1) as bs
  | _, _, _ => []

/-- Wires charged by a failed flit and its good copy, as group × 48 + wire with their errors. A wire carries one byte of the
flit, data bytes on the data wires in order, sideband bytes on the lane's half of the sideband group (log entry 43). -/
def charges (p lane : Nat) (bad good : Flit) : List (Nat × Nat) :=
  let data := (byteDiffs 0 bad.data good.data).map fun d => ((lane * 4 + d.1 / 32) * 48 + d.1 % 32, d.2)
  let side := (byteDiffs 0 (toBytes 16 bad.side.toNat) (toBytes 16 good.side.toNat)).map fun d =>
    ((dataGroups p + lane / 2) * 48 + lane % 2 * 16 + d.1, d.2)
  data ++ side

/-- Unit number of a group in the repair map (log entry 20). -/
def groupUnit (p g dir : Nat) : Nat := g + groupsOf p * dir

/-- A failure counts against a group of the direction from the die: the rule of class 1 may fire, with record 0x70 (R391). It fires
whatever the window holds where the flit has failed 8 times in a row (R347). -/
def groupFails (p lane g : Nat) (s : State) : State :=
  let unit := groupUnit p g 0
  let ((due, n), s) := countItem 1 unit (p + 1) s
  if due || decide (8 ≤ (laneOf (s.dlPort p) lane).fails) then
    let s := ruleRecord 1 unit n (p + 1) unit (countDrop 1 unit (p + 1) s)
    if flag (ruleOf s 1) 31 then markDue p unit s else s
  else s

/-- The good copy of a failed flit has come: its wires are charged, and each of their groups counts a failure. -/
def chargeFlit (p lane : Nat) (bad good : Flit) (s : State) : State :=
  let c := charges p lane bad good
  let groups := (c.map fun e => e.1 / 48).foldl withElem []
  groups.foldl (fun s g =>
    groupFails p lane g (chargeWires p g 0 ((c.filter fun e => e.1 / 48 == g).map fun e => (e.1 % 48, e.2)) s)) s

/-! ### Receiving (R346) -/

/-- Flits of a retry buffer after a sequence number. -/
def afterSeq (seq : Nat) (l : List Flit) : List Flit :=
  match l.findIdx? fun f => flitSeq f == seq % 256 with
  | some i => l.drop (i + 1)
  | none => l

/-- A NAK: the die found the flit after a sequence number bad, and H sends it and what follows again. -/
def nakSeen (p lane seq : Nat) (s : State) : State :=
  s.onDl p fun x =>
    let again := afterSeq seq (laneOf x lane).retry
    onLane lane (fun l => { l with resend := again })
      { x with crcFails := advance x.crcFails 1, retries := advance x.retries again.length }

/-- A flit that fails its CRC: NAK with the last good sequence, and a copy is kept. -/
def flitFails (p lane : Nat) (f : Flit) (s : State) : State :=
  s.onDl p fun x =>
    let l := laneOf x lane
    let again := !l.nak || flitSeq f == (l.lastGood + 1) % 256
    onLane lane (fun l => sendIdle l.lastGood true { l with
      nak := true, kept := if again then some f else l.kept, fails := if again then l.fails + 1 else l.fails })
      { x with crcFails := advance x.crcFails 1 }

/-- Messages that a flit carries of its class: an idle flit or one of link control none (R345). -/
def flitCarries (f : Flit) : Bool := decide (1 ≤ sideField f 72 4) && decide (sideField f 72 4 ≤ 3) && decide (1 ≤ flitClass f) && decide (flitClass f ≤ 6)

/-- CREDIT of a flit: H may send as many more messages of its class (R345). -/
def flitCredits (f : Flit) (x : DlPort) : DlPort :=
  let cls := sideField f 69 3
  if sideField f 64 5 = 0 then x else { x with credits := tput 0 x.credits cls (tget 0 x.credits cls + sideField f 64 5) }

/-- A good flit in its turn is taken, its credits too, and one that carries messages enters the switch for the home side, data flits
and headers apart (R343, R345, R351); while a NAK stands every later one is discarded. -/
def flitTaken (p lane : Nat) (f : Flit) (s : State) : State :=
  let l := laneOf (s.dlPort p) lane
  if flitSeq f ≠ (l.lastGood + 1) % 256 then s
  else
    let s := match l.kept with
      | some bad => if l.nak then chargeFlit p lane bad f s else s
      | none => s
    let s := s.onDl p fun x => onLane lane (fun l => sendIdle (flitSeq f) false { l with
        lastGood := flitSeq f, nak := false, kept := none, fails := 0 })
      (flitCredits f { x with flitsRx := if sideField f 72 4 = 0 then x.flitsRx else advance x.flitsRx 1 })
    let s := if flitCarries f then switchIn p 8 (flitClass f) lane (decide (2 ≤ sideField f 72 4)) s else s
    if sideField f 79 1 = 1 then nakSeen p lane (sideField f 80 8) s else s

/-- FLIT_RECEIVE: a flit from a die. -/
def execFlitReceive (port lane : Nat) (flit : Flit) (s : State) : Out :=
  .next (if !laneUp port (s.dlPort port) lane 0 then s
    else if flitGood flit then flitTaken port lane flit s else flitFails port lane flit s)

/-- NAK_RECEIVE. -/
def execNakReceive (port lane seq : Nat) (s : State) : Out :=
  .next (if laneUp port (s.dlPort port) lane 1 then nakSeen port lane seq s else s)

/-- WIRE_RECENTRE (R342): the wire's data travel on the spare, or its lane pauses for at most 200 ns while the other lanes
carry the traffic: nothing that the module shows changes. -/
def execWireRecentre (_port _group _wire : Nat) (s : State) : Out := .next s

/-! ### Repair (R348-R350) -/

/-- A lane is retired: the retry buffers drain, and the port goes on with what is left; with none it is cut off. -/
def retireLane (p lane dir : Nat) (s : State) : State :=
  if !laneUp p (s.dlPort p) lane dir then s
  else
    let s := s.onDl p fun x =>
      let up := if dir = 0 then x.lanesUp - 1 else x.lanesUp
      let dn := if dir = 1 then x.lanesDn - 1 else x.lanesDn
      { x with
        retired := setAdd x.retired (lane * 2 + dir), due := x.due.filter fun k => !((laneGroups p lane).map (· * 2 + dir)).contains k, lanesUp := up, lanesDn := dn, laneRet := advance x.laneRet 1
        state := if up = 0 ∨ dn = 0 then 5 else 4
        lanes := if dir = 1 then x.lanes.map fun (l : Nat × Lane) => (l.1, { l.2 with retry := [], resend := [] }) else x.lanes }
    let s := (span (lane * 4) 4).foldl (fun s g => setRep 9 (p + 1) (groupUnit p g dir) { state := 4, cause := 1, cls := 1 } s) s
    let left := if dir = 0 then (s.dlPort p).lanesUp else (s.dlPort p).lanesDn
    let s := eventRep 0x75 1 0 left 9 (p + 1) (groupUnit p (lane * 4) dir) 0 s
    if left = 0 then structureError 0 s else s

/-- The spare of a group is in use: its wire, or its port's strobe of the direction (R348). -/
def spareUsed (p g dir : Nat) (s : State) : Bool :=
  (tfind (s.dlPort p).spares (g * 2 + dir)).isSome || (if dir = 0 then (s.dlPort p).strobeUp else (s.dlPort p).strobeDn)

/-- A group has a lasting fault that waits for its repair. -/
def isDue (p g dir : Nat) (s : State) : Bool := (s.dlPort p).due.contains (g * 2 + dir)

/-- LANE_RETIRE (R349): a group of the lane has a lasting fault, and its spare is in use. -/
def execLaneRetire (port lane : Nat) (toDie : Bool) (s : State) : Out :=
  let dir := one toDie
  .next (if (laneGroups port lane).any fun g => isDue port g dir s && spareUsed port g dir s then retireLane port lane dir s else s)

/-- Errors of the window on the wires of a group, by wire. -/
def groupErrors (p g dir : Nat) (s : State) : List Nat :=
  let l := (s.dlPort p).errors.filter fun e => e.1 / 48 == g * 2 + dir && inWindow s 1 e.2.2
  (List.range 32).map fun w => (l.filter fun e => e.1 % 48 == w).foldl (fun a e => a + e.2.1) 0

/-- The wire to repair: the one with the most errors, the lowest of equals; none where every wire has errors, which is a
fault of the strobe (R347). -/
def faultyWire (e : List Nat) : Option Nat :=
  if e.all fun n => decide (0 < n) then none
  else some ((List.range 32).foldl (fun b w => if nth 0 e b < nth 0 e w then w else b) 0)

/-- No spare is left for a group: its lanes are retired, and record 0x79 names the row of Table 1 of chapter 15. -/
def retireGroup (p g dir : Nat) (s : State) : State :=
  (groupLanes p g).foldl (fun s l => retireLane p l dir s) (eventRep 0x79 7 0 0 9 (p + 1) (groupUnit p g dir) 0 s)

/-- The errors of a group in a direction are over. -/
def mended (p g dir : Nat) (s : State) : State :=
  (s.onDl p fun x => { x with
    due := without x.due (g * 2 + dir), errors := x.errors.filter fun e => e.1 / 48 != g * 2 + dir })
    |> countDrop 1 (groupUnit p g dir) (p + 1)

/-- A wire is remapped to its group's spare. -/
def remapWire (p g dir w : Nat) (s : State) : State :=
  let key := g * 2 + dir
  if (tfind (s.dlPort p).spares key).isSome then retireGroup p g dir s
  else
    let s := mended p g dir (s.onDl p fun x => { x with spares := tins x.spares key w, remaps := advance x.remaps 1 })
    let s := setRep 9 (p + 1) (groupUnit p g dir) { state := 0, cause := 1, cls := 1 } s
    eventRep 0x74 4 w 0 9 (p + 1) (groupUnit p g dir) 0 s

/-- A strobe is repaired with the port's spare strobe of its direction. -/
def remapStrobe (p g dir : Nat) (s : State) : State :=
  let x := s.dlPort p
  if (if dir = 0 then x.strobeUp else x.strobeDn) then retireGroup p g dir s
  else
    let s := mended p g dir (s.onDl p fun x => { x with
      strobeUp := x.strobeUp || dir == 0, strobeDn := x.strobeDn || dir == 1, remaps := advance x.remaps 1 })
    let s := setRep 9 (p + 1) (groupUnit p g dir) { state := 0, cause := 1, cls := 1 } s
    eventRep 0x74 5 32 0 9 (p + 1) (groupUnit p g dir) 0 s

/-- WIRE_REMAP (R348): a group with a lasting fault is repaired, its wire with the most errors or its strobe. -/
def execWireRemap (port group : Nat) (toDie : Bool) (s : State) : Out :=
  let dir := one toDie
  .next (if !dlUp (s.dlPort port) || !isDue port group dir s then s
    else match faultyWire (groupErrors port group dir s) with
      | some w => remapWire port group dir w s
      | none => remapStrobe port group dir s)

/-! ### Discovery (R355) -/

/-- The boot stands at step 5, or at step 6 once every port has trained (Table 4 of chapter 16). -/
def stageLinks (s : State) : State :=
  if s.boot.ready || s.boot.fail != 0 then s
  else s.onBoot fun b => { b with stage := max b.stage (if (List.range 8).all fun p => decide (3 ≤ (s.dlPort p).state) then 6 else 5) }

/-- DISCOVERY_FRAME: a frame with a valid CRC is checked against the port, which H answers and trains with its remaps, or which
fails. -/
def execDiscoveryFrame (port : Nat) (frame : Identity) (s : State) : Out :=
  .next (if !s.boot.island || s.boot.lidFault || s.pwr.rung == 5 || s.boot.fail != 0 || decide (3 ≤ (s.dlPort port).state) then s
    else stageLinks (
      if !frame.crcOk then s.onDl port fun x => { x with state := 1 }
      else if frame.kind = dlKind port ∧ frame.groups = dataGroups port then dlTrain port (dlAnswer port s)
      else s.onDl port fun x => { x with kind := frame.kind % 8, state := 5 }))

end Sys2Proof.Machine
end

