-- ==== Sys2Proof/Machine/Rungs.lean ====
section
/-! DEFINITION. The rung ladder (R383-R386) and the thermal shutdown (R372). -/

namespace Sys2Proof.Machine

/-- DEEPEST_AUTO (Table 14 of chapter 14). -/
def deepestAuto (s : State) : Nat := field s.pwr.rungCtl 32 4

/-- RUNG1_ENTER: an idle module is in rung 1 at once. -/
def execRung1Enter (s : State) : Out := .next (if s.pwr.rung == 0 && moduleIdle s && !s.pickle.freezing then enterRung1 s else s)

/-- An idle module may descend on its own: the carry-over record is not frozen (R384). -/
def mayDescend (from_ deepest : Nat) (s : State) : Bool :=
  s.pwr.rung == from_ && decide (deepest ≤ deepestAuto s) && moduleIdle s && s.pickle.entries.isEmpty && !s.pickle.freezing

/-- RUNG2_ENTER: IDLE2_US has passed in rung 1. -/
def execRung2Enter (s : State) : Out := .next (if mayDescend 1 2 s then enterRung2 s else s)

/-- RUNG3_ENTER: IDLE3_MS has passed in rung 2, and the link lets the module go on (a root port's links are then all in L1 or
down). -/
def execRung3Enter (s : State) : Out :=
  .next (if mayDescend 2 3 s && (linkQuiet s || !s.endpoint) then enterRung3 s else s)

/-- RUNG_WAKE. -/
def execRungWake (wake : Wake) (s : State) : Out := .next (if s.boot.island && !s.boot.lidFault then wakeUp wake s else s)

/-- ENTER_RUNG4 and ENTER_RUNG5: PWR_RUNG_CTL.ENTER. -/
def execEnterRung4 (s : State) : Out := .next (whenReady (enterRequest 4) s)
def execEnterRung5 (s : State) : Out := .next (whenReady (enterRequest 5) s)

/-- MEM_INIT_DONE. -/
def execMemInitDone (s : State) : Out := .next (s.onPwr fun p => { p with memInit := false })

/-- THERMAL_SHUTDOWN: 110 degC on a die, or 100 ms at 105 degC or more after its trip: rung 5 at once, with no records.
Record 0x67 is owed after the next device-ready, and THERMTRIP# is low until rung 5 is left. -/
def execThermalShutdown (die : Nat) (junction : Int) (s : State) : Out :=
  .next (if !s.boot.island || s.boot.lidFault || s.pwr.rung == 5 then s
    else if 1100 ≤ junction ∨ (1050 ≤ junction ∧ (thermOf s die).tripped = true) then
      ((enterRung5 s).onPwr fun p => { p with shutdown := some (die, junction) }).onPins fun p => { p with thermtrip := true }
    else s)

end Sys2Proof.Machine
end

