-- ==== Sys2Proof/Machine/Management.lean ====
section
/-! DEFINITION. The Nelgen control complex (chapter 16): controllers (R415), firmware (R408-R411, R420-R422), the SPDM
responder (R416-R418) and the management bus (R419). -/

namespace Sys2Proof.Machine

/-- The answer of the management bus or of the responder. -/
def reply (a : MgmtAnswer) (s : State) : State := s.onMgmt fun m => { m with answer := a }

/-! ### Controllers (R415) -/

/-- Firmware component of a controller: 0 the Ringmaster, 1 to 8 the die controllers by die code (Table 2). -/
def controllerComponent (k : Nat) : Nat := if k = 0 then 0 else if k < 5 then 1 else if k < 7 then 2 else 3

/-- The controller is handing over: it is not restarted (R421). -/
def handsOver (s : State) (k : Nat) : Bool :=
  match s.boot.act with
  | some a => if k = 0 then a.at_ == 8 else a.at_ + 1 == k
  | none => false

/-- CONTROLLER_WATCHDOG. -/
def execControllerWatchdog (controller : Nat) (s : State) : Out :=
  .next (if !hubServed s || s.boot.fail != 0 || decide (8 < controller) || !dieOn s controller || s.boot.restarting.contains controller || handsOver s controller then s
    else event 0x85 (if controller = 0 then 2 else 1) 0 (controllerComponent controller)
      (s.onBoot fun b => { b with restarting := b.restarting ++ [controller] }))

/-- CONTROLLER_RESTART_DONE: what waited for a die's controller is counted. The Ringmaster restarts from component 0's active slot,
which the Ticket Booth verifies again, or as R411 has it from the other. -/
def execControllerRestartDone (controller : Nat) (s : State) : Out :=
  .next (if s.boot.restarting.contains controller then
      let s := s.onBoot fun b => { b with restarting := without b.restarting controller }
      if controller = 0 then verifyComponent 0 s 0 else powerSettle (releaseErrors controller s)
    else s)

/-! ### Firmware (R410, R420, R421) -/

/-- SVN_COMMIT. -/
def execSvnCommit (s : State) : Out := .next (if hubServed s then svnCommit s else s)

/-- IMAGE_TRANSFER_DONE: the image is verified into the slot that its component does not run from. -/
def execImageTransferDone (image : Image) (s : State) : Out :=
  .next (
    let c := image.component
    if !s.boot.island then s
    else if s.boot.act.isSome then reply .pldmError s
    else if 4 < c then reply .pldmError (event 0x82 2 c image.version s)
    else
      let b := inactiveSlot s c
      let bad := (imageFault s c image).isSome
      let s := s.onFlash fun f => { f with slots := tins f.slots (c * 2 + b) { image := image, shipped := false, invalid := bad } }
      let s := s.onMgmt fun m => { m with
        staged := if bad then (if bit m.staged c then m.staged - 2 ^ c else m.staged) else m.staged ||| 2 ^ c, update := 1 }
      reply (if bad then .pldmError else .ok) (event 0x82 (if bad then 2 else 1) c image.version s))

/-- The controller at a place of the hand-over order takes part: its image or its agents' microcode is staged. -/
def takesPart (staged k : Nat) : Bool :=
  if k < 4 then bit staged 1 || bit staged 4
  else if k < 6 then bit staged 2 || bit staged 4
  else if k < 8 then bit staged 3 || bit staged 4
  else bit staged 0

/-- The first controller from a place on that takes part. -/
def nextController (staged from_ : Nat) : Option Nat := (List.range 9).find? fun k => decide (from_ ≤ k) && takesPart staged k

/-- REVOKE bits of the images that become active. -/
def revokedBy (s : State) (staged : Nat) : Nat :=
  (List.range 5).foldl (fun m c => if bit staged c then m ||| bits (slotOf s c (inactiveSlot s c)).image.revoke 0 4 else m) 0

/-- The boot record names the staged slots, and the keys that their images revoke are revoked (R410, R421). -/
def recordSlots (staged : Nat) (s : State) : State :=
  let mask := s.flash.revoked ||| revokedBy s staged
  let named := (List.range 5).foldl (fun m c =>
    if bit staged c then (if inactiveSlot s c = 0 then (if bit m c then m - 2 ^ c else m) else m ||| 2 ^ c) else m) s.flash.active
  let more := mask != s.flash.revoked
  let s := s.onFlash fun f => { f with active := named, lastActivated := staged, badBoots := 0, revoked := mask }
  if more then event 0x84 2 0 mask s else s

/-- The activation completes: SLOTS is inverted for the staged components. -/
def activationDone (staged : Nat) (s : State) : State :=
  let s := recordSlots staged s
  let s := s.onBoot fun b => { b with act := none, slots := b.slots ^^^ staged }
  event 0x83 2 0 staged (s.onMgmt fun m => { m with update := 1, staged := 0 })

/-- The hand-over reaches a controller, or the activation completes. -/
def handOver (staged from_ : Nat) (s : State) : State :=
  match nextController staged from_ with
  | some k => s.onBoot fun b => { b with act := some { staged := staged, at_ := k } }
  | none => activationDone staged s

/-- A module whose boot has stopped activates by booting again from step 2 (R421). -/
def activateStopped (staged : Nat) (s : State) : State :=
  let s := event 0x83 2 0 staged ((recordSlots staged (event 0x83 1 0 staged s)).onMgmt fun m => { m with update := 1, staged := 0 })
  if s.boot.lidFault then s
  else bootFrom s.boot.kind { s with dl := s.dl.map fun (p : Nat × DlPort) => (p.1, { p.2 with state := 0, kind := 0, lanes := [], due := [], errors := [], credits := [], designator := none, entries := [] }) }

/-- ACTIVATE_FIRMWARE. -/
def execActivateFirmware (s : State) : Out :=
  .next (
    let staged := s.mgmt.staged
    if !s.boot.island then s
    else if staged = 0 ∨ s.boot.act.isSome then reply .pldmError s
    else if s.boot.lidFault || s.boot.fail != 0 then reply .ok (activateStopped staged s)
    else
      let s := wakeUp .managementBus s
      reply .ok (handOver staged 0 (event 0x83 1 0 staged (s.onMgmt fun m => { m with update := 3 }))))

/-- FIRMWARE_HANDOVER_DONE: the faults that waited for the die's controller are counted, and the next controller follows. -/
def execFirmwareHandoverDone (s : State) : Out :=
  .next (match s.boot.act with
    | none => s
    | some a =>
      let s := handOver a.staged (a.at_ + 1) s
      if a.at_ < 8 then powerSettle (releaseErrors (a.at_ + 1) s) else s)

/-! ### SPDM (R416-R418)

The answers hold what the manual says of them: response codes and field encodings are those of DSP0274 (PRESUMED, log
entry 41). -/

def spdmReply (code : Nat) (b : List Byte) (s : State) : State := reply (.spdm code b) s
def spdmFail (code : Nat) (s : State) : State := reply (.spdmError code) s

/-- Bytes that the manual leaves open, fresh (log entry 1). -/
def freeBytes (n : Nat) (s : State) : List Byte × State :=
  ((List.range n).map fun i => (Config.freeValue (s.free + i)).setWidth 8, { s with free := s.free + n })

/-- A request that needs an earlier part of the negotiation: UnexpectedRequest without it. -/
def spdmAfter (level : Nat) (f : State → State) (s : State) : State :=
  if !s.boot.island then s else if s.mgmt.spdm < level then spdmFail 0x04 s else f s

/-- GET_VERSION: 1.2 only; the connection begins anew. -/
def execGetVersion (s : State) : Out := .next (spdmAfter 0 (fun s => spdmReply 0x04 [0x12] (s.onMgmt fun m => { m with spdm := 1 })) s)

/-- GET_CAPABILITIES: CTExponent 17; CERT_CAP, CHAL_CAP, MEAS_CAP signed, MEAS_FRESH_CAP. -/
def execGetCapabilities (s : State) : Out :=
  .next (spdmAfter 1 (fun s => spdmReply 0x61 [17, 0x36] (s.onMgmt fun m => { m with spdm := max 2 m.spdm })) s)

/-- NEGOTIATE_ALGORITHMS: measurement specification DMTF, MeasurementHashAlgo TPM_ALG_SHA_256, and TPM_ALG_RSAPSS_3072 and
TPM_ALG_SHA_256 of what is offered, else none. -/
def execNegotiateAlgorithms (asym hash : Nat) (s : State) : Out :=
  .next (spdmAfter 2 (fun s =>
    let a := bit asym 3
    let h := bit hash 0
    spdmReply 0x63 [1, 2, BitVec.ofNat 8 (8 * one a), BitVec.ofNat 8 (one h)] (s.onMgmt fun m => { m with spdm := if a && h then 3 else 2 })) s)

/-- A digit of the serialNumber, in ASCII. -/
def hexDigit (d : Nat) : Byte := BitVec.ofNat 8 (if d < 10 then 48 + d else if Config.serialLower then 87 + d else 55 + d)

/-- The Device Serial Number as 16 hexadecimal digits (R416). -/
def serialDigits (w : Word) : List Byte := ((List.range 16).reverse.map fun i => hexDigit (bits w.toNat (4 * i) 4))

/-- A piece of the certificate chain that the manual does not give. -/
def certPiece (k : Nat) : List Byte := (List.range (Config.certLength k).toNat).map (Config.certByte k)

/-- The certificates of slot 0 in their order: the root, the product intermediate, and the identity certificate, whose subject's
serialNumber is the Device Serial Number (R416). -/
def certificates (s : State) : List (List Byte) :=
  [certPiece 0, certPiece 1, certPiece 2 ++ serialDigits s.link.serial ++ certPiece 3]

def certChain (s : State) : List Byte := (certificates s).flatten

/-- GET_DIGESTS: the digest of the chain of certificate slot 0. -/
def execGetDigests (s : State) : Out := .next (spdmAfter 3 (fun s => spdmReply 0x01 (1 :: sha256 (certChain s)) s) s)

/-- GET_CERTIFICATE: a portion of the chain of slot 0. -/
def execGetCertificate (slot offset length : Nat) (s : State) : Out :=
  .next (spdmAfter 3 (fun s =>
    let chain := certChain s
    if slot ≠ 0 ∨ chain.length ≤ offset then spdmFail 0x01 s
    else spdmReply 0x02 ((chain.drop offset).take length) s) s)

/-- CHALLENGE: signed with the identity key of slot 0 over the requester's nonce. -/
def execChallenge (slot _nonce : Nat) (s : State) : Out :=
  .next (spdmAfter 3 (fun s =>
    if slot ≠ 0 then spdmFail 0x01 s
    else let (b, s) := freeBytes (32 + 32 + 384) s; spdmReply 0x03 b s) s)

/-- The security configuration (Table 9 of chapter 16). -/
def securityConfig (s : State) : List Byte :=
  let switches := one (flag s.dod.ctl 63) + 2 * one (flag s.pickle.ctl 0) + 4 * one (flag s.link.resetCtl 0) + 8 * one s.setup.committed
  [s.link.role.setWidth 8, BitVec.ofNat 8 s.pwr.profile, BitVec.ofNat 8 s.boot.slots, 0, BitVec.ofNat 8 switches,
   BitVec.ofNat 8 s.flash.revoked, 0, 0] ++ (List.range 5).flatMap fun c => toBytes 4 (tget 0 s.flash.minSvn c)

/-- Digest of the image that a component runs: SHA-256 of its header and body; of a shipped image a free value of the implementation,
and none where the component does not run (R418; log entry 102). -/
def imageDigest (s : State) (c : Nat) : List Byte :=
  let x := slotOf s c (one (bit s.boot.slots c))
  if !componentRuns s c then [] else if x.shipped then (List.range 32).map (Config.shippedDigest c) else sha256 (x.image.header ++ x.image.body)

/-- Value type of a measurement block (Table 8): 0 an immutable ROM's digest, 1 a mutable firmware's, 3 a security configuration, with
0x80 for a raw bit stream (DSP0274: PRESUMED, log entry 41). -/
def measurementType (k : Nat) : Byte := if k = 1 then 0 else if k < 7 then 1 else 0x83

/-- A measurement block (Table 8 of chapter 16): its index, its value type, and its value at this moment. -/
def measurement (k : Nat) (s : State) : List Byte :=
  BitVec.ofNat 8 k :: measurementType k ::
    (if k = 1 then (List.range 32).map (Config.trustByte 3) else if k < 7 then imageDigest s (k - 2) else securityConfig s)

/-- GET_MEASUREMENTS: the number of blocks, one of them, or all; signed where asked. -/
def execGetMeasurements (index : Nat) (sign : Bool) (s : State) : Out :=
  .next (spdmAfter 3 (fun s =>
    if 7 < index ∧ index ≠ 0xFF then spdmFail 0x01 s
    else
      let l := if index = 0 then [] else if index = 0xFF then span 1 7 else [index]
      let b := (7 : Byte) :: l.flatMap fun k => measurement k s
      let (sig, s) := if sign then freeBytes 384 s else ([], s)
      spdmReply 0x60 (b ++ sig) s) s)

/-- SPDM_UNSUPPORTED_REQUEST: UnsupportedRequest. -/
def execSpdmUnsupportedRequest (_code : BitVec 8) (s : State) : Out := .next (spdmAfter 0 (spdmFail 0x07) s)

/-! ### Sensors and effecters (R419, Table 10 of chapter 16) -/

/-- The value of a sensor. Sensor 32 answers FAIL × 256 + STAGE (log entry 42). The power table's values that Table 10 of chapter
16 gives no number have numbers of the model's: 256 + g the power of consumer group g in mW, 288 + d the rail of domain d in mV
(R32, R365; log entry 89). -/
def sensorValue (s : State) (id : Nat) : Option Int :=
  if id = 1 then some (field s.pwr.forecast 0 16)
  else if 2 ≤ id ∧ id ≤ 4 then some (field s.pwr.forecast (16 * (id - 1)) 16)
  else if id = 5 then some (s.pwr.balanceUj / 1000000)
  else if 6 ≤ id ∧ id ≤ 14 then some (thermOf s (id - 6)).junction
  else if 256 ≤ id ∧ id < 263 then some (powerEntry s (id - 256))
  else if 288 ≤ id ∧ id < 331 then some (powerEntry s (id - 288 + 16) % 65536)
  else match id with
    | 15 => some s.pwr.rung
    | 32 => some (s.boot.fail * 256 + s.boot.stage)
    | 33 => some (if s.boot.lidFault then 2 else if s.pins.lid ≠ s.pins.lidAtReset then 3 else 1)
    | 34 => some (moduleReasons s)
    | 35 => some s.mgmt.update
    | _ => none

/-- A command of the bus is answered while the island has power. -/
def onBus (f : State → State) (s : State) : State := if s.boot.island then f s else s

/-- SENSOR_READ. -/
def execSensorRead (id : Nat) (s : State) : Out :=
  .next (onBus (fun s => reply (match sensorValue s id with | some v => .value v | none => .pldmError) s) s)

/-- COOLANT_EFFECTER (R376): 1 normal, 2 lost. -/
def execCoolantEffecter (state : Nat) (s : State) : Out :=
  .next (onBus (fun s =>
    if state = 2 then reply .ok (if s.pwr.srcBus then s else coolantSource 2 s)
    else if state = 1 then reply .ok (s.onPwr fun p => { p with srcBus := false })
    else reply .pldmError s) s)

/-- INLET_EFFECTER (R371). -/
def execInletEffecter (value : Nat) (s : State) : Out :=
  .next (onBus (fun s => reply .ok (capacityCut (s.onPwr fun p => { p with inletBus := value, inletLast := 2 }))) s)

/-- POWER_CAP_EFFECTER: writes PWR_CAP.CAP_W. -/
def execPowerCapEffecter (watts : Nat) (s : State) : Out :=
  .next (onBus (fun s => reply .ok (powerSettle (s.onPwr fun p => { p with cap := partWrite p.cap 0xFFFF .whole (b64 watts) }))) s)

/-- RUNG_REQUEST_EFFECTER: 1 wake, 4 and 5 enter; a request that R386 refuses fails and sets RUNG_ERR. -/
def execRungRequestEffecter (state : Nat) (s : State) : Out :=
  .next (onBus (fun s =>
    if state = 1 then reply .ok (if s.boot.lidFault then s else wakeUp .managementBus s)
    else if state = 4 ∨ state = 5 then reply (if enterRefused s then .pldmError else .ok) (enterRequest state s)
    else reply .pldmError s) s)

/-- PCIE_ROLE_EFFECTER (R285): the flash setting, for the next cold reset. -/
def execPcieRoleEffecter (role : Nat) (s : State) : Out :=
  .next (onBus (fun s =>
    if role < 4 then reply .ok (s.onFlash fun f => { f with role := some (BitVec.ofNat 2 role) }) else reply .pldmError s) s)

/-! ### MCTP control (R419) -/

/-- Endpoint ID of a binding, and its assignment. -/
def eidOf (m : Mgmt) : Binding → BitVec 8
  | .i3c => m.eidI3c
  | .smbus => m.eidSmb
  | .pcieVdm => m.eidPcie
def setEid (b : Binding) (e : BitVec 8) (s : State) : State :=
  s.onMgmt fun m => match b with
    | .i3c => { m with eidI3c := e }
    | .smbus => { m with eidSmb := e }
    | .pcieVdm => { m with eidPcie := e }

/-- The binding carries MCTP: vendor-defined messages in endpoint mode while the link is up. -/
def bindingUp (s : State) (b : Binding) : Bool := s.boot.island && (b != .pcieVdm || (s.endpoint && s.link.up))

/-- MCTP_CONTROL_REQUEST: completion codes and layouts are those of DSP0236 (PRESUMED, log entry 41). The module carries MCTP control,
PLDM (types 0, 2 and 5) and SPDM; a firmware update transfers from its request to the end of a transfer (Table 10 of chapter 16). -/
def execMctpControlRequest (binding : Binding) (req : MctpControl) (s : State) : Out :=
  .next (if !bindingUp s binding then s
    else match req with
      | .setEndpointId e =>
        if e = 0 ∨ e = 0xFF then reply (.mctp [2]) s else reply (.mctp [0, 0, e, 0]) (setEid binding e s)
      | .getEndpointId => reply (.mctp [0, eidOf s.mgmt binding, 0, 0]) s
      | .getMessageTypes => reply (.mctp [0, 3, 0, 1, 5]) s
      | .other _ => reply (.mctp [5]) s
      | .i3cAddress a => if binding = .i3c then s.onMgmt fun m => { m with i3cDynamic := some a } else s
      | .pldmSetTid t => if t = 0 ∨ t = 0xFF then reply .pldmError s else reply .ok (s.onMgmt fun m => { m with tid := t })
      | .pldmGetTid => reply (.value s.mgmt.tid.toNat) s
      | .pldmGetTypes => reply (.value 0x25) s
      | .pldmRequestUpdate =>
        if s.boot.act.isSome then reply .pldmError s else reply .ok (s.onMgmt fun m => { m with update := 2 }))

end Sys2Proof.Machine
end

