-- ==== Sys2Proof/Machine/Dispatch.lean ====
section
/-! DEFINITION. The effect of each command: one arm for each row of the table. -/

namespace Sys2Proof.Machine

def exec (i : Instr) (s : State) : Host.Outcome State Fault Refusal :=
  match i with
  | .powerOn lid rolePins addrSel slotId => Sys2Proof.Machine.execPowerOn lid rolePins addrSel slotId s
  | .deviceReady memTrained => Sys2Proof.Machine.execDeviceReady memTrained s
  | .powerLoss => Sys2Proof.Machine.execPowerLoss s
  | .perstAssert => Sys2Proof.Machine.execPerstAssert s
  | .perstDeassert => Sys2Proof.Machine.execPerstDeassert s
  | .hotReset => Sys2Proof.Machine.execHotReset s
  | .flr => Sys2Proof.Machine.execFlr s
  | .linkLoss => Sys2Proof.Machine.execLinkLoss s
  | .retrain speed width => Sys2Proof.Machine.execRetrain speed width s
  | .freezeComplete => Sys2Proof.Machine.execFreezeComplete s
  | .pickleDescend => Sys2Proof.Machine.execPickleDescend s
  | .pickleResume ring => Sys2Proof.Machine.execPickleResume ring s
  | .pickleDiscard ring => Sys2Proof.Machine.execPickleDiscard ring s
  | .scrubFillDone => Sys2Proof.Machine.execScrubFillDone s
  | .configWrite w => Sys2Proof.Machine.execConfigWrite w s
  | .bmeWaitExpire => Sys2Proof.Machine.execBmeWaitExpire s
  | .hostReadCompletion tag reply => Sys2Proof.Machine.execHostReadCompletion tag reply s
  | .completionTimeout tag => Sys2Proof.Machine.execCompletionTimeout tag s
  | .postedWriteAck => Sys2Proof.Machine.execPostedWriteAck s
  | .hostAtomicopReceive bar => Sys2Proof.Machine.execHostAtomicopReceive bar s
  | .inboundMsiWrite addr data => Sys2Proof.Machine.execInboundMsiWrite addr data s
  | .inboundDownstreamRequest req => Sys2Proof.Machine.execInboundDownstreamRequest req s
  | .bar2Read v len => Sys2Proof.Machine.execBar2Read v len s
  | .bar2Write v data ep => Sys2Proof.Machine.execBar2Write v data ep s
  | .registerWrite src offset size val => Sys2Proof.Machine.execRegisterWrite src offset size val s
  | .setupCommit val => Sys2Proof.Machine.execSetupCommit val s
  | .srIndexWrite ch part val => Sys2Proof.Machine.execSrIndexWrite ch part val s
  | .srSnapshotDone ch => Sys2Proof.Machine.execSrSnapshotDone ch s
  | .ringCfgWrite ring part val => Sys2Proof.Machine.execRingCfgWrite ring part val s
  | .eventRingCfgWrite part val => Sys2Proof.Machine.execEventRingCfgWrite part val s
  | .ringDb ring part val => Sys2Proof.Machine.execRingDb ring part val s
  | .abort ring => Sys2Proof.Machine.execAbort ring s
  | .restartNext ring => Sys2Proof.Machine.execRestartNext ring s
  | .restartSame ring => Sys2Proof.Machine.execRestartSame ring s
  | .clrErr ring => Sys2Proof.Machine.execClrErr ring s
  | .descReadReturn ring => Sys2Proof.Machine.execDescReadReturn ring s
  | .descReread ring => Sys2Proof.Machine.execDescReread ring s
  | .descNop ring => Sys2Proof.Machine.execDescNop ring s
  | .chain ring => Sys2Proof.Machine.execChain ring s
  | .transform ring => Sys2Proof.Machine.execTransform ring s
  | .program ring => Sys2Proof.Machine.execProgram ring s
  | .maintClean ring => Sys2Proof.Machine.execMaintClean ring s
  | .maintInvalidate ring => Sys2Proof.Machine.execMaintInvalidate ring s
  | .maintCleanInvalidate ring => Sys2Proof.Machine.execMaintCleanInvalidate ring s
  | .invalidateRange ring => Sys2Proof.Machine.execInvalidateRange ring s
  | .invalidateAll ring => Sys2Proof.Machine.execInvalidateAll ring s
  | .setRoot ring => Sys2Proof.Machine.execSetRoot ring s
  | .hold ring => Sys2Proof.Machine.execHold ring s
  | .release ring => Sys2Proof.Machine.execRelease ring s
  | .xltOpDrained ring => Sys2Proof.Machine.execXltOpDrained ring s
  | .holdLimitExpire start => Sys2Proof.Machine.execHoldLimitExpire start s
  | .fabricPut ring => Sys2Proof.Machine.execFabricPut ring s
  | .fabricGet ring => Sys2Proof.Machine.execFabricGet ring s
  | .deliver ring => Sys2Proof.Machine.execDeliver ring s
  | .fabricAtomic ring => Sys2Proof.Machine.execFabricAtomic ring s
  | .fabricFence ring => Sys2Proof.Machine.execFabricFence ring s
  | .routeLoad ring => Sys2Proof.Machine.execRouteLoad ring s
  | .flagSend ring => Sys2Proof.Machine.execFlagSend ring s
  | .push ring => Sys2Proof.Machine.execPush ring s
  | .census ring => Sys2Proof.Machine.execCensus ring s
  | .powerHint ring => Sys2Proof.Machine.execPowerHint ring s
  | .test ring => Sys2Proof.Machine.execTest ring s
  | .descWait ring => Sys2Proof.Machine.execDescWait ring s
  | .ringWaitSatisfied ring => Sys2Proof.Machine.execRingWaitSatisfied ring s
  | .waitExpired ring => Sys2Proof.Machine.execWaitExpired ring s
  | .operationAdmit ring => Sys2Proof.Machine.execOperationAdmit ring s
  | .operationComplete ring => Sys2Proof.Machine.execOperationComplete ring s
  | .msixModerationExpire ring => Sys2Proof.Machine.execMsixModerationExpire ring s
  | .arrayBeat array => Sys2Proof.Machine.execArrayBeat array s
  | .passStart array => Sys2Proof.Machine.execPassStart array s
  | .passEnd array => Sys2Proof.Machine.execPassEnd array s
  | .sliceArrive array operandB bytes => Sys2Proof.Machine.execSliceArrive array operandB bytes s
  | .arrivalTimeout array => Sys2Proof.Machine.execArrivalTimeout array s
  | .tileDrain array => Sys2Proof.Machine.execTileDrain array s
  | .tileCommit ring => Sys2Proof.Machine.execTileCommit ring s
  | .bandFinish ring rowGroup => Sys2Proof.Machine.execBandFinish ring rowGroup s
  | .partialChunkReceive ring sender chunk => Sys2Proof.Machine.execPartialChunkReceive ring sender chunk s
  | .wTreeReceive ring position tile values => Sys2Proof.Machine.execWTreeReceive ring position tile values s
  | .transformTurn ring => Sys2Proof.Machine.execTransformTurn ring s
  | .nop engine group => Sys2Proof.Machine.execNop engine group s
  | .iadd engine group => Sys2Proof.Machine.execIadd engine group s
  | .isub engine group => Sys2Proof.Machine.execIsub engine group s
  | .imul engine group => Sys2Proof.Machine.execImul engine group s
  | .imulh engine group => Sys2Proof.Machine.execImulh engine group s
  | .and engine group => Sys2Proof.Machine.execAnd engine group s
  | .or engine group => Sys2Proof.Machine.execOr engine group s
  | .xor engine group => Sys2Proof.Machine.execXor engine group s
  | .shl engine group => Sys2Proof.Machine.execShl engine group s
  | .shr engine group => Sys2Proof.Machine.execShr engine group s
  | .icmp engine group => Sys2Proof.Machine.execIcmp engine group s
  | .sel engine group => Sys2Proof.Machine.execSel engine group s
  | .mov engine group => Sys2Proof.Machine.execMov engine group s
  | .sreg engine group => Sys2Proof.Machine.execSreg engine group s
  | .limm engine group => Sys2Proof.Machine.execLimm engine group s
  | .br engine group => Sys2Proof.Machine.execBr engine group s
  | .brz engine group => Sys2Proof.Machine.execBrz engine group s
  | .brnz engine group => Sys2Proof.Machine.execBrnz engine group s
  | .jmp engine group => Sys2Proof.Machine.execJmp engine group s
  | .join engine group => Sys2Proof.Machine.execJoin engine group s
  | .sleep engine group => Sys2Proof.Machine.execSleep engine group s
  | .sleepExpire engine group => Sys2Proof.Machine.execSleepExpire engine group s
  | .exit engine group => Sys2Proof.Machine.execExit engine group s
  | .wrelu engine group => Sys2Proof.Machine.execWrelu engine group s
  | .fadd engine group => Sys2Proof.Machine.execFadd engine group s
  | .fsub engine group => Sys2Proof.Machine.execFsub engine group s
  | .fmul engine group => Sys2Proof.Machine.execFmul engine group s
  | .ffma engine group => Sys2Proof.Machine.execFfma engine group s
  | .fmin engine group => Sys2Proof.Machine.execFmin engine group s
  | .fmax engine group => Sys2Proof.Machine.execFmax engine group s
  | .fcmp engine group => Sys2Proof.Machine.execFcmp engine group s
  | .fdiv engine group => Sys2Proof.Machine.execFdiv engine group s
  | .fsqrt engine group => Sys2Proof.Machine.execFsqrt engine group s
  | .frcp engine group => Sys2Proof.Machine.execFrcp engine group s
  | .frsqrt engine group => Sys2Proof.Machine.execFrsqrt engine group s
  | .fexp2 engine group => Sys2Proof.Machine.execFexp2 engine group s
  | .flog2 engine group => Sys2Proof.Machine.execFlog2 engine group s
  | .fsin engine group => Sys2Proof.Machine.execFsin engine group s
  | .fcos engine group => Sys2Proof.Machine.execFcos engine group s
  | .cvt engine group => Sys2Proof.Machine.execCvt engine group s
  | .wadd engine group => Sys2Proof.Machine.execWadd engine group s
  | .wmul engine group => Sys2Proof.Machine.execWmul engine group s
  | .wfma engine group => Sys2Proof.Machine.execWfma engine group s
  | .wmin engine group => Sys2Proof.Machine.execWmin engine group s
  | .wmax engine group => Sys2Proof.Machine.execWmax engine group s
  | .wcmp engine group => Sys2Proof.Machine.execWcmp engine group s
  | .wclamp engine group => Sys2Proof.Machine.execWclamp engine group s
  | .wcvtin engine group => Sys2Proof.Machine.execWcvtin engine group s
  | .wcvtout engine group => Sys2Proof.Machine.execWcvtout engine group s
  | .wround engine group => Sys2Proof.Machine.execWround engine group s
  | .ld engine group => Sys2Proof.Machine.execLd engine group s
  | .st engine group => Sys2Proof.Machine.execSt engine group s
  | .atom engine group => Sys2Proof.Machine.execAtom engine group s
  | .exactAdd pa fp64 values => Sys2Proof.Machine.execExactAdd pa fp64 values s
  | .exrd engine group => Sys2Proof.Machine.execExrd engine group s
  | .copy engine group => Sys2Proof.Machine.execCopy engine group s
  | .tcopy engine group => Sys2Proof.Machine.execTcopy engine group s
  | .tstore engine group => Sys2Proof.Machine.execTstore engine group s
  | .copyDataArrive engine copyId bytes => Sys2Proof.Machine.execCopyDataArrive engine copyId bytes s
  | .rdcnt engine group => Sys2Proof.Machine.execRdcnt engine group s
  | .setcnt engine group => Sys2Proof.Machine.execSetcnt engine group s
  | .wait engine group => Sys2Proof.Machine.execWait engine group s
  | .waitSatisfied engine group => Sys2Proof.Machine.execWaitSatisfied engine group s
  | .waitTimeout engine group => Sys2Proof.Machine.execWaitTimeout engine group s
  | .fence engine group => Sys2Proof.Machine.execFence engine group s
  | .groupStart ring engine => Sys2Proof.Machine.execGroupStart ring engine s
  | .recoveryModeExit engine => Sys2Proof.Machine.execRecoveryModeExit engine s
  | .engineCheckDone engine => Sys2Proof.Machine.execEngineCheckDone engine s
  | .rds cache line => Sys2Proof.Machine.execRds cache line s
  | .rdu cache line => Sys2Proof.Machine.execRdu cache line s
  | .upg cache line => Sys2Proof.Machine.execUpg cache line s
  | .rdonce agent line => Sys2Proof.Machine.execRdonce agent line s
  | .wrline agent addr data => Sys2Proof.Machine.execWrline agent addr data s
  | .atomRequest agent addr req => Sys2Proof.Machine.execAtomRequest agent addr req s
  | .wb cache line => Sys2Proof.Machine.execWb cache line s
  | .ev cache line => Sys2Proof.Machine.execEv cache line s
  | .slotLock slot line => Sys2Proof.Machine.execSlotLock slot line s
  | .snoopReceive cache line => Sys2Proof.Machine.execSnoopReceive cache line s
  | .coherenceDataReceive line => Sys2Proof.Machine.execCoherenceDataReceive line s
  | .finalAckReceive line => Sys2Proof.Machine.execFinalAckReceive line s
  | .loanReturn granule => Sys2Proof.Machine.execLoanReturn granule s
  | .lrSnoopDelayExpire core => Sys2Proof.Machine.execLrSnoopDelayExpire core s
  | .cboClean core req => Sys2Proof.Machine.execCboClean core req s
  | .cboFlush core req => Sys2Proof.Machine.execCboFlush core req s
  | .cboInval core addr env => Sys2Proof.Machine.execCboInval core addr env s
  | .cboZero core req => Sys2Proof.Machine.execCboZero core req s
  | .patrolScrub sector wrong => Sys2Proof.Machine.execPatrolScrub sector wrong s
  | .hotpageDecay => Sys2Proof.Machine.execHotpageDecay s
  | .hotpageMuteExpire region => Sys2Proof.Machine.execHotpageMuteExpire region s
  | .portPartnerDetect port => Sys2Proof.Machine.execPortPartnerDetect port s
  | .portTrainDone port result => Sys2Proof.Machine.execPortTrainDone port result s
  | .portDown port cause => Sys2Proof.Machine.execPortDown port cause s
  | .fabPortEnWrite part val => Sys2Proof.Machine.execFabPortEnWrite part val s
  | .frameReceive port crcOk kind => Sys2Proof.Machine.execFrameReceive port crcOk kind s
  | .packetForward port pkt => Sys2Proof.Machine.execPacketForward port pkt s
  | .fabricGetReceive pkt => Sys2Proof.Machine.execFabricGetReceive pkt s
  | .fabricPutReceive pkt => Sys2Proof.Machine.execFabricPutReceive pkt s
  | .fabricFlagReceive pkt => Sys2Proof.Machine.execFabricFlagReceive pkt s
  | .fabricAtomicReceive pkt => Sys2Proof.Machine.execFabricAtomicReceive pkt s
  | .deliveryReceive pkt => Sys2Proof.Machine.execDeliveryReceive pkt s
  | .receivedAck src seq => Sys2Proof.Machine.execReceivedAck src seq s
  | .performedAck src seq data poisoned => Sys2Proof.Machine.execPerformedAck src seq data poisoned s
  | .negativeAckReceive src seq reason => Sys2Proof.Machine.execNegativeAckReceive src seq reason s
  | .gapNoticeSend peer seq => Sys2Proof.Machine.execGapNoticeSend peer seq s
  | .gapNoticeReceive src seq => Sys2Proof.Machine.execGapNoticeReceive src seq s
  | .rtoExpire peer seq => Sys2Proof.Machine.execRtoExpire peer seq s
  | .e2eTimeout peer => Sys2Proof.Machine.execE2eTimeout peer s
  | .busyNoticeReceive src seq => Sys2Proof.Machine.execBusyNoticeReceive src seq s
  | .busyResend peer seq => Sys2Proof.Machine.execBusyResend peer seq s
  | .fabWinWrite window word part val => Sys2Proof.Machine.execFabWinWrite window word part val s
  | .winDrainDone => Sys2Proof.Machine.execWinDrainDone s
  | .fabRtDataWrite part val => Sys2Proof.Machine.execFabRtDataWrite part val s
  | .routeCommit part val => Sys2Proof.Machine.execRouteCommit part val s
  | .routeHoldExpire => Sys2Proof.Machine.execRouteHoldExpire s
  | .dodgemCtlWrite part val => Sys2Proof.Machine.execDodgemCtlWrite part val s
  | .dodgemReorderRelease => Sys2Proof.Machine.execDodgemReorderRelease s
  | .flitReceive port lane flit => Sys2Proof.Machine.execFlitReceive port lane flit s
  | .nakReceive port lane seq => Sys2Proof.Machine.execNakReceive port lane seq s
  | .wireRecentre port group wire => Sys2Proof.Machine.execWireRecentre port group wire s
  | .wireRemap port group toDie => Sys2Proof.Machine.execWireRemap port group toDie s
  | .laneRetire port lane toDie => Sys2Proof.Machine.execLaneRetire port lane toDie s
  | .discoveryFrame port frame => Sys2Proof.Machine.execDiscoveryFrame port frame s
  | .powerSample reading => Sys2Proof.Machine.execPowerSample reading s
  | .powerStep => Sys2Proof.Machine.execPowerStep s
  | .domainIdleLower domain => Sys2Proof.Machine.execDomainIdleLower domain s
  | .creditUpdate avgMw => Sys2Proof.Machine.execCreditUpdate avgMw s
  | .thermalLimitStep die junction => Sys2Proof.Machine.execThermalLimitStep die junction s
  | .thermalTrip die junction => Sys2Proof.Machine.execThermalTrip die junction s
  | .thermalShutdown die junction => Sys2Proof.Machine.execThermalShutdown die junction s
  | .coldJunctionHold die junction => Sys2Proof.Machine.execColdJunctionHold die junction s
  | .lidRecheck code => Sys2Proof.Machine.execLidRecheck code s
  | .safetyNetAssert regulator => Sys2Proof.Machine.execSafetyNetAssert regulator s
  | .safetyNetRelease => Sys2Proof.Machine.execSafetyNetRelease s
  | .coolantLoss => Sys2Proof.Machine.execCoolantLoss s
  | .coolantLossEnd => Sys2Proof.Machine.execCoolantLossEnd s
  | .ageingCheck unit short => Sys2Proof.Machine.execAgeingCheck unit short s
  | .wearLedgerWrite => Sys2Proof.Machine.execWearLedgerWrite s
  | .forecastPublish => Sys2Proof.Machine.execForecastPublish s
  | .pwrFixedWrite part val => Sys2Proof.Machine.execPwrFixedWrite part val s
  | .rung1Enter => Sys2Proof.Machine.execRung1Enter s
  | .rung2Enter => Sys2Proof.Machine.execRung2Enter s
  | .rung3Enter => Sys2Proof.Machine.execRung3Enter s
  | .rungWake wake => Sys2Proof.Machine.execRungWake wake s
  | .enterRung4 => Sys2Proof.Machine.execEnterRung4 s
  | .enterRung5 => Sys2Proof.Machine.execEnterRung5 s
  | .memInitDone => Sys2Proof.Machine.execMemInitDone s
  | .correctedError ev => Sys2Proof.Machine.execCorrectedError ev s
  | .pairSubstitute die unit => Sys2Proof.Machine.execPairSubstitute die unit s
  | .retirePendingDone die unit => Sys2Proof.Machine.execRetirePendingDone die unit s
  | .retire kind die unit => Sys2Proof.Machine.execRetire kind die unit s
  | .restore kind die unit => Sys2Proof.Machine.execRestore kind die unit s
  | .clearPages => Sys2Proof.Machine.execClearPages s
  | .repCmdDone passed => Sys2Proof.Machine.execRepCmdDone passed s
  | .sideshowBegin ring => Sys2Proof.Machine.execSideshowBegin ring s
  | .sideshowEnd ring result => Sys2Proof.Machine.execSideshowEnd ring result s
  | .controllerWatchdog controller => Sys2Proof.Machine.execControllerWatchdog controller s
  | .svnCommit => Sys2Proof.Machine.execSvnCommit s
  | .imageTransferDone image => Sys2Proof.Machine.execImageTransferDone image s
  | .activateFirmware => Sys2Proof.Machine.execActivateFirmware s
  | .getVersion => Sys2Proof.Machine.execGetVersion s
  | .getCapabilities => Sys2Proof.Machine.execGetCapabilities s
  | .negotiateAlgorithms asym hash => Sys2Proof.Machine.execNegotiateAlgorithms asym hash s
  | .getDigests => Sys2Proof.Machine.execGetDigests s
  | .getCertificate slot offset length => Sys2Proof.Machine.execGetCertificate slot offset length s
  | .challenge slot nonce => Sys2Proof.Machine.execChallenge slot nonce s
  | .getMeasurements index sign => Sys2Proof.Machine.execGetMeasurements index sign s
  | .spdmUnsupportedRequest code => Sys2Proof.Machine.execSpdmUnsupportedRequest code s
  | .sensorRead id => Sys2Proof.Machine.execSensorRead id s
  | .coolantEffecter state => Sys2Proof.Machine.execCoolantEffecter state s
  | .inletEffecter value => Sys2Proof.Machine.execInletEffecter value s
  | .powerCapEffecter watts => Sys2Proof.Machine.execPowerCapEffecter watts s
  | .rungRequestEffecter state => Sys2Proof.Machine.execRungRequestEffecter state s
  | .pcieRoleEffecter role => Sys2Proof.Machine.execPcieRoleEffecter role s
  | .linkUp speed width flit => Sys2Proof.Machine.execLinkUp speed width flit s
  | .msixTableWrite offset size val => Sys2Proof.Machine.execMsixTableWrite offset size val s
  | .rootPortErrorReceive port status => Sys2Proof.Machine.execRootPortErrorReceive port status s
  | .bar0Read src offset size => Sys2Proof.Machine.execBar0Read src offset size s
  | .eventRingHeadWrite part val => Sys2Proof.Machine.execEventRingHeadWrite part val s
  | .setupCommitDone => Sys2Proof.Machine.execSetupCommitDone s
  | .thermalTripClear die junction => Sys2Proof.Machine.execThermalTripClear die junction s
  | .coldJunctionEnd die junction => Sys2Proof.Machine.execColdJunctionEnd die junction s
  | .snoopResponseReceive line cache => Sys2Proof.Machine.execSnoopResponseReceive line cache s
  | .wbAckReceive cache line => Sys2Proof.Machine.execWbAckReceive cache line s
  | .memoryReadReturn sector wrong => Sys2Proof.Machine.execMemoryReadReturn sector wrong s
  | .pageWalkDone agent va access began => Sys2Proof.Machine.execPageWalkDone agent va access began s
  | .coreSubstitute core => Sys2Proof.Machine.execCoreSubstitute core s
  | .firmwareHandoverDone => Sys2Proof.Machine.execFirmwareHandoverDone s
  | .controllerRestartDone controller => Sys2Proof.Machine.execControllerRestartDone controller s
  | .mctpControlRequest binding req => Sys2Proof.Machine.execMctpControlRequest binding req s
  | .e2eHandshake shake => Sys2Proof.Machine.execE2eHandshake shake s
  | .coreLoad core pa acc => Sys2Proof.Machine.execCoreLoad core pa acc s
  | .coreStore core pa acc val => Sys2Proof.Machine.execCoreStore core pa acc val s
  | .coreAmo core pa req => Sys2Proof.Machine.execCoreAmo core pa req s
  | .coreLr core pa acc => Sys2Proof.Machine.execCoreLr core pa acc s
  | .coreSc core pa acc val => Sys2Proof.Machine.execCoreSc core pa acc val s
  | .coreFence core sets => Sys2Proof.Machine.execCoreFence core sets s
  | .coreWfi core => Sys2Proof.Machine.execCoreWfi core s

end Sys2Proof.Machine
end

