-- ==== Sys2Proof/Safety.lean ====
section
/-! DEFINITION. What a safe run is, and the terms in which the statements about commands are made: what a command
leaves alone, and the conditions under which an engine instruction issues. -/

namespace Sys2Proof.Safety

open Sys2Proof.Machine

/-- The pool's memory is in its canonical form. -/
def MemOk (s : State) : Prop := Memory.wf s.pool.mem

/-- The step from a state is safe: it answers a next state, and that state's memory is in its canonical form. -/
def StepSafe (s : State) : Prop := ∃ t, step s = .next t ∧ MemOk t

/-! ### Frames -/

/-- Every byte of the pool's memory reads as before. -/
def SameMem (s t : State) : Prop := ∀ a, memByte t.pool.mem a = memByte s.pool.mem a

/-- Every byte of the pool's memory outside n bytes from a reads as before. -/
def SameMemBut (a n : Nat) (s t : State) : Prop :=
  ∀ b, b < a ∨ a + n ≤ b → memByte t.pool.mem b = memByte s.pool.mem b

/-- Only the engines differ. -/
def EnginesOnly (s t : State) : Prop := { t with engines := s.engines } = s

/-- Every engine but one is as before. -/
def OtherEngines (e : Nat) (s t : State) : Prop := ∀ k, k ≠ e → t.engine k = s.engine k

/-- Of an engine, the mode, the grants, the arrival counters, the copies and every group but that of a slot are as
before. -/
def OtherGroups (e slot : Nat) (s t : State) : Prop :=
  (t.engine e).mode = (s.engine e).mode ∧ (t.engine e).reason = (s.engine e).reason
  ∧ (t.engine e).grants = (s.engine e).grants ∧ (t.engine e).counters = (s.engine e).counters
  ∧ (t.engine e).copies = (s.engine e).copies
  ∧ ∀ k, k ≠ slot → tfind (t.engine e).slots k = tfind (s.engine e).slots k

/-! ### The issue of an engine instruction (chapter 06) -/

/-- A group in a slot of an engine whose turn it is and whose current path may issue, no register of it marked poisoned, and its
program (R147, R153, R164, R166, R191). -/
structure Runnable (s : State) (e slot : Nat) (g : Group) (path : Path) (rest : List Path) (prog : ProgramRun) :
    Prop where
  here : tfind (s.engine e).slots slot = some g
  program : programOf s g.ring = some prog
  running : prog.stop = none
  awake : g.sleeping = 0
  paths : g.paths = path :: rest
  ready : path.st = .ready
  threads : path.lanes ≠ 0
  turn : mayIssue s e slot = true
  clean : g.badRegs = []

/-- The fetch of 8 bytes at an address for the current path of a group: what it gives, and the state after it. -/
def fetchAt (s : State) (e slot : Nat) (path : Path) (pc : Nat) : Got × State :=
  vaRead (engineKeep s e) e (laneOwner e slot (lowest path)) .fetch pc 8 s

/-- A fetch brings a word, not poisoned. -/
def Brings (r : Got × State) (w : Nat) : Prop :=
  ∃ b, r.1 = .data b ∧ anyPoison b = false ∧ ofBytes (plain b) = w

/-- The current path of a group is about to issue the legal instruction word w (R168, R174), and `s1` is the state
after its fetch. -/
structure AtIssue (s s1 : State) (e slot : Nat) (g : Group) (path : Path) (rest : List Path) (prog : ProgramRun)
    (w : Nat) : Prop where
  runnable : Runnable s e slot g path rest prog
  word : Brings (fetchAt s e slot path path.pc) w
  fetched : s1 = (fetchAt s e slot path path.pc).2
  lawful : legal w prog.regs = true
  second : maySecond s e slot path w = true

/-- A lane of a path. -/
def Active (path : Path) (lane : Nat) : Prop := lane < 32 ∧ bit path.lanes.toNat lane = true

/-- The registers of a group but n registers of the path's lanes from rd are as before. -/
def OtherRegs (path : Path) (rd n : Nat) (g g' : Group) : Prop :=
  ∀ lane r, r < 256 → (Active path lane → r < rd ∨ rd + n ≤ r) → regRead g' lane r 1 = regRead g lane r 1

/-- A path of the group has the lanes of another, stands at an address and may issue; the other paths with threads
are still there. -/
def PathsOn (path : Path) (rest : List Path) (pc : Nat) (g' : Group) : Prop :=
  (∃ q ∈ g'.paths, q.pc = pc ∧ q.lanes = path.lanes ∧ q.st = .ready) ∧ ∀ q ∈ rest, q.lanes ≠ 0 → q ∈ g'.paths

/-- The command i issues: it answers a next state that differs from the state after the fetch in the engine alone,
where the group of the slot is left as P says. -/
def IssuesAs (i : Instr) (s s1 : State) (e slot : Nat) (g : Group) (P : Group → Prop) : Prop :=
  ∃ t g', exec i s = .next t ∧ EnginesOnly s1 t ∧ OtherEngines e s1 t ∧ OtherGroups e slot s1 t
    ∧ tfind (t.engine e).slots slot = some g' ∧ g'.ring = g.ring ∧ g'.index = g.index ∧ P g'

/-- As `IssuesAs`, for an instruction that writes n registers from RD in each lane of the path and goes on after its
word: `P lane` tells what the registers of a lane then hold. -/
def WritesRd (i : Instr) (s s1 : State) (e slot : Nat) (g : Group) (path : Path) (rest : List Path) (w n : Nat)
    (P : Group → Nat → Prop) : Prop :=
  IssuesAs i s s1 e slot g fun g' =>
    PathsOn path rest ((path.pc + 8) % 2 ^ 64) g' ∧ g'.sleeping = 0
    ∧ (∀ lane, Active path lane → P g' lane) ∧ OtherRegs path (wRd w) n g g'

/-- The value that a type's registers hold after a result is written: sign-extended for s8 and s16, zero-extended
for the other types (R170). -/
def regValue (ty v : Nat) : Nat :=
  if ty = 9 ∨ ty = 11 then ofSigned 32 (toSigned (tyBits ty) v) else v % 2 ^ tyBits ty

end Sys2Proof.Safety
end

