-- ==== Sys2Proof/Certificates/Slice0/Obligations.lean ====
section
/-! DEFINITION. The statements for the provers, and the terms that only they use. -/

/-! ### Engine instructions (chapter 06) -/

namespace Sys2Proof.Claims

open Sys2Proof.Machine Sys2Proof.Safety

/-- The operands of an instruction word in a lane and the value its destination holds, as bits of its type. -/
def opA (g : Group) (w l : Nat) : BitVec (tyBits (wTy w)) := BitVec.ofNat _ (tyRead g l (wTy w) (wRa w))
def opB (g : Group) (w l : Nat) : BitVec (tyBits (wTy w)) := BitVec.ofNat _ (second g l w)
def opRd (g : Group) (w l : Nat) : BitVec (tyBits (wTy w)) := BitVec.ofNat _ (tyRead g l (wTy w) (wRd w))

/-- The instruction writes the registers of its type from RD: in each active lane of the path the result is as told. -/
def Result (i : Instr) (s s1 : State) (e slot : Nat) (g : Group) (path : Path) (rest : List Path) (w : Nat)
    (P : Group → Nat → Prop) : Prop := WritesRd i s s1 e slot g path rest w (tyRegs (wTy w)) P

/-- The instruction writes one register, 1 where a relation of the lane holds and 0 where it does not. -/
def Relation (i : Instr) (s s1 : State) (e slot : Nat) (g : Group) (path : Path) (rest : List Path) (w : Nat)
    (P : Nat → Prop) : Prop :=
  WritesRd i s s1 e slot g path rest w 1 fun g' l =>
    (P l → regRead g' l (wRd w) 1 = 1) ∧ (¬ P l → regRead g' l (wRd w) 1 = 0)

/-- The values of the operands of a floating-point or W instruction. -/
def numA (g : Group) (w l : Nat) (f : Fmt) : Machine.Num := decodeNum f (tyRead g l (wTy w) (wRa w))
def numB (g : Group) (w l : Nat) (f : Fmt) : Machine.Num := decodeNum f (second g l w)
def numC (g : Group) (w l : Nat) (f : Fmt) : Machine.Num := decodeNum f (tyRead g l (wTy w) (wRc w))

/-- The rounding mode that an instruction word names (R171), and the draw of its stochastic rounding in a lane
(R48): its index lies in the pair that RC, or AUX for FFMA, names. -/
def wordRm (w : Nat) : Rm := (rmOfCode (wRm w)).getD .rne
def wordDraw (prog : ProgramRun) (g : Group) (w l : Nat) : Nat :=
  if wRm w = 4 then srDraw prog.seed (regRead g l (if wOp w = 0x23 then wAux w else wRc w) 2) else 0

/-- RD holds an exact value rounded once to the type under IEEE overflow (R47-R50, R151). -/
def RoundedRd (prog : ProgramRun) (g : Group) (w : Nat) (f : Fmt) (x : Nat → Machine.Num) (g' : Group) (l : Nat) : Prop :=
  regRead g' l (wRd w) (tyRegs (wTy w)) =
    regValue (wTy w) (encodeNum f (convertNum f (wordRm w) .ieee (wordDraw prog g w l) (x l)))

/-- RD holds an exact value rounded to odd into W (R40, R152). -/
def OddRd (w : Nat) (x : Nat → Machine.Num) (g' : Group) (l : Nat) : Prop :=
  regRead g' l (wRd w) 3 = encodeNum .w (wOf (x l)) % 2 ^ 80

end Sys2Proof.Claims

open Sys2Proof Sys2Proof.Machine Sys2Proof.Safety Sys2Proof.Claims

/-- IADD, ISUB, IMUL, IMULH, AND, OR, XOR, SHL and SHR (R171, Table 12 of chapter 06): each issues, writes RD in every
active lane and no other register, and its path goes on after its word. NOP, ICMP, SEL, MOV and SREG (R171, Table 12
of chapter 06). LIMM reads its literal word with the access of a fetch, writes it to the pair RD in every active lane,
and goes on after the literal (R169, R171). -/
def Obligations.IntegerAndMoveInstructionsWriteRd : Prop :=
  (∀ (s s1 : State) (e slot : Nat) (g : Group) (path : Path) (rest : List Path) (prog : ProgramRun) (w : Nat),
      AtIssue s s1 e slot g path rest prog w →
      let R (i : Instr) := Result i s s1 e slot g path rest w
      let n := tyBits (wTy w)
      let a := opA g w
      let b := opB g w
      let sgn := tySigned (wTy w) = true
      (wOp w = 0x01 → R (.iadd e slot) fun g' l => opRd g' w l = a l + b l)
      ∧ (wOp w = 0x02 → R (.isub e slot) fun g' l => opRd g' w l = a l - b l)
      ∧ (wOp w = 0x03 → R (.imul e slot) fun g' l => opRd g' w l = a l * b l)
      ∧ (wOp w = 0x04 → R (.imulh e slot) fun g' l =>
          (sgn → opRd g' w l = BitVec.ofInt n ((a l).toInt * (b l).toInt / 2 ^ n))
          ∧ (¬ sgn → opRd g' w l = BitVec.ofNat n ((a l).toNat * (b l).toNat / 2 ^ n)))
      ∧ (wOp w = 0x05 → R (.and e slot) fun g' l => opRd g' w l = a l &&& b l)
      ∧ (wOp w = 0x06 → R (.or e slot) fun g' l => opRd g' w l = a l ||| b l)
      ∧ (wOp w = 0x07 → R (.xor e slot) fun g' l => opRd g' w l = a l ^^^ b l)
      ∧ (wOp w = 0x08 → R (.shl e slot) fun g' l => opRd g' w l = a l <<< ((b l).toNat % n))
      ∧ (wOp w = 0x09 → R (.shr e slot) fun g' l =>
          (sgn → opRd g' w l = (a l).sshiftRight ((b l).toNat % n))
          ∧ (¬ sgn → opRd g' w l = a l >>> ((b l).toNat % n))))
  ∧ (∀ (s s1 : State) (e slot : Nat) (g : Group) (path : Path) (rest : List Path) (prog : ProgramRun) (w : Nat),
      AtIssue s s1 e slot g path rest prog w →
      let n := tyRegs (wTy w)
      let a := opA g w
      let b := opB g w
      let lt (l : Nat) := if tySigned (wTy w) = true then (a l).toInt < (b l).toInt else (a l).toNat < (b l).toNat
      (wOp w = 0x00 → IssuesAs (.nop e slot) s s1 e slot g fun g' =>
          PathsOn path rest ((path.pc + 8) % 2 ^ 64) g' ∧ g'.regs = g.regs)
      ∧ (wOp w = 0x0A → Relation (.icmp e slot) s s1 e slot g path rest w fun l =>
          (wAux w = 0 ∧ a l = b l) ∨ (wAux w = 1 ∧ a l ≠ b l) ∨ (wAux w = 2 ∧ lt l) ∨ (wAux w = 3 ∧ (lt l ∨ a l = b l)))
      ∧ (wOp w = 0x0B → Result (.sel e slot) s s1 e slot g path rest w fun g' l =>
          regRead g' l (wRd w) n = regValue (wTy w)
            (if regRead g l (wRa w) 1 ≠ 0 then tyRead g l (wTy w) (wRb w) else tyRead g l (wTy w) (wRc w)))
      ∧ (wOp w = 0x0C → Result (.mov e slot) s s1 e slot g path rest w fun g' l =>
          regRead g' l (wRd w) n = regValue (wTy w)
            (if wI w then immValue (wTy w) (wImm w) else tyRead g l (wTy w) (wRa w)))
      ∧ (wOp w = 0x0D → Result (.sreg e slot) s s1 e slot g path rest w fun g' l =>
          let d := regRead g' l (wRd w) 1
          (wAux w = 0 → d = l) ∧ (wAux w = 1 → d = g.index % 2 ^ 32) ∧ (wAux w = 2 → d = g.index / 2 ^ 32 % 2 ^ 16)
          ∧ (wAux w = 3 → d = e % 136) ∧ (wAux w = 7 → d = prog.args % 2 ^ 32)
          ∧ (wAux w = 8 → d = prog.args / 2 ^ 32 % 2 ^ 32) ∧ (wAux w = 9 → d = prog.grid % 2 ^ 32)
          ∧ (wAux w = 10 → d = prog.grid / 2 ^ 32 % 2 ^ 16) ∧ (wAux w = 11 → rest.length < 32 → d = rest.length + 1)
          ∧ (e < 544 → (wAux w = 4 → d = e / 136 + 1)
            ∧ (wAux w = 5 → d = s1.ticksOf (e / 136 + 1) % 2 ^ 32)
            ∧ (wAux w = 6 → d = s1.ticksOf (e / 136 + 1) / 2 ^ 32))))
  ∧ (∀ (s s1 s2 : State) (e slot : Nat) (g : Group) (path : Path) (rest : List Path) (prog : ProgramRun) (w v : Nat),
      AtIssue s s1 e slot g path rest prog w → wOp w = 0x0E →
      Brings (fetchAt s1 e slot path ((path.pc + 8) % 2 ^ 64)) v →
      s2 = (fetchAt s1 e slot path ((path.pc + 8) % 2 ^ 64)).2 →
      IssuesAs (.limm e slot) s s2 e slot g fun g' =>
        PathsOn path rest ((path.pc + 16) % 2 ^ 64) g'
        ∧ (∀ l, Active path l → regRead g' l (wRd w) 2 = v % 2 ^ 64) ∧ OtherRegs path (wRd w) 2 g g')

/-- BR, BRZ, BRNZ and JMP (R153, R172): each thread goes to its own target or on, threads that agree stay together in
a path that may issue, and no register is written. A JMP is legal where every target is 8-byte aligned (R174). JOIN
(R153): a path whose group has no other path, or whose other paths with threads all stand at the same JOIN, goes on
with all their threads; one with another path that may issue stops there. SLEEP and SLEEP_EXPIRE (R154): with no other
path that may issue the group is not ready for min(n, 4,096) turns; the path goes on after it. The end of the turns
makes the group ready, and changes nothing else. EXIT (R153, R166): the threads of the path leave the group. Where no
other path has threads the group has finished and its slot is free; else the group's other paths go on. -/
def Obligations.ControlInstructionsMovePaths : Prop :=
  (∀ (s s1 : State) (e slot : Nat) (g : Group) (path : Path) (rest : List Path) (prog : ProgramRun) (w : Nat),
      AtIssue s s1 e slot g path rest prog w →
      let target : Nat := (((path.pc : Int) + 8 * toSigned 16 (wImm w)) % 2 ^ 64).toNat
      let next : Nat := (path.pc + 8) % 2 ^ 64
      let ra (l : Nat) := regRead g l (wRa w) 1
      let jmp (l : Nat) := regRead g l (wRa w) 2
      let Goes (i : Instr) (dest : Nat → Nat) := IssuesAs i s s1 e slot g fun g' =>
        g'.regs = g.regs ∧ (∀ q ∈ rest, q.lanes ≠ 0 → q ∈ g'.paths)
        ∧ ∀ l, Active path l → ∃ q ∈ g'.paths, q.pc = dest l ∧ q.st = .ready ∧ Active q l
            ∧ ∀ k, Active path k → (Active q k ↔ dest k = dest l)
      (wOp w = 0x10 → Goes (.br e slot) fun _ => target)
      ∧ (wOp w = 0x11 → Goes (.brz e slot) fun l => if ra l = 0 then target else next)
      ∧ (wOp w = 0x12 → Goes (.brnz e slot) fun l => if ra l ≠ 0 then target else next)
      ∧ (wOp w = 0x13 → (∀ l, Active path l → jmp l % 8 = 0) → Goes (.jmp e slot) jmp))
  ∧ (∀ (s s1 : State) (e slot : Nat) (g : Group) (path : Path) (rest : List Path) (prog : ProgramRun) (w : Nat),
      AtIssue s s1 e slot g path rest prog w → wOp w = 0x14 →
      ((∀ q ∈ rest, q.lanes ≠ 0 → q.st = .join ∧ q.pc = path.pc) →
        IssuesAs (.join e slot) s s1 e slot g fun g' =>
          ∃ q, g'.paths = [q] ∧ q.pc = (path.pc + 8) % 2 ^ 64 ∧ q.st = .ready ∧ g'.regs = g.regs
            ∧ ∀ l, Active q l ↔ Active path l ∨ ∃ p ∈ rest, Active p l)
      ∧ ((∃ q ∈ rest, q.lanes ≠ 0 ∧ q.st = .ready) →
        IssuesAs (.join e slot) s s1 e slot g fun g' =>
          g'.regs = g.regs ∧ { path with st := .join } ∈ g'.paths ∧ (∀ q ∈ rest, q.lanes ≠ 0 → q ∈ g'.paths)
          ∧ ∃ q, g'.paths.head? = some q ∧ q.st = .ready ∧ q ∈ rest))
  ∧ ((∀ (s s1 : State) (e slot : Nat) (g : Group) (path : Path) (rest : List Path) (prog : ProgramRun) (w : Nat),
      AtIssue s s1 e slot g path rest prog w → wOp w = 0x15 →
      IssuesAs (.sleep e slot) s s1 e slot g fun g' =>
        PathsOn path rest ((path.pc + 8) % 2 ^ 64) g' ∧ g'.regs = g.regs
        ∧ ((∀ q ∈ rest, q.st ≠ .ready) → g'.sleeping = min (wImm w) 4096)
        ∧ ((∃ q ∈ rest, q.lanes ≠ 0 ∧ q.st = .ready) → g'.sleeping = 0 ∧ ∃ q ∈ rest, g'.paths.head? = some q))
    ∧ ∀ (s : State) (e slot : Nat) (g : Group), tfind (s.engine e).slots slot = some g → 0 < g.sleeping →
      IssuesAs (.sleepExpire e slot) s s e slot g fun g' => g' = { g with sleeping := 0 })
  ∧ (∀ (s s1 : State) (e slot : Nat) (g : Group) (path : Path) (rest : List Path) (prog p1 : ProgramRun) (w : Nat),
      AtIssue s s1 e slot g path rest prog w → wOp w = 0x16 → programOf s1 g.ring = some p1 →
      ((∀ q ∈ rest, q.lanes = 0) →
        ∃ t, exec (.exit e slot) s = .next t ∧ tfind (t.engine e).slots slot = none ∧ t.pool = s1.pool
          ∧ programOf t g.ring = some { p1 with live := without p1.live g.index, finished := p1.finished + 1 })
      ∧ ((∃ q ∈ rest, q.lanes ≠ 0 ∧ q.st = .ready) →
        IssuesAs (.exit e slot) s s1 e slot g fun g' =>
          g'.regs = g.regs ∧ ∀ q, q ∈ g'.paths ↔ q ∈ rest ∧ q.lanes ≠ 0))

/-- FADD, FSUB, FMUL, FFMA, FMIN and FMAX (R47-R53, R151, R171): one rounding of the exact result to the type. FCMP
and WCMP (R171): 1 where the relation that AUX names holds: equal, less, less or equal, unordered. -/
def Obligations.FloatInstructionsRoundAndCompare : Prop :=
  (∀ (s s1 : State) (e slot : Nat) (g : Group) (path : Path) (rest : List Path) (prog : ProgramRun) (w : Nat) (f : Fmt),
      AtIssue s s1 e slot g path rest prog w → tyFmt (wTy w) = some f →
      let a (l : Nat) := numA g w l f
      let b (l : Nat) := numB g w l f
      let c (l : Nat) := numC g w l f
      let rm := wordRm w
      let R (i : Instr) (x : Nat → Machine.Num) := Result i s s1 e slot g path rest w (RoundedRd prog g w f x)
      (wOp w = 0x20 → R (.fadd e slot) fun l => addNum rm (a l) (b l))
      ∧ (wOp w = 0x21 → R (.fsub e slot) fun l => addNum rm (a l) (negNum (b l)))
      ∧ (wOp w = 0x22 → R (.fmul e slot) fun l => mulNum (a l) (b l))
      ∧ (wOp w = 0x23 → R (.ffma e slot) fun l => addNum rm (mulNum (a l) (b l)) (c l))
      ∧ (wOp w = 0x24 → R (.fmin e slot) fun l => minNum (a l) (b l))
      ∧ (wOp w = 0x25 → R (.fmax e slot) fun l => maxNum (a l) (b l)))
  ∧ (∀ (s s1 : State) (e slot : Nat) (g : Group) (path : Path) (rest : List Path) (prog : ProgramRun) (w : Nat) (f : Fmt),
      AtIssue s s1 e slot g path rest prog w → tyFmt (wTy w) = some f →
      let holds (l : Nat) :=
        let a := numA g w l f
        let b := numB g w l f
        (wAux w = 0 ∧ numEq a b = true) ∨ (wAux w = 1 ∧ numLt a b = true ∧ numEq a b = false)
        ∨ (wAux w = 2 ∧ (numLt a b = true ∨ numEq a b = true)) ∨ (wAux w = 3 ∧ (a = .nan ∨ b = .nan))
      (wOp w = 0x26 → Relation (.fcmp e slot) s s1 e slot g path rest w holds)
      ∧ (wOp w = 0x45 → Relation (.wcmp e slot) s s1 e slot g path rest w holds))

/-- FDIV and FSQRT (R38, R151, R171): a NaN operand gives the canonical NaN; a finite quotient by a nonzero divisor
and the root of a finite positive value are rounded once, as are the limits at an infinity. FRCP, FRSQRT, FEXP2,
FLOG2, FSIN and FCOS (R38, R151, R171): each issues and writes RD; a NaN gives the canonical NaN, the infinities at
which a limit exists give it, and zero gives the sine and the cosine of zero. -/
def Obligations.DivideRootAndTranscendentalsWriteRd : Prop :=
  (∀ (s s1 : State) (e slot : Nat) (g : Group) (path : Path) (rest : List Path) (prog : ProgramRun) (w : Nat) (f : Fmt),
      AtIssue s s1 e slot g path rest prog w → tyFmt (wTy w) = some f →
      let rd (g' : Group) (l : Nat) := regRead g' l (wRd w) (tyRegs (wTy w))
      let bitsOf (v : Machine.Num) := regValue (wTy w) (encodeNum f v)
      let round (l : Nat) (x : Ex) := roundFloat f (wordRm w) .ieee (wordDraw prog g w l) x
      (wOp w = 0x30 → Result (.fdiv e slot) s s1 e slot g path rest w fun g' l =>
        (numA g w l f = .nan ∨ numB g w l f = .nan → rd g' l = bitsOf .nan)
        ∧ (∀ x m p y k q, numA g w l f = .fin x m p → numB g w l f = .fin y k q → m ≠ 0 → k ≠ 0 →
            rd g' l = bitsOf (round l (divFin x m p y k q)))
        ∧ (∀ x y k q, numA g w l f = .inf x → numB g w l f = .fin y k q → rd g' l = bitsOf (.inf (x != y)))
        ∧ ∀ x m p y, numA g w l f = .fin x m p → numB g w l f = .inf y → rd g' l = bitsOf (numZero (x != y)))
      ∧ (wOp w = 0x31 → Result (.fsqrt e slot) s s1 e slot g path rest w fun g' l =>
        (numA g w l f = .nan → rd g' l = bitsOf .nan) ∧ (numA g w l f = .inf false → rd g' l = bitsOf (.inf false))
        ∧ ∀ m p, numA g w l f = .fin false m p → m ≠ 0 → rd g' l = bitsOf (round l (sqrtFin m p))))
  ∧ (∀ (s s1 : State) (e slot : Nat) (g : Group) (path : Path) (rest : List Path) (prog : ProgramRun) (w : Nat) (f : Fmt),
      AtIssue s s1 e slot g path rest prog w → tyFmt (wTy w) = some f →
      let rd (g' : Group) (l : Nat) := regRead g' l (wRd w) (tyRegs (wTy w))
      let bitsOf (v : Machine.Num) := regValue (wTy w) (encodeNum f v)
      let R (i : Instr) (P : (Nat → Machine.Num → Machine.Num → Prop)) := Result i s s1 e slot g path rest w fun g' l =>
        (∃ v, rd g' l = bitsOf v) ∧ (numA g w l f = .nan → rd g' l = bitsOf .nan)
        ∧ ∀ x y, P l x y → numA g w l f = x → rd g' l = bitsOf y
      (wOp w = 0x32 → R (.frcp e slot) fun _ x y => ∃ n, x = .inf n ∧ y = numZero n)
      ∧ (wOp w = 0x33 → R (.frsqrt e slot) fun _ x y => x = .inf false ∧ y = numZero false)
      ∧ (wOp w = 0x34 → R (.fexp2 e slot) fun _ x y =>
          (x = .inf false ∧ y = .inf false) ∨ (x = .inf true ∧ y = numZero false))
      ∧ (wOp w = 0x35 → R (.flog2 e slot) fun _ x y => x = .inf false ∧ y = .inf false)
      ∧ (wOp w = 0x36 → R (.fsin e slot) fun _ x y => ∃ n p, x = .fin n 0 p ∧ y = .fin n 0 0)
      ∧ (wOp w = 0x37 → R (.fcos e slot) fun l x y => ∃ n p, x = .fin n 0 p
          ∧ y = convertNum f (wordRm w) .ieee (wordDraw prog g w l) (.fin false 1 0)))

/-- WADD, WMUL, WFMA, WMIN, WMAX, WCLAMP and WRELU (R40, R53, R152, R171): the exact result rounded to odd into W, whatever
the word's rounding mode. -/
def Obligations.WideInstructionsRoundToOdd : Prop :=
  ∀ (s s1 : State) (e slot : Nat) (g : Group) (path : Path) (rest : List Path) (prog : ProgramRun) (w : Nat),
    AtIssue s s1 e slot g path rest prog w →
    let a (l : Nat) := numA g w l .w
    let b (l : Nat) := numB g w l .w
    let c (l : Nat) := numC g w l .w
    let R (i : Instr) (x : Nat → Machine.Num) := WritesRd i s s1 e slot g path rest w 3 (OddRd w x)
    (wOp w = 0x17 → R (.wrelu e slot) fun l => maxNum (a l) (numZero false))
    ∧ (wOp w = 0x40 → R (.wadd e slot) fun l => addNum .rne (a l) (b l))
    ∧ (wOp w = 0x41 → R (.wmul e slot) fun l => mulNum (a l) (b l))
    ∧ (wOp w = 0x42 → R (.wfma e slot) fun l => addNum .rne (mulNum (a l) (b l)) (c l))
    ∧ (wOp w = 0x43 → R (.wmin e slot) fun l => minNum (a l) (b l))
    ∧ (wOp w = 0x44 → R (.wmax e slot) fun l => maxNum (a l) (b l))
    ∧ (wOp w = 0x46 → R (.wclamp e slot) fun l => minNum (maxNum (a l) (b l)) (c l))

/-- CVT, WCVTIN, WCVTOUT and WROUND (R41, R152, R171): a value held in one format, converted to another with one
rounding under RM and OV. -/
def Obligations.ConversionsRoundOnce : Prop :=
  ∀ (s s1 : State) (e slot : Nat) (g : Group) (path : Path) (rest : List Path) (prog : ProgramRun) (w : Nat)
    (f d : Fmt) (ov : Ov),
    AtIssue s s1 e slot g path rest prog w → fmtOfCode (wFmt w) = some f → ovOfCode (wOv w) = some ov →
    let held (l n : Nat) := decodeNum f (regRead g l (wRa w) n % 2 ^ fmtBits f)
    let conv (d : Fmt) (l : Nat) (v : Machine.Num) := convertNum d (wordRm w) ov (wordDraw prog g w l) v
    let R (i : Instr) (n : Nat) (x : Nat → Nat) := WritesRd i s s1 e slot g path rest w n fun g' l =>
      regRead g' l (wRd w) n = x l % 2 ^ (32 * n)
    (wOp w = 0x38 → fmtOfCode (wRb w) = some d →
      R (.cvt e slot) (fmtRegs (wRb w)) fun l => encodeNum d (conv d l (held l (fmtRegs (wFmt w)))))
    ∧ (wOp w = 0x47 → R (.wcvtin e slot) 3 fun l => encodeNum .w (held l (fmtRegs (wFmt w))) % 2 ^ 80)
    ∧ (wOp w = 0x48 → R (.wcvtout e slot) (fmtRegs (wFmt w)) fun l => encodeNum f (conv f l (numA g w l .w)))
    ∧ (wOp w = 0x49 → R (.wround e slot) 3 fun l =>
        encodeNum .w (decodeNum f (encodeNum f (conv f l (numA g w l .w)))) % 2 ^ 80)

/-! ### Memory instructions, copies and counters of the engines (chapter 06) -/

namespace Sys2Proof.Claims

open Sys2Proof.Machine Sys2Proof.Safety

/-- The immediate that an address adds (R173). -/
def addrImm (w : Nat) : Int := if wI w then toSigned 16 (wImm w) else 0
/-- Device virtual address of a lane: the pair RA plus IMM. -/
def memAddr (g : Group) (w l : Nat) : Nat := (((regRead g l (wRa w) 2 : Nat) + addrImm w) % 2 ^ 64).toNat
/-- Offset of a lane in scratch or staging: RA plus IMM. -/
def spaceAddr (g : Group) (w l : Nat) : Int := (regRead g l (wRa w) 1 : Nat) + addrImm w

/-- An access of n bytes at an offset is aligned to a size and lies in a space of the grant, none of its bytes poisoned. -/
def Reaches (gr : Grant) (sp : Nat) (off : Int) (n size : Nat) : Prop :=
  off % (size : Int) = 0 ∧ 0 ≤ off ∧ off + (n : Int) ≤ (spaceSize gr sp : Nat)
    ∧ ∀ a ∈ spacePoison gr sp, (a : Int) < off ∨ off + (n : Int) ≤ a

/-- The instruction as it issues, as the meanings see it. -/
def cur (e slot : Nat) (g : Group) (path : Path) (rest : List Path) (prog : ProgramRun) (w : Nat) : Cur :=
  ⟨e, slot, g, path, rest, prog, w⟩

/-- Loads of lanes one after another: each reads n bytes of memory at its address, none poisoned (R193). -/
inductive LanesLoad (e slot n : Nat) (addr val : Nat → Nat) : List Nat → State → State → Prop
  | nil (s : State) : LanesLoad e slot n addr val [] s s
  | cons (l : Nat) (ls : List Nat) (b : List (Byte × Bool)) (s s1 s2 : State) :
      vaRead (engineKeep s e) e (laneOwner e slot l) .read (addr l) n s = (.data b, s1) → anyPoison b = false →
      ofBytes (plain b) = val l → LanesLoad e slot n addr val ls s1 s2 → LanesLoad e slot n addr val (l :: ls) s s2

/-- Stores of lanes one after another, each performed. -/
inductive LanesStore (e slot n : Nat) (addr val : Nat → Nat) : List Nat → State → State → Prop
  | nil (s : State) : LanesStore e slot n addr val [] s s
  | cons (l : Nat) (ls : List Nat) (s s1 s2 : State) :
      vaWrite (engineKeep s e) e (laneOwner e slot l) (addr l) (toBytes n (val l)) false s = (.done, s1) →
      LanesStore e slot n addr val ls s1 s2 → LanesStore e slot n addr val (l :: ls) s s2

/-- What the atomics of the lanes below a bound that name an address leave there, in ascending lane order (R161). -/
def atomsBelow (r : Nat → AtomReq) (addr : Nat → Int) (lanes : List Nat) (a : Int) (bound x : Nat) : Nat :=
  (lanes.filter fun l => decide (addr l = a) && decide (l < bound)).foldl (fun y l => atomNew (r l) y) x

/-- The instruction goes on after its word with its registers as they were, and P holds of the state it leaves. -/
def GoesOn (i : Instr) (s : State) (e slot : Nat) (g : Group) (path : Path) (rest : List Path) (P : State → Prop) :
    Prop :=
  ∃ t g', exec i s = .next t ∧ tfind (t.engine e).slots slot = some g' ∧ g'.regs = g.regs ∧ g'.ring = g.ring
    ∧ g'.index = g.index ∧ PathsOn path rest ((path.pc + 8) % 2 ^ 64) g' ∧ P t

/-- The program of a group has stopped with a result (R166). -/
def Stops (i : Instr) (s : State) (ring : Nat) (r : Res) : Prop :=
  ∃ t p, exec i s = .next t ∧ programOf t ring = some p ∧ p.stop = some r

/-- No transaction, queue, cache or directory entry holds a line: the home has nothing in flight. -/
def QuietHome (s : State) : Prop :=
  s.coh.txns = [] ∧ s.coh.queue = [] ∧ s.coh.snoops = [] ∧ s.coh.resps = [] ∧ s.coh.priv = [] ∧ s.coh.wbuf = []
  ∧ s.coh.dir = [] ∧ s.coh.sc = [] ∧ s.coh.victim = [] ∧ s.coh.loans = []

/-- The home has no message in flight. -/
def NothingInFlight (s : State) : Prop := s.coh.txns = [] ∧ s.coh.queue = [] ∧ s.coh.snoops = [] ∧ s.coh.resps = []

/-- No cache, write-back buffer, directory entry or system cache holds a line. -/
def UncachedLine (s : State) (k : Nat) : Prop :=
  (∀ p ∈ s.coh.priv, p.line ≠ k) ∧ (∀ p ∈ s.coh.wbuf, p.line ≠ k) ∧ dirEntry s k = none ∧ scCopy s k = none

/-- A request of an agent for a line places no loan (R208). -/
def NeedsNoLoan (s : State) (agent k : Nat) : Prop :=
  dieLocal s (k * 128) = none ∨ onLoan s k = true ∨ (dieLocal s (k * 128)).isSome ∧ dieLocal s (k * 128) = agentDie agent

/-- The bytes of a slot as every agent sees them. -/
def slotNow (s : State) (pa : Nat) (fp64 : Bool) : List Byte :=
  (linePieces pa (slotBytes fp64)).flatMap fun p => plain (lineBytes s p.1 p.2)

end Sys2Proof.Claims

open Sys2Proof.Claims

/-- LD (R170, R173): from scratch or staging and from memory, RD of every active lane takes the value at its address.
ST (R173): into scratch or staging, each byte takes the value of the highest active lane that stores to it and every
other byte of the space stays; into memory, each lane's store is performed in turn. No register changes. -/
def Obligations.LoadsAndStoresMoveTheirBytes : Prop :=
  (∀ (s s1 : State) (e slot : Nat) (g : Group) (path : Path) (rest : List Path) (prog : ProgramRun) (w : Nat),
      AtIssue s s1 e slot g path rest prog w → wOp w = 0x50 →
      let n := tyBits (wTy w) / 8
      let R (s1 : State) (val : Nat → Nat) := Result (.ld e slot) s s1 e slot g path rest w fun g' l =>
        regRead g' l (wRd w) (tyRegs (wTy w)) = regValue (wTy w) (val l)
      (∀ gr, wSpace w ≠ 0 → grantOf (s1.engine e) g.ring = some gr →
        (∀ l, Active path l → Reaches gr (wSpace w) (spaceAddr g w l) n n) →
        R s1 fun l => ofBytes (memRead (spaceMem gr (wSpace w)) (spaceAddr g w l).toNat n))
      ∧ ∀ s2 val, wSpace w = 0 → (wSc w ≠ 3 ∨ bit (wOrd w) 1 = false) → (∀ l, Active path l → memAddr g w l % n = 0) →
        LanesLoad e slot n (memAddr g w) val (lanesOf path.lanes) s1 s2 → R s2 val)
  ∧ (∀ (s s1 : State) (e slot : Nat) (g : Group) (path : Path) (rest : List Path) (prog : ProgramRun) (w : Nat),
      AtIssue s s1 e slot g path rest prog w → wOp w = 0x51 →
      let n := tyBits (wTy w) / 8
      let val (l : Nat) := tyRead g l (wTy w) (wRd w)
      let off (l : Nat) := (spaceAddr g w l).toNat
      (∀ gr, wSpace w ≠ 0 → grantOf (s1.engine e) g.ring = some gr →
        (∀ l, Active path l → Reaches { gr with scratchPoison := [], stagingPoison := [] } (wSpace w) (spaceAddr g w l) n n) →
        GoesOn (.st e slot) s e slot g path rest fun t => EnginesOnly s1 t ∧ OtherEngines e s1 t
          ∧ ∃ gr', grantOf (t.engine e) g.ring = some gr'
            ∧ (∀ l a, Active path l → off l ≤ a → a < off l + n →
                (∀ k, Active path k → l < k → ¬ (off k ≤ a ∧ a < off k + n)) →
                memByte (spaceMem gr' (wSpace w)) a = nth 0 (toBytes n (val l)) (a - off l))
            ∧ ∀ a, (∀ l, Active path l → ¬ (off l ≤ a ∧ a < off l + n)) →
                memByte (spaceMem gr' (wSpace w)) a = memByte (spaceMem gr (wSpace w)) a)
      ∧ ∀ s2, wSpace w = 0 → (wSc w ≠ 3 ∨ bit (wOrd w) 1 = false) → (∀ l, Active path l → memAddr g w l % n = 0) →
        LanesStore e slot n (memAddr g w) val (lanesOf path.lanes) s1 s2 →
        IssuesAs (.st e slot) s s2 e slot g fun g' => PathsOn path rest ((path.pc + 8) % 2 ^ 64) g' ∧ g'.regs = g.regs)

/-- ATOM in scratch or staging, of every kind but exact add (R160, R161): each lane gets the value that the lower lanes of
its address have left, each address holds what all its lanes leave, and every other byte of the space stays. -/
def Obligations.AtomicsRunInLaneOrder : Prop :=
  ∀ (s s1 : State) (e slot : Nat) (g : Group) (path : Path) (rest : List Path) (prog : ProgramRun) (w : Nat)
    (gr : Grant),
    AtIssue s s1 e slot g path rest prog w → wOp w = 0x52 →
    wSpace w ≠ 0 → wAux w % 16 ≠ 11 → grantOf (s1.engine e) g.ring = some gr →
    let n := tyBits (wTy w) / 8
    let sp := wSpace w
    (∀ l, Active path l → Reaches gr sp (spaceAddr g w l) n n) →
    let lanes := lanesOf path.lanes
    let req (l : Nat) : AtomReq :=
      { kind := atomKindOf (wAux w % 16) (wTy w), size := n, operand := second g l w, compare := tyRead g l (wTy w) (wRc w) }
    let old (a : Int) := ofBytes (memRead (spaceMem gr sp) a.toNat n)
    ∃ t g' gr', exec (.atom e slot) s = .next t ∧ EnginesOnly s1 t ∧ OtherEngines e s1 t
      ∧ tfind (t.engine e).slots slot = some g' ∧ PathsOn path rest ((path.pc + 8) % 2 ^ 64) g'
      ∧ (∀ l, Active path l → regRead g' l (wRd w) (tyRegs (wTy w)) = regValue (wTy w)
            (atomsBelow req (spaceAddr g w) lanes (spaceAddr g w l) l (old (spaceAddr g w l))))
      ∧ OtherRegs path (wRd w) (tyRegs (wTy w)) g g'
      ∧ grantOf (t.engine e) g.ring = some gr'
      ∧ (∀ l, Active path l → ofBytes (memRead (spaceMem gr' sp) (spaceAddr g w l).toNat n) =
            atomsBelow req (spaceAddr g w) lanes (spaceAddr g w l) 32 (old (spaceAddr g w l)) % 2 ^ (8 * n))
      ∧ ∀ a : Nat, (∀ l, Active path l → (a : Int) < spaceAddr g w l ∨ spaceAddr g w l + (n : Int) ≤ a) →
          memByte (spaceMem gr' sp) a = memByte (spaceMem gr sp) a

/-- EXRD of a path of one lane (R213, R215), on a slot that no cache holds and with nothing in flight at the homes:
the slot's sum is converted once to the destination format, and RD takes it. EXACT_ADD and the order of exact adds
(R210, R213, R214): values added in any order leave the same bytes; at the home each value is added to the slot,
memory's own copy staying as it is until the line is written back; a misaligned slot is refused with no effect. -/
def Obligations.ExactSlotsAddAndConvertOnce : Prop :=
  (∀ (s s1 s2 : State) (e slot l pa : Nat) (g : Group) (path : Path) (rest : List Path) (prog : ProgramRun) (w : Nat)
      (f : Fmt) (ov : Ov),
      AtIssue s s1 e slot g path rest prog w → wOp w = 0x53 → lanesOf path.lanes = [l] →
      fmtOfCode (wFmt w) = some f → ovOfCode (wOv w) = some ov →
      let fp64 := wTy w == 6
      let n := slotBytes fp64
      let va := regRead g l (wRa w) 2
      va % n = 0 → place e (if bit (wAux w) 7 then .atomic else .read) va s1 = (.pool pa false, s2) →
      NothingInFlight s2 → (∀ p ∈ linePieces pa n, UncachedLine s2 (p.1 / 128) ∧ NeedsNoLoan s2 e (p.1 / 128)) →
      rangePoisoned s2 pa n = false →
      let x := slotNum (wordRm w) fp64 ((linePieces pa n).flatMap fun p => plain (lineBytes s2 p.1 p.2))
      ∃ t g', exec (.exrd e slot) s = .next t ∧ tfind (t.engine e).slots slot = some g'
        ∧ PathsOn path rest ((path.pc + 8) % 2 ^ 64) g' ∧ OtherRegs path (wRd w) (fmtRegs (wFmt w)) g g'
        ∧ regRead g' l (wRd w) (fmtRegs (wFmt w)) =
            encodeNum f (convertNum f (wordRm w) ov (wordDraw prog g w l) x) % 2 ^ (32 * fmtRegs (wFmt w)))
  ∧ ((∀ (fp64 : Bool) (slot : List Byte) (vs ws : List Nat), vs.Perm ws → slot.length = slotBytes fp64 →
      vs.foldl (fun b v => slotAdd fp64 b v) slot = ws.foldl (fun b v => slotAdd fp64 b v) slot)
    ∧ ∀ (s : State) (pa : Nat) (fp64 : Bool) (vs : List Nat),
      let n := slotBytes fp64
      (pa % n ≠ 0 → exec (.exactAdd pa fp64 vs) s = .next s)
      ∧ (pa % n = 0 → poolBacked pa = true → QuietHome s → ∃ t, exec (.exactAdd pa fp64 vs) s = .next t
          ∧ slotNow t pa fp64 = vs.foldl (fun b v => slotAdd fp64 b v) (slotNow s pa fp64)
          ∧ t.pool = s.pool ∧ t.rings = s.rings ∧ t.engines = s.engines))

/-- COPY (R157): a copy of length bytes from the pair RA to the offset RB of the program's grant is queued on the
engine under the counter that AUX names, and the path goes on. A copy of no bytes is not queued (log entry 29). TCOPY
and TSTORE (R157, R159): a tensor descriptor that is read well formed gives a box. TCOPY queues a copy of its dense
bytes, if there are any; TSTORE stores the box's elements and goes on. COPY_DATA_ARRIVE (R157, R158): the bytes that
land, a COPY's range or whole elements of a TCOPY's box, stand in the grant from the copy's place on, poisoned where
they were, every other byte of it stays, and the arrival counter advances by their number modulo 2^32. -/
def Obligations.CopiesQueueLandAndCount : Prop :=
  (∀ (s s1 : State) (e slot : Nat) (g : Group) (path : Path) (rest : List Path) (prog : ProgramRun) (w : Nat) (gr : Grant),
      AtIssue s s1 e slot g path rest prog w → wOp w = 0x54 → grantOf (s.engine e) g.ring = some gr →
      let i := lowest path
      let off := regRead g i (wRb w) 1
      let len := regRead g i (wRc w) 1
      off + len ≤ spaceSize gr (wSpace w) → bit prog.counters (wFmt w) = true → (s.engine e).copies.length < 64 →
      GoesOn (.copy e slot) s e slot g path rest fun t => EnginesOnly s1 t ∧ OtherEngines e s t
        ∧ (0 < len → (t.engine e).copies = (s.engine e).copies ++ [{
              id := (s.engine e).nextCopy, ring := g.ring, element := g.index * 32 + i, toStaging := wSpace w == 2, dst := off
              counter := wFmt w, va := regRead g i (wRa w) 2, len := len, epoch := s1.xlt.epoch }])
        ∧ (len = 0 → (t.engine e).copies = (s.engine e).copies)
        ∧ (t.engine e).counters = (s.engine e).counters ∧ (t.engine e).grants = (s.engine e).grants)
  ∧ (∀ (s s1 : State) (e slot : Nat) (g : Group) (path : Path) (rest : List Path) (prog : ProgramRun) (w : Nat) (gr : Grant)
      (b : List (Byte × Bool)),
      AtIssue s s1 e slot g path rest prog w → grantOf (s.engine e) g.ring = some gr →
      let i := lowest path
      let va := regRead g i (wRa w) 2
      let off := regRead g i (wRb w) 1
      let d := parseTensor va (plain b)
      let reg (k : Nat) := regRead g i (wRc w + k) 1
      let box : CopyBox := ⟨d, (List.range d.rank).map reg, (List.range d.rank).map fun r => reg (8 + r)⟩
      let read := vaRead .once e (laneOwner e slot i) .read va 128 s1
      let s2 := read.2
      let store := boxStore (cur e slot g path rest prog w) box (memRead (spaceMem gr (wSpace w)) off (boxBytes box))
        (boxCount box) 0 s2
      va % 64 = 0 → read.1 = .data b → anyPoison b = false →
      tensorBad d = false → tensorFmtBad d = false → path.tstore = none → off + boxBytes box ≤ spaceSize gr (wSpace w) →
      (wOp w = 0x55 → bit prog.counters (wFmt w) = true → (s.engine e).copies.length < 64 →
        GoesOn (.tcopy e slot) s e slot g path rest fun t => EnginesOnly s2 t ∧ OtherEngines e s t
          ∧ (t.engine e).copies = (s.engine e).copies ++ (if boxBytes box = 0 then [] else [{
              id := (s.engine e).nextCopy, ring := g.ring, element := g.index * 32 + i, toStaging := wSpace w == 2, dst := off
              counter := wFmt w, va := d.at_, len := boxBytes box, box := some box, epoch := s2.xlt.epoch }]))
      ∧ (wOp w = 0x56 → (∀ a ∈ spacePoison gr (wSpace w), a < off ∨ off + boxBytes box ≤ a) → (∃ v, store.1.1 = .value v) →
        IssuesAs (.tstore e slot) s store.2 e slot g fun g' => PathsOn path rest ((path.pc + 8) % 2 ^ 64) g' ∧ g'.regs = g.regs))
  ∧ (∀ (s : State) (e id bytes : Nat) (r : CopyRun) (gr : Grant) (b : List (Byte × Bool)),
      (s.engine e).copies.find? (fun r => r.id == id) = some r → r.counter < 32 → 0 < bytes →
      let unit := match r.box with | some b => elemLen b.d | none => 1
      let n := min (max unit (bytes / unit * unit)) (r.len - r.done)
      let read := match r.box with
        | some b => boxRead e r b (n / unit) (r.done * 8 / tbits b.d) s
        | none => vaRead .once e (.engine e (8192 + id)) .read ((r.va + r.done) % 2 ^ 64) n s
      let m := b.length
      read.1 = .data b → 0 < m → r.done + m ≤ r.len → grantOf (s.engine e) r.ring = some gr →
      let sp := if r.toStaging then 2 else 1
      ∃ t gr', exec (.copyDataArrive e id bytes) s = .next t ∧ EnginesOnly read.2 t ∧ OtherEngines e s t
        ∧ tget 0 (t.engine e).counters r.counter = tget 0 (s.engine e).counters r.counter + BitVec.ofNat 32 m
        ∧ (∀ k, k ≠ r.counter → tget 0 (t.engine e).counters k = tget 0 (s.engine e).counters k)
        ∧ grantOf (t.engine e) r.ring = some gr'
        ∧ (∀ k, k < m → memByte (spaceMem gr' sp) (r.dst + r.done + k) = (nth (0, false) b k).1
            ∧ (r.dst + r.done + k ∈ spacePoison gr' sp ↔ (nth (0, false) b k).2 = true))
        ∧ (∀ a, a < r.dst + r.done ∨ r.dst + r.done + m ≤ a →
            memByte (spaceMem gr' sp) a = memByte (spaceMem gr sp) a ∧ (a ∈ spacePoison gr' sp ↔ a ∈ spacePoison gr sp))
        ∧ (r.done + m = r.len → ∀ q ∈ (t.engine e).copies, q.id ≠ id)
        ∧ (r.done + m < r.len → (t.engine e).copies.find? (fun r => r.id == id) = some { r with done := r.done + m }))

/-- RDCNT, SETCNT and WAIT (R158): RDCNT reads a counter, SETCNT writes one that the program has reserved, and WAIT
goes on where the counter has reached its target modulo 2^32 and blocks its path where it has not. WAIT_SATISFIED and
WAIT_TIMEOUT (R158, R159): a path whose counter has reached its target may issue again, every other path stays; a wait
that is not satisfied in time stops its program with FABRIC_TIMEOUT. FENCE (R217): at every scope below the fabric,
and at the fabric's where every packet of the path's threads is acknowledged, the accesses before it are performed and
the path goes on; else the path waits at it. -/
def Obligations.CountersWaitsAndFences : Prop :=
  (∀ (s s1 : State) (e slot : Nat) (g : Group) (path : Path) (rest : List Path) (prog : ProgramRun) (w : Nat),
      AtIssue s s1 e slot g path rest prog w →
      let k := wFmt w
      let v := BitVec.ofNat 32 (regRead g (lowest path) (wRa w) 1)
      let c := tget 0 (s1.engine e).counters k
      (wOp w = 0x57 → Result (.rdcnt e slot) s s1 e slot g path rest w fun g' l => regRead g' l (wRd w) 1 = c.toNat)
      ∧ (wOp w = 0x58 → bit prog.counters k = true →
        GoesOn (.setcnt e slot) s e slot g path rest fun t => EnginesOnly s1 t ∧ OtherEngines e s1 t
          ∧ tget 0 (t.engine e).counters k = v
          ∧ ∀ j, j ≠ k → tget 0 (t.engine e).counters j = tget 0 (s1.engine e).counters j)
      ∧ (wOp w = 0x58 → bit prog.counters k = false → programOf s1 g.ring = some prog →
        Stops (.setcnt e slot) s g.ring
          { status := 0x31, role := 11, reason := 0xF, element := g.index * 32 + lowest path, address := path.pc })
      ∧ (wOp w = 0x59 → (c - v).toNat < 2 ^ 31 → IssuesAs (.wait e slot) s s1 e slot g fun g' =>
          PathsOn path rest ((path.pc + 8) % 2 ^ 64) g' ∧ g'.regs = g.regs)
      ∧ (wOp w = 0x59 → 2 ^ 31 ≤ (c - v).toNat → IssuesAs (.wait e slot) s s1 e slot g fun g' =>
          g'.regs = g.regs ∧ { path with pc := (path.pc + 8) % 2 ^ 64, st := .counter k v, tstore := none } ∈ g'.paths))
  ∧ (∀ (s : State) (e slot : Nat) (g : Group) (p : Path) (k : Nat) (v : BitVec 32),
      tfind (s.engine e).slots slot = some g → p ∈ g.paths → p.st = .counter k v →
      let c := tget 0 (s.engine e).counters k
      ((c - v).toNat < 2 ^ 31 → IssuesAs (.waitSatisfied e slot) s s e slot g fun g' =>
        g'.regs = g.regs ∧ { p with st := .ready } ∈ g'.paths
        ∧ ∀ q ∈ g.paths, (∀ j x, q.st ≠ .counter j x) → q ∈ g'.paths)
      ∧ ∀ prog, 2 ^ 31 ≤ (c - v).toNat → (∀ q ∈ g.paths, q.lanes = p.lanes ∨ ∀ j x, q.st ≠ .counter j x) →
        programOf s g.ring = some prog → prog.stop = none →
        Stops (.waitTimeout e slot) s g.ring { status := 0x51, element := g.index * 32 + lowest p })
  ∧ (∀ (s s1 : State) (e slot : Nat) (g : Group) (path : Path) (rest : List Path) (prog : ProgramRun) (w : Nat),
      AtIssue s s1 e slot g path rest prog w → wOp w = 0x5A →
      let mine := ∃ t ∈ s1.fab.tx, ∃ k, t.owner = .engine e k ∧ k / 32 = slot ∧ Active path (k % 32)
      (wSc w ≠ 3 ∨ ¬ mine → IssuesAs (.fence e slot) s s1 e slot g fun g' =>
        PathsOn path rest ((path.pc + 8) % 2 ^ 64) g' ∧ g'.regs = g.regs)
      ∧ (wSc w = 3 → mine → IssuesAs (.fence e slot) s s1 e slot g fun g' =>
        g'.regs = g.regs ∧ { path with st := .asked } ∈ g'.paths))

namespace Sys2Proof.Claims

/-- The opcodes of Table 12 of chapter 06 with the command that issues each at an engine and a group slot. -/
def opcodes (e slot : Nat) : List (Nat × Instr) :=
  [(0x00, .nop e slot), (0x01, .iadd e slot), (0x02, .isub e slot), (0x03, .imul e slot), (0x04, .imulh e slot),
   (0x05, .and e slot), (0x06, .or e slot), (0x07, .xor e slot), (0x08, .shl e slot), (0x09, .shr e slot),
   (0x0A, .icmp e slot), (0x0B, .sel e slot), (0x0C, .mov e slot), (0x0D, .sreg e slot), (0x0E, .limm e slot),
   (0x10, .br e slot), (0x11, .brz e slot), (0x12, .brnz e slot), (0x13, .jmp e slot), (0x14, .join e slot),
   (0x15, .sleep e slot), (0x16, .exit e slot), (0x17, .wrelu e slot), (0x20, .fadd e slot), (0x21, .fsub e slot),
   (0x22, .fmul e slot), (0x23, .ffma e slot), (0x24, .fmin e slot), (0x25, .fmax e slot), (0x26, .fcmp e slot),
   (0x30, .fdiv e slot), (0x31, .fsqrt e slot), (0x32, .frcp e slot), (0x33, .frsqrt e slot), (0x34, .fexp2 e slot),
   (0x35, .flog2 e slot), (0x36, .fsin e slot), (0x37, .fcos e slot), (0x38, .cvt e slot), (0x40, .wadd e slot),
   (0x41, .wmul e slot), (0x42, .wfma e slot), (0x43, .wmin e slot), (0x44, .wmax e slot), (0x45, .wcmp e slot),
   (0x46, .wclamp e slot), (0x47, .wcvtin e slot), (0x48, .wcvtout e slot), (0x49, .wround e slot),
   (0x50, .ld e slot), (0x51, .st e slot), (0x52, .atom e slot), (0x53, .exrd e slot), (0x54, .copy e slot),
   (0x55, .tcopy e slot), (0x56, .tstore e slot), (0x57, .rdcnt e slot), (0x58, .setcnt e slot),
   (0x59, .wait e slot), (0x5A, .fence e slot)]

end Sys2Proof.Claims

/-- An illegal instruction word (R174) is not performed: whatever its opcode, the program stops with PROTECTION_FAULT, reason
0xF and role 12, at the lowest active lane of the path and the address of the word; nothing else of the state after the
fetch changes. A word of no opcode stops it at the turn that NOP takes. No group of a stopped program issues. -/
def Obligations.IllegalInstructionsStopTheProgram : Prop :=
  (∀ (s : State) (e slot : Nat) (g : Group) (path : Path) (rest : List Path) (prog p1 : ProgramRun) (w : Nat),
    Runnable s e slot g path rest prog → Brings (fetchAt s e slot path path.pc) w → legal w prog.regs = false →
    programOf (fetchAt s e slot path path.pc).2 g.ring = some p1 → p1.stop = none →
    let r : Res := { status := 0x31, role := 12, reason := 0xF, element := g.index * 32 + lowest path, address := path.pc }
    let S (i : Instr) := exec i s = .next (setProgram g.ring { p1 with stop := some r } (fetchAt s e slot path path.pc).2)
    (∀ x ∈ opcodes e slot, wOp w = x.1 → S x.2) ∧ ((∀ x ∈ opcodes e slot, wOp w ≠ x.1) → S (.nop e slot)))
  ∧ ∀ (s : State) (e slot : Nat) (g : Group) (prog : ProgramRun),
    tfind (s.engine e).slots slot = some g → programOf s g.ring = some prog → prog.stop ≠ none →
    ∀ x ∈ opcodes e slot, exec x.2 s = .next s

/-- GROUP_START (R143, R153, R164): the next group of an admitted program takes the lowest free slot of an engine that
has room for it, with one path of all 32 threads at ENTRY and every register 0. RECOVERY_MODE_EXIT and
ENGINE_CHECK_DONE (R148, R149): an engine in recovery mode, and one in start-up mode on a powered die, goes to
ready-group mode with REASON 0; nothing else changes. -/
def Obligations.GroupsStartAndEnginesRecover : Prop :=
  (∀ (s : State) (n e : Nat) (p : ProgramRun),
      programOf s n = some p → p.admitted = true → p.stop = none → e ∈ p.used → p.next < p.grid →
      ((s.engine e).slots.filter fun x => x.2.ring == n).length < p.groups → (∃ k, k < 128 ∧ tfind (s.engine e).slots k = none) →
      ∃ t k g, exec (.groupStart n e) s = .next t ∧ k < 128 ∧ tfind (s.engine e).slots k = none
        ∧ (∀ j, j < k → tfind (s.engine e).slots j ≠ none) ∧ tfind (t.engine e).slots k = some g
        ∧ g.ring = n ∧ g.index = p.next ∧ g.paths = [{ pc := p.entry, lanes := 0xFFFFFFFF }]
        ∧ (∀ l r m, regRead g l r m = 0) ∧ OtherEngines e s t ∧ t.pool = s.pool ∧ t.coh = s.coh
        ∧ programOf t n = some { p with next := p.next + 1, live := p.live ++ [p.next] }
        ∧ ∀ j, j ≠ k → tfind (t.engine e).slots j = tfind (s.engine e).slots j)
  ∧ (∀ (s : State) (e : Nat),
      ((s.engine e).mode = 3 → ∃ t, exec (.recoveryModeExit e) s = .next t ∧ EnginesOnly s t ∧ OtherEngines e s t
        ∧ t.engine e = { s.engine e with mode := 0, reason := 0, cleanTurns := 0 })
      ∧ ((s.engine e).mode = 1 → (e / 136 + 1) ∉ s.pwr.dieOff → ∃ t, exec (.engineCheckDone e) s = .next t
        ∧ EnginesOnly s t ∧ OtherEngines e s t ∧ t.engine e = { s.engine e with mode := 0, reason := 0 }))

/-! ### Coherence, cores and memory (chapters 07 and 08) -/

namespace Sys2Proof.Claims

open Sys2Proof.Machine Sys2Proof.Safety

/-- No message and no request stands on a backed line that no loan concerns, and no cache holds it (directory state I, Table 3 of chapter
08); its copy in the system cache, if any, is whole and stands in its own slice. -/
structure IdleLine (s : State) (line : Nat) : Prop where
  free : txnOf s line = none
  unqueued : lineQueued s line = false
  room : sliceLoad s (sliceOf line) < 256
  shared : dieLocal s (line * 128) = none
  backed : poolBacked (line * 128) = true
  unheld : dirEntry s line = none
  quiet : (∀ n ∈ s.coh.snoops, n.line ≠ line) ∧ ∀ r ∈ s.coh.resps, r.line ≠ line
  whole : ∀ l, scCopy s line = some l → l.data.length = 128
  placed : ∀ i l, l ∈ tget [] s.coh.victim i → l.line = line → i = sliceOf line

/-- The directory lists a line at one place. -/
def OnceInDir (s : State) (line : Nat) : Prop :=
  ∀ i j, i < 16 → j < 16 → ∀ d e, tfind s.coh.dir (dirBase line + i) = some d → d.line = line →
    tfind s.coh.dir (dirBase line + j) = some e → e.line = line → i = j

/-- A hot-page record reaches no memory: the event ring can take none (R334), or no threshold is set and no record waits (R248). -/
def NoHotPages (s : State) : Prop :=
  evtCanTake s = false ∨ (hotThreshold s.xlt 1 = 0 ∧ hotThreshold s.xlt 2 = 0 ∧ s.evt.held = [])

/-- Every request in the queue waits: for the transaction that blocks its line, or for one of the 256 of its slice (R204). -/
def QueueWaits (s : State) : Prop := ∀ w ∈ s.coh.queue, (txnOf s w.line).isSome = true ∨ 256 ≤ sliceLoad s (sliceOf w.line)

/-- The transaction of a line, granted with data, as the requester will take it (R202, R204). -/
def Granted (t : State) (line agent : Nat) (data : List Byte × Bool × Bool) : Prop :=
  ∃ x, txnOf t line = some x ∧ x.granted = true ∧ x.acked = false ∧ x.agent = agent
    ∧ (x.data, x.poison0, x.poison1) = data

/-- The directory shows a line held by one cache in E or M. -/
def AloneIn (t : State) (line cache : Nat) : Prop :=
  dirEntry t line = some { line := line, excl := true, ids := [cache] }

/-- A record with the package layer only is placed: where the event ring is off and 256 are not held, it is held (R334). -/
def Notes (cls reason addr param : Nat) (s t : State) : Prop :=
  flag s.evt.cfg 0 = false → s.evt.held.length < 256 →
    t.evt.held = s.evt.held ++ [{ cls := cls, reason := reason, addr := addr, param := param, ticks := s.hTicks.toNat }]

/-- A record of a class and reason for an address is placed with the die and the unit it concerns: where the event ring is off and
256 are not held, it is held (R333, R334). -/
def NotesUnit (cls reason addr die kind unit : Nat) (s t : State) : Prop :=
  flag s.evt.cfg 0 = false → s.evt.held.length < 256 → ∃ o, t.evt.held = s.evt.held ++ [o] ∧ o.cls = cls ∧ o.reason = reason
    ∧ o.addr = addr ∧ o.ticks = s.hTicks.toNat ∧ o.die = some die ∧ o.unitKind = some kind ∧ o.unit = unit

/-- A core executes instructions, and no FENCE holds back one of a kind (R195, R216). -/
def CoreReady (s : State) (k : Nat) (after : FenceSets → Bool) : Prop := coreServes s k = true ∧ fenced s k after = false

/-- A transaction waits for snoops that have been sent to caches. -/
def Snooped (t : State) (line : Nat) (sent : List (Nat × SnoopKind)) : Prop :=
  (∃ x, txnOf t line = some x ∧ x.granted = false ∧ x.waitFor = sent.map (·.1))
    ∧ ∀ p ∈ sent, { line := line, cache := p.1, kind := p.2 } ∈ t.coh.snoops

end Sys2Proof.Claims

open Sys2Proof.Claims

/-- RDS, RDU, UPG, RDONCE, WRLINE and ATOM_REQUEST on a line in directory state I (R201, R202, R209, Table 3 of
chapter 08): each is accepted and granted with the home's value, the requester of RDS, RDU and UPG becomes the one
holder, and a write or an atomic leaves the line's image with its bytes replaced and every other byte as it was.
Snoops of Table 3 of chapter 08 (R202, R213): to a holder in E or M, Share for RDS, Unique for RDU, Clean for RDONCE
and Invalidate for a write or a slot lock; to sharers, Forward to the F holder for RDS and Invalidate to each other
one for RDU. The transaction then waits for their answers. -/
def Obligations.RequestsAreGrantedOrSnoop : Prop :=
  (∀ (s : State) (c line off : Nat), IdleLine s line → QueueWaits s → NoHotPages s →
      let d := homeLine s line
      (cacheOn s c = true → privOf s c line = none →
        (∃ t, exec (.rds c line) s = .next t ∧ Granted t line c d ∧ AloneIn t line c)
        ∧ (∃ t, exec (.rdu c line) s = .next t ∧ Granted t line c d ∧ AloneIn t line c)
        ∧ ∃ t, exec (.upg c line) s = .next t ∧ Granted t line c d ∧ AloneIn t line c)
      ∧ (∃ t, exec (.rdonce c line) s = .next t ∧ Granted t line c d ∧ dirEntry t line = none)
      ∧ (∀ data, data ≠ [] → off + data.length ≤ 128 →
        ∃ t x, exec (.wrline c (line * 128 + off) data) s = .next t ∧ txnOf t line = some x ∧ x.granted = true
          ∧ (homeLine t line).1 = patch d.1 off data ∧ dirEntry t line = none)
      ∧ ∀ r : AtomReq, r.kind ≠ .exactAdd → 0 < r.size → (line * 128 + off) % r.size = 0 → off + r.size ≤ 128 →
        let old := ofBytes ((d.1.drop off).take r.size)
        ∃ t x, exec (.atomRequest c (line * 128 + off) r) s = .next t ∧ txnOf t line = some x ∧ x.granted = true
          ∧ x.result = old ∧ (homeLine t line).1 = patch d.1 off (toBytes r.size (atomNew r old)) ∧ dirEntry t line = none)
  ∧ (∀ (s : State) (c line o : Nat) (e : DirEntry), NoHotPages s → QueueWaits s → txnOf s line = none → lineQueued s line = false →
      sliceLoad s (sliceOf line) < 256 → dieLocal s (line * 128) = none → poolBacked (line * 128) = true →
      dirEntry s line = some e → e.doms = [] → c ≠ o → cacheOn s c = true → privOf s c line = none →
      (e.excl = true → e.ids = [o] →
        (∃ t, exec (.rds c line) s = .next t ∧ Snooped t line [(o, .share)])
        ∧ (∃ t, exec (.rdu c line) s = .next t ∧ Snooped t line [(o, .unique)])
        ∧ (∃ t, exec (.rdonce c line) s = .next t ∧ Snooped t line [(o, .clean)])
        ∧ (∃ t, exec (.wrline c (line * 128) [0]) s = .next t ∧ Snooped t line [(o, .invalidate)])
        ∧ (line % 4 ≠ 0 → ∃ t, exec (.slotLock (line / 4 * 4) line) s = .next t ∧ Snooped t line [(o, .invalidate)]))
      ∧ (e.excl = false → e.fwd = some o →
        (∃ t, exec (.rds c line) s = .next t ∧ Snooped t line [(o, .forward)])
        ∧ ((∃ k ∈ e.ids, k ≠ c) → ∃ t, exec (.rdu c line) s = .next t
            ∧ Snooped t line ((e.ids.filter fun k => k != c).map fun k => (k, .invalidate)))))

/-- SLOT_LOCK on a line that no cache holds (R213): the line is locked until its final acknowledgement. SNOOP_RECEIVE
(R202, R206, R212): a cache that holds the line answers with its data and changes state as Table 3 of chapter 08 says;
a core whose LR delays the snoop keeps the line and answers nothing yet. -/
def Obligations.SnoopsAreAnsweredAndSlotsLock : Prop :=
  (∀ (s : State) (line : Nat), IdleLine s line → QueueWaits s → line % 4 ≠ 0 →
      ∃ t x, exec (.slotLock (line / 4 * 4) line) s = .next t ∧ txnOf t line = some x ∧ x.granted = true ∧ x.acked = true
        ∧ ∀ c k, txnOf s k = none → k ≠ line → txnOf t k = none ∧ privOf t c k = privOf s c k)
  ∧ (∀ (s : State) (n : Snoop) (p : PrivLine),
      s.coh.snoops.find? (fun x => x.line == n.line && x.cache == n.cache) = some n → privOf s n.cache n.line = some p →
      let keep (st : LineState) (t : State) := privOf t n.cache n.line = some { p with st := st }
      (snoopDelayed s n = false → ∃ t, exec (.snoopReceive n.cache n.line) s = .next t ∧ t.pool = s.pool
        ∧ (∃ r ∈ t.coh.resps, r.line = n.line ∧ r.cache = n.cache ∧ r.hit = true ∧ (r.dirty = true ↔ p.st = .m)
            ∧ r.data = p.data ∧ r.poison0 = p.poison0 ∧ r.poison1 = p.poison1)
        ∧ (∀ x ∈ t.coh.snoops, ¬ (x.line = n.line ∧ x.cache = n.cache))
        ∧ (n.kind = .share ∨ n.kind = .forward → keep .s t)
        ∧ (n.kind = .clean → keep (if p.st = .m then .e else p.st) t)
        ∧ (n.kind = .unique ∨ n.kind = .invalidate → privOf t n.cache n.line = none
            ∧ ∀ k, n.cache = 544 + k → k < 152 → (t.core k).reservation ≠ some n.line))
      ∧ (snoopDelayed s n = true → ∃ t, exec (.snoopReceive n.cache n.line) s = .next t ∧ t.coh.priv = s.coh.priv
        ∧ t.coh.resps = s.coh.resps ∧ t.pool = s.pool ∧ { n with delayed := true } ∈ t.coh.snoops))

/-- SNOOP_RESPONSE_RECEIVE (R202): the last response of a RdS from a holder in E or M grants the transaction with that
holder's data. A response that others are still awaited with leaves the transaction waiting. COHERENCE_DATA_RECEIVE
and FINAL_ACK_RECEIVE (R202, R204): the requester of RdU takes the line in M, that of RdS in E where the directory
shows it alone and in F where it shares, RdOnce keeps nothing; the final acknowledgement unblocks the line. A
requester of Upg has the line in M, with its own data. A requester that the directory shows no more keeps nothing
(R199). -/
def Obligations.GrantsReachTheirRequester : Prop :=
  (∀ (s : State) (r : SnoopResp) (x : Txn),
      s.coh.resps.find? (fun y => y.line == r.line && y.cache == r.cache) = some r → txnOf s r.line = some x →
      r.hit = true → r.data.length = 128 → x.data = [] → x.req = .rds → x.granted = false → x.acked = false →
      (x.waitFor = [r.cache] → ∃ t, exec (.snoopResponseReceive r.line r.cache) s = .next t
        ∧ Granted t r.line x.agent (r.data, r.poison0, r.poison1) ∧ ∀ y ∈ t.coh.resps, ¬ (y.line = r.line ∧ y.cache = r.cache))
      ∧ ∀ o, x.waitFor = [r.cache, o] → o ≠ r.cache → ∃ t y, exec (.snoopResponseReceive r.line r.cache) s = .next t
        ∧ txnOf t r.line = some y ∧ y.granted = false ∧ y.waitFor = [o] ∧ y.data = r.data)
  ∧ (∀ (s : State) (line : Nat) (x : Txn), txnOf s line = some x →
      let has (st : LineState) (t : State) := ∃ w, privOf t x.agent line = some { cache := x.agent, line := line, st := st, data := x.data, poison0 := x.poison0, poison1 := x.poison1, way := w }
      let room := dirShows s x.agent line = true ∧ 0 < privWays s x.agent
      (x.granted = true → x.acked = false →
        ∃ t y, exec (.coherenceDataReceive line) s = .next t ∧ txnOf t line = some y ∧ y.acked = true
          ∧ (privFreeWay s x.agent line ≠ none → t.pool = s.pool)
          ∧ (x.req = .rdu → room → has .m t)
          ∧ (∀ off n, x.req = .rdonce off n → t.coh.priv = s.coh.priv ∧ t.pool = s.pool)
          ∧ (x.req = .rdu → dirShows s x.agent line = false → t.coh.priv = s.coh.priv)
          ∧ (∀ p, x.req = .upg → privOf s x.agent line = some p → privOf t x.agent line = some { p with st := .m } ∧ t.pool = s.pool)
          ∧ ∀ d, x.req = .rds → room → dirEntry s line = some d → has (if d.excl then .e else .f) t)
      ∧ (x.acked = true → s.coh.queue = [] →
        ∃ t, exec (.finalAckReceive line) s = .next t ∧ txnOf t line = none ∧ t.pool = s.pool ∧ t.coh.priv = s.coh.priv
          ∧ ∀ k, k ≠ line → txnOf t k = txnOf s k))

/-- WB and WB_ACK_RECEIVE (R202, R205): a line in M that leaves its cache waits in the write-back buffer, and the
home, which knows the cache as its holder, takes the data and acknowledges; the acknowledgement frees the buffer. EV
(R202): a line in E or F leaves its cache, and the home's directory no longer shows the cache. LOAN_RETURN and
LR_SNOOP_DELAY_EXPIRE (R208, R212): a granule on loan of which no line is held outside its die returns; the delay
after an LR ends, and the snoops that waited for it are answered. -/
def Obligations.WriteBacksEvictionsAndLoansEnd : Prop :=
  ((∀ (s : State) (c line : Nat) (p : PrivLine), privOf s c line = some p → p.st = .m → direct s c line = false →
      p.data.length = 128 → txnOf s line = none → lineQueued s line = false → ownerOf s line = some c → OnceInDir s line →
      (∀ l, scCopy s line = some l → l.data.length = 128) →
      ∃ t, exec (.wb c line) s = .next t ∧ privOf t c line = none ∧ wbufOf t c line = some p ∧ (c, line) ∈ t.coh.wbAcks
        ∧ dirEntry t line = none ∧ (homeLine t line).1 = p.data)
    ∧ ∀ (s : State) (c line : Nat), (c, line) ∈ s.coh.wbAcks →
      ∃ t, exec (.wbAckReceive c line) s = .next t ∧ wbufOf t c line = none ∧ t.coh.wbAcks = s.coh.wbAcks.erase (c, line)
        ∧ t.pool = s.pool ∧ t.coh.priv = s.coh.priv)
  ∧ (∀ (s : State) (c line : Nat) (p : PrivLine) (d : DirEntry), privOf s c line = some p → direct s c line = false →
      txnOf s line = none → lineQueued s line = false → dirEntry s line = some d →
      d.line = line → OnceInDir s line →
      (p.st = .e → d.excl = true → d.ids = [c] → d.doms = [] →
        ∃ t, exec (.ev c line) s = .next t ∧ privOf t c line = none ∧ dirEntry t line = none ∧ t.pool = s.pool)
      ∧ (p.st = .f → d.excl = false → d.fwd = some c → d.doms = [] → (∃ k ∈ d.ids, k ≠ c) →
        ∃ t, exec (.ev c line) s = .next t ∧ privOf t c line = none ∧ t.pool = s.pool
          ∧ dirEntry t line = some { d with ids := d.ids.filter (fun k => k != c), fwd := none }))
  ∧ ((∀ (s : State) (g : Nat), g ∈ s.coh.loans → heldOutside s g = false →
      ∃ t, exec (.loanReturn g) s = .next t ∧ g ∉ t.coh.loans ∧ ∀ k, k ≠ g → (k ∈ t.coh.loans ↔ k ∈ s.coh.loans))
    ∧ ∀ (s : State) (k : Nat), (s.core k).lrDelay = true →
      ∃ t, exec (.lrSnoopDelayExpire k) s = .next t ∧ (t.core k).lrDelay = false ∧ t.pool = s.pool
        ∧ ∀ n ∈ s.coh.snoops, n.cache = 544 + k → n.delayed = true →
          n ∉ t.coh.snoops ∧ ∃ r ∈ t.coh.resps, r.line = n.line ∧ r.cache = n.cache)

/-- CORE_LOAD (R179, R182, R193, R195, R200) completes: from the pool, one that reads no poison answers a next state
in which the core has the bytes as its cache, or for a page of the NC or IO type memory, gives them; from a line that
its cache holds, and from one that no cache holds, those are the bytes of the line's image, and no exception is taken.
A fetch of a line in the core's L1 instruction cache has its bytes (R198). One outside every region takes an access
fault with its address. One that a FENCE orders after itself waits (R216). CORE_STORE and CBO_ZERO (R182, R190, R193,
R200, R201) complete. A store to a line that the core's cache holds in E or M, or that no cache holds, answers a next
state in which the core has the line in M with the bytes replaced and every other byte as it was; one to a page of the
NC or IO type writes memory. CBO_ZERO on a line that no cache holds leaves it zeros without poison at the home, or for
a page of the NC or IO type in memory, and no cache keeps a copy; where envcfg disallows it, it is an illegal
instruction. -/
def Obligations.CoreLoadsAndStoresMoveTheirBytes : Prop :=
  (∀ (s : State) (k pa : Nat) (acc : CoreAcc), coreServes s k = true →
      let n := acc.size
      let s0 := coreRuns k acc.env s
      let right := if acc.fetch then 2 else 0
      let line := pa / 128
      let Returns (v : Nat) (P : State → Prop) := ∃ t, exec (.coreLoad k pa acc) s = .next t ∧ (t.core k).result = v ∧ P t
      (fenced s k (readAfter pa) = true → exec (.coreLoad k pa acc) s = .next s)
      ∧ (fenced s k (readAfter pa) = false → pmpPermits acc.env right pa n = true →
        (∀ b s2, coreRegion s0 pa n = .pool → (acc.fetch = false ∨ acc.uncached = true) →
          poolRead (coreKeep acc.uncached) (544 + k) pa n s0 = (b, s2) → anyPoison b = false →
          Returns (ofBytes (plain b)) fun t => t.pool = s2.pool ∧ (t.core k).exception = (s2.core k).exception)
        ∧ (∀ p, coreRegion s0 pa n = .pool → acc.fetch = false → acc.uncached = false → NoHotPages s0 → 0 < n →
          pa % 128 + n ≤ 128 → privOf s0 (544 + k) line = some p → anyPoison (lineBytes s0 pa n) = false →
          Returns (ofBytes (plain (lineBytes s0 pa n))) fun t =>
            (t.core k).exception = none ∧ t.pool = s0.pool ∧ t.coh.priv = s0.coh.priv)
        ∧ (coreRegion s0 pa n = .pool → acc.fetch = false → NoHotPages s0 → 0 < n → pa % 128 + n ≤ 128 →
          IdleLine s0 line → QueueWaits s0 → (∀ q ∈ s0.coh.priv, q.line ≠ line) → (∀ q ∈ s0.coh.wbuf, q.line ≠ line) →
          privFreeWay s0 (544 + k) line ≠ none →
          let d := homeLine s0 line
          d.2.1 = false → d.2.2 = false →
          Returns (ofBytes ((d.1.drop (pa % 128)).take n)) fun t =>
            (t.core k).exception = none ∧ (acc.uncached = false → ∃ w, privOf t (544 + k) line = some { cache := 544 + k, line := line, st := .e, data := d.1, way := w }))
        ∧ (∀ l, coreRegion s0 pa n = .pool → acc.fetch = true → acc.uncached = false → 0 < n → pa % 128 + n ≤ 128 →
          (s0.core k).l1i.find? (fun x => x.line == line) = some l → l.poison0 = false → l.poison1 = false →
          Returns (ofBytes ((List.range n).map fun i => nth 0 l.data (pa % 128 + i))) fun t =>
            (t.core k).exception = none ∧ t.pool = s0.pool ∧ t.coh.priv = s0.coh.priv)
        ∧ (coreRegion s0 pa n = .unbacked → ∃ t, exec (.coreLoad k pa acc) s = .next t ∧ Notes 0x12 0 pa 0 s0 t
          ∧ (flag s0.evt.cfg 0 = false → (t.core k).exception = some (if acc.fetch then 1 else 5) ∧ (t.core k).tval = pa))))
  ∧ (∀ (s : State) (k pa val : Nat) (acc : CoreAcc) (env : CoreEnv), CoreReady s k (writeAfter pa) →
      let n := acc.size
      let s0 := coreRuns k acc.env s
      let z0 := coreRuns k env s
      let line := pa / 128
      let Writes (old : List Byte) (P : State → Prop) := ∃ t q, exec (.coreStore k pa acc val) s = .next t
        ∧ privOf t (544 + k) line = some q ∧ q.st = .m ∧ q.data = patch old (pa % 128) (toBytes n val) ∧ P t
      (coreRegion s0 pa n = .pool → 0 < n → pa % 128 + n ≤ 128 → NoHotPages s0 → lrHolds s0 (544 + k) line = false →
        pmpPermits acc.env 1 pa n = true →
        (∀ p, acc.uncached = false → privOf s0 (544 + k) line = some p → (p.st = .m ∨ p.st = .e) →
          Writes p.data fun t => t.pool = s0.pool ∧ ∀ c l, (c, l) ≠ (544 + k, line) → privOf t c l = privOf s0 c l)
        ∧ (IdleLine s0 line → QueueWaits s0 → (∀ q ∈ s0.coh.priv, q.line ≠ line) →
          (acc.uncached = false → privFreeWay s0 (544 + k) line ≠ none →
            Writes (homeLine s0 line).1 fun t => txnOf t line = none ∧ AloneIn t line (544 + k))
          ∧ (acc.uncached = true → scCopy s0 line = none → ∃ t, exec (.coreStore k pa acc val) s = .next t
            ∧ dramLine t line = patch (dramLine s0 line) (pa % 128) (toBytes n val) ∧ ∀ q ∈ t.coh.priv, q.line ≠ line)))
      ∧ (coreRegion z0 (line * 128) 128 = .pool → envcfgAll env (bit · 7) = true → pmpPermits env 1 (line * 128) 128 = true →
        lrHolds z0 (544 + k) line = false → NoHotPages z0 → IdleLine z0 line → QueueWaits z0 → (∀ q ∈ z0.coh.priv, q.line ≠ line) →
        ∀ u, (u = true → scCopy z0 line = none) →
        ∃ t, exec (.cboZero k ⟨pa, env, u⟩) s = .next t ∧ homeLine t line = (List.replicate 128 0, false, false)
          ∧ txnOf t line = none ∧ dirEntry t line = none ∧ (∀ q ∈ t.coh.priv, q.line ≠ line)
          ∧ (u = true → dramLine t line = List.replicate 128 0))
      ∧ (envcfgAll env (bit · 7) = false → ∀ u, ∃ t, exec (.cboZero k ⟨pa, env, u⟩) s = .next t ∧ (t.core k).exception = some 2
        ∧ t.pool = z0.pool ∧ t.coh.priv = z0.coh.priv))

/-- CORE_AMO on a pool line in directory state I (R209, R210): the core gets the old value, and the line's image at
the home, or for a page of the NC or IO type in memory, takes the new one; an operand that is not naturally aligned
takes the misaligned exception instead. CORE_LR and CORE_SC (R212): LR on a line held in E or M reserves its 128-byte
granule and delays snoops that would take it; SC stores and gives 0 where the granule has stayed with the core since,
and gives 1 and stores nothing where it has not; either way the reservation is over. To memory of the NC or IO type
both take an access fault (log entry 101). -/
def Obligations.CoreAtomicsAndReservations : Prop :=
  (∀ (s : State) (k pa : Nat) (acc : CoreAcc) (r : AtomReq), coreAtomKnown r = true →
      CoreReady s k (fun f => readAfter pa f || writeAfter pa f) →
      let s0 := coreRuns k acc.env s
      let line := pa / 128
      (pa % r.size = 0 → coreRegion s0 pa r.size = .pool → pmpPermits acc.env 0 pa r.size = true →
        pmpPermits acc.env 1 pa r.size = true → lrHolds s0 (544 + k) line = false → IdleLine s0 line → NoHotPages s0 →
        s0.coh.queue = [] → rangePoisoned s0 pa r.size = false → (∀ q ∈ s0.coh.priv, q.line ≠ line) →
        (acc.uncached = true → scCopy s0 line = none) →
        let d := (homeLine s0 line).1
        let old := ofBytes ((d.drop (pa % 128)).take r.size)
        ∃ t, exec (.coreAmo k pa ⟨acc, r⟩) s = .next t ∧ (t.core k).result = old ∧ txnOf t line = none
          ∧ (homeLine t line).1 = patch d (pa % 128) (toBytes r.size (atomNew r old)))
      ∧ (pa % r.size ≠ 0 → ∃ t, exec (.coreAmo k pa ⟨acc, r⟩) s = .next t ∧ (t.core k).exception = some 6 ∧ t.pool = s0.pool))
  ∧ (∀ (s : State) (k pa val : Nat) (acc : CoreAcc),
      let n := acc.size
      let s0 := coreRuns k acc.env s
      let line := pa / 128
      (n = 4 ∨ n = 8) → pa % n = 0 → CoreReady s k (readAfter pa) → CoreReady s k (writeAfter pa) →
      pmpPermits acc.env 0 pa n = true → pmpPermits acc.env 1 pa n = true → lrHolds s0 (544 + k) line = false →
      coreRegion s0 pa n = .pool → NoHotPages s0 → (∀ m ∈ s0.coh.snoops, m.cache ≠ 544 + k) →
      (acc.uncached = false → ∀ p, privOf s0 (544 + k) line = some p → (p.st = .m ∨ p.st = .e) → p.poison0 = false → p.poison1 = false →
        p.data.length = 128 → (∀ q ∈ s0.coh.priv, q.line = line → q = p) →
        (∃ t, exec (.coreLr k pa acc) s = .next t ∧ (t.core k).reservation = some line ∧ (t.core k).lrDelay = true
          ∧ (t.core k).result = ofBytes ((p.data.drop (pa % 128)).take n) ∧ t.pool = s0.pool)
        ∧ ((s0.core k).reservation = some line →
          ∃ t q, exec (.coreSc k pa acc val) s = .next t ∧ (t.core k).result = 0 ∧ (t.core k).reservation = none
            ∧ (t.core k).lrDelay = false ∧ privOf t (544 + k) line = some q ∧ q.st = .m
            ∧ q.data = patch p.data (pa % 128) (toBytes n val) ∧ t.pool = s0.pool))
      ∧ (acc.uncached = false → (s0.core k).reservation ≠ some line →
        ∃ t, exec (.coreSc k pa acc val) s = .next t ∧ (t.core k).result = 1 ∧ (t.core k).reservation = none
          ∧ t.pool = s0.pool ∧ t.coh.priv = s0.coh.priv)
      ∧ (acc.uncached = true → (∃ t, exec (.coreLr k pa acc) s = .next t ∧ (t.core k).exception = some 5
          ∧ (t.core k).reservation = (s0.core k).reservation ∧ t.pool = s0.pool ∧ t.coh = { s0.coh with cores := t.coh.cores })
        ∧ ∃ t, exec (.coreSc k pa acc val) s = .next t ∧ (t.core k).exception = some 7
          ∧ (t.core k).reservation = (s0.core k).reservation ∧ t.pool = s0.pool ∧ t.coh = { s0.coh with cores := t.coh.cores }))

/-- CBO_CLEAN, CBO_FLUSH and CBO_INVAL of a core on a pool block (R186, R187, R190): a clean writes the dirty copy to
memory and leaves no copy dirty; an invalidate discards every copy, and memory keeps its own bytes; a flush does the
one, then the other. Where envcfg disallows the instruction in the core's mode, it is an illegal instruction and
touches no line. CORE_FENCE and CORE_WFI (R198, R216, R384): a fence with O among its predecessors waits while a store
of the core to the fabric is not acknowledged end to end, and what its successor sets name waits for it; no other
fence waits. FENCE.I empties the core's L1 instruction cache. WFI is an issue turn and a retired instruction, and puts
the core to rest until its next one; a core at rest stays so. -/
def Obligations.CoreMaintenanceFencesAndWfi : Prop :=
  (∀ (s : State) (k addr : Nat) (u : Bool) (env : CoreEnv) (p : PrivLine), CoreReady s k (writeAfter addr) →
      let s0 := coreRuns k env s
      let line := addr / 128
      let cbcfe := envcfgAll env (bit · 6)
      let Illegal (i : Instr) := ∃ t, exec i s = .next t ∧ (t.core k).exception = some 2 ∧ t.pool = s0.pool
        ∧ t.coh.priv = s0.coh.priv
      (regionOf addr = .pool → txnOf s0 line = none → lineQueued s0 line = false → OnceInDir s0 line →
        lrHolds s0 (544 + k) line = false → pmpPermits env 0 (line * 128) 128 = true →
        (cbcfe = true → dirtyCopy s0 line = some p → p.data.length = 128 → scCopy s0 line = none →
          (∃ t, exec (.cboClean k ⟨addr, env, u⟩) s = .next t ∧ dramLine t line = p.data
            ∧ ∀ q ∈ t.coh.priv, q.line = line → q.st ≠ .m)
          ∧ ∃ t, exec (.cboFlush k ⟨addr, env, u⟩) s = .next t ∧ dramLine t line = p.data ∧ ∀ q ∈ t.coh.priv, q.line ≠ line)
        ∧ (cbieOff env = false → cbieFlush env = false → ∃ t, exec (.cboInval k addr env) s = .next t ∧ t.pool = s0.pool
            ∧ (∀ q ∈ t.coh.priv, q.line ≠ line) ∧ (∀ q ∈ t.coh.wbuf, q.line ≠ line) ∧ dirEntry t line = none))
      ∧ (cbcfe = false → Illegal (.cboClean k ⟨addr, env, u⟩) ∧ Illegal (.cboFlush k ⟨addr, env, u⟩))
      ∧ (cbieOff env = true → Illegal (.cboInval k addr env)))
  ∧ (∀ (s : State) (k : Nat) (f : FenceSets), coreServes s k = true →
      let s0 := coreRuns k (s.core k).env s
      let stores := ∃ x ∈ s0.fab.tx, x.owner = .core k ∧ x.kind ≠ .get
      (f.fencei = false → fenced s k (fun _ => true) = false →
        ∃ t, exec (.coreFence k f) s = .next t ∧ t.pool = s0.pool ∧ t.fab = s0.fab ∧ t.coh.priv = s0.coh.priv
          ∧ ((t.core k).waitsFence = true ↔ f.predO = true ∧ stores)
          ∧ (f.predO = true → stores → ∀ after, fenced t k after = after f))
      ∧ (f.fencei = true → ∃ t, exec (.coreFence k f) s = .next t ∧ (t.core k).l1i = [] ∧ t.pool = s0.pool
          ∧ t.coh.priv = s0.coh.priv)
      ∧ ((s.core k).wfi = true → exec (.coreWfi k) s = .next s)
      ∧ ((s.core k).wfi = false → ∃ t, exec (.coreWfi k) s = .next t ∧ (t.core k).wfi = true
          ∧ (t.core k).cycle = (s.core k).cycle + 1 ∧ (t.core k).instret = (s.core k).instret + 1
          ∧ (∀ j, j ≠ k → t.core j = s0.core j) ∧ t.pool = s0.pool ∧ t.rings = s0.rings ∧ t.engines = s0.engines))

/-- PATROL_SCRUB and MEMORY_READ_RETURN (R184, R191, R192, R193): more wrong symbols than the code of the memory
corrects, 8 of HBM4's and 2 of LPDDR5X's, poison their sector and place record 0x10 with REASON 1 for tier 1 and 2 for
tier 2, which names the stack or package and its die; a clean or a corrected one changes no byte and poisons nothing;
a sector that returns fills its line where that stands in the system cache without it. HOTPAGE_DECAY and
HOTPAGE_MUTE_EXPIRE (R248): every count is halved; a muted counter may place records again, and places none while its
count has not passed its threshold. -/
def Obligations.MemoryErrorsAndHotPageTimers : Prop :=
  (∀ (s : State) (sec wrong : Nat),
      let t2 := inTier2 (sec * 64)
      let limit := if t2 then 2 else 8
      let scrubbed := flag s.pool.scrub (if t2 then 1 else 0) = true
      let place := memoryUnit s (sec * 64)
      let Poisons (i : Instr) := ∃ t, exec i s = .next t
        ∧ NotesUnit 0x10 (if t2 then 2 else 1) (sec * 64) place.1 place.2.1 place.2.2 s t
        ∧ (flag s.evt.cfg 0 = false → sec ∈ t.pool.poison ∧ SameMem s t)
      (limit < wrong → poolBacked (sec * 64) = true → sec ∉ s.pool.poison →
        (scrubbed → Poisons (.patrolScrub sec wrong))
        ∧ (scFind s (sec / 2) = none → Poisons (.memoryReadReturn sec wrong)))
      ∧ (wrong ≤ limit → exec (.patrolScrub sec wrong) s = .next s)
      ∧ ∀ k l, wrong ≤ limit → scFind s (sec / 2) = some k → tfind s.coh.sc k = some l → l.line = sec / 2 →
          sec % 2 = 0 → l.valid0 = false →
          ∃ t l', exec (.memoryReadReturn sec wrong) s = .next t ∧ t.pool = s.pool ∧ tfind t.coh.sc k = some l' ∧ l'.valid0 = true
            ∧ l'.data.take 64 = memRead s.pool.mem (sec * 64) 64 ∧ l'.poison0 = s.pool.poison.contains sec)
  ∧ (∀ (s : State) (k region : Nat) (h : HotCtr), tfind s.xlt.hot k = some h →
      (field s.xlt.hotpage 48 8 ≠ 0 →
        ∃ t, exec .hotpageDecay s = .next t ∧ tfind t.xlt.hot k = some { h with count := h.count / 2 } ∧ t.pool = s.pool
          ∧ t.evt = s.evt)
      ∧ (field s.xlt.hotpage 48 8 = 0 → exec .hotpageDecay s = .next s)
      ∧ (h.region = region → (s.evt.held = [] ∨ evtCanTake s = false) → (∀ j g, tfind s.xlt.hot j = some g → g.count ≤ hotThreshold s.xlt g.cls) →
          ∃ t, exec (.hotpageMuteExpire region) s = .next t ∧ tfind t.xlt.hot k = some { h with muted := false } ∧ t.evt = s.evt
            ∧ t.pool = s.pool))

/-! ### Rings (chapter 12) -/

namespace Sys2Proof.Claims

open Sys2Proof.Machine Sys2Proof.Safety

/-- Ring n has written the record of its accepted descriptor (R319, R320, R326): COMPLETED counts it after DONE and DEFERRED
only; where no further descriptor has been submitted the ring is idle after these, and stopped after any other status, with
the record in its state entry. -/
def WritesRecord (s t : State) (n : Nat) (r : Res) : Prop :=
  let q := s.ring n
  (t.ring n).completed = (if r.status ≤ 1 then q.completed + 1 else q.completed) ∧ (t.ring n).head = q.head
  ∧ (q.head = q.tail →
      (t.ring n).state = (if r.status ≤ 1 then .idle else .stopped) ∧ (t.ring n).op = none ∧ (t.ring n).desc = none
      ∧ (t.ring n).last = recWords n r (descTag (q.desc.getD [])) (ringIndex q q.completed.toNat)
          (phaseOf q.completed.toNat (ringLog2 q.sq)) s.hTicks.toNat)

/-- The command i answers a next state in which ring n has written a record. -/
def Finishes (i : Instr) (s : State) (n : Nat) (r : Res) : Prop := ∃ t, exec i s = .next t ∧ WritesRecord s t n r

/-- The record of ring n is written as its operation ends: it does not wait for the host, no limit of an episode has passed for it
(R298), and no scrub waits for the last stop of an FLR (R300). -/
structure RecordGoes (s : State) (n : Nat) : Prop where
  sends : recordWaits n s = false
  limit : ringHost (s.ring n).cq = false ∨ (s.ring n).flr = true ∨ limitPassed s = false
  unscrubbed : s.link.scrubOwed = false

/-- Ring n holds an accepted descriptor of a kind, none of whose operation runs yet, descriptors are admitted, and its record can be
written. -/
structure Accepted (s : State) (n kind : Nat) (d : List Byte) : Prop where
  desc : descOf s n kind = some d
  admitted : admits s = true
  goes : RecordGoes s n

/-- Every ring but one is as before. -/
def OtherRings (n : Nat) (s t : State) : Prop := ∀ k, k ≠ n → t.ring k = s.ring k

/-- Only one ring differs, and it is left as told. -/
def RingOnly (s t : State) (n : Nat) (q : Ring) : Prop := { t with rings := s.rings } = s ∧ OtherRings n s t ∧ t.ring n = q

end Sys2Proof.Claims

open Sys2Proof.Claims

/-- RING_DB (R313): what a doorbell does in each of its six cases; `s0` is the state once the doorbell has woken the module
(R385). -/
def Obligations.DoorbellsAreHandledByTheirCase : Prop :=
  ∀ (s : State) (n : Nat) (val : Word), s.boot.ready = true →
    let s0 := wakeUp .doorbell s
    doorbellsClosed s0 = false →
    let q := s0.ring n
    ∀ (p : Part), p ≠ .high →
    let tail : BitVec 32 := val.setWidth 32
    let tag : BitVec 32 := if p = .whole then (val >>> 32).setWidth 32 else 0
    let ahead := (tail - q.tail).toNat
    (ringEn q = false → ∃ t, exec (.ringDb n p val) s = .next t ∧ (t.ring n).dbErr = true ∧ (t.ring n).tail = q.tail
        ∧ (t.ring n).head = q.head ∧ (t.ring n).state = q.state ∧ Notes 0x24 2 tail.toNat n s0 t)
    ∧ (ringEn q = true → q.state = .frozen → exec (.ringDb n p val) s = .next s0)
    ∧ (ringEn q = true → q.state ≠ .frozen → ahead = 0 →
        ∃ t, exec (.ringDb n p val) s = .next t ∧ RingOnly s0 t n { q with dbTag := tag, dbTicks := s0.hTicks })
    ∧ (ringEn q = true → q.state ≠ .frozen → 2 ^ 31 ≤ ahead → exec (.ringDb n p val) s = .next s0)
    ∧ (ringEn q = true → q.state ≠ .frozen → 0 < ahead → ahead < 2 ^ 31 → ringSize q < (tail - q.completed).toNat →
        ∃ t, exec (.ringDb n p val) s = .next t ∧ (t.ring n).dbErr = true ∧ (t.ring n).tail = q.tail
          ∧ (t.ring n).head = q.head ∧ (t.ring n).state = q.state ∧ Notes 0x24 1 tail.toNat n s0 t)
    ∧ (ringEn q = true → q.state ≠ .frozen → 0 < ahead → ahead < 2 ^ 31 → (tail - q.completed).toNat ≤ ringSize q →
        ∃ t, exec (.ringDb n p val) s = .next t ∧ (t.ring n).tail = tail ∧ (t.ring n).dbTag = tag
          ∧ (t.ring n).dbTicks = s0.hTicks
          ∧ (q.state = .stopped → RingOnly s0 t n { q with tail := tail, dbTag := tag, dbTicks := s0.hTicks }))

/-- RING_CFG_WRITE (R309, R311): enabling a disabled ring that meets the conditions makes it idle with every count 0;
one that does not leaves EN 0 and sets CFG_ERR; an idle or stopped ring is disabled, and a write of EN = 0 at any
other time only sets CFG_ERR; while EN is 1 a write of EN = 1 is ignored. EVENT_RING_CFG_WRITE and
EVENT_RING_HEAD_WRITE (R333, R334): enabling the event ring sets its counts to 0; its records held are written in
their order while there is room; a write of HEAD with none held changes the head alone. -/
def Obligations.RingsAndTheEventRingAreEnabled : Prop :=
  (∀ (s : State) (n : Nat) (val : Word), s.boot.ready = true → carried s n = false →
      let q := s.ring n
      (ringEn q = false → flag val 0 = true → enableOk q.sq q.cq = true →
        ∃ t, exec (.ringCfgWrite n .whole val) s = .next t ∧ OtherRings n s t ∧ ringEn (t.ring n) = true
          ∧ (t.ring n).tail = 0 ∧ (t.ring n).head = 0 ∧ (t.ring n).completed = 0 ∧ (t.ring n).state = .idle
          ∧ (t.ring n).cfg = maskWrite q.cfg cfgMask val ∧ (t.ring n).sq = q.sq ∧ (t.ring n).cq = q.cq)
      ∧ (ringEn q = false → flag val 0 = true → enableOk q.sq q.cq = false →
        ∃ t, exec (.ringCfgWrite n .whole val) s = .next t ∧ ringEn (t.ring n) = false ∧ (t.ring n).cfgErr = true
          ∧ OtherRings n s t)
      ∧ (ringEn q = true → flag val 0 = false → (q.state = .idle ∨ q.state = .stopped) →
        ∃ t, exec (.ringCfgWrite n .whole val) s = .next t ∧ ringEn (t.ring n) = false ∧ (t.ring n).state = .disabled
          ∧ (t.ring n).sq = q.sq ∧ OtherRings n s t)
      ∧ (ringEn q = true → flag val 0 = false → q.state ≠ .idle → q.state ≠ .stopped →
        ∃ t, exec (.ringCfgWrite n .whole val) s = .next t ∧ RingOnly s t n { q with cfgErr := true })
      ∧ (ringEn q = true → flag val 0 = true → exec (.ringCfgWrite n .whole val) s = .next s))
  ∧ (∀ (s : State) (val : Word), s.boot.ready = true →
      (flag s.evt.cfg 0 = false → flag val 0 = true → 6 ≤ ringLog2 s.evt.base → ringLog2 s.evt.base ≤ 16 →
        ringPlaceOk s.evt.base (64 * 2 ^ ringLog2 s.evt.base) = true →
        ∃ t, exec (.eventRingCfgWrite .whole val) s = .next t ∧ flag t.evt.cfg 0 = true ∧ t.evt.head = 0
          ∧ t.evt.base = s.evt.base ∧ (s.evt.held = [] → s.evt.lostSince = 0 → t.evt.produced = 0)
          ∧ (ringHost s.evt.base = false → hotThreshold s.xlt 1 = 0 → hotThreshold s.xlt 2 = 0 → s.evt.lostSince = 0 →
              s.evt.held.length ≤ 64 → t.evt.held = [] ∧ t.evt.produced = BitVec.ofNat 32 s.evt.held.length))
      ∧ (s.evt.held = [] → s.evt.lostSince = 0 →
        exec (.eventRingHeadWrite .whole val) s = .next { s with evt := { s.evt with head := val.setWidth 32 } }))

/-- ABORT (R314, R315): a ring that reads or re-reads a descriptor stops at once with no record; a WAIT and a
descriptor that waits for admission complete with ABORTED_BY_HOST and no progress, a translation with the epoch; a
running operation is told to stop at its next boundary; an idle, stopped or frozen ring only sets CFG_ERR.
RESTART_NEXT, RESTART_SAME and CLR_ERR (R314, R315, R450): on a stopped ring with a stopped descriptor RESTART_NEXT
sets HEAD and COMPLETED past it, RESTART_SAME sets HEAD back to it, and with none either resumes at HEAD; on another
ring both only set CFG_ERR. CLR_ERR clears DB_ERR and CFG_ERR. -/
def Obligations.AbortsAndRestartsActByTheRing : Prop :=
  (∀ (s : State) (n : Nat), s.boot.ready = true →
      let q := s.ring n
      ((q.state = .rereading ∨ (q.state = .running ∧ q.op = none ∧ q.desc = none)) →
        ∃ t, exec (.abort n) s = .next t ∧ (t.ring n).state = .stopped ∧ (t.ring n).sdesc = true ∧ (t.ring n).last = q.last
          ∧ (t.ring n).completed = q.completed ∧ (t.ring n).head = q.head ∧ (t.ring n).reading = false)
      ∧ ((q.state = .running ∨ q.state = .waiting) → RecordGoes s n →
          ((∃ a b c, q.op = some (.wait a b c)) ∨ (∃ o, q.op = some o ∧ opAdmitted o = false) ∨ (q.op = none ∧ q.desc ≠ none)) →
          Finishes (.abort n) s n { status := 0x42, second := if q.kind = 5 then s.xlt.epoch.toNat else 0 })
      ∧ (∀ p, q.state = .running → q.op = some (.push p) → p.stop = none →
          ∃ t r, exec (.abort n) s = .next t ∧ (t.ring n).state = .aborting
            ∧ (t.ring n).op = some (.push { p with stop := some r }) ∧ r.status = 0x42 ∧ (t.ring n).completed = q.completed)
      ∧ (∀ f, q.state = .running → q.op = some (.fabric f) → (f.op = 4 ∨ f.op = 5) →
          ∃ t, exec (.abort n) s = .next t ∧ RingOnly s t n { q with state := .aborting })
      ∧ ((q.state = .idle ∨ q.state = .stopped ∨ q.state = .frozen) →
          ∃ t, exec (.abort n) s = .next t ∧ RingOnly s t n { q with cfgErr := true }))
  ∧ (∀ (s : State) (n : Nat), s.boot.ready = true →
      let q := s.ring n
      let Goes (i : Instr) (head completed : BitVec 32) := ∃ t, exec i s = .next t ∧ (t.ring n).head = head
        ∧ (t.ring n).completed = completed ∧ (t.ring n).tail = q.tail
        ∧ (head = q.tail → (t.ring n).state = .idle ∧ (t.ring n).sdesc = false ∧ OtherRings n s t)
      (q.state = .stopped →
        (q.sdesc = true → Goes (.restartNext n) (q.completed + 1) (q.completed + 1)
          ∧ Goes (.restartSame n) q.completed q.completed)
        ∧ (q.sdesc = false → Goes (.restartNext n) q.head q.completed ∧ Goes (.restartSame n) q.head q.completed))
      ∧ (q.state ≠ .stopped →
        (∃ t, exec (.restartNext n) s = .next t ∧ RingOnly s t n { q with cfgErr := true })
        ∧ ∃ t, exec (.restartSame n) s = .next t ∧ RingOnly s t n { q with cfgErr := true })
      ∧ ∃ t, exec (.clrErr n) s = .next t ∧ RingOnly s t n { q with dbErr := false, cfgErr := false })

/-- DESC_READ_RETURN and DESC_REREAD of a ring in device memory (R309, R317, R318, R321): a descriptor whose phase and
sequence match is accepted with the bytes read and HEAD counts it; one that does not is read again, and after 64
re-reads the ring stops with a record of DESC_NOT_READY, HEAD and COMPLETED unchanged. DESC_NOP, DESC_WAIT,
RING_WAIT_SATISFIED and WAIT_EXPIRED (R322, R325): a NOP completes with DONE; a WAIT whose ring has completed its
target does so at once with that ring's COMPLETED, one on its own ring is refused, another waits; it ends with DONE
once the target is reached, and with WAIT_EXPIRED where its time passes first. -/
def Obligations.DescriptorsAreAcceptedInOrder : Prop :=
  (∀ (s s1 : State) (n : Nat) (b : List (Byte × Bool)),
      let q := s.ring n
      isReading q = true → ringHost q.sq = false → poolRead .once agentHub (descAddr q) 64 s = (b, s1) →
      anyPoison b = false → s1.ring n = q →
      let d := plain b
      let header := descWord d 0 8
      let matching := bits header 16 1 = 1 - bits q.head.toNat (ringLog2 q.sq) 1
        ∧ bits header 24 8 = q.head.toNat % 2 ^ ringLog2 q.sq % 256
      (matching → headerBad d = false →
        ∃ t, exec (.descReadReturn n) s = .next t ∧ t.pool = s1.pool ∧ (t.ring n).head = q.head + 1
          ∧ (t.ring n).desc = some d ∧ (t.ring n).kind = bits header 0 8 ∧ (t.ring n).state = .running
          ∧ (t.ring n).completed = q.completed ∧ OtherRings n s1 t)
      ∧ (¬ matching → q.rereads < 64 →
        ∃ t, exec (.descReadReturn n) s = .next t ∧ (t.ring n).state = .rereading ∧ (t.ring n).head = q.head
          ∧ (t.ring n).reading = false ∧ OtherRings n s1 t)
      ∧ (¬ matching → 64 ≤ q.rereads → (ringHost q.cq = false ∨ canSend s1 = true) →
        ∃ t, exec (.descReadReturn n) s = .next t ∧ (t.ring n).state = .stopped ∧ (t.ring n).sdesc = true
          ∧ (t.ring n).head = q.head ∧ (t.ring n).completed = q.completed
          ∧ (t.ring n).last = recWords n { status := 0x20 } 0 (ringIndex q q.head.toNat)
              (phaseOf q.head.toNat (ringLog2 q.sq)) s1.hTicks.toNat)
      ∧ ∀ u : State, (u.ring n).state = .rereading → (u.ring n).reading = false → (u.ring n).fetchWaits = false →
          ringHost (u.ring n).sq = false → u.pickle.freezing = false →
          ∃ t, exec (.descReread n) u = .next t
            ∧ RingOnly u t n { u.ring n with rereads := (u.ring n).rereads + 1, reading := true })
  ∧ (∀ (s : State) (n : Nat) (d : List Byte),
      (Accepted s n 0x00 d → Finishes (.descNop n) s n {})
      ∧ (Accepted s n 0x0B d →
        let target := BitVec.ofNat 32 (descWord d 8 4)
        let w := bits (descWord d 12 2) 0 10
        let reached := ((s.ring w).completed - target).toNat < 2 ^ 31
        (w = n → Finishes (.descWait n) s n { status := 0x13 })
        ∧ (w ≠ n → reached → Finishes (.descWait n) s n { progress := (s.ring w).completed.toNat })
        ∧ (w ≠ n → ¬ reached → ∃ t, exec (.descWait n) s = .next t
            ∧ RingOnly s t n { s.ring n with startTicks := s.hTicks, op := some (.wait target w (descWord d 14 2)), state := .waiting }))
      ∧ ∀ target w ms, (s.ring n).op = some (.wait target w ms) → (s.ring n).state = .waiting → RecordGoes s n →
        s.pickle.freezing = false →
        let count := (s.ring w).completed.toNat
        let reached := ((s.ring w).completed - target).toNat < 2 ^ 31
        (reached → Finishes (.ringWaitSatisfied n) s n { progress := count })
        ∧ (reached → Finishes (.waitExpired n) s n { progress := count })
        ∧ (¬ reached → ms ≠ 0 → Finishes (.waitExpired n) s n { status := 0x21, progress := count }))

/-- PUSH (R289, R323): a length of 0, one above 2^40 or a destination beyond the reachable host window is refused; a push of
bytes that stay within one line is read and issued as a posted write of its ring, and its operation counts it. -/
def Obligations.PushesReadAndIssueTheirBytes : Prop :=
  ∀ (s s1 : State) (n : Nat) (d : List Byte) (b : List (Byte × Bool)), Accepted s n 0x07 d →
    let src := descWord d 8 8
    let dst := descWord d 16 8
    let len := descWord d 24 8
    ((len = 0 ∨ 2 ^ 40 < len ∨ hioTop < dst + len) → Finishes (.push n) s n { status := 0x13 })
    ∧ (0 < len → dst + len ≤ hioTop → src % 128 + len ≤ 128 → dst % 128 + len ≤ 128 →
      let s0 := beginOp n (.push { src := src, dst := dst, length := len }) s
      canSend s = true → hostSource s0 src len = none →
      vaRead .once agentHub (.ring n) .read src len s0 = (.data b, s1) → anyPoison b = false → b.length = len →
      s1.rings = s0.rings → canSend s1 = true → s1.link.mpsLog2 ≥ 7 → NoHotPages s1 →
      ∃ t, exec (.push n) s = .next t ∧ (∃ p, (t.ring n).op = some (.push p) ∧ p.issued = len ∧ p.acked = 0 ∧ p.stop = none)
        ∧ t.link.posted = s1.link.posted ++ [{ owner := .ring n, hio := dst, bytes := plain b }] ∧ t.pool = s1.pool)

/-- OPERATION_COMPLETE (R219, R319, R320, R328): an operation that has come to its end or to the boundary of its stop,
with no write of it to the host unacknowledged, ends with a record of its figures; one that has not goes on unchanged.
MSIX_MODERATION_EXPIRE and MSIX_TABLE_WRITE (R331, R332): one message covers every unsignalled record of a ring, or of
the event ring: sent as a posted write where its vector is not masked, noted in the pending bits where it is; a write
of 8 bytes to the table sets the address, or the data and the mask, of its entry. -/
def Obligations.OperationsEndWithRecordsAndMessages : Prop :=
  (∀ (s : State) (n : Nat) (o : Op), (s.ring n).op = some o → (s.ring n).state ≠ .aborting →
      (opEnded n s o = true → hostSettled n (opStop o) s = true → s.pickle.freezing = false → RecordGoes s n →
        Finishes (.operationComplete n) s n (opFigures o (opStop o)))
      ∧ (opEnded n s o = false → exec (.operationComplete n) s = .next s))
  ∧ ((∀ (s : State) (n : Nat), canSignal s = true → 2 ≤ s.link.mpsLog2 →
      let v := field (s.ring n).cfg 13 11
      let e := tget {} s.link.msix v
      (flag (s.ring n).cfg 12 = true → 0 < (s.ring n).unsignalled →
        ∃ t, exec (.msixModerationExpire (some n)) s = .next t ∧ (t.ring n).unsignalled = 0 ∧ OtherRings n s t
          ∧ (e.masked = true ∨ s.link.msixMask = true → v ∈ t.link.pba ∧ t.link.posted = s.link.posted)
          ∧ (e.masked = false → s.link.msixMask = false → e.addr.toNat % 64 = 0 → t.link.posted = s.link.posted ++
              [{ owner := .vector v, hio := e.addr.toNat, bytes := toBytes 4 e.data.toNat }]))
      ∧ (flag s.evt.cfg 12 = true → 0 < s.evt.unsignalled → hotThreshold s.xlt 1 = 0 →
        ∃ t, exec (.msixModerationExpire none) s = .next t ∧ t.evt = { s.evt with unsignalled := 0 } ∧ t.rings = s.rings))
    ∧ ∀ (s : State) (v : Nat) (val : Word), s.endpoint = true → s.link.up = true → v < 2048 → canSignal s = false →
      let e := tget {} s.link.msix v
      (∃ t, exec (.msixTableWrite (16 * v) 8 val) s = .next t ∧ tget {} t.link.msix v = { e with addr := val }
        ∧ ∀ k, k ≠ v → tget {} t.link.msix k = tget {} s.link.msix k)
      ∧ ∃ t, exec (.msixTableWrite (16 * v + 8) 8 val) s = .next t
        ∧ tget {} t.link.msix v = { e with data := val.setWidth 32, masked := flag val 32 })

/-! ### Chains, arrays, transforms and programs (chapters 03 to 06) -/

namespace Sys2Proof.Claims

open Sys2Proof.Machine Sys2Proof.Safety

/-- Ring n waits, with its operation loaded and not admitted. -/
def WaitsAdmission (i : Instr) (s s1 : State) (n : Nat) (o : Op) : Prop :=
  ∃ t, exec i s = .next t ∧ RingOnly s1 t n { s1.ring n with op := some o, state := .waiting }

/-- A loaded chain is admitted where its arrays are free, on the lowest of them, and waits otherwise (R117). -/
def ChainAdmission (i : Instr) (s s1 : State) (n : Nat) (c : ChainRun) : Prop :=
  let l := (freeArrays n c s1).take c.d.arrays
  (l.length < c.d.arrays → WaitsAdmission i s s1 n (.chain c))
  ∧ (l.length = c.d.arrays → ∃ t c', exec i s = .next t ∧ (t.ring n).op = some (.chain c') ∧ c'.admitted = true
      ∧ c'.arrays = l ∧ c'.committed = c.first ∧ (t.ring n).state = .running ∧ (t.ring n).startTicks = s1.hTicks
      ∧ ∀ a ∈ l, (t.array a).ring = some n ∧ ∃ g ∈ (t.engine a).grants, g.ring = n ∧ g.isChain = true)

/-- A loaded transform is admitted on the lowest free engine in service of its die, and waits where there is none (R132, R364). -/
def TransformAdmission (i : Instr) (s s1 : State) (n : Nat) (x : TransformRun) : Prop :=
  let free (k : Nat) : Prop := dieOn s1 (x.die + 1) = true ∧ k < 8 ∧ txWorks s1 (x.die * 8 + k) = true ∧ tget none s1.transforms (x.die * 8 + k) = none
  ((∀ k, ¬ free k) → WaitsAdmission i s s1 n (.transform x))
  ∧ ∀ k, free k → (∀ m, m < k → ¬ free m) → ∃ t, exec i s = .next t
      ∧ (t.ring n).op = some (.transform { x with admitted := true, engine := k }) ∧ (t.ring n).state = .running
      ∧ (t.ring n).startTicks = s1.hTicks ∧ tget none t.transforms (x.die * 8 + k) = some n ∧ t.pool = s1.pool
      ∧ OtherRings n s1 t

/-- A loaded program is admitted on the lowest engines that it fits, and waits where they are too few (R164). -/
def ProgramAdmission (i : Instr) (s s1 : State) (n : Nat) (p : ProgramRun) : Prop :=
  let l := (freeEngines n p s1).take p.engines
  (l.length < p.engines → WaitsAdmission i s s1 n (.program p))
  ∧ (l.length = p.engines → ∃ t, exec i s = .next t
      ∧ (t.ring n).op = some (.program { p with admitted := true, used := l }) ∧ (t.ring n).state = .running
      ∧ (t.ring n).startTicks = s1.hTicks ∧ OtherRings n s1 t
      ∧ ∀ e ∈ l, ∃ g ∈ (t.engine e).grants, g.ring = n ∧ g.isChain = false)

/-- Every array but one is as before. -/
def OtherArrays (a : Nat) (s t : State) : Prop := ∀ k, k ≠ a → t.array k = s.array k

/-- The command i answers a next state in which ring n's chain is c' and the pool is that of s1. -/
def ChainBecomes (i : Instr) (s s1 : State) (n : Nat) (c' : ChainRun) : Prop :=
  ∃ t, exec i s = .next t ∧ (t.ring n).op = some (.chain c') ∧ t.pool = s1.pool

end Sys2Proof.Claims

/-- CHAIN, TRANSFORM, PROGRAM and OPERATION_ADMIT (R83, R117, R132, R163, R164): a descriptor address that is not a
multiple of 64 is refused; a loaded operation is admitted where its resources are free and waits otherwise, and what
waited is admitted once they are free. -/
def Obligations.OperationsAreAdmittedOrWait : Prop :=
  ∀ (s : State) (n : Nat),
    (∀ (d : List Byte), Accepted s n 0x01 d →
      (descAddrOf d % 64 ≠ 0 → Finishes (.chain n) s n { status := 0x13 })
      ∧ ∀ c s1, loadChain n (descAddrOf d) s = .ok (c, s1) → ChainAdmission (.chain n) s s1 n c)
    ∧ (∀ (d : List Byte), Accepted s n 0x02 d →
      (descAddrOf d % 64 ≠ 0 → Finishes (.transform n) s n { status := 0x13 })
      ∧ ∀ x s1, loadTransform n (descAddrOf d) s = .ok (x, s1) → TransformAdmission (.transform n) s s1 n x)
    ∧ (∀ (d : List Byte), Accepted s n 0x03 d →
      (descAddrOf d % 64 ≠ 0 → Finishes (.program n) s n { status := 0x13 })
      ∧ ∀ p s1, loadProgram n (descAddrOf d) s = .ok (p, s1) → ProgramAdmission (.program n) s s1 n p)
    ∧ ((s.ring n).state = .waiting → admits s = true →
      (∀ c, (s.ring n).op = some (.chain c) → c.admitted = false → ChainAdmission (.operationAdmit n) s s n c)
      ∧ (∀ x, (s.ring n).op = some (.transform x) → x.admitted = false → TransformAdmission (.operationAdmit n) s s n x)
      ∧ ∀ p, (s.ring n).op = some (.program p) → p.admitted = false → ProgramAdmission (.operationAdmit n) s s n p)

/-- PASS_START, ARRAY_BEAT, PASS_END, SLICE_ARRIVE and ARRIVAL_TIMEOUT (R57, R59, R61, R68, R72, R75, R98, R109, R111, R112, R249): a pass
starts once its slices are there, with its operands staged; each beat of it counts, a window that moves costs two further
beats; an empty beat counts by its cause, and in no field where the array has no tile left (log entry 100); after its last beat the pass ends and the array goes to its next position; slice
bytes advance the array's count and the engine's counter; a pass whose slices do not come in time stops the chain. -/
def Obligations.ArraysRunTheirPasses : Prop :=
  ∀ (s : State) (a n : Nat) (c : ChainRun), arrayChain s a = some (n, c) → c.d.product = true →
    let ar := s.array a
    let j := arrayIndex c a
    let f := fmtOf c
    let beats := passBeats f.1 (passDepth c ar.pass)
    let Beat (P : Machine.Array → Prop) : Prop :=
      ∃ t, exec (.arrayBeat a) s = .next t ∧ { t with arrays := s.arrays, engines := s.engines } = s ∧ OtherArrays a s t
        ∧ OtherEngines a s t
        ∧ t.engine a = { s.engine a with ctr := (t.engine a).ctr, cleanTurns := (t.engine a).cleanTurns }
        ∧ (t.array a).drained = (if drains c ar then ar.drained + 1 else ar.drained) ∧ P { t.array a with drained := ar.drained }
    (c.credits = [] →
      (ar.running = true → ar.stall = 0 → ar.beat < beats → Beat fun x =>
        x.beat = ar.beat + 1 ∧ x.ctr.product = advance ar.ctr.product 1 ∧ x.running = true ∧ x.passNo = ar.passNo
        ∧ posOf x = posOf ar
        ∧ ((x.stall = 0 ∧ x.ctr.range = ar.ctr.range) ∨ (x.stall = 2 ∧ x.ctr.range = advance ar.ctr.range 1)))
      ∧ (ar.running = true → 0 < ar.stall → Beat fun x => x = { ar with stall := ar.stall - 1 })
      ∧ (ar.running = true → ar.stall = 0 → beats ≤ ar.beat → (laccOf f.1 f.2).1 = 18 → memoryFull c ar = true → drains c ar = true →
          Beat fun x => x = { ar with ctr := { ar.ctr with drain := advance ar.ctr.drain 1 } })
      ∧ (ar.running = true → ar.stall = 0 → beats ≤ ar.beat → drains c ar = false → commitHeld s c = false →
          Beat fun x => x = { ar with ctr := { ar.ctr with epilogue := advance ar.ctr.epilogue 1 } })
      ∧ (ar.running = true → ar.stall = 0 → beats ≤ ar.beat → drains c ar = false → commitHeld s c = true →
          Beat fun x => x = { ar with ctr := { ar.ctr with arrival := advance ar.ctr.arrival 1 } })
      ∧ (ar.running = false → waitsPartials s c j ar = false → finishes c j = true → commitHeld s c = false →
          Beat fun x => x = { ar with ctr := { ar.ctr with epilogue := advance ar.ctr.epilogue 1 } })
      ∧ (ar.running = false →
          (waitsPartials s c j ar = true
            ∨ (finishes c j = false ∧ (nextTile c j ar).isSome = true ∧ (arrived c ar = false ∨ ar.staging = true))) →
          Beat fun x => x = { ar with ctr := { ar.ctr with arrival := advance ar.ctr.arrival 1 } })
      ∧ (ar.running = false → waitsPartials s c j ar = false → finishes c j = false → (nextTile c j ar).isSome = false →
          ar.drainable = [] → (∀ r ∈ c.ready, arrayOf c r.1 ≠ j) → Beat fun x => x = ar))
    ∧ (∀ (k : Nat) (x : Machine.Array) (s1 : State),
      ar.running = false → tileAt c j (posOf ar) = some k → k < stopAt c → arrived c ar = true → bandFree c k = true →
      waitsPartials s c j ar = false → stagePass (chainWho n a) c ar k s = (x, none, false, s1) →
      (ar.pass = 0 → (laterFault (chainWho n a) c ar k ((List.range (passCount c)).drop 1) s1).1 = (none, false)) →
      ∃ t, exec (.passStart a) s = .next t ∧ { t with arrays := s1.arrays, engines := s1.engines } = s1 ∧ OtherArrays a s1 t
        ∧ OtherEngines a s1 t ∧ (t.array a).running = true ∧ (t.array a).beat = 0 ∧ (t.array a).stall = 0
        ∧ (t.array a).stagedA = x.stagedA ∧ (t.array a).stagedB = x.stagedB
        ∧ (ar.pass = 0 → ar.turn = 0 → (t.array a).tiles =
            [{ tile := k, accs := List.replicate ((rowsOf c k).length * (colsOf c k).length) {} }]))
    ∧ (ar.running = true → ar.stall = 0 → ar.beat = beats → memoryFull c ar = false →
      let run := nth { tile := 0 } ar.tiles ar.turn
      ∃ t, exec (.passEnd a) s = .next t ∧ (t.array a).running = false ∧ (t.array a).beat = 0
        ∧ (t.array a).passNo = ar.passNo + 1 ∧ posOf (t.array a) = (posNext c j (posOf ar)).getD (ar.group + 1, 0, 0)
        ∧ (ar.pass + 1 = passCount c → run.tile < stopAt c →
            ∃ r, (t.array a).drainable = ar.drainable ++ [r] ∧ r.tile = run.tile)
        ∧ (ar.pass + 1 ≠ passCount c → (t.array a).drainable = ar.drainable)
        ∧ tget 0 (t.array a).counts (bufferOf c ar.passNo * 2) = 0
        ∧ tget 0 (t.array a).counts (bufferOf c ar.passNo * 2 + 1) = 0)
    ∧ (∀ (b : Bool) (count m k : Nat) (pos : Nat × Nat × Nat) (e : SliceEntry) (x : List (Byte × Bool)) (s1 : State),
      c.credits = [] → (if b then c.b else c.a).isSome = true →
      wantsSlice c j ar b = some (m, pos, e) → tileAt c j pos = some k →
      let key := bufferOf c m * 2 + one b
      let off := tget 0 ar.counts key
      let size := min count (sliceBytes c b - off)
      let va := (sliceSource c e b k pos.2.1 + off) % 2 ^ 64
      let land := landedKey (bufferOf c m) b off
      vaRead .once a (.ring n) .read va size s = (.data x, s1) → x.length = size → s1.array a = ar →
      ∃ t, exec (.sliceArrive a b count) s = .next t ∧ tget 0 (t.array a).counts key = off + size
        ∧ (t.array a).landed = memWrite ar.landed land (plain x)
        ∧ (∀ i y, x[i]? = some y → (land + i ∈ (t.array a).landedBad ↔ y.2 = true))
        ∧ tget 0 (t.engine a).counters e.counter = tget 0 (s1.engine a).counters e.counter + BitVec.ofNat 32 size
        ∧ OtherArrays a s1 t ∧ OtherEngines a s1 t ∧ t.pool = s1.pool)
    ∧ (ar.running = false → (nextTile c j ar).isSome = true → (arrived c ar = false ∨ ar.staging = true) → c.committed < stopAt c →
      ∃ t, exec (.arrivalTimeout a) s = .next t ∧ RingOnly s t n { s.ring n with
        op := some (.chain { c with stop := some { status := 0x51, progress := c.committed } }) })

/-- TILE_DRAIN, TILE_COMMIT and BAND_FINISH (R75, R78, R102, R104, R106, R107, R112, R115, R247): the oldest tile whose drain beats
have passed becomes W values; the next tile in row-major order is committed with its epilogue and its writes, the chain
stopping at it where one faults and keeping the writes that have to wait; a band is committed whole. -/
def Obligations.TilesDrainAndCommitInOrder : Prop :=
  (∀ (s : State) (a n : Nat) (c : ChainRun), arrayChain s a = some (n, c) →
    let ar := s.array a
    (∀ (r : TileRun) (rest : List TileRun), c.d.product = true → ar.drainable = r :: rest → partialsIn c r.tile = true →
      drainBeats c r.tile ≤ ar.drained → c.committed ≤ r.tile → tfind c.ready r.tile = none →
      let f := fmtOf c
      let part := tget [] c.rx r.tile
      let accs := if part = [] then r.accs else (r.accs.zip part).map fun p => mergeLacc p.1 p.2
      let ys := accs.map fun x => statusNum (chainRm c.d) x.status x.sum (laccOf f.1 f.2).2.1
      ∃ t, exec (.tileDrain a) s = .next t
        ∧ (t.ring n).op = some (.chain { c with
            rx := if c.d.partialMode = 1 then tput [] c.rx r.tile accs else tdel c.rx r.tile, ready := tput [] c.ready r.tile ys })
        ∧ (t.array a).drainable = rest ∧ (t.array a).drained = 0 ∧ (t.array a).ctr.tiles = advance ar.ctr.tiles 1
        ∧ OtherArrays a s t)
    ∧ (∀ (k : Nat) (ys : List Machine.Num) (s1 : State), c.d.product = false → tileAt c (arrayIndex c a) (ar.group, 0, 0) = some k →
      k < stopAt c → bandFree c k = true → streamRead (chainWho n a) c (tileOutputs c k) s = ((ys, none, false), s1) →
      (c.d.split = false → ∃ t, exec (.tileDrain a) s = .next t
        ∧ (t.ring n).op = some (.chain { c with ready := tput [] c.ready k ys }) ∧ t.pool = s1.pool ∧ OtherArrays a s1 t)
      ∧ ∀ zs s2, c.d.split = true → tileEpilogue (chainWho n a) c ((tileOutputs c k).zip ys) s1 = ((zs, none, false), s2) →
        ∃ t, exec (.tileDrain a) s = .next t
          ∧ (t.ring n).op = some (.chain { c with ready := tput [] c.ready k zs }) ∧ t.pool = s2.pool ∧ OtherArrays a s2 t))
  ∧ ∀ (s s1 s2 : State) (n : Nat) (c : ChainRun) (t : TDesc), chainOf s n = some c → c.admitted = true → c.c = some t →
    let w := writeWho n c t
    let tile := c.committed
    let who := chainWho n (tileArray c tile)
    let st := c.stats.getD {}
    let left (gone : List Nat) := c.ready.filter fun p => !gone.contains p.1
    (∀ (ys zs : List Machine.Num), usesHold c.d = false → completes c = false → c.todoTiles = 0 →
      (c.plan = none ∨ (c.plan.isSome = true ∧ c.d.partialMode = 2)) → tile < stopAt c → tfind c.ready tile = some ys →
      tileEpilogue who c ((tileOutputs c tile).zip ys) s = ((zs, none, false), s1) →
      let cw := commitWrites c t zs
      (∀ k, runWrites w t st cw.1 0 s1 = (.done k, s2) → ChainBecomes (.tileCommit n) s s2 n { c with
          rows := cw.2, ready := left (span tile 1), committed := tile + 1, bytes := c.bytes + k * tbits t, todo := [], todoDone := 0 })
      ∧ (∀ k f, runWrites w t st cw.1 0 s1 = (.fault k f, s2) → ChainBecomes (.tileCommit n) s s2 n { c with
          rows := cw.2, bytes := c.bytes + k * tbits t, todo := [], todoDone := 0, stop := some { fltRes f with progress := tile } })
      ∧ ∀ k rest, runWrites w t st cw.1 0 s1 = (.wait k rest, s2) → ChainBecomes (.tileCommit n) s s2 n { c with
          rows := cw.2, bytes := c.bytes + k * tbits t, todo := rest, todoTiles := 1, todoDone := k })
    ∧ (∀ k, usesHold c.d = false → completes c = false → c.todoTiles = 1 → tile < stopAt c → (tfind c.ready tile).isSome = true →
      runWrites w t st c.todo 0 s = (.done k, s2) → ChainBecomes (.tileCommit n) s s2 n { c with
        ready := left (span tile 1), committed := tile + 1, bytes := c.bytes + k * tbits t, todo := [], todoTiles := 0, todoDone := 0 })
    ∧ (∀ (vals : List Machine.Num) (k : Nat), usesHold c.d = false → c.plan = none → completes c = true → c.todoTiles = 0 →
      tile < stopAt c → (∀ x ∈ stripOf c tile, (tfind c.ready x).isSome = true) → (tfind c.ready tile).isSome = true →
      readStats who c (if rowSoftmax c.d then 0 else 4) (rowsOf c tile) s = ((vals, none, false), s1) →
      runWrites w t st (completionWrites c t vals) 0 s1 = (.done k, s2) → ChainBecomes (.tileCommit n) s s2 n { c with
        ready := left (if (tile + 1) % gridCols c = 0 then stripOf c tile else [])
        committed := tile + 1, bytes := c.bytes + k * tbits t, todo := [], todoDone := 0 })
    ∧ ∀ (rg k : Nat) (vals : Sparse (List Machine.Num)), usesHold c.d = true → completes c = false → c.todoTiles = 0 →
      c.d.partialMode ≠ 3 →
      let per := blockRows c * gridCols c
      let tiles := span tile (min (per - tile % per) (tileCount c - tile))
      tiles ≠ [] → tile / per % (c.d.arrays / c.d.rowGroup) = rg →
      (∀ x ∈ tiles, (tfind c.ready x).isSome = true ∧ x < stopAt c) →
      bandEpilogue n c tiles s = ((vals, none, false), s1) →
      runWrites w t st (bandWrites c t tiles vals) 0 (countFinish c tiles s1) = (.done k, s2) →
      ChainBecomes (.bandFinish n rg) s s2 n { c with
        ready := left (span tile tiles.length), committed := tile + tiles.length, bytes := c.bytes + k * tbits t
        todo := [], todoDone := 0 }

/-- PARTIAL_CHUNK_RECEIVE, W_TREE_RECEIVE and TRANSFORM_TURN (R64, R113, R114, R131, R134, R135, R137): a sender's next chunk is
merged into the exact partials of its tile, and one that breaks the record form stops the chain there; a participant's
W values are kept at their level; a turn of a transform advances it by at most its elements, and each element written
counts. -/
def Obligations.PartialsAndTransformsAdvance : Prop :=
  (∀ (s : State) (n : Nat) (c : ChainRun), chainOf s n = some c → c.admitted = true →
    (∀ (sender : Nat) (chunk : List Byte), c.d.partialMode = 2 →
      let k := tget 0 c.rxChunks sender
      let p := chunkPlace c k
      let tile := p.1 / tileRows c * gridCols c + p.2 / tileCols c
      let nc := (colsOf c tile).length
      let x0 := p.2 % tileCols c
      let at_ := (p.1 - (rowsOf c tile).headD 0) * nc + x0
      let got := parseChunk (laccOf (fmtOf c).1 (fmtOf c).2).1 (chunkOutputs c) chunk
      k < gridRows { c with d := { c.d with holdRows := 0 } } * gridCols c * chunksPerTile c →
      let old := if (tget [] c.rx tile).isEmpty then List.replicate (tileOutputs c tile).length {} else tget [] c.rx tile
      (∀ l, got = some l → ∃ t c', exec (.partialChunkReceive n sender chunk) s = .next t
        ∧ RingOnly s t n { s.ring n with op := some (.chain c') } ∧ tget 0 c'.rxChunks sender = k + 1
        ∧ (c.d.m ≤ p.1 → c'.rx = c.rx)
        ∧ (p.1 < c.d.m →
            (∀ i y o, l[i]? = some y → x0 + i < nc → old[at_ + i]? = some o →
              (tget [] c'.rx tile)[at_ + i]? = some { o with sum := o.sum + y.sum, status := o.status ||| y.status })
            ∧ ∀ i, (i < at_ ∨ at_ + l.length ≤ i) → (tget [] c'.rx tile)[i]? = old[i]?)
        ∧ c'.committed = c.committed ∧ c'.stop = c.stop)
      ∧ (got = none → tile < stopAt c → ∃ t, exec (.partialChunkReceive n sender chunk) s = .next t
        ∧ RingOnly s t n { s.ring n with op := some (.chain { c with stop := some { status := 0x13, progress := tile } }) }))
    ∧ ∀ (p : Plan) (position tile l : Nat) (values : List (BitVec 80)), c.d.partialMode = 3 → c.plan = some p →
      tile < tileCount c → l ∈ treeLevels p.nodes.length (planPos s p) → position = planPos s p + 2 ^ l →
      ∃ t, exec (.wTreeReceive n position tile values) s = .next t ∧ RingOnly s t n { s.ring n with op := some (.chain
        { c with tree := tput [] c.tree (tile * 16 + l) (values.map fun v => decodeNum .w v.toNat) }) })
  ∧ ∀ (s s1 s2 : State) (n : Nat) (x : TransformRun), transformOf s n = some x → x.admitted = true → x.stop = none →
    let w := transformWho n x
    (x.inPlace = false → x.done ≤ tcount x.dst →
      (∃ t y, exec (.transformTurn n) s = .next t ∧ transformOf t n = some y ∧ x.done ≤ y.done
        ∧ y.done ≤ x.done + max 1 (1024 / tbits x.dst) ∧ y.done ≤ tcount x.dst ∧ y.written + x.done = x.written + y.done)
      ∧ ∀ v y left, x.dst.scaleFmt = .none → putsPending w s = false → x.done + 1 = tcount x.dst →
        let idx := unlinear (ownExts x.dst) x.done
        readSource w (enterRow x x.done) idx 2 s = (v, y, left, s1) → ((∃ k, v = .bits k) ∨ ∃ k, v = .num k) →
        writeRaw w y.dst idx (convertOut y x.done v) s1 = (.done, s2) →
        ∃ t z, exec (.transformTurn n) s = .next t ∧ t.pool = s2.pool ∧ transformOf t n = some z
          ∧ z = { y with done := y.done + 1, written := y.written + 1 } ∧ z.done = x.done + 1 ∧ z.written = x.written + 1)
    ∧ (x.inPlace = true → x.done < pairCount x → ∀ y left,
      (beginPair w x 2 s = (.full, y, left, s1) →
        ∃ t, exec (.transformTurn n) s = .next t ∧ t.pool = s1.pool ∧ transformOf t n = some y)
      ∧ (beginPair w x 2 s = (.done, y, left, s1) →
        let size := max 1 (1024 / tbits x.dst)
        ∀ k rest,
        (writePair w y (y.todo.take size) 0 s1 = ((k, none, rest), s2) →
          let todo := rest ++ y.todo.drop size
          let z := { y with done := y.done + (if todo = [] then 1 else 0), written := y.written + k, todo := todo }
          ∃ t v, exec (.transformTurn n) s = .next t ∧ transformOf t n = some v ∧ { v with buf := z.buf } = z
            ∧ (left = 0 → v = z ∧ t.pool = s2.pool))
        ∧ ∀ r, writePair w y (y.todo.take size) 0 s1 = ((k, some r, rest), s2) →
          ∃ t, exec (.transformTurn n) s = .next t ∧ t.pool = s2.pool
            ∧ transformOf t n = some { y with written := y.written + k, todo := [], stop := some r }))
    ∧ (x.inPlace = true → x.done < pairCount x → x.todo = [] →
      ∀ l y left, readCells w (pairCells x x.done) x 2 s = ((l, none), y, left, s1) →
        beginPair w x 2 s = (.done, { y with todo := l, buf := [] }, left, s1) ∧ y.done = x.done ∧ y.written = x.written)

/-! ### Maintenance, translation, fabric and other operations of rings (chapters 07, 09, 10, 12, 14, 15) -/

namespace Sys2Proof.Claims

open Sys2Proof.Machine Sys2Proof.Safety

/-- As `Finishes`, for a command whose record is written from the state s1 that what it did before leaves. -/
def FinishesFrom (i : Instr) (s s1 : State) (n : Nat) (r : Res) : Prop :=
  RecordGoes s1 n → ∃ t, exec i s = .next t ∧ WritesRecord s1 t n r

/-- The structure at a ring descriptor's ADDR is read: its 64 bytes, not poisoned, and the state after. -/
structure ReadsStructure (s s1 : State) (n kind : Nat) (x : List Byte) : Prop where
  ok : ∃ d b, descOf s n kind = some d ∧ descAddrOf d % 64 = 0 ∧ readStruct n (descAddrOf d) 64 s = (.data b, s1)
    ∧ anyPoison b = false ∧ plain b = x

/-- The packet that an operation of ring n sends. -/
def Sends (i : Instr) (s s1 : State) (n : Nat) (f' : FabricRun) (P : TxPkt → Prop) : Prop :=
  ∃ t p, exec i s = .next t ∧ (t.ring n).op = some (.fabric f') ∧ t.fab.tx = s1.fab.tx ++ [p] ∧ P p
    ∧ p.owner = .ring n ∧ p.seq = tget 0 s1.fab.nextSeq p.peer
    ∧ tget 0 t.fab.nextSeq p.peer = (p.seq + 1) % 2 ^ 24

/-- A packet to a peer may leave now (R265, R278). -/
structure MayLeave (s : State) (peer : Nat) : Prop where
  other : peer ≠ nodeId s
  whole : peer ∉ s.fab.broken
  room : unacked s peer < 1024
  route : pickPort s s.fab.active peer ≠ none

end Sys2Proof.Claims

/-- MAINT_CLEAN, MAINT_INVALIDATE and MAINT_CLEAN_INVALIDATE (R186 to R189): a misaligned or ill-formed descriptor is refused; a
range is acted on page by page up to its end or a page's fault, the selected sets and ways or every held line otherwise;
the record tells how far. Invalidating a line leaves no copy of it in a coherent cache and no byte of memory changed. -/
def Obligations.MaintenanceActsOnItsLines : Prop :=
  (∀ (s s1 : State) (n : Nat) (x : List Byte) (m : Maint) (i : Instr),
    ((m = .clean ∧ i = .maintClean n) ∨ (m = .invalidate ∧ i = .maintInvalidate n) ∨ (m = .both ∧ i = .maintCleanInvalidate n)) →
    (∀ d, Accepted s n 0x04 d → descAddrOf d % 64 ≠ 0 → Finishes i s n { status := 0x13 })
    ∧ (admits s = true → ReadsStructure s s1 n 0x04 x →
      let w := descWord x 0 8
      let start := descWord x 8 8
      let size := descWord x 0x10 8
      let s2 := s1.onRing n fun q => { q with state := .running, startTicks := s1.hTicks }
      (maintBad x = true → FinishesFrom i s s1 n { status := 0x13 })
      ∧ (maintBad x = false → bits w 16 2 = maintOp m →
        (bits w 18 2 = 0 → ∀ s3,
          (maintRange m (size / 4096 + 2) start size s2 = (.done, s3) → FinishesFrom i s s3 n { progress := size })
          ∧ ∀ st c v, maintRange m (size / 4096 + 2) start size s2 = (.fault st c v, s3) → FinishesFrom i s s3 n
              { status := st, progress := v - start, role := 14, reason := c, element := v - start, address := v })
        ∧ (bits w 18 2 = 1 →
          let sw := descWord x 0x18 8
          let lines := (setWayLines s2 (bits w 23 1 == 1) (bits sw 32 16) (bits sw 20 12) (bits sw 8 12) (bits sw 0 6)).eraseDups
          FinishesFrom i s (lines.foldl (fun u l => lineMaint m l u) s2) n {})
        ∧ (bits w 18 2 = 2 → FinishesFrom i s ((heldLines s2).foldl (fun u l => lineMaint m l u) s2) n {}))))
  ∧ ∀ (u : State) (l : Nat), txnOf u l = none → lineQueued u l = false →
    let v := lineMaint .invalidate l u
    v.pool = u.pool ∧ (∀ q ∈ v.coh.priv, q.line ≠ l) ∧ (∀ q ∈ v.coh.wbuf, q.line ≠ l) ∧ (OnceInDir u l → dirEntry v l = none)
    ∧ (∀ q ∈ u.coh.priv, q.line ≠ l → q ∈ v.coh.priv)
    ∧ ∀ c ∈ v.coh.cores, l ∉ c.2.l1d ∧ ∀ x ∈ c.2.l1i, x.line ≠ l

/-- INVALIDATE_RANGE, INVALIDATE_ALL, SET_ROOT, HOLD, RELEASE, XLT_OP_DRAINED, HOLD_LIMIT_EXPIRE and PAGE_WALK_DONE (R228,
R229, R240, R241, R249): an operation accepted raises the epoch, removes the affected translations, empties the walk cache and
sets a new root; it completes once its transfers have drained, a HOLD then holding its range; one too many waits; a hold ends by RELEASE or
by its limit; a walk fills the TLBs unless an operation was accepted meanwhile. -/
def Obligations.TranslationOperationsAct : Prop :=
  (∀ (s s1 : State) (n : Nat) (y : List Byte) (k : Nat) (i : Instr), admitsXlt s = true → ReadsStructure s s1 n 0x05 y →
    ((k = 1 ∧ i = .invalidateRange n) ∨ (k = 2 ∧ i = .invalidateAll n) ∨ (k = 3 ∧ i = .setRoot n) ∨ (k = 4 ∧ i = .hold n)
      ∨ (k = 5 ∧ i = .release n)) →
    let x := parseXlt y
    (xltBad y x s1 = true → (s1.ring n).kind = 5 → FinishesFrom i s s1 n { status := 0x13, second := s1.xlt.epoch.toNat })
    ∧ (xltBad y x s1 = false → x.op = k →
      (k ≠ 5 → xltFits x s1 = true → ∃ t, exec i s = .next t ∧ t.xlt.epoch = s1.xlt.epoch + 1 ∧ t.xlt.ops = s1.xlt.ops ++ [n]
        ∧ t.xlt.walkCache = [] ∧ t.pool = s1.pool
        ∧ ((k = 1 ∨ k = 4) → (∀ p ∈ t.xlt.l2, p.2.va + 2 ^ p.2.log2 ≤ x.start ∨ x.start + x.length ≤ p.2.va)
            ∧ ∀ p ∈ t.xlt.l1, ∀ e ∈ p.2, e.va + 2 ^ e.log2 ≤ x.start ∨ x.start + x.length ≤ e.va)
        ∧ ((k = 2 ∨ k = 3) → t.xlt.l1 = [] ∧ t.xlt.l2 = [])
        ∧ t.xlt.root = (if k = 3 then BitVec.ofNat 64 x.root else s1.xlt.root)
        ∧ (t.ring n).op = some (.xlt { x with epochAfter := t.xlt.epoch, started := true }) ∧ (t.ring n).state = .running)
      ∧ (xltFits x s1 = false → WaitsAdmission i s s1 n (.xlt x)))
    ∧ (xltBad y x s1 = false → x.op = k → k = 5 → xltFits x s1 = true →
      let s2 := s1.onRing n fun q => { q with state := .running, startTicks := s1.hTicks }
      let s3 := afterHold (s2.onXlt fun t => { t with holds := t.holds.filter fun h => !(h.start == x.start && h.length == x.length) })
      FinishesFrom i s s3 n { second := s3.xlt.epoch.toNat }
      ∧ (s1.link.heldAccesses = [] → ∀ h ∈ s3.xlt.holds, ¬ (h.start = x.start ∧ h.length = x.length))))
  ∧ (∀ (s : State) (n : Nat) (x : XltRun), (s.ring n).op = some (.xlt x) → x.started = true → xltDrained x s = true →
    (s.ring n).state = .running → RecordGoes s n →
    ∃ t, exec (.xltOpDrained n) s = .next t ∧ WritesRecord s t n { second := s.xlt.epoch.toNat } ∧ t.xlt.ops = without s.xlt.ops n
      ∧ t.xlt.holds = (if x.op = 4 then s.xlt.holds ++
          [⟨freeHoldSlot s, x.start, x.length, if x.holdMs = 0 then 10 else x.holdMs, s.hTicks.toNat⟩] else s.xlt.holds))
  ∧ (∀ (s : State) (h : HoldRange), s.xlt.holds.find? (fun k => k.start == h.start) = some h → s.link.heldAccesses = [] →
    ∃ t, exec (.holdLimitExpire h.start) s = .next t ∧ t.xlt.holds = s.xlt.holds.filter (fun k => k.slot != h.slot)
      ∧ Notes 0x31 0 h.start h.length s t)
  ∧ ∀ (s s1 : State) (agent va : Nat) (acc : Access) (began : BitVec 32), isHeld s va = false → canonical va = true →
    (∀ pa mt k e, began = s.xlt.epoch → walk acc va s = ((.ok pa mt k, some e), s1) → regionFault s1 agent pa = none →
      ∃ t, exec (.pageWalkDone agent va acc began) s = .next t ∧ (∃ key, tfind t.xlt.l2 key = some e)
        ∧ (hasL1 agent = true → e ∈ tget [] t.xlt.l1 agent) ∧ t.pool = s1.pool ∧ t.xlt.walkCache = s1.xlt.walkCache)
    ∧ (began ≠ s.xlt.epoch → ∃ t, exec (.pageWalkDone agent va acc began) s = .next t ∧ t.xlt.l1 = s.xlt.l1 ∧ t.xlt.l2 = s.xlt.l2
        ∧ t.xlt.walkCache = s.xlt.walkCache)

/-- FABRIC_PUT, FABRIC_GET, DELIVER, FABRIC_ATOMIC, FABRIC_FENCE, ROUTE_LOAD and FLAG_SEND (R252, R267, R269 to R274, R278): an
ill-formed descriptor is refused; a transfer within one 256-byte block of its target, and an atomic, go out as one packet
with the next sequence number to their node; a fence notes the packets that are unacknowledged; a routing entry goes into
the shadow bank; the flag follows once every byte is acknowledged. -/
def Obligations.FabricOperationsSendPackets : Prop :=
  (∀ (s s1 : State) (n : Nat) (y : List Byte) (k : Nat) (i : Instr), admits s = true → (s.ring n).op = none →
    ReadsStructure s s1 n 0x06 y →
    ((k = 1 ∧ i = .fabricPut n) ∨ (k = 2 ∧ i = .fabricGet n) ∨ (k = 3 ∧ i = .deliver n) ∨ (k = 4 ∧ i = .fabricAtomic n)
      ∨ (k = 5 ∧ i = .fabricFence n) ∨ (k = 6 ∧ i = .routeLoad n)) →
    let f := { parseFabric y with opNo := s1.fab.nextOp + 1 }
    let s2 := beginOp n (.fabric f) (s1.onFab fun b => { b with nextOp := f.opNo })
    (fabricBad y f = true → FinishesFrom i s s1 n { status := 0x13 })
    ∧ (fabricBad y f = false → f.op = k →
      (k = 2 → f.offset % 256 + f.length ≤ 256 → MayLeave s2 f.node →
        Sends i s s2 n { f with sent := f.length } fun p => p.peer = f.node ∧ p.kind = .get ∧ p.ordered = false
          ∧ p.offset = f.offset ∧ p.length = f.length ∧ p.va = f.localVa % 2 ^ 64 ∧ p.op = f.opNo)
      ∧ (∀ b s3, (k = 1 ∨ k = 3) → f.offset % 256 + f.length ≤ 256 → unacked s2 f.node < 1024 → f.node ∉ s2.fab.broken →
        hostSource s2 (f.localVa % 2 ^ 64) f.length = none →
        vaRead .once agentHub (.ring n) .read (f.localVa % 2 ^ 64) f.length s2 = (.data b, s3) → fabricOf s3 n = some f →
        MayLeave s3 f.node →
        Sends i s s3 n { f with sent := f.length } fun p => p.peer = f.node ∧ p.kind = (if k = 3 then .deliver else .put)
          ∧ p.ordered = !f.unordered ∧ p.offset = f.offset ∧ p.length = f.length ∧ p.data = plain b ∧ p.poisoned = sectorMask f.offset b
          ∧ p.op = f.opNo)
      ∧ (k = 4 → MayLeave s2 f.node →
        Sends i s s2 n { f with sent := 8 } fun p => p.peer = f.node ∧ p.kind = fabricKind f ∧ p.ordered = true
          ∧ p.offset = f.offset ∧ p.data = toBytes 8 f.value)
      ∧ (k = 5 → ∃ t, exec i s = .next t ∧ (t.ring n).op = some (.fabric { f with
          fenceSeqs := (s1.fab.tx.filter fun p => f.all || p.peer == f.node).map fun p => (p.peer, p.seq) })
          ∧ (t.ring n).state = .running ∧ OtherRings n s1 t ∧ t.fab = { s1.fab with nextOp := f.opNo })
      ∧ ∀ b s3, k = 6 → f.length = 8 → hostSource s2 (f.localVa % 2 ^ 64) 8 = none → vaRead .once agentHub (.ring n) .read (f.localVa % 2 ^ 64) 8 s2 = (.data b, s3) →
        anyPoison b = false → fabricOf s3 n = some f → s3.fab.held = false →
        ∃ t, exec i s = .next t ∧ (t.ring n).op = some (.fabric { f with sent := 1 })
          ∧ routeOf t (!s3.fab.active) f.offset = BitVec.ofNat 64 (ofBytes (plain b)) ∧ t.fab.active = s3.fab.active
          ∧ ∀ v, v < 16384 → routeOf t s3.fab.active v = routeOf s3 s3.fab.active v))
  ∧ ∀ (s : State) (n : Nat) (f : FabricRun), fabricOf s n = some f → f.flag = true → f.flagSent = false → f.stop = none →
    fabricBytes f = f.length → f.op ≠ 2 → MayLeave s f.node →
    Sends (.flagSend n) s s n { f with unordered := false, flagSent := true } fun p => p.peer = f.node ∧ p.kind = .flag
      ∧ p.ordered = true ∧ p.offset = f.flagOffset ∧ p.length = 8 ∧ p.data = toBytes 8 f.value ∧ p.isFlag = true

/-- CENSUS, POWER_HINT and TEST (R324, R337, R382, R397): each is refused where its fields are out of range; a census in a
buffer too small tells the size it needs; otherwise the census begins with the tables' bytes, the hint is kept and its
record gives the forecast of 1 s, and the test begins with the units it names. -/
def Obligations.CensusHintAndTestBegin : Prop :=
  ∀ (s : State) (n : Nat) (d : List Byte),
    (Accepted s n 0x08 d →
      let buf := descWord d 8 8
      let mask := descWord d 24 8
      ((buf % 64 ≠ 0 ∨ 2 ^ 19 ≤ mask) → Finishes (.census n) s n { status := 0x13 })
      ∧ (buf % 64 = 0 → mask < 2 ^ 19 → descWord d 16 8 < censusSize mask →
          Finishes (.census n) s n { status := 0x10, second := censusSize mask })
      ∧ (buf % 64 = 0 → mask < 2 ^ 19 → censusSize mask ≤ descWord d 16 8 →
          ∃ t c, exec (.census n) s = .next t ∧ (t.ring n).op = some (.census c) ∧ c.buf = buf ∧ c.bytes = censusBytes (s.onRing n fun q => { q with
              op := some (.census { buf := buf, bytes := [] }), state := .running, startTicks := s.hTicks }) mask))
    ∧ (Accepted s n 0x09 d →
      let h : Hint := { startMs := descWord d 8 4, durationMs := descWord d 12 4, watts := descWord d 16 2, atTicks := s.hTicks.toNat }
      let live := s.pwr.hints.filter fun x => decide (s.hTicks.toNat < x.atTicks + (x.startMs + x.durationMs) * 100000)
      ((h.durationMs = 0 ∨ ceiling s < h.watts) → Finishes (.powerHint n) s n { status := 0x13 })
      ∧ (h.durationMs ≠ 0 → h.watts ≤ ceiling s → 64 ≤ live.length → Finishes (.powerHint n) s n { status := 0x10 })
      ∧ (h.durationMs ≠ 0 → h.watts ≤ ceiling s → live.length < 64 → ∃ t f, exec (.powerHint n) s = .next t
          ∧ WritesRecord s t n { second := f } ∧ f = forecast (s.onPwr fun p => { p with hints := live ++ [h] }) 1000
          ∧ f ≤ ceiling s ∧ t.pwr.hints = live ++ [h]))
    ∧ (Accepted s n 0x0A d →
      let kind := descWord d 8 1
      let all := testUnits kind (descWord d 9 1)
      let units := if descWord d 10 2 = 0xFFFF then all else all.filter (· == descWord d 10 2)
      ((units = [] ∨ descWord d 12 1 ≠ testOp kind) → Finishes (.test n) s n { status := 0x13 })
      ∧ (units ≠ [] → descWord d 12 1 = testOp kind → ∃ t, exec (.test n) s = .next t ∧ RingOnly s t n { s.ring n with
          op := some (.test { kind := kind, die := descWord d 9 1, op := testOp kind, units := units })
          state := .running, startTicks := s.hTicks }))

/-! ### Resets, Pickle mode, the host link and the map of BAR0 (chapters 11, 16, 17 and 18) -/

namespace Sys2Proof.Claims

open Sys2Proof.Machine Sys2Proof.Safety

/-- A record with these figures is among those held, where the event ring is off and there was room for it and for those that
come with it: 256 may be held (R334). -/
def Holds (cls reason addr param : Nat) (s t : State) : Prop :=
  flag s.evt.cfg 0 = false → s.evt.held.length < 128 →
    ∃ o ∈ t.evt.held, o.cls = cls ∧ o.reason = reason ∧ o.addr = addr ∧ o.param = param

/-- Configuration space, Max_Payload_Size apart, and the MSI-X table hold their reset values. -/
def ConfigAtReset (t : State) : Prop :=
  t.link.bme = false ∧ t.link.d3hot = false ∧ t.link.msixEn = false ∧ t.link.msixMask = false ∧ t.link.atomicEn = false ∧ t.link.memSpace = false
  ∧ t.link.bars = [] ∧ t.link.ctRange = 0 ∧ t.link.bar2Log2 = 36 ∧ t.link.msix = [] ∧ t.link.pba = []

/-- No TLB, walk cache entry or held range is left. -/
def NoTranslations (t : State) : Prop := t.xlt.l1 = [] ∧ t.xlt.l2 = [] ∧ t.xlt.walkCache = [] ∧ t.xlt.holds = []

/-- The state is as after a warm reset from s with a cause (Table 7 of chapter 11). -/
def WarmReset (s t : State) (cause : BitVec 2) : Prop :=
  t.link.up = false ∧ t.link.losses = s.link.losses + 1 ∧ t.link.posted = [] ∧ t.link.reads = [] ∧ ConfigAtReset t
  ∧ t.link.mpsLog2 = 7
  ∧ NoTranslations t ∧ (∀ n, winEn (winOf t n) = false) ∧ t.setup.committed = false ∧ t.setup.busy = false
  ∧ t.setup.share = s.setup.share ∧ t.dod = {} ∧ t.hTicks = s.hTicks ∧ t.flash = s.flash
  ∧ t.xlt.root = s.xlt.root ∧ t.xlt.hot = [] ∧ t.boot.ready = false ∧ (s.boot.ready = true → t.boot.kind = 2)
  ∧ (pickleOn s = true → s.pickle.freezing = false → s.pickle.entries = [] → t.pickle.freezing = true ∧ t.pickle.cause = cause)
  ∧ (s.boot.restarting = [] → t.boot.structural = false)
  ∧ (s.link.scrubOwed = false → s.boot.restarting = [] →
      (flag s.pickle.ctl 0 = false → ∀ n, (t.ring n).state = .disabled ∧ ringEn (t.ring n) = false ∧ (t.ring n).sq = 0)
      ∧ (s.rings = [] → s.boot.act = none → flag s.evt.cfg 0 = false → t.pool = s.pool))

/-- The command changes the host link alone. -/
def LinkBecomes (i : Instr) (s : State) (l : Link) : Prop := exec i s = .next { s with link := l }

end Sys2Proof.Claims

/-- POWER_ON, POWER_LOSS and DEVICE_READY (R301, R358, R372, R373, R412, R414, R427, R434): power brings every item but what survives
to its cold value and reads straps and lid, a lid code of no profile leaving the boot at its first step, and images decide of the
others; its loss keeps flash's images; the module becomes ready once dies, links and memory are, with record 0x80, an
endpoint once PERST# is deasserted, and a failure stops the boot with its code. -/
def Obligations.PowerAndBootFollowTheirRules : Prop :=
  (∀ (s : State) (lid : BitVec 3) (role : BitVec 2) (addr : BitVec 3) (slot : BitVec 6),
    ∃ t, exec (.powerOn lid role addr slot) s = .next t ∧ t.boot.island = true ∧ t.boot.ready = false ∧ t.pool.mem = []
      ∧ t.pool.poison = [] ∧ t.rings = [] ∧ t.coh.priv = [] ∧ t.hTicks = 0 ∧ t.pins.lidAtReset = lid ∧ t.pins.rolePins = role
      ∧ t.pins.addrSel = addr ∧ t.pins.slotId = slot ∧ t.pins.perst = true ∧ t.flash.slots = s.flash.slots
      ∧ t.pwr.profile = lidProfile lid ∧ t.boot.lidFault = decide (lid ≠ 1 ∧ lid ≠ 2 ∧ lid ≠ 4)
      ∧ (role ≠ 3 → t.link.role = role ∧ t.link.source = 0)
      ∧ (role = 3 → s.flash.role = none → t.link.role = 0 ∧ t.link.source = 2)
      ∧ (lid ≠ 1 ∧ lid ≠ 2 ∧ lid ≠ 4 → t.boot.stage = 1)
      ∧ (lid = 1 ∨ lid = 2 ∨ lid = 4 →
          (t.boot.stage = 4 ∧ t.boot.fail = 0) ∨ (t.boot.stage = 7 ∧ (t.boot.fail = 1 ∨ t.boot.fail = 5))))
  ∧ (∀ (s : State), s.boot.island = true → ∃ t, exec .powerLoss s = .next t ∧ t.boot.island = false ∧ t.boot.ready = false
      ∧ t.flash.slots = s.flash.slots ∧ t.flash.active = s.flash.active ∧ t.flash.role = s.flash.role ∧ t.flash.otp = s.flash.otp
      ∧ t.pool.mem = [] ∧ t.rings = [] ∧ t.pins.pgood = false ∧ t.pins.perst = true ∧ t.hTicks = 0)
  ∧ ∀ (s : State) (trained : Bool), s.boot.island = true → s.boot.lidFault = false → s.boot.ready = false → s.boot.fail = 0 →
    s.pwr.rung ≠ 5 →
    let s1 := (List.range 8).foldl (fun u p => if u.boot.trained then dlAgain p u else portReady u p) s
    (badPort s1 = none → (trained = true ∨ s.boot.trained = true) → (s.endpoint = true → s.pins.perst = false) → ∃ t, exec (.deviceReady trained) s = .next t ∧ t.boot.ready = true ∧ t.boot.stage = 7
      ∧ t.pwr.dieOff = [] ∧ t.flash.lastActivated = s.flash.lastActivated ∧ t.flash.badBoots = 0 ∧ Holds 0x80 s.boot.kind 0 s.boot.slots s t)
    ∧ (badPort s1 = none → (trained = true ∨ s.boot.trained = true) → s.endpoint = true → s.pins.perst = true → ∃ t,
      exec (.deviceReady trained) s = .next t ∧ t.boot.ready = false ∧ t.boot.stage = 6 ∧ t.boot.trained = true ∧ t.evt = s.evt)
    ∧ (badPort s1 = none → trained = false → s.boot.trained = false → ∃ t, exec (.deviceReady trained) s = .next t ∧ t.boot.ready = false
      ∧ t.boot.stage = 7 ∧ t.boot.fail = 3)
    ∧ ∀ p why, badPort s1 = some (p, why) → ∃ t, exec (.deviceReady trained) s = .next t ∧ t.boot.ready = false ∧ t.boot.stage = 7
      ∧ t.boot.fail = why ∧ t.boot.failDie = p + 1

/-- PERST_ASSERT, HOT_RESET, FLR, PERST_DEASSERT and SCRUB_FILL_DONE (R10, R11, R233, R263, R295, R299 to R303, R401, R442): a warm
reset of an endpoint, before device-ready too, leaves what Table 7 of chapter 11 says; a function level reset keeps the link, the
payload size and the set-up lock, and empties the pool where SCRUB_FLR is set, once no operation runs on. -/
def Obligations.ResetsLeaveWhatTheirTableSays : Prop :=
  ∀ (s : State),
    (portLive s = true → s.pins.perst = false → s.pwr.rung ≠ 5 →
      ∃ t, exec .perstAssert s = .next t ∧ WarmReset s t 1 ∧ t.pins.perst = true)
    ∧ (portLive s = true → s.link.up = true → ∃ t, exec .hotReset s = .next t ∧ WarmReset s t 2)
    ∧ (portLive s = true → s.link.up = true → ∃ t, exec .flr s = .next t ∧ t.link.up = true ∧ t.link.losses = s.link.losses
      ∧ ConfigAtReset t ∧ t.link.mpsLog2 = s.link.mpsLog2 ∧ NoTranslations t ∧ (∀ n, winEn (winOf t n) = false) ∧ t.setup = s.setup
      ∧ flag t.dod.ctl 62 = false ∧ t.hTicks = s.hTicks ∧ t.boot.ready = s.boot.ready
      ∧ (flag s.link.resetCtl 0 = true → t.link.scrubBusy = true
          ∧ ((∀ r ∈ s.rings, r.2.flr = false ∧ holdsFreeze r.2 = false) → t.pool.mem = [] ∧ t.pool.poison = [] ∧ t.coh.priv = []
              ∧ t.coh.sc = [] ∧ t.pickle.entries = [] ∧ t.pickle.valid = false ∧ t.link.scrubOwed = false)
          ∧ ∀ n, ringEn (s.ring n) = true → (s.ring n).state = .running → holdsFreeze (s.ring n) = true → t.link.scrubOwed = true)
      ∧ (flag s.link.resetCtl 0 = false → s.link.scrubOwed = false → t.link.scrubBusy = s.link.scrubBusy ∧ t.pickle = s.pickle))
    ∧ (s.link.scrubOwed = false → LinkBecomes .scrubFillDone s { s.link with scrubBusy := false })
    ∧ (s.link.scrubOwed = true → exec .scrubFillDone s = .next s)
    ∧ (portLive s = true → s.pins.perst = true → ∃ t, exec .perstDeassert s = .next t ∧ t.pins.perst = false
      ∧ (s.pwr.rung = 0 → t = { s with pins := { s.pins with perst := false } }))

/-- LINK_LOSS, LINK_UP, RETRAIN, FREEZE_COMPLETE, PICKLE_DESCEND, PICKLE_RESUME and PICKLE_DISCARD (R294, R295, R297, R301 to R307): a
loss freezes the module in Pickle mode, with the lock, windows and translations of a reset, and keeps them otherwise; a
freeze that is complete puts every ring's work into the record and enters rung 1; a resumed ring runs again, a discarded one
is stopped. -/
def Obligations.LinkLossAndPickleMode : Prop :=
  (∀ (s : State), s.link.up = true → ∃ t, exec .linkLoss s = .next t ∧ t.link.up = false ∧ t.link.losses = s.link.losses + 1
      ∧ t.link.posted = [] ∧ t.link.reads = [] ∧ t.boot.ready = s.boot.ready ∧ ConfigAtReset t ∧ t.link.mpsLog2 = 7
      ∧ (pickleOn s = true → NoTranslations t ∧ (∀ n, winEn (winOf t n) = false) ∧ t.setup.committed = false
          ∧ (s.pickle.freezing = false → s.pickle.entries = [] → t.pickle.freezing = true ∧ t.pickle.cause = 3
              ∧ t.pickle.freezeTicks = s.hTicks))
      ∧ (pickleOn s = false → s.link.scrubOwed = false → t.setup = s.setup ∧ t.xlt.root = s.xlt.root ∧ t.pickle = s.pickle))
  ∧ (∀ (s : State) (speed width : BitVec 4) (flit : Bool),
      (s.link.up = false → s.boot.island = true → s.boot.lidFault = false → s.pwr.rung ≠ 5 →
        (s.endpoint = true → s.pins.perst = false) →
        ∃ t, exec (.linkUp speed width flit) s = .next t ∧ t.link.up = true ∧ t.link.speed = speed ∧ t.link.width = width
          ∧ t.link.flit = flit)
      ∧ (s.link.up = true → ∃ t, exec (.retrain speed width) s = .next t ∧ { t with link := s.link } = s
          ∧ t.link = { s.link with
              retrains := s.link.retrains + 1, speed := speed, width := width, rootPorts := t.link.rootPorts }
          ∧ ∀ p, p < rootPortCount s → (tget {} t.link.rootPorts p).speed = speed ∧ (tget {} t.link.rootPorts p).width = width))
  ∧ (∀ (s : State) (n : Nat), s.pickle.freezing = true → s.rings.all (fun r => r.2.op.isNone) = true →
      ∃ t, exec .freezeComplete s = .next t ∧ t.pickle.freezing = false ∧ t.pwr.rung = 1 ∧ t.pickle.valid = true
        ∧ (s.rings.map (·.1) = [n] → (s.ring n).state = .idle → ringEn (s.ring n) = true → (s.ring n).desc = none →
          (t.ring n).state = .frozen ∧ ∃ e, t.pickle.entries = (s.pickle.entries.filter fun x => decide (x.ring < n)) ++ e ::
              (s.pickle.entries.filter fun x => decide (n < x.ring)) ∧ e.ring = n ∧ e.resumable = true
            ∧ e.status = 0x60 ∧ e.hasDesc = false ∧ e.descIndex = ringIndex (s.ring n) (s.ring n).head.toNat))
  ∧ (∀ (s : State), s.pickle.freezing = true → s.rings.any (fun r => holdsFreeze r.2) = true →
      ∃ t, exec .freezeComplete s = .next t ∧ t.pickle.freezing = true ∧ t.pwr.rung = s.pwr.rung)
  ∧ (∀ (s : State), s.pickle.valid = true → s.pwr.rung = 1 → field s.pickle.ctl 8 16 ≠ 0 →
      (field s.pickle.ctl 4 2 = 2 → ∃ t, exec .pickleDescend s = .next t ∧ t.pwr.rung = 2)
      ∧ (field s.pickle.ctl 4 2 = 3 → ∃ t, exec .pickleDescend s = .next t ∧ t.pwr.rung = 3 ∧ t.pwr.dieOff = [1, 2, 3, 4, 5, 6]))
  ∧ ∀ (s : State) (n : Nat), hubServed s = true →
      (entryOf s n = none → exec (.pickleResume n) s = .next { s with pickle := { s.pickle with actErr := true } }
        ∧ exec (.pickleDiscard n) s = .next { s with pickle := { s.pickle with actErr := true } })
      ∧ ∀ e, entryOf s n = some e → s.pickle.freezing = false → (s.ring n).state = .frozen →
        let left := s.pickle.entries.filter fun x => x.ring != n
        (e.resumable = true → s.setup.committed = true → e.op = none → (s.ring n).completed = (s.ring n).tail →
          ∃ t, exec (.pickleResume n) s = .next t ∧ t.pickle.entries = left ∧ (t.ring n).state = .idle
            ∧ (t.ring n).head = (s.ring n).completed)
        ∧ ∃ t, exec (.pickleDiscard n) s = .next t ∧ t.pickle.entries = left ∧ t.pickle.valid = !left.isEmpty
          ∧ (t.ring n).state = .stopped ∧ (t.ring n).sdesc = e.hasDesc ∧ (t.ring n).completed = (s.ring n).completed
          ∧ OtherRings n s t

/-- CONFIG_WRITE, BME_WAIT_EXPIRE, HOST_READ_COMPLETION, COMPLETION_TIMEOUT, POSTED_WRITE_ACK, HOST_ATOMICOP_RECEIVE,
INBOUND_MSI_WRITE, INBOUND_DOWNSTREAM_REQUEST and ROOT_PORT_ERROR_RECEIVE (R286, R288, R290, R291, R293, R296, R298). -/
def Obligations.HostLinkMessagesAct : Prop :=
  ∀ (s : State),
    (portLive s = true → s.link.up = true →
      (∀ on, LinkBecomes (.configWrite (.atomicRequester on)) s { s.link with atomicEn := on })
      ∧ (∀ k, 7 ≤ k → k ≤ 12 → LinkBecomes (.configWrite (.maxPayload k)) s { s.link with mpsLog2 := k })
      ∧ (∀ c, LinkBecomes (.configWrite (.timeoutRange c)) s { s.link with ctRange := c })
      ∧ (∀ k, 6 ≤ k → k ≤ 12 → LinkBecomes (.configWrite (.bar2Size k)) s { s.link with bar2Log2 := 30 + k })
      ∧ (s.link.waits = [] → s.rings.any (fun r => r.2.fetchWaits) = false →
          LinkBecomes (.configWrite (.busMaster false)) s { s.link with bme := false }
          ∧ LinkBecomes (.configWrite (.d3hot true)) s { s.link with d3hot := true })
      ∧ (∃ t, exec (.configWrite (.busMaster false)) s = .next t ∧ t.link.bme = false
          ∧ ∀ n ∈ s.link.waits, n ∈ (episodeOf t).rings)
      ∧ (∀ on, ∃ t, exec (.configWrite (.msixMask on)) s = .next t ∧ t.link.msixMask = on)
      ∧ (∀ on, ∃ t, exec (.configWrite (.msixEnable on)) s = .next t ∧ t.link.msixEn = on)
      ∧ (∃ t, exec (.configWrite (.busMaster true)) s = .next t ∧ t.link.bme = true)
      ∧ (∀ i, LinkBecomes (.configWrite (.read i)) s { s.link with answer := .data (toBytes 4 (configRead s i).toNat) false })
      ∧ configRead s (.header 0) = 0x48121F6B
      ∧ (∀ a n, LinkBecomes (.configWrite (.bar4Read a n)) s { s.link with answer := .data ((span a n).map (bar4Byte s)) false })
      ∧ (∀ bar, LinkBecomes (.hostAtomicopReceive bar) s { s.link with answer := .unsupported }))
    ∧ (inEpisode s = true → field s.link.resetCtl 16 16 ≠ 0 →
      ∃ t e, exec .bmeWaitExpire s = .next t ∧ t.link.episode = some e ∧ e.limitPassed = true)
    ∧ (∀ tag r, readOf s tag = some r → r.tag = tag → readsFull s = false → (∀ n, r.owner = .ring n → fabricOf s n = none) →
      let Ends (i : Instr) (b : List Byte) (bad : Bool) (st rs : Nat) : Prop := ∃ t, exec i s = .next t
        ∧ t.link.reads = s.link.reads.filter (fun x => x.tag != tag) ∧ t.link.arrived = s.link.arrived ++
          [{ owner := r.owner, pa := hostPa r.hio, bytes := b, poisoned := if bad then 0xF else 0, status := st, reason := rs }]
      (∀ b, b.length = r.len → Ends (.hostReadCompletion tag (.data b)) b false 0 0
        ∧ Ends (.hostReadCompletion tag (.poisoned b)) b true 0 0)
      ∧ Ends (.hostReadCompletion tag .ur) [] false 0x31 0xC ∧ Ends (.hostReadCompletion tag .ca) [] false 0x31 0xC
      ∧ ((∀ n, r.owner ≠ .fetch n) → Ends (.completionTimeout tag) [] false 0x40 0)
      ∧ ∀ n, r.owner = .fetch n → ∃ t, exec (.completionTimeout tag) s = .next t
        ∧ (recordWaits n s = false → (t.ring n).state = .stopped)
        ∧ (recordWaits n s = true → (t.ring n).state = .running ∧ (t.ring n).op = some (.finished { status := 0x40 }))
        ∧ (t.ring n).head = (s.ring n).head ∧ (t.ring n).completed = (s.ring n).completed)
    ∧ (∀ p rest, s.link.posted = p :: rest →
      (∀ n x, p.owner = .ring n → pushOf s n = some x → ∃ t, exec .postedWriteAck s = .next t ∧ t.link = { s.link with posted := rest }
        ∧ pushOf t n = some { x with acked := x.acked + p.bytes.length } ∧ OtherRings n s t)
      ∧ ((∀ n, p.owner ≠ .ring n) → LinkBecomes .postedWriteAck s { s.link with posted := rest }))
    ∧ (s.endpoint = false → s.link.up = true →
      (∀ a d, msiHit s a = true → ∃ t, exec (.inboundMsiWrite a d) s = .next t ∧ t.link.msiIn = s.link.msiIn ++ [(a % 2 ^ 20, d)]
        ∧ let page := a % 2 ^ 20 / 4096
          let h := (Config.interruptFile page).toNat
          let id := fileIdentity a (toBytes 4 d.toNat)
          let k := coreOfHart s h
          (s.pwr.rung = 0 → (t.core k).pending =
            if h < 152 ∧ id ≠ 0 ∧ id ≤ Config.interruptIdentities.toNat then setAdd (s.core k).pending (page * 2048 + id)
            else (s.core k).pending))
      ∧ LinkBecomes (.inboundDownstreamRequest .peer) s { s.link with answer := .unsupported }
      ∧ (bar2Closed s = true → ∀ a n, LinkBecomes (.inboundDownstreamRequest (.read a n)) s
          { s.link with answer := .data (List.replicate n 0) false })
      ∧ (bar2Closed s = true → ∀ a b ep, msiHit s a = false → LinkBecomes (.inboundDownstreamRequest (.write a b ep)) s
          { s.link with answer := .discarded }))
    ∧ (s.endpoint = false → ∀ (port : Nat) (status : BitVec 32), port < (if s.link.role = 2 then 4 else 1) →
      ∃ t, exec (.rootPortErrorReceive port status) s = .next t ∧ Notes 0x23 port 0 status.toNat s t)

/-- BAR2_READ, BAR2_WRITE and the reads and writes of downstream devices (R193, R236, R239, R293): within one page, a
read answers with the pool's bytes and a write stores its own; a fault answers a read as unsupported and discards a
write whole, with record 0x21, storing none of its bytes. Where the aperture is closed a read gives zeros.
REGISTER_WRITE and BAR0_READ (R9, R12, R287, R413, R438 to R440): an access of 4 or 8 bytes at its alignment reads or
writes its register, whole or the half it names; any other is refused with record 0x20 and changes no register; a
register of a page that is not served reads 0 and ignores a write; so does a reserved offset. -/
def Obligations.HostAndRegisterAccessesFollowTheMap : Prop :=
  (∀ (s s1 : State) (v n : Nat) (b : List Byte) (ep : Bool), s.pwr.rung = 0 → b.length = n →
      let Reads (i : Instr) : Prop :=
        (bar2Closed s = true → LinkBecomes i s { s.link with answer := .data (List.replicate n 0) false })
        ∧ (bar2Closed s = false →
          (∀ pa k x s2, hostPlaces .read (hostPieces4k v n) s = (.ok [(pa, n, k)], s1) → poolRead k agentPcie pa n s1 = (x, s2) →
            ∃ t, exec i s = .next t ∧ t.link = { s2.link with answer := .data (plain x) (anyPoison x) } ∧ t.pool = s2.pool)
          ∧ ∀ a c, hostPlaces .read (hostPieces4k v n) s = (.fault a c, s1) →
            ∃ t, exec i s = .next t ∧ t.link.answer = .unsupported ∧ Notes 0x21 c a 0 s1 t)
      let Writes (i : Instr) : Prop :=
        (bar2Closed s = true → LinkBecomes i s { s.link with answer := .discarded })
        ∧ (bar2Closed s = false →
          (∀ pa k, hostPlaces .write (hostPieces4k v n) s = (.ok [(pa, n, k)], s1) →
            ∃ t, exec i s = .next t ∧ t.link.answer = .none ∧ t.pool = (poolWrite k agentPcie pa b ep s1).pool
              ∧ t.coh = (poolWrite k agentPcie pa b ep s1).coh)
          ∧ ∀ a c, hostPlaces .write (hostPieces4k v n) s = (.fault a c, s1) →
            ∃ t, exec i s = .next t ∧ t.link.answer = .discarded ∧ Notes 0x21 c a 0 s1 t
              ∧ (flag s1.evt.cfg 0 = false → t.pool = s1.pool ∧ t.coh = s1.coh))
      (bar2Reach s v n = true → Reads (.bar2Read v n) ∧ Writes (.bar2Write v b ep))
      ∧ (s.endpoint = false → s.link.up = true → Reads (.inboundDownstreamRequest (.read v n))
        ∧ (msiHit s v = false → Writes (.inboundDownstreamRequest (.write v b ep)))))
  ∧ (∀ (s : State) (off size : Nat) (val : Word), off < 0x4000000 → portLive s = true → s.link.up = true →
      let at_ := off / 8 * 8
      let value := if pageServed s off then (mapRead s .host at_).toNat else 0
      (∀ p, partOf off size = some p →
        exec (.bar0Read .host off size) s = .next { s with link := { s.link with answer := .data (toBytes size
          (match p with | .whole => value | .low => value % 2 ^ 32 | .high => value / 2 ^ 32)) false } }
        ∧ (pageServed s off = true → ∃ t, exec (.registerWrite .host off size val) s = .next t
            ∧ t = giveAnswer .none (mapWrite .host at_ p val s))
        ∧ (pageServed s off = false → exec (.registerWrite .host off size val) s = .next { s with link := { s.link with answer := .none } }))
      ∧ (partOf off size = none →
        (∃ t, exec (.bar0Read .host off size) s = .next t ∧ t.link.answer = .unsupported ∧ Notes 0x20 1 off size s t)
        ∧ ∃ t, exec (.registerWrite .host off size val) s = .next t ∧ t.link.answer = .discarded ∧ Notes 0x20 2 off size s t)
      ∧ (0x1000000 ≤ off → mapRead s .host off = 0 ∧ ∀ p, mapWrite .host off p val s = s)
      ∧ mapRead s .host 0x10 = s.hTicks ∧ (∀ p, mapWrite .host 0x10 p val s = s) ∧ mapRead s .host 0x200000 = s.xlt.root
      ∧ (s.locked = true → ∀ p, mapWrite .host 0x200000 p val s = s)
      ∧ ∀ n, n < 1024 → mapRead s .host (0x400000 + 32 * n) = (s.ring n).sq)

/-- SETUP_COMMIT, SETUP_COMMIT_DONE, SR_INDEX_WRITE and SR_SNAPSHOT_DONE (R10, R176, R441, R442, R444): a commit is refused with its
cause while the module is not ready or rings run; one that changes the placement fills tier 1 with zeros and is busy until
it is done; the lock then stands. A write of the readout's index starts a snapshot; it ends with the entry or its error. -/
def Obligations.SetupCommitsAndSnapshots : Prop :=
  ∀ (s : State),
    (hubServed s = true → s.setup.committed = false → s.setup.busy = false →
      (commitCause s ≠ 0 → ∃ t, exec (.setupCommit 1) s = .next t ∧ t = { s with setup :=
          { s.setup with err := true, errCause := BitVec.ofNat 2 (commitCause s) } })
      ∧ (commitCause s = 0 → field s.pool.placement 0 6 = s.pool.ilvForce → ∃ t, exec (.setupCommit 1) s = .next t
          ∧ t.setup.committed = true ∧ t.setup.busy = false ∧ t.pool = s.pool ∧ t.xlt.l1 = [] ∧ t.xlt.l2 = [])
      ∧ (commitCause s = 0 → field s.pool.placement 0 6 ≠ s.pool.ilvForce → ∃ t, exec (.setupCommit 1) s = .next t
          ∧ t.setup.committed = false ∧ t.setup.busy = true ∧ t.pool.ilvForce = field s.pool.placement 0 6
          ∧ (∀ a, a < 0x9000000000 → memByte t.pool.mem a = 0)
          ∧ (∀ a, 0x9000000000 ≤ a → memByte t.pool.mem a = memByte s.pool.mem a)))
    ∧ ((s.setup.committed = true ∨ s.setup.busy = true) → hubServed s = true → exec (.setupCommit 1) s = .next s)
    ∧ (s.setup.busy = true → ∃ t, exec .setupCommitDone s = .next t ∧ t.setup.committed = true ∧ t.setup.busy = false
        ∧ t.pool = s.pool ∧ t.rings = s.rings)
    ∧ (s.boot.ready = true → ∀ ch (val : Word), ∃ t, exec (.srIndexWrite ch .whole val) s = .next t
        ∧ { t with setup := s.setup } = s ∧ (readoutOf t ch).busy = true
        ∧ field (readoutOf t ch).index 0 32 = field val 0 32 ∧ field (readoutOf t ch).index 40 6 = field val 40 6)
    ∧ ∀ ch, (readoutOf s ch).busy = true → admissionPaused s = false →
        let k := field (readoutOf s ch).index 40 6
        let i := field (readoutOf s ch).index 0 32
        ∃ t, exec (.srSnapshotDone ch) s = .next t ∧ { t with setup := s.setup } = s ∧ (readoutOf t ch).busy = false
          ∧ (tableShapes[k]? = none → (readoutOf t ch).err = 1)
          ∧ ∀ n b, tableShapes[k]? = some (n, b) → (readoutOf t ch).entries = n ∧ (readoutOf t ch).entryBytes = b
            ∧ (n ≤ i → (readoutOf t ch).err = 2)
            ∧ (i < n → entryOff s k i = false → (readoutOf t ch).err = 0 ∧ (readoutOf t ch).data = tableEntry s k i)

/-! ### The fabric and the die links (chapters 10 and 13, 15) -/

namespace Sys2Proof.Claims

open Sys2Proof.Machine Sys2Proof.Safety

/-- One port differs, and it is left as told. -/
def PortOnly (s t : State) (p : Nat) (x : FabPort) : Prop :=
  { t with fab := { t.fab with ports := s.fab.ports } } = s ∧ t.port p = x ∧ ∀ q, q ≠ p → t.port q = s.port q

/-- The command answers a next state with the fabric's fields as told and all else as before. -/
def FabricBecomes (i : Instr) (s : State) (f : Fabric) : Prop := exec i s = .next { s with fab := f }

/-- A message is queued on its port, in the order of its service, where the Dodgem unit is off and holds nothing (R255, R401). -/
def SendsOut (s t : State) (m : Sent) : Prop :=
  flag s.dod.ctl 62 = false → s.dod.heldPkts = [] → t.fab.out = serve m s ∧ t.fab.out.Perm (s.fab.out ++ [m])

/-- An answer of a payload is queued on a port, in the class of responses, under the bank in force (R266, R267). -/
def AnswersOut (s t : State) (q len : Nat) (msg : FabMsg) : Prop :=
  SendsOut s t { port := q, msg := msg, len := len, response := true, bank := s.fab.active }

/-- One die-link port differs. -/
def DlOnly (s t : State) (p : Nat) : Prop := { t with dl := s.dl } = s ∧ ∀ q, q ≠ p → t.dlPort q = s.dlPort q

/-- One die-link port differs, and a boot in progress has come to the die links' training or past it. -/
def DlStage (s t : State) (p : Nat) : Prop :=
  { t with dl := s.dl, boot := s.boot } = s ∧ (∀ q, q ≠ p → t.dlPort q = s.dlPort q) ∧ (s.boot.ready = false → 5 ≤ t.boot.stage)

end Sys2Proof.Claims

/-- PORT_PARTNER_DETECT, PORT_TRAIN_DONE, PORT_DOWN, FAB_PORT_EN_WRITE, FRAME_RECEIVE and PACKET_FORWARD (R254, R255, R265, R266,
R277, R282): the states of a port, the frames that fail their CRC, and the packets of other nodes, dropped at 8 hops or
with no route and sent on with one hop more otherwise. -/
def Obligations.PortsTrainAndForward : Prop :=
  ∀ (s : State) (p : Nat),
    (portsTrain s = true → portEn s p = true → (s.port p).state = 1 →
      ∃ t, exec (.portPartnerDetect p) s = .next t ∧ PortOnly s t p { s.port p with state := 2 })
    ∧ ((s.port p).state = 2 → (portsTrain s = false ∨ portEn s p = false) → ∀ r, exec (.portTrainDone p r) s = .next s)
    ∧ ((s.port p).state = 2 → portsTrain s = true → portEn s p = true →
      (∃ t, exec (.portTrainDone p .failed) s = .next t ∧ PortOnly s t p { s.port p with state := 1 })
      ∧ ∀ (trained node nbr), let lanes := lanesKept s p trained
        let st := if node.toNat = nodeId s then 6 else if lanes = 3 then 3 else if lanes = 1 then 4 else 5
        (lanes ≠ 0 → ∃ t, exec (.portTrainDone p (.up trained node nbr)) s = .next t
          ∧ PortOnly s t p { s.port p with state := st, nbrNode := node.toNat, nbrPort := nbr.toNat })
        ∧ (lanes = 0 → node.toNat ≠ nodeId s → ∃ t, exec (.portTrainDone p (.up trained node nbr)) s = .next t
          ∧ PortOnly s t p { s.port p with state := 1, nbrNode := 0, nbrPort := 0 })
        ∧ ((repEntry s 8 (portDie p) p).state ≠ 4 → lanes = trained))
    ∧ (portUp s p = true → ∃ t, exec (.portDown p .linkFailure) s = .next t ∧ (t.port p).state = portIdle s p
        ∧ (t.port p).queued = 0 ∧ (∀ m ∈ t.fab.out, m.port ≠ p) ∧ (∀ m ∈ s.fab.out, m.port ≠ p → m ∈ t.fab.out)
        ∧ (∀ q, q ≠ p → t.port q = s.port q) ∧ t.fab.tx = s.fab.tx)
    ∧ (s.boot.ready = true → ∀ val : Word, ∃ t, exec (.fabPortEnWrite .whole val) s = .next t ∧ t.fab.portEn = val
        ∧ (∀ q, q < 64 → flag val q = false → portUp t q = false) ∧ t.fab.tx = s.fab.tx ∧ t.pool = s.pool)
    ∧ (∀ k, portUp s p = true → FabricBecomes (.frameReceive p false k) s
          { s.fab with out := s.fab.out ++ [{ port := p, msg := .linkRetry, len := 0 }] })
    ∧ exec (.frameReceive p true .packets) s = .next s
    ∧ (portUp s p = true →
      let again := s.fab.retryBuf.filter fun m => m.port == p
      ∃ t, exec (.frameReceive p true .retry) s = .next t ∧ t.fab.out = again ++ s.fab.out
        ∧ (t.port p).retries = advance (s.port p).retries again.length ∧ (∀ m ∈ t.fab.retryBuf, m.port ≠ p) ∧ t.fab.tx = s.fab.tx)
    ∧ ∀ k : Packet, portUp s p = true → k.dst ≠ nodeId s →
      (8 ≤ k.hops → ∃ t, exec (.packetForward p k) s = .next t ∧ t.fab.hopDrops = advance s.fab.hopDrops 1 ∧ t.fab.out = s.fab.out
        ∧ (t.port p).rxPackets = advance (s.port p).rxPackets 1)
      ∧ (k.hops < 8 → pickPort s k.bank k.dst = none → ∃ t, exec (.packetForward p k) s = .next t
        ∧ t.fab.noRoute = advance s.fab.noRoute 1 ∧ t.fab.out = s.fab.out)
      ∧ ∀ q, k.hops < 8 → pickPort s k.bank k.dst = some q → ∃ t, exec (.packetForward p k) s = .next t
        ∧ (flag s.dod.ctl 62 = false → s.dod.heldPkts = [] → (t.port q).transit = advance (s.port q).transit 1)
        ∧ SendsOut s t
            { port := q, msg := .transit { k with port := q, hops := k.hops + 1 }, len := k.data.length, response := k.response, hops := k.hops + 1, bank := k.bank }

/-- FAB_WIN_WRITE, WIN_DRAIN_DONE, FAB_RT_DATA_WRITE, ROUTE_COMMIT, ROUTE_HOLD_EXPIRE, DODGEM_CTL_WRITE and DODGEM_REORDER_RELEASE
(R258, R259, R267, R401, R403): the words of windows, the shadow bank and its index, the exchange of banks, and the fault injection
unit. -/
def Obligations.WindowsRoutesAndDodgemUnit : Prop :=
  ∀ (s : State) (val : Word), s.boot.ready = true →
    (∀ k, ∃ t, exec (.fabWinWrite k 0 .whole val) s = .next t ∧ t.fab.winDraining = true ∧ winEn (winOf t k) = flag val 63
        ∧ winBase (winOf t k) = field val 0 25 ∧ winLimit (winOf t k) = field val 25 25
        ∧ (winOf t k).w1 = (winOf s k).w1 ∧ ∀ j, j ≠ k → winOf t j = winOf s j)
    ∧ FabricBecomes .winDrainDone s { s.fab with winDraining := false }
    ∧ (let i := field s.fab.rtIndex 0 14
      (s.fab.held = false → ∃ t, exec (.fabRtDataWrite .whole val) s = .next t ∧ routeOf t (!s.fab.active) i = val
        ∧ field t.fab.rtIndex 0 14 = (i + 1) % 16384 ∧ t.fab.active = s.fab.active
        ∧ ∀ n, n < 16384 → routeOf t s.fab.active n = routeOf s s.fab.active n)
      ∧ (s.fab.held = true → exec (.fabRtDataWrite .whole val) s = .next s))
    ∧ (2 ≤ field val 0 2 →
      let bank := decide (field val 0 2 = 3)
      ∃ t, exec (.routeCommit .whole val) s = .next t ∧ t.fab.active = bank ∧ (bank ≠ s.fab.active → t.fab.held = true)
        ∧ (bank = s.fab.active → t.fab.held = s.fab.held) ∧ t.fab.routes = s.fab.routes
        ∧ field t.fab.routeCtl 16 16 = (if field val 16 16 = 0 then field s.fab.routeCtl 16 16 else field val 16 16))
    ∧ FabricBecomes .routeHoldExpire s { s.fab with held := false }
    ∧ (s.locked = false → flag val 63 = true → flag val 62 = true → field val 23 2 ≠ 3 →
      ∃ t, exec (.dodgemCtlWrite .whole val) s = .next t ∧ flag t.dod.ctl 62 = true ∧ flag t.dod.ctl 63 = true
        ∧ field t.dod.ctl 0 6 = field val 0 6
        ∧ (flag s.dod.ctl 62 = false → t.dod.index = [] ∧ Notes 0x78 1 0 (field val 0 6) s t))
    ∧ ∀ n m more rest, s.dod.heldPkts = (n, m :: more) :: rest → ∃ t, exec .dodgemReorderRelease s = .next t ∧ t.dod.heldPkts = rest
      ∧ (more = [] → t.fab.out = serve m s ∧ m ∈ t.fab.out ∧ (t.port m.port).txPackets = advance (s.port m.port).txPackets 1)
      ∧ ∀ d, more = [d] → t.fab.out.Perm (s.fab.out ++ [m, d])

/-- FABRIC_GET_RECEIVE, FABRIC_PUT_RECEIVE, FABRIC_FLAG_RECEIVE, FABRIC_ATOMIC_RECEIVE, DELIVERY_RECEIVE and GAP_NOTICE_SEND (R260 to R262,
R274, R278 to R281): the packet whose turn it is is performed at its window and acknowledged with what it returns, or refused
with its reason; one that comes again is not performed again; one that comes early waits; one that fails its CRC is
dropped. -/
def Obligations.PacketsArePerformedOnceInOrder : Prop :=
  (∀ (s : State) (p : Packet) (i : Instr),
    ((p.kind = .get ∧ i = .fabricGetReceive p) ∨ (p.kind = .put ∧ i = .fabricPutReceive p) ∨ (p.kind = .flag ∧ i = .fabricFlagReceive p)
      ∨ ((∃ a, p.kind = .atomic a) ∧ i = .fabricAtomicReceive p) ∨ (p.kind = .deliver ∧ i = .deliveryReceive p)) →
    portUp s p.port = true → p.dst = nodeId s →
    let r := rxOf s p.src
    let s0 := countRx p (stir s)
    (p.crcOk = false → ∃ t, exec i s = .next t ∧ t.fab.crcDrops = advance s.fab.crcDrops 1 ∧ t.pool = s0.pool ∧ t.fab.rx = s.fab.rx)
    ∧ (p.crcOk = true → p.seq = r.base → r.base < 2 ^ 24 → r.seen = [] → r.held = [] → r.faulted = [] →
      let next : RxCtx := { r with base := (p.seq + 1) % 2 ^ 24 }
      let s1 := onRx p.src (fun _ => next) s0
      (p.kind = .deliver → deliveryWaits p.offset s0 = false) →
      (∀ b s2, performAny p.src p.kind p.offset p.length (pktBytes p) s1 = (.ok b, s2) →
        ∃ t, exec i s = .next t ∧ t.pool = s2.pool ∧ t.coh = s2.coh ∧ t.arrays = s2.arrays ∧ t.engines = s2.engines
          ∧ (rxOf t p.src).base = next.base ∧ seqSeen (rxOf t p.src) p.seq = true
          ∧ ∀ q, pickPort s2 s2.fab.active p.src = some q → AnswersOut s2 t q b.length (.perfAck p.src p.seq (plain b) (sectorMask p.offset b)))
      ∧ ∀ reason s2, performAny p.src p.kind p.offset p.length (pktBytes p) s1 = (.error reason, s2) →
        ∃ t, exec i s = .next t ∧ t.fab.winFaults = advance s2.fab.winFaults 1
          ∧ (rxOf t p.src).base = next.base ∧ (p.seq, reason) ∈ (rxOf t p.src).refused
          ∧ (p.op, reason) ∈ (rxOf t p.src).faulted
          ∧ ∀ q, pickPort s2 s2.fab.active p.src = some q → AnswersOut s2 t q 0 (.nak p.src p.seq reason))
    ∧ (p.crcOk = true → p.seq = r.base → r.base < 2 ^ 24 → r.seen = [] → r.held = [] → p.ordered = true →
      (p.kind = .deliver → deliveryWaits p.offset s0 = false) → ∀ reason, r.faulted.find? (fun x => x.1 == p.op) = some (p.op, reason) →
        ∃ t, exec i s = .next t ∧ t.pool = s0.pool ∧ t.coh = s0.coh ∧ t.fab.winFaults = s.fab.winFaults
          ∧ (p.seq, reason) ∈ (rxOf t p.src).refused)
    ∧ (p.crcOk = true → p.kind = .put → seqSeen r p.seq = true → (r.held.any fun q => q.seq == p.seq) = false →
      ∃ t, exec i s = .next t ∧ t.pool = s0.pool ∧ t.coh = s0.coh ∧ t.fab.duplicates = advance s.fab.duplicates 1 ∧ t.fab.rx = s.fab.rx
        ∧ ∀ q, pickPort s0 s0.fab.active p.src = some q →
          (r.refused.find? (fun x => x.1 == p.seq) = none → AnswersOut s0 t q 0 (.perfAck p.src p.seq [] 0))
          ∧ ∀ reason, r.refused.find? (fun x => x.1 == p.seq) = some (p.seq, reason) → AnswersOut s0 t q 0 (.nak p.src p.seq reason))
    ∧ (p.crcOk = true → mustWait p = true → 0 < seqAhead r.base p.seq → seqAhead r.base p.seq < 2 ^ 23 → r.base ∉ r.seen → p.seq ∉ r.seen →
      p.seq < 2 ^ 24 → r.base < 2 ^ 24 → reorderBytes s (portDie p.port) + 12 + p.data.length ≤ 4194304 →
      (p.kind = .deliver → deliveryWaits p.offset s0 = false) →
      ∃ t, exec i s = .next t ∧ t.pool = s0.pool ∧ t.coh = s0.coh ∧ (rxOf t p.src).held = r.held ++ [p] ∧ (rxOf t p.src).base = r.base)
    ∧ (p.crcOk = true → p.kind = .deliver → deliveryWaits p.offset s0 = true → seqSeen r p.seq = false →
      ∃ t, exec i s = .next t ∧ t.pool = s0.pool ∧ t.fab.rx = s.fab.rx ∧ t.fab.busyNacks = advance s.fab.busyNacks 1
        ∧ ∀ q, pickPort s0 s0.fab.active p.src = some q → AnswersOut s0 t q 0 (.busy p.src p.seq)))
  ∧ (∀ (s : State) (src off n : Nat) (k : PktKind) (data : List (Byte × Bool)) (w : FabWin),
    windowCheck s src k off = .ok w → k ≠ .deliver →
    let pa := field w.w1 16 40 * 65536 + off - winBase w * 65536
    (poolBacked pa = false → performAny src k off n data s = (.error 5, s))
    ∧ (poolBacked pa = true → (k = .put ∨ k = .flag) →
      performAny src k off n data s = (.ok [], poolStore agentFabric pa data s)
      ∧ ∀ bad, data ≠ [] → (∀ x ∈ data, x.2 = bad) → poolStore agentFabric pa data s = poolWrite .once agentFabric pa (plain data) bad s)
    ∧ ∀ b s1, poolBacked pa = true → k = .get → poolRead .once agentFabric pa n s = (b, s1) →
      performAny src k off n data s = (.ok b, s1))
  ∧ ∀ (s : State) (peer seq : Nat), seqSeen (rxOf s peer) seq = false →
    ((rxOf s peer).held.any fun p => decide (seqAhead (rxOf s peer).base seq < seqAhead (rxOf s peer).base p.seq)) = true →
    ∃ t, exec (.gapNoticeSend peer seq) s = .next t ∧ t.fab.gapNotices = advance s.fab.gapNotices 1 ∧ t.pool = s.pool
      ∧ ∀ q, pickPort s s.fab.active peer = some q → AnswersOut s t q 0 (.gap peer seq)

/-- RECEIVED_ACK, PERFORMED_ACK, NEGATIVE_ACK_RECEIVE, GAP_NOTICE_RECEIVE, RTO_EXPIRE, E2E_TIMEOUT, E2E_HANDSHAKE, BUSY_NOTICE_RECEIVE and
BUSY_RESEND (R260, R276, R278 to R280): what a sender does with a packet x that is not acknowledged as performed. -/
def Obligations.SendersFollowTheirAcknowledgements : Prop :=
  ∀ (s : State) (peer seq q : Nat) (x : TxPkt), txOf s peer seq = some x →
    let Marks (f : TxPkt → TxPkt) (y : TxPkt) : TxPkt := if y.peer = peer ∧ y.seq = seq then f y else y
    let left := s.fab.tx.filter fun y => !(y.peer == peer && y.seq == seq)
    let Resent (t : State) : Prop := ∀ r, pickPort s s.fab.active peer = some r →
      SendsOut s t { port := r, msg := .request x, len := reqPayload x, bank := s.fab.active }
    let routed := pickPort s s.fab.active peer ≠ none
    (portUp s q = true → (countIn q 0 s).port q = { s.port q with
        rxPackets := advance (s.port q).rxPackets 1, rxBytes := advance (s.port q).rxBytes 0 })
    ∧ FabricBecomes (.receivedAck ⟨peer, q⟩ seq) s { (countIn q 0 s).fab with tx := s.fab.tx.map (Marks fun y => { y with received := true }) }
    ∧ FabricBecomes (.busyNoticeReceive ⟨peer, q⟩ seq) s { (countIn q 0 s).fab with tx := s.fab.tx.map (Marks fun y => { y with busy := true }) }
    ∧ (∀ n f, x.owner = .ring n → fabricOf s n = some f → (∀ r ∈ s.rings.map (·.1), r = n) → f.op = 1 → f.length ≤ f.sent →
        f.fenceSeqs = [] → f.waiting = [] → f.stop = none →
      (∀ data bad, x.isFlag = false → ∃ t, exec (.performedAck ⟨peer, q⟩ seq data bad) s = .next t ∧ t.fab.tx = left
        ∧ fabricOf t n = some { f with acked := tins f.acked x.localOff x.length })
      ∧ (∀ data bad, x.isFlag = true → ∃ t, exec (.performedAck ⟨peer, q⟩ seq data bad) s = .next t ∧ t.fab.tx = left
        ∧ fabricOf t n = some { f with flagAcked := true })
      ∧ ∀ reason, ∃ t, exec (.negativeAckReceive ⟨peer, q⟩ seq reason) s = .next t ∧ t.fab.tx = left
        ∧ fabricOf t n = some { f with stop := some { status := 0x32, fabricForm := true, node := peer, address := x.offset, reason := reason } })
    ∧ (routed → ∃ t, exec (.gapNoticeReceive ⟨peer, q⟩ seq) s = .next t ∧ t.fab.retransmits = advance s.fab.retransmits 1
        ∧ t.fab.tx = s.fab.tx ∧ Resent t)
    ∧ (routed → x.received = false → x.resends < field x.e2e 44 4 → ∃ t, exec (.rtoExpire peer seq) s = .next t
        ∧ t.fab.retransmits = advance s.fab.retransmits 1
        ∧ t.fab.tx = s.fab.tx.map (Marks fun y => { y with resends := y.resends + 1 }) ∧ Resent t)
    ∧ ((x.received = true ∨ field x.e2e 44 4 ≤ x.resends) → exec (.rtoExpire peer seq) s = .next s)
    ∧ (routed → x.busy = true → ∃ t, exec (.busyResend peer seq) s = .next t ∧ t.fab.retransmits = s.fab.retransmits
        ∧ t.fab.tx = s.fab.tx.map (Marks fun y => { y with busy := false }))
    ∧ (∃ t, exec (.e2eTimeout peer) s = .next t ∧ peer ∈ t.fab.broken ∧ ∀ y ∈ t.fab.tx, y.peer ≠ peer)
    ∧ (peer ∈ s.fab.broken → ∃ t, exec (.e2eHandshake ⟨peer, q, true⟩) s = .next t ∧ peer ∉ t.fab.broken
        ∧ (s.rings = [] → tget 0 t.fab.nextSeq peer = 0 ∧ t.fab.rx = s.fab.rx))
    ∧ ∃ t, exec (.e2eHandshake ⟨peer, q, false⟩) s = .next t ∧ rxOf t peer = {} ∧ t.fab.broken = s.fab.broken
        ∧ t.fab.nextSeq = s.fab.nextSeq ∧ ∀ r, pickPort s s.fab.active peer = some r → AnswersOut s t r 0 (.handshake peer true)

/-- FLIT_RECEIVE, NAK_RECEIVE, WIRE_RECENTRE, WIRE_REMAP, LANE_RETIRE and DISCOVERY_FRAME (R342, R345 to R350, R353, R355): a flit that
fails its CRC is answered with a NAK of the last good one; the good one in its turn is taken and acknowledged; a NAK from the
die resends what follows; a group with a lasting fault moves its worst wire to its
spare; with the spare in use its lane is retired, the last of a direction cutting the port off; a port
trains where the frame's identity is its own. -/
def Obligations.DieLinksRetryAndRepair : Prop :=
  ∀ (s : State) (p lane : Nat),
    let x := s.dlPort p
    let l := laneOf x lane
    (laneUp p x lane 0 = true → ∀ f : Flit,
      (flitGood f = false → ∃ t, exec (.flitReceive p lane f) s = .next t ∧ DlOnly s t p
        ∧ (t.dlPort p).crcFails = advance x.crcFails 1 ∧ (laneOf (t.dlPort p) lane).nak = true
        ∧ (laneOf (t.dlPort p) lane).lastGood = l.lastGood
        ∧ (laneOf (t.dlPort p) lane).retry.getLast? = some (idleFlit l.txSeq l.lastGood true))
      ∧ (flitGood f = true → flitSeq f = (l.lastGood + 1) % 256 → (l.kept = none ∨ l.nak = false) → sideField f 79 1 = 0 →
        ∃ t, exec (.flitReceive p lane f) s = .next t ∧ { t with dl := s.dl, coh := s.coh } = s
          ∧ { t.coh with outs := s.coh.outs } = s.coh ∧ (∀ q, q ≠ p → t.dlPort q = s.dlPort q)
          ∧ (switchOut t 8).waiting = (if flitCarries f then
              packFlit ⟨p, flitClass f, lane, decide (2 ≤ sideField f 72 4), 1⟩ (switchOut s 8).waiting else (switchOut s 8).waiting)
          ∧ (t.dlPort p).credits = (if sideField f 64 5 = 0 then x.credits
              else tput 0 x.credits (sideField f 69 3) (tget 0 x.credits (sideField f 69 3) + sideField f 64 5))
          ∧ (laneOf (t.dlPort p) lane).lastGood = flitSeq f
          ∧ (laneOf (t.dlPort p) lane).nak = false
          ∧ (t.dlPort p).flitsRx = (if sideField f 72 4 = 0 then x.flitsRx else advance x.flitsRx 1)
          ∧ (laneOf (t.dlPort p) lane).retry.getLast? = some (idleFlit l.txSeq (flitSeq f) false))
      ∧ (flitGood f = true → flitSeq f ≠ (l.lastGood + 1) % 256 → exec (.flitReceive p lane f) s = .next s))
    ∧ (laneUp p x lane 1 = true → ∀ seq, ∃ t, exec (.nakReceive p lane seq) s = .next t ∧ DlOnly s t p
        ∧ (laneOf (t.dlPort p) lane).resend = afterSeq seq l.retry
        ∧ (t.dlPort p).retries = advance x.retries (afterSeq seq l.retry).length)
    ∧ (∀ g w, exec (.wireRecentre p g w) s = .next s)
    ∧ (∀ (weight : Nat → Nat) (fuel slots : Nat) (a : Arbitrated),
        let r := arbitrate weight fuel slots a
        ∃ k, k ≤ slots ∧ r.out.waiting.length + k = a.out.waiting.length ∧ r.sent.length = a.sent.length + k
          ∧ (r.sent ++ r.out.waiting).Perm (a.sent ++ a.out.waiting))
    ∧ (∀ g w, dlUp x = true → isDue p g 0 s = true → tfind x.spares (g * 2) = none → faultyWire (groupErrors p g 0 s) = some w →
        ∃ t, exec (.wireRemap p g false) s = .next t
          ∧ tfind (t.dlPort p).spares (g * 2) = some w ∧ (t.dlPort p).remaps = advance x.remaps 1 ∧ (t.dlPort p).state = x.state
          ∧ isDue p g 0 t = false)
    ∧ (∀ g dir, isDue p g (one dir) s = false → exec (.wireRemap p g dir) s = .next s)
    ∧ (laneUp p x lane 0 = true → ((laneGroups p lane).any fun g => isDue p g 0 s && spareUsed p g 0 s) = true →
        ∃ t, exec (.laneRetire p lane false) s = .next t ∧ (t.dlPort p).lanesUp = x.lanesUp - 1
        ∧ lane * 2 ∈ (t.dlPort p).retired ∧ (t.dlPort p).laneRet = advance x.laneRet 1
        ∧ (t.dlPort p).state = (if x.lanesUp - 1 = 0 ∨ x.lanesDn = 0 then 5 else 4)
        ∧ (x.lanesUp - 1 = 0 → t.boot.structural = true))
    ∧ (s.boot.island = true → s.boot.lidFault = false → s.pwr.rung ≠ 5 → s.boot.fail = 0 → x.state < 3 → ∀ f : Identity,
      (f.crcOk = false → ∃ t, exec (.discoveryFrame p f) s = .next t ∧ DlStage s t p ∧ (t.dlPort p).state = 1)
      ∧ (f.crcOk = true → f.kind = dlKind p → f.groups = dataGroups p → dlRetired x 0 = 0 → dlRetired x 1 = 0 →
        ∃ t, exec (.discoveryFrame p f) s = .next t ∧ DlStage s t p ∧ (t.dlPort p).lanesUp = dlLanes p
          ∧ (t.dlPort p).lanesDn = dlLanes p ∧ ((t.dlPort p).state = 3 ∨ (t.dlPort p).state = 4)
          ∧ (t.dlPort p).designator = some (p + 1))
      ∧ (f.crcOk = true → (f.kind ≠ dlKind p ∨ f.groups ≠ dataGroups p) →
        ∃ t, exec (.discoveryFrame p f) s = .next t ∧ DlStage s t p ∧ (t.dlPort p).state = 5))

/-! ### Power, rungs and repair (chapters 14 and 15) -/

namespace Sys2Proof.Claims

open Sys2Proof.Machine Sys2Proof.Safety

/-- The operating points of the domains that P selects are as a function tells. -/
def Points (t : State) (P : Nat → Prop) (f : Nat → Nat) : Prop := ∀ d, d < 43 → P d → (t.domain d).inForce = f d

/-- The power manager's fields become as told, and all else is as before. -/
def PowerBecomes (i : Instr) (s : State) (p : Power) : Prop := exec i s = .next { s with pwr := p }

/-- The repair map and its command registers become as told, and all else is as before. -/
def RepairBecomes (i : Instr) (s : State) (r : Repair) : Prop := exec i s = .next { s with rep := r }

end Sys2Proof.Claims

/-- POWER_SAMPLE, POWER_STEP, DOMAIN_IDLE_LOWER, CREDIT_UPDATE, FORECAST_PUBLISH and PWR_FIXED_WRITE (R363 to R368, R370, R379,
R381): samples enter the window, the chosen domain moves by one point, every array domain falls to OP0 where the average
exceeds the ceiling, the credit balance follows its sum, a fixed-rate request is refused or takes its point. -/
def Obligations.PowerManagerStepsDomains : Prop :=
  ∀ (s : State),
    (∀ r : PowerReading,
      let s0 := keepSample r s
      let top := ceiling s * 1000
      ∃ t, exec (.powerSample r) s = .next t ∧ t.pwr.window = (r :: s.pwr.window).take 1000
        ∧ (∀ d, d < 43 → (t.domain d).powerMw = nth (s.domain d).powerMw r.domainMw d)
        ∧ (top < r.avg500Mw → Points t (· < 32) fun _ => 0)
        ∧ (r.inputMw ≤ top → r.avg500Mw ≤ top → Points t (fun _ => True) fun d => (s.domain d).inForce)
        ∧ ∀ c, top < r.inputMw → r.avg500Mw ≤ top → lowerChoice s0 true = some c →
            Points t (fun _ => True) fun d => if d = c then (s.domain d).inForce - 1 else (s.domain d).inForce)
    ∧ (∃ t, exec .powerStep s = .next t
        ∧ (∀ c, (powerLimit s).1 < inputMw s → lowerChoice s false = some c →
          Points t (fun _ => True) fun d => if d = c then (s.domain d).inForce - 1 else (s.domain d).inForce)
        ∧ (∀ c, inputMw s ≤ (powerLimit s).1 → raiseChoice s = some c →
          Points t (fun _ => True) fun d => if d = c ∧ raiseFits s c = true then (s.domain d).inForce + 1 else (s.domain d).inForce))
    ∧ (∀ d, d < 43 → domainBusy s d = false → fixedOn s d = false → dieFrozen s (domainDie d) = false → ∃ t, exec (.domainIdleLower d) s = .next t
        ∧ Points t (fun _ => True) fun k => if k = d then 0 else (s.domain k).inForce)
    ∧ (∀ avg,
      let b := min (capacityUj s) (s.pwr.balanceUj + envelope s * 1000 - avg)
      (s.pwr.coolantLoss = true → exec (.creditUpdate avg) s = .next s)
      ∧ (s.pwr.coolantLoss = false → s.pwr.creditMode = false → 0 < b → PowerBecomes (.creditUpdate avg) s { s.pwr with balanceUj := b })
      ∧ (s.pwr.coolantLoss = false → s.pwr.creditMode = false → b = 0 → ∃ t, exec (.creditUpdate avg) s = .next t
          ∧ t.pwr.balanceUj = 0 ∧ t.pwr.creditMode = true ∧ Holds 0x61 1 0 0 s t)
      ∧ (s.pwr.coolantLoss = false → s.pwr.creditMode = true → 0 < b → capacityUj s * s.pwr.resumePct ≤ b * 100 →
          ∃ t, exec (.creditUpdate avg) s = .next t ∧ t.pwr.balanceUj = b ∧ t.pwr.creditMode = false ∧ Holds 0x61 2 0 (b / 1000000) s t))
    ∧ (let w := pack [(inputAvgMw s / 1000 % 65536, 0), (forecast s 100, 16), (forecast s 1000, 32), (forecast s 10000, 48)]
      PowerBecomes .forecastPublish s { s.pwr with forecast := w })
    ∧ (∀ h, forecast s h ≤ ceiling s ∧ min (ceiling s) (hintForecast s h) ≤ forecast s h
        ∧ (s.rings = [] → forecast s h = min (ceiling s) (hintForecast s h)))
    ∧ ∀ val : Word, s.boot.ready = true →
      let w := partWrite s.pwr.fixed 0xF0000FFF .whole val
      (fixedBad w s = true → PowerBecomes (.pwrFixedWrite .whole val) s { s.pwr with fixErr := true })
      ∧ (fixedBad w s = false → ∃ t, exec (.pwrFixedWrite .whole val) s = .next t ∧ field t.pwr.fixed 0 12 = field val 0 12
          ∧ field t.pwr.fixed 28 4 = field val 28 4
          ∧ field t.pwr.fixed 32 3 = (if field val 28 4 = 0 then 0 else pointForRate (field val 0 12)))

/-- THERMAL_LIMIT_STEP, THERMAL_TRIP, THERMAL_TRIP_CLEAR, THERMAL_SHUTDOWN, COLD_JUNCTION_HOLD and COLD_JUNCTION_END
(R372, R386): the thermal limit moves by one point a step between 95 and 98 degC; a trip at 105 degC puts the die's
domains at OP0 until 95 degC; 110 degC takes the module to rung 5; below 0 degC every domain is held at OP0 and no
descriptor is admitted. LID_RECHECK, SAFETY_NET_ASSERT, SAFETY_NET_RELEASE, COOLANT_LOSS, COOLANT_LOSS_END,
AGEING_CHECK and WEAR_LEDGER_WRITE (R359, R364, R373, R375, R376): a lid code that has changed and a low input act as
coolant loss, the balance at 0; an alert puts every domain at OP0 and abandons an activation; a short margin lowers
the unit's rated maximum; an hour's wear enters the ledger. -/
def Obligations.ThermalAndSupplyEventsActAsTheirRules : Prop :=
  (∀ (s : State) (die : Nat) (j : Int),
      let x := thermOf s die
      (∃ t, exec (.thermalLimitStep die j) s = .next t ∧ (thermOf t die).junction = j
        ∧ (thermOf t die).limit = (if 980 ≤ j then x.limit - 1 else if j < 950 then min 7 (x.limit + 1) else x.limit))
      ∧ (1050 ≤ j → x.tripped = false → ∃ t, exec (.thermalTrip die j) s = .next t ∧ (thermOf t die).tripped = true
        ∧ Points t (fun d => domainDie d = die) (fun _ => 0) ∧ Points t (fun d => domainDie d ≠ die) (fun d => (s.domain d).inForce)
        ∧ t.boot.act = none ∧ Holds 0x66 1 die (junctionBits j) s t)
      ∧ (j < 950 → x.tripped = true → ∃ t, exec (.thermalTripClear die j) s = .next t ∧ (thermOf t die).tripped = false
        ∧ Points t (fun _ => True) (fun d => (s.domain d).inForce) ∧ Holds 0x66 2 die (junctionBits j) s t)
      ∧ (s.boot.island = true → s.boot.lidFault = false → s.pwr.rung ≠ 5 → (1100 ≤ j ∨ (1050 ≤ j ∧ x.tripped = true)) →
        ∃ t, exec (.thermalShutdown die j) s = .next t ∧ t.pwr.rung = 5 ∧ t.pwr.shutdown = some (die, j) ∧ t.pins.thermtrip = true
          ∧ t.pool.mem = [] ∧ t.rings = [] ∧ t.hTicks = s.hTicks ∧ t.pwr.throttle = s.pwr.throttle)
      ∧ (j < 0 → ∃ t, exec (.coldJunctionHold die j) s = .next t ∧ (thermOf t die).cold = true ∧ Points t (fun _ => True) (fun _ => 0)
        ∧ admits t = false ∧ (coldHold s = false → Holds 0x6A 1 die (junctionBits j) s t))
      ∧ (coldHold s = true → coldHold (onTherm die (fun y => { y with cold := y.cold && decide (j < 0), junction := j }) s) = false →
        ∃ t, exec (.coldJunctionEnd die j) s = .next t ∧ coldHold t = false ∧ Holds 0x6A 2 die (junctionBits j) s t))
  ∧ (∀ (s : State),
      (∀ code : BitVec 3,
        ((code = s.pins.lidAtReset ∨ s.pwr.srcLid = true) →
          exec (.lidRecheck code) s = .next { s with pins := { s.pins with lid := code } })
        ∧ (code ≠ s.pins.lidAtReset → s.pwr.srcLid = false → ∃ t, exec (.lidRecheck code) s = .next t ∧ t.pwr.srcLid = true
            ∧ t.pwr.coolantLoss = true ∧ t.pwr.balanceUj = 0 ∧ t.pins.lid = code ∧ Holds 0x64 3 0 0 s t))
      ∧ (∀ r, ∃ t, exec (.safetyNetAssert r) s = .next t ∧ t.pwr.safetyNet = true ∧ r ∈ t.pwr.alerts ∧ t.boot.act = none
          ∧ Points t (fun _ => True) (fun _ => 0)
          ∧ (s.pwr.safetyNet = false → t.pwr.safetySince = s.hTicks.toNat ∧ Holds 0x60 1 0 0 s t))
      ∧ (s.pwr.safetyNet = true → ∃ t, exec .safetyNetRelease s = .next t ∧ t.pwr.safetyNet = false ∧ t.pwr.alerts = []
          ∧ Holds 0x60 2 0 (s.hTicks.toNat - s.pwr.safetySince) s t)
      ∧ (s.pwr.srcPin = false → ∃ t, exec .coolantLoss s = .next t ∧ t.pwr.coolantLoss = true ∧ t.pwr.srcPin = true
          ∧ t.pwr.balanceUj = 0 ∧ t.pins.coolantLow = true ∧ Holds 0x64 1 0 0 s t)
      ∧ (∃ t, exec .coolantLossEnd s = .next t ∧ t.pins.coolantLow = false ∧ t.pwr.srcPin = false
          ∧ (s.pwr.coolantLoss = true → s.pwr.srcBus = false → s.pwr.srcLid = false → t.pwr.coolantLoss = false ∧ Holds 0x64 4 0 0 s t)
          ∧ ((s.pwr.srcBus = true ∨ s.pwr.srcLid = true) → t.pwr.coolantLoss = s.pwr.coolantLoss))
      ∧ (∀ u, exec (.ageingCheck u false) s = .next s)
      ∧ (∀ u, u < 1272 → ratedOf s u ≠ 0 → ∃ t, exec (.ageingCheck u true) s = .next t ∧ ratedOf t u = ratedOf s u - 1
          ∧ (∀ v, v ≠ u → ratedOf t v = ratedOf s v) ∧ Holds 0x63 0 (ratedUnit u).2.2.2 (ratedOf s u - 1) s t)
      ∧ (s.flash.part < 360000000000 → ∃ t, exec .wearLedgerWrite s = .next t ∧ t.flash.hours = s.flash.hours + 1 ∧ t.pwr.ledgerTicks = 0
          ∧ ∀ d, d < 43 → (t.domain d).wearTicks = (s.domain d).wearTicks % 100000000
            ∧ ((s.flash.hours + 1) % 24 ≠ 0 → (t.domain d).wear = wearBuckets (s.domain d) ∧ wearTotal (t.domain d) = wearTotal (s.domain d))))

/-- RUNG1_ENTER, RUNG2_ENTER, RUNG3_ENTER, RUNG_WAKE, ENTER_RUNG4, ENTER_RUNG5 and MEM_INIT_DONE (R254, R383 to R386): an idle module goes
down the ladder, its ports down from rung 2 and its compute and processor dies off from rung 3; a wake brings rung 0 again;
rungs 4 and 5 are entered by command, lose the pool, and are refused while the module is not idle. -/
def Obligations.RungsAreEnteredAndLeft : Prop :=
  ∀ (s : State),
    (s.pwr.rung = 0 → moduleIdle s = true → s.pickle.freezing = false → ∃ t, exec .rung1Enter s = .next t ∧ t.pwr.rung = 1
      ∧ Points t (fun _ => True) (fun _ => 0))
    ∧ (mayDescend 1 2 s = true → ∃ t, exec .rung2Enter s = .next t ∧ t.pwr.rung = 2 ∧ ∀ p, p < 64 → portUp t p = false)
    ∧ (mayDescend 2 3 s = true → (linkQuiet s = true ∨ s.endpoint = false) → ∃ t, exec .rung3Enter s = .next t ∧ t.pwr.rung = 3
      ∧ t.pwr.dieOff = [1, 2, 3, 4, 5, 6] ∧ t.engines = [] ∧ t.arrays = [] ∧ t.coh.priv = [] ∧ t.xlt.l1 = [] ∧ t.rings = s.rings)
    ∧ (s.boot.island = true → s.boot.lidFault = false → ∀ w : Wake,
      (s.pwr.rung = 0 → exec (.rungWake w) s = .next s)
      ∧ (s.pwr.rung = 1 → ∃ t, exec (.rungWake w) s = .next t ∧ t.pwr.rung = 0 ∧ t.rings = s.rings)
      ∧ ((s.pwr.rung = 2 ∨ s.pwr.rung = 3) → w = .fabricPacket → exec (.rungWake w) s = .next s)
      ∧ ((s.pwr.rung = 2 ∨ s.pwr.rung = 3) → w ≠ .fabricPacket → ∃ t, exec (.rungWake w) s = .next t ∧ t.pwr.rung = 0
          ∧ (s.boot.ready = true → t.pwr.dieOff = []))
      ∧ (s.pwr.rung = 4 → w ≠ .fabricPacket → ∃ t, exec (.rungWake w) s = .next t ∧ t.pwr.rung = 0 ∧ t.pwr.memInit = true
          ∧ t.pwr.dieOff = [])
      ∧ (s.pwr.rung = 5 → (w = .managementBus ∨ w = .perst) → ∃ t, exec (.rungWake w) s = .next t ∧ t.boot.kind = 3
          ∧ t.boot.ready = false ∧ t.hTicks = s.hTicks)
      ∧ (s.pwr.rung = 5 → w ≠ .managementBus → w ≠ .perst → exec (.rungWake w) s = .next s))
    ∧ (s.boot.ready = true →
      (enterRefused s = true → PowerBecomes .enterRung4 s { s.pwr with rungErr := true }
        ∧ PowerBecomes .enterRung5 s { s.pwr with rungErr := true })
      ∧ (enterRefused s = false → s.pwr.rung < 4 → ∃ t, exec .enterRung4 s = .next t ∧ t.pwr.rung = 4 ∧ t.pool.mem = []
          ∧ t.pool.poison = [] ∧ t.coh.sc = [] ∧ t.rings = s.rings ∧ t.setup = s.setup ∧ t.fab.wins = s.fab.wins)
      ∧ (enterRefused s = false → s.pwr.rung < 5 → ∃ t, exec .enterRung5 s = .next t ∧ t.pwr.rung = 5 ∧ t.pool.mem = []
          ∧ t.rings = [] ∧ t.hTicks = s.hTicks ∧ t.pwr.throttle = s.pwr.throttle))
    ∧ PowerBecomes .memInitDone s { s.pwr with memInit := false }

/-- CORRECTED_ERROR, PAIR_SUBSTITUTE, CORE_SUBSTITUTE and RETIRE_PENDING_DONE (R194, R389, R391, R393, R394, R404, R415): an error event counts
against its item, and where the rule fires its granule is retired; injected errors never count; a unit whose retirement is
decided moves to the spare of its domain, or waits where there is none; one that waits and is idle is retired. -/
def Obligations.ErrorsCountAndUnitsMove : Prop :=
  (∀ (s : State) (ev : ErrEvent),
    (ev.injected = true → exec (.correctedError ev) s = .next s)
    ∧ (ev.injected = false → ev.structural = true → eccFinds .tags ev.wrong = .uncorrectable →
      ∃ t, exec (.correctedError ev) s = .next t ∧ t.boot.structural = true)
    ∧ (ev.injected = false → (ev.structural = false ∨ eccFinds .tags ev.wrong ≠ .uncorrectable) → dieFrozen s ev.die = true →
      s.boot.queued.length < 1024 →
      exec (.correctedError ev) s = .next { s with boot := { s.boot with queued := s.boot.queued ++ [ev] } })
    ∧ (ev.injected = false → ev.structural = false → dieFrozen s ev.die = false → (ev.cls = 7 ∨ ev.cls = 8) →
      let old := match s.rep.counts.find? fun x => x.cls == ev.cls && x.item == ev.item && x.die == ev.die with
        | some x => x.times.filter (inWindow s ev.cls)
        | none => []
      let n := old.length + 1
      (n < field (ruleOf s ev.cls) 0 8 → ∃ t, exec (.correctedError ev) s = .next t
        ∧ ⟨ev.cls, ev.item, ev.die, old ++ [s.hTicks.toNat]⟩ ∈ t.rep.counts ∧ { t with rep := s.rep } = s)
      ∧ (field (ruleOf s ev.cls) 0 8 ≤ n → flag (ruleOf s ev.cls) 31 = true → poolBacked ev.pa = true → inTier2 ev.pa = true →
        ev.pa / 4096 * 4096 ∉ s.pool.retired2 → s.pool.retired2.length < 65536 →
        ∃ t, exec (.correctedError ev) s = .next t ∧ t.pool.retired2 = s.pool.retired2 ++ [ev.pa / 4096 * 4096]
          ∧ Holds 0x70 ev.cls ev.item n s t ∧ Holds 0x73 2 (ev.pa / 4096 * 4096) (s.pool.retired2.length + 1) s t
          ∧ ∀ x ∈ t.rep.counts, ¬ (x.cls = ev.cls ∧ x.item = ev.item ∧ x.die = ev.die))))
  ∧ (∀ (s : State) (die u v : Nat), 1 ≤ die → die ≤ 4 → u < 136 → (repEntry s 1 die u).state = 0 → (repEntry s 1 die u).cause ≠ 0 →
    (pickSpare s 1 die u = some v →
      let a := pairIndex die u
      let b := pairIndex die v
      ∃ t, exec (.pairSubstitute die u) s = .next t ∧ (repEntry t 1 die u).state = 4 ∧ (repEntry t 1 die u).partner = v
        ∧ (repEntry t 1 die v).state = 0 ∧ (t.array b).ring = (s.array a).ring ∧ (t.array a).ring = none
        ∧ (t.engine b).grants = (s.engine a).grants ∧ (t.engine b).slots = (s.engine a).slots
        ∧ ((s.engine a).mode = 0 → (t.engine b).mode = 3 ∧ (t.engine b).reason = 5)
        ∧ ((s.engine a).mode ≠ 0 → (t.engine b).mode = (s.engine a).mode) ∧ Holds 0x71 (repEntry s 1 die u).cause 0 v s t)
    ∧ (pickSpare s 1 die u = none → (s.rep.side.any fun x => x.1 == die && x.2.1 == 1 && x.2.2.2 != 0xFFFF) = false → ∃ t, exec (.pairSubstitute die u) s = .next t ∧ (repEntry t 1 die u).state = 5
      ∧ t.arrays = s.arrays ∧ Holds 0x72 (repEntry s 1 die u).cause 0 0 s t ∧ Holds 0x79 1 0 0 s t))
  ∧ (∀ (s : State) (k v : Nat), k < 152 →
    let die := k / 76 + 5
    let m := coreIndex die v
    (repEntry s 4 die (k % 76)).state = 0 → (repEntry s 4 die (k % 76)).cause ≠ 0 → pickSpare s 4 die (k % 76) = some v →
    ∃ t, exec (.coreSubstitute k) s = .next t ∧ (repEntry t 4 die (k % 76)).state = 4 ∧ (repEntry t 4 die v).state = 0
      ∧ (t.core k).wfi = true ∧ (t.core m).wfi = (s.core k).wfi ∧ (t.core m).hart = some ((s.core k).hart.getD k) ∧ (t.core m).reservation = none)
  ∧ ∀ (s : State) (die u : Nat), (repEntry s 1 die u).state = 5 → pairIdle s (pairIndex die u) = true →
    ∃ t, exec (.retirePendingDone die u) s = .next t ∧ (repEntry t 1 die u).state = 4 ∧ (repEntry t 1 die u).partner = 0xFFFF
      ∧ Holds 0x71 (repEntry s 1 die u).cause 0 0xFFFF s t

/-- RETIRE, RESTORE, CLEAR_PAGES, REP_CMD_DONE, SIDESHOW_BEGIN and SIDESHOW_END (R396, R398, R399, R400): a command is refused while one is in
progress or where it is not taken; its end gives its result, a restored unit being a free spare; a test's next unit goes
on the sideshow or defers the test, comes back as passed or failed, and is tested again after its first mismatch. -/
def Obligations.RepairCommandsAndSideshow : Prop :=
  (∀ (s : State) (kind die u : Nat), s.boot.ready = true →
    (s.rep.busy = true → RepairBecomes (.retire kind die u) s { s.rep with err := true }
      ∧ RepairBecomes (.restore kind die u) s { s.rep with err := true } ∧ RepairBecomes .clearPages s { s.rep with err := true })
    ∧ (s.rep.busy = false →
      (retireTaken kind die u s = false → RepairBecomes (.retire kind die u) s { s.rep with err := true, result := 3 })
      ∧ (retireTaken kind die u s = true → ∃ t, exec (.retire kind die u) s = .next t ∧ t.rep.busy = true
          ∧ t.rep.cmd = some (1, kind, die, u)
          ∧ ((kind = 1 ∨ kind = 4) → (repEntry s kind die u).state = 1 → (repEntry t kind die u).state = 4
              ∧ (repEntry t kind die u).cause = 3))
      ∧ (restoreTaken kind die u s = false → RepairBecomes (.restore kind die u) s { s.rep with err := true, result := 3 })
      ∧ (restoreTaken kind die u s = true → kind ≠ 1 → kind ≠ 4 →
          RepairBecomes (.restore kind die u) s { s.rep with busy := true, cmd := some (2, kind, die, u) })
      ∧ (restoreTaken kind die u s = true → (kind = 1 ∨ kind = 4) → ∃ t, exec (.restore kind die u) s = .next t ∧ t.rep.busy = true
          ∧ t.rep.cmd = some (2, kind, die, u) ∧ (repEntry t kind die u).state = 3 ∧ (die, kind, u, 0xFFFF) ∈ t.rep.side
          ∧ Holds 0x76 1 0 0xFFFF s t)
      ∧ exec .clearPages s = .next { s with
          rep := { s.rep with busy := true, cmd := some (3, 0, 0, 0) }, pool := { s.pool with clearPages := true } }))
  ∧ (∀ (s : State) (op kind die u : Nat), s.rep.cmd = some (op, kind, die, u) →
    (op = 2 → (kind = 1 ∨ kind = 4) → sideOf s kind die u = some (die, kind, u, 0xFFFF) →
      (∃ t, exec (.repCmdDone true) s = .next t ∧ t.rep.busy = false ∧ t.rep.cmd = none
        ∧ t.rep.result = 1 ∧ (repEntry t kind die u).state = 1 ∧ Holds 0x76 2 0 0xFFFF s t)
      ∧ (s.rep.retest = true → ∃ t, exec (.repCmdDone false) s = .next t ∧ t.rep.busy = false ∧ t.rep.cmd = none
        ∧ t.rep.result = 2 ∧ (repEntry t kind die u).state = 4)
      ∧ (s.rep.retest = false → s.rep.counts = [] → 2 ≤ field (ruleOf s (if kind = 1 then 2 else 11)) 0 8 →
        ∃ t, exec (.repCmdDone false) s = .next t ∧ t.rep.retest = true ∧ t.rep.cmd = s.rep.cmd ∧ t.rep.busy = s.rep.busy))
    ∧ (op = 2 → kind ≠ 1 → kind ≠ 4 → RepairBecomes (.repCmdDone false) s { s.rep with busy := false, cmd := none, result := 2 })
    ∧ (op ≠ 2 → ∀ b, RepairBecomes (.repCmdDone b) s { s.rep with busy := false, cmd := none, result := 1 }))
  ∧ ∀ (s : State) (n : Nat) (x : TestRun), testOf s n = some x →
    (∀ u, x.stop = none → x.onSide = none → x.units[x.treated]? = some u →
      (∀ r, deferReason x u s = some r → ∃ t, exec (.sideshowBegin n) s = .next t ∧ RingOnly s t n { s.ring n with
          op := some (.test { x with stop := some { status := 1, progress := x.treated, second := r } }) })
      ∧ (deferReason x u s = none → ∃ t y, exec (.sideshowBegin n) s = .next t ∧ testOf t n = some y ∧ y.onSide = some u
          ∧ y.treated = x.treated ∧ y.failed = x.failed ∧ y.stop = none
          ∧ Holds 0x76 1 0 y.standIn s t))
    ∧ ∀ u, x.onSide = some u →
      let Ends (r : SideResult) (failed : Nat) : Prop := ∃ t, exec (.sideshowEnd n r) s = .next t ∧ testOf t n =
        some { x with onSide := none, retest := false, treated := x.treated + 1, failed := failed }
      Ends .passed x.failed
      ∧ (x.kind ≠ 1 → x.kind ≠ 4 → ∀ k, Ends (.failed k) (x.failed + 1))
      ∧ ((x.kind = 1 ∨ x.kind = 4) → x.retest = true → ∀ k, Ends (.failed k) (x.failed + 1))
      ∧ ((x.kind = 1 ∨ x.kind = 4) → x.retest = false → s.rep.counts = [] → 2 ≤ field (ruleOf s (if x.kind = 1 then 2 else 11)) 0 8 →
          ∀ k, ∃ t, exec (.sideshowEnd n (.failed k)) s = .next t ∧ testOf t n = some { x with retest := true })
      ∧ ∀ r, ∃ t, exec (.sideshowEnd n (.untreatable r)) s = .next t ∧ testOf t n =
          some { x with onSide := none, stop := some { status := 1, progress := x.treated, second := r } }

/-! ### The control complex (chapter 16) -/

namespace Sys2Proof.Claims

open Sys2Proof.Machine Sys2Proof.Safety

/-- The command changes the answer and the connection of the responder alone. -/
def MgmtBecomes (i : Instr) (s : State) (m : Mgmt) : Prop := exec i s = .next { s with mgmt := m }

/-- The command answers, and changes nothing else. -/
def Answers (i : Instr) (s : State) (a : MgmtAnswer) : Prop := MgmtBecomes i s { s.mgmt with answer := a }

/-- The command answers with n bytes, the first of them as told, and takes k fresh free values. -/
def AnswersBytes (i : Instr) (s : State) (code n k : Nat) (first : List Byte) : Prop :=
  ∃ b, exec i s = .next { s with free := s.free + k, mgmt := { s.mgmt with answer := .spdm code (first ++ b) } } ∧ first.length + b.length = n

/-- No fault event waits for a die's controller. -/
def NoneWait (s : State) (die : Nat) : Prop := ∀ e ∈ s.boot.queued ++ s.boot.queuedLost, e.die ≠ die

end Sys2Proof.Claims

/-- GET_VERSION, GET_CAPABILITIES, NEGOTIATE_ALGORITHMS, GET_DIGESTS, GET_CERTIFICATE, CHALLENGE, GET_MEASUREMENTS and
SPDM_UNSUPPORTED_REQUEST (R416, R417): with the island powered each is answered, the negotiation going forward in its order; a
request before its turn gets UnexpectedRequest, and one that is not listed UnsupportedRequest. The codes and layouts are the
model's (log entry 41); the certificates' bytes, but for the serial number, and signatures are free values. -/
def Obligations.SpdmRequestsAreAnsweredInOrder : Prop :=
  ∀ (s : State), s.boot.island = true →
    let Early (i : Instr) := Answers i s (.spdmError 0x04)
    MgmtBecomes .getVersion s { s.mgmt with spdm := 1, answer := .spdm 0x04 [0x12] }
    ∧ (s.mgmt.spdm = 0 → Early .getCapabilities)
    ∧ (1 ≤ s.mgmt.spdm → MgmtBecomes .getCapabilities s { s.mgmt with spdm := max 2 s.mgmt.spdm, answer := .spdm 0x61 [17, 0x36] })
    ∧ (∀ asym hash, let both := bit asym 3 = true ∧ bit hash 0 = true
        (s.mgmt.spdm < 2 → Early (.negotiateAlgorithms asym hash))
        ∧ (2 ≤ s.mgmt.spdm → MgmtBecomes (.negotiateAlgorithms asym hash) s { s.mgmt with
            spdm := if both then 3 else 2
            answer := .spdm 0x63 [1, 2, if bit asym 3 then 8 else 0, if bit hash 0 then 1 else 0] }))
    ∧ (s.mgmt.spdm < 3 → ∀ slot off n nonce k b,
        Early .getDigests ∧ Early (.getCertificate slot off n) ∧ Early (.challenge slot nonce) ∧ Early (.getMeasurements k b))
    ∧ (3 ≤ s.mgmt.spdm →
        Answers .getDigests s (.spdm 0x01 (1 :: sha256 (certChain s)))
        ∧ (∀ off n, off < (certChain s).length → Answers (.getCertificate 0 off n) s (.spdm 0x02 (((certChain s).drop off).take n)))
        ∧ (∀ off n, (certChain s).length ≤ off → Answers (.getCertificate 0 off n) s (.spdmError 0x01))
        ∧ (∀ nonce, AnswersBytes (.challenge 0 nonce) s 0x03 448 448 [])
        ∧ (∀ slot off n nonce, slot ≠ 0 →
            Answers (.getCertificate slot off n) s (.spdmError 0x01) ∧ Answers (.challenge slot nonce) s (.spdmError 0x01))
        ∧ Answers (.getMeasurements 0 false) s (.spdm 0x60 [7])
        ∧ (∀ k, 1 ≤ k → k ≤ 7 → Answers (.getMeasurements k false) s (.spdm 0x60 (7 :: measurement k s))
            ∧ AnswersBytes (.getMeasurements k true) s 0x60 (385 + (measurement k s).length) 384 (7 :: measurement k s))
        ∧ (∀ c, c < 5 → componentRuns s c = true →
            let x := slotOf s c (one (bit s.boot.slots c))
            x.shipped = false → measurement (c + 2) s = BitVec.ofNat 8 (c + 2) :: 1 :: sha256 (x.image.header ++ x.image.body))
        ∧ measurement 7 s = 7 :: 0x83 :: securityConfig s
        ∧ ∀ k b, 7 < k → k ≠ 0xFF → Answers (.getMeasurements k b) s (.spdmError 0x01))
    ∧ ∀ code, Answers (.spdmUnsupportedRequest code) s (.spdmError 0x07)

/-- SENSOR_READ, COOLANT_EFFECTER, INLET_EFFECTER, POWER_CAP_EFFECTER, RUNG_REQUEST_EFFECTER, PCIE_ROLE_EFFECTER and
MCTP_CONTROL_REQUEST (R285, R371, R376, R386, R419): the sensors answer with their values, the effecters act as their rules say; a
request that R386 refuses fails and sets RUNG_ERR. The encodings are the model's (log entries 41 and 42). -/
def Obligations.ManagementBusReadsAndActs : Prop :=
  ∀ (s : State), s.boot.island = true →
    Answers (.sensorRead 5) s (.value (s.pwr.balanceUj / 1000000))
    ∧ (∀ k, k < 9 → Answers (.sensorRead (k + 6)) s (.value (thermOf s k).junction))
    ∧ Answers (.sensorRead 15) s (.value s.pwr.rung) ∧ Answers (.sensorRead 34) s (.value (moduleReasons s))
    ∧ Answers (.sensorRead 35) s (.value s.mgmt.update)
    ∧ (∀ g, g < 7 → Answers (.sensorRead (256 + g)) s (.value (powerEntry s g)))
    ∧ (∀ d, d < 43 → Answers (.sensorRead (288 + d)) s (.value (powerEntry s (d + 16) % 65536 : Nat)))
    ∧ (∀ k, (15 < k ∧ k < 32) ∨ k = 0 ∨ (35 < k ∧ k < 256) ∨ 330 < k → Answers (.sensorRead k) s .pldmError)
    ∧ (s.pwr.srcBus = false → ∃ t, exec (.coolantEffecter 2) s = .next t ∧ t.pwr.srcBus = true ∧ t.pwr.coolantLoss = true
        ∧ t.pwr.balanceUj = 0 ∧ t.mgmt.answer = .ok ∧ Holds 0x64 2 0 0 s t)
    ∧ exec (.coolantEffecter 1) s = .next { s with pwr := { s.pwr with srcBus := false }, mgmt := { s.mgmt with answer := .ok } }
    ∧ (∀ v, ∃ t, exec (.inletEffecter v) s = .next t ∧ t.pwr.inletBus = v ∧ t.pwr.inletLast = 2 ∧ t.pwr.balanceUj = min s.pwr.balanceUj (capacityUj t)
        ∧ t.mgmt.answer = .ok)
    ∧ (∀ w, w < 65536 → ∃ t, exec (.powerCapEffecter w) s = .next t ∧ field t.pwr.cap 0 16 = w ∧ t.mgmt.answer = .ok)
    ∧ (∀ r, (r = 4 ∨ r = 5) → enterRefused s = true → exec (.rungRequestEffecter r) s =
        .next { s with pwr := { s.pwr with rungErr := true }, mgmt := { s.mgmt with answer := .pldmError } })
    ∧ (enterRefused s = false → s.pwr.rung < 4 → ∃ t, exec (.rungRequestEffecter 4) s = .next t ∧ t.pwr.rung = 4 ∧ t.pool.mem = []
        ∧ t.mgmt.answer = .ok)
    ∧ (s.boot.lidFault = false → s.pwr.rung < 5 → ∃ t, exec (.rungRequestEffecter 1) s = .next t ∧ t.pwr.rung = 0 ∧ t.mgmt.answer = .ok)
    ∧ (∀ r, (r < 4 → exec (.pcieRoleEffecter r) s =
          .next { s with flash := { s.flash with role := some (BitVec.ofNat 2 r) }, mgmt := { s.mgmt with answer := .ok } })
        ∧ (4 ≤ r → Answers (.pcieRoleEffecter r) s .pldmError))
    ∧ ∀ b, (b ≠ .pcieVdm ∨ (s.endpoint = true ∧ s.link.up = true)) →
        (∀ e : BitVec 8, e ≠ 0 → e ≠ 0xFF → ∃ t, exec (.mctpControlRequest b (.setEndpointId e)) s = .next t ∧ eidOf t.mgmt b = e
          ∧ (∀ c, c ≠ b → eidOf t.mgmt c = eidOf s.mgmt c) ∧ { t with mgmt := s.mgmt } = s)
        ∧ Answers (.mctpControlRequest b .getEndpointId) s (.mctp [0, eidOf s.mgmt b, 0, 0])
        ∧ Answers (.mctpControlRequest b .getMessageTypes) s (.mctp [0, 3, 0, 1, 5])
        ∧ Answers (.mctpControlRequest b .pldmGetTid) s (.value s.mgmt.tid.toNat)
        ∧ (s.boot.act = none → MgmtBecomes (.mctpControlRequest b .pldmRequestUpdate) s { s.mgmt with update := 2, answer := .ok })

/-- CONTROLLER_WATCHDOG, CONTROLLER_RESTART_DONE, SVN_COMMIT, IMAGE_TRANSFER_DONE, ACTIVATE_FIRMWARE and FIRMWARE_HANDOVER_DONE (R409, R410,
R415, R420, R421): a controller that stops answering is restarted with record 0x85; an image is verified into the slot that does
not run, and is staged or refused; an activation hands over controller by controller and then names the new slots; minimum
SVNs become those of the running images. -/
def Obligations.FirmwareIsStagedAndHandedOver : Prop :=
  ∀ (s : State),
    (∀ k, k < 9 → hubServed s = true → s.boot.fail = 0 → dieOn s k = true → k ∉ s.boot.restarting → handsOver s k = false →
      ∃ t, exec (.controllerWatchdog k) s = .next t ∧ t.boot = { s.boot with restarting := s.boot.restarting ++ [k] }
        ∧ Holds 0x85 (if k = 0 then 2 else 1) 0 (controllerComponent k) s t)
    ∧ (∀ k, k ≠ 0 → k ∈ s.boot.restarting → NoneWait s k → exec (.controllerRestartDone k) s =
        .next (powerSettle { s with boot := { s.boot with restarting := without s.boot.restarting k } }))
    ∧ (0 ∈ s.boot.restarting → s.boot.fail = 0 → slotFault s 0 (one (bit s.flash.active 0)) = none →
        ∃ t, exec (.controllerRestartDone 0) s = .next t ∧ { t with boot := s.boot } = s ∧ t.boot.fail = 0
          ∧ t.boot.restarting = without s.boot.restarting 0 ∧ bit t.boot.slots 0 = bit s.flash.active 0)
    ∧ (hubServed s = true → s.boot.act = none → ∃ t, exec .svnCommit s = .next t
        ∧ (∀ c, c < 5 → tget 0 t.flash.minSvn c = max (tget 0 s.flash.minSvn c) (runningSvn s c)) ∧ t.flash.revoked = s.flash.revoked
        ∧ (∀ c, c < 5 → tget 0 s.flash.minSvn c < runningSvn s c → Holds 0x84 1 0 s.flash.revoked s t))
    ∧ (s.boot.island = true → s.boot.act = none → ∀ i : Image, i.component < 5 →
        let c := i.component
        let b := inactiveSlot s c
        ∃ t, exec (.imageTransferDone i) s = .next t ∧ t.mgmt.update = 1 ∧ t.boot = s.boot
          ∧ slotOf t c (1 - b) = slotOf s c (1 - b)
          ∧ (imageFault s c i = none → slotOf t c b = { image := i, invalid := false } ∧ bit t.mgmt.staged c = true
              ∧ t.mgmt.answer = .ok ∧ Holds 0x82 1 c i.version s t)
          ∧ (∀ r, imageFault s c i = some r → slotOf t c b = { image := i, invalid := true } ∧ bit t.mgmt.staged c = false
              ∧ t.mgmt.answer = .pldmError ∧ Holds 0x82 2 c i.version s t))
    ∧ (s.boot.island = true → (s.mgmt.staged = 0 ∨ s.boot.act ≠ none) → Answers .activateFirmware s .pldmError)
    ∧ (s.boot.island = true → s.boot.lidFault = false → s.boot.fail = 0 → s.boot.act = none → s.pwr.rung = 0 → s.mgmt.staged ≠ 0 →
        ∀ k, nextController s.mgmt.staged 0 = some k → ∃ t, exec .activateFirmware s = .next t
          ∧ t.boot = { s.boot with act := some { staged := s.mgmt.staged, at_ := k } } ∧ t.mgmt = { s.mgmt with update := 3, answer := .ok }
          ∧ Holds 0x83 1 0 s.mgmt.staged s t)
    ∧ (s.boot.island = true → s.boot.lidFault = false → s.boot.fail ≠ 0 → s.boot.act = none → s.mgmt.staged ≠ 0 →
        ∃ t, exec .activateFirmware s = .next t ∧ t.mgmt = { s.mgmt with update := 1, staged := 0, answer := .ok } ∧ t.boot.kind = s.boot.kind
          ∧ Holds 0x83 2 0 s.mgmt.staged s t)
    ∧ ∀ a, s.boot.act = some a →
      (a.at_ < 8 → NoneWait s (a.at_ + 1)) →
      (∀ k, nextController a.staged (a.at_ + 1) = some k →
          let t : State := { s with boot := { s.boot with act := some { staged := a.staged, at_ := k } } }
          exec .firmwareHandoverDone s = .next (if a.at_ < 8 then powerSettle t else t))
      ∧ (nextController a.staged (a.at_ + 1) = none → ∃ t, exec .firmwareHandoverDone s = .next t
          ∧ t.boot.act = none ∧ t.boot.slots = s.boot.slots ^^^ a.staged ∧ t.flash.lastActivated = a.staged
          ∧ t.mgmt.staged = 0 ∧ t.mgmt.update = 1 ∧ Holds 0x83 2 0 a.staged s t)

/-! ### The whole block -/

/-- A step with a command at the front of the queue is exec of that command on the state with the queue's rest; on an empty
queue a tick passes (the model's choice, log entry 2). -/
def Obligations.StepRunsTheFrontCommand : Prop :=
  (∀ (c : Instr) (s : State) (rest : List Instr), step { s with pending := c :: rest } = exec c { s with pending := rest })
  ∧ ∀ s : State, s.pending = [] → step s = .next (tick s)

/-- Every command is answered with a next state: no command faults and none is refused. -/
def Obligations.EveryCommandAnswersNext : Prop :=
  ∀ (i : Instr) (s : State), ∃ t, exec i s = .next t

/-- The state after reset (R301, R390, R412, Table 7 of chapter 11): memory reads zeros and is in canonical form, no queue or
cache holds anything, no ring is enabled, the registers hold the cold reset values that the chapters' tables give, and
every die's counter is 0. -/
def Obligations.ResetLeavesTheColdValues : Prop :=
  MemOk State.reset ∧ (∀ a, memByte State.reset.pool.mem a = 0) ∧ State.reset.pool.poison = []
  ∧ State.reset.pending = [] ∧ State.reset.coh.sc = [] ∧ State.reset.coh.priv = [] ∧ State.reset.coh.dir = []
  ∧ (∀ n, (State.reset.ring n).state = .disabled ∧ (State.reset.ring n).sq = 0 ∧ (State.reset.ring n).cq = 0)
  ∧ (∀ n, winEn (winOf State.reset n) = false) ∧ State.reset.setup.committed = false
  ∧ State.reset.hTicks = 0 ∧ (∀ d, State.reset.ticksOf d = 0) ∧ State.reset.pwr.rung = 1
  ∧ State.reset.boot.ready = false ∧ State.reset.boot.stage = 4 ∧ State.reset.link.up = false
  ∧ (∀ die u, (repEntry State.reset 1 die u).state = (if u % 17 = 16 then 1 else 0))
  ∧ ∀ die u, (repEntry State.reset 4 die u).state = (if u % 19 = 18 then 1 else 0)

/-- Every step keeps the pool's memory in its canonical form: addresses strictly rise and no listed byte is one that an
unlisted address reads, so equal memories are equal data. -/
def Obligations.StepsKeepMemoryCanonical : Prop :=
  ∀ (s t : State), MemOk s → step s = .next t → MemOk t

namespace Sys2Proof.Claims

/-- The front command is one that reaches FW_CTL.SVN_COMMIT, at BAR0 offset 0x600008. -/
def WritesFwCtl (s : State) : Prop :=
  (∃ rest, s.pending = .svnCommit :: rest) ∨ (∃ src n v rest, s.pending = .registerWrite src 0x600008 n v :: rest)
  ∨ ∃ k pa n v rest, s.pending = .coreStore k pa n v :: rest ∧ pa % 0x4000000 = 0x600008

/-- The keys revoked after an activation of the components of a set: those before, and those that the images in the slots
which become active name in REVOKE. -/
def RevokesAsStaged (s t : State) (staged : Nat) : Prop := ∀ k, k < 4 →
  (bit t.flash.revoked k = true ↔ bit s.flash.revoked k = true
    ∨ ∃ c, c < 5 ∧ bit staged c = true ∧ bit (slotOf s c (inactiveSlot s c)).image.revoke k = true)

end Sys2Proof.Claims

/-- Revocations and minimum SVNs (R410). No command and no tick lowers a minimum or takes back a revocation. A minimum rises
only where FW_CTL.SVN_COMMIT is written, and then every component's is that of its running image; a key is revoked only at
an activation, which revokes those that its images name. An image whose REVOKE names its own KEY is refused. -/
def Obligations.RevocationsAndMinimumsOnlyRise : Prop :=
  (∀ (s t : State), step s = .next t →
    (∀ k, bit s.flash.revoked k = true → bit t.flash.revoked k = true)
    ∧ (∀ c, tget 0 s.flash.minSvn c ≤ tget 0 t.flash.minSvn c)
    ∧ ((∀ c, tget 0 t.flash.minSvn c = tget 0 s.flash.minSvn c)
      ∨ WritesFwCtl s ∧ ∀ c, c < 5 → tget 0 t.flash.minSvn c = max (tget 0 s.flash.minSvn c) (runningSvn s c))
    ∧ (t.flash.revoked = s.flash.revoked
      ∨ ∃ rest, s.pending = .firmwareHandoverDone :: rest ∨ s.pending = .activateFirmware :: rest))
  ∧ (∀ (s : State), hubServed s = true → s.boot.act = none → ∃ t, exec .svnCommit s = .next t
      ∧ ∀ c, c < 5 → tget 0 t.flash.minSvn c = max (tget 0 s.flash.minSvn c) (runningSvn s c))
  ∧ (∀ (s : State) (a : Activation), s.boot.act = some a → nextController a.staged (a.at_ + 1) = none →
      ∃ t, exec .firmwareHandoverDone s = .next t ∧ RevokesAsStaged s t a.staged)
  ∧ (∀ (s : State), s.boot.island = true → s.boot.act = none → (s.boot.lidFault = true ∨ s.boot.fail ≠ 0) → s.mgmt.staged ≠ 0 →
      ∃ t, exec .activateFirmware s = .next t ∧ RevokesAsStaged s t s.mgmt.staged)
  ∧ ∀ (s : State) (i : Image), s.boot.island = true → s.boot.act = none → i.component < 5 → i.key < 4 → bit i.revoke i.key = true →
      ∃ t, exec (.imageTransferDone i) s = .next t ∧ bit t.mgmt.staged i.component = false
        ∧ slotOf t i.component (inactiveSlot s i.component) = { image := i, invalid := true }

/-- Every pattern of every format that is no NaN decodes to a value that encodes to the same pattern, and a finite value of
a format is left as it is by a conversion to that format, in every rounding and overflow mode (R34, R36, R39, R47, R50). -/
def Obligations.FormatsDecodeAndEncodeAgree : Prop :=
  ∀ (f : Fmt) (v : Nat), v < 2 ^ fmtBits f → decodeNum f v ≠ .nan →
    encodeNum f (decodeNum f v) = v
    ∧ ∀ (rm : Rm) (ov : Ov) (draw : Nat), (∀ neg, decodeNum f v ≠ .inf neg) →
        encodeNum f (convertNum f rm ov draw (decodeNum f v)) = v
end

