-- ==== Sys2Proof/Laws/State.lean ====
section
/-! SUPPORT. What each update of the state leaves in each field: one lemma per field per update. -/

namespace Sys2Proof.Machine

@[simp] theorem State.onCoh_hTicks (s : State) (f : Coh → Coh) : (s.onCoh f).hTicks = s.hTicks := rfl
@[simp] theorem State.onCoh_dieTicks (s : State) (f : Coh → Coh) : (s.onCoh f).dieTicks = s.dieTicks := rfl
@[simp] theorem State.onCoh_pins (s : State) (f : Coh → Coh) : (s.onCoh f).pins = s.pins := rfl
@[simp] theorem State.onCoh_boot (s : State) (f : Coh → Coh) : (s.onCoh f).boot = s.boot := rfl
@[simp] theorem State.onCoh_flash (s : State) (f : Coh → Coh) : (s.onCoh f).flash = s.flash := rfl
@[simp] theorem State.onCoh_mgmt (s : State) (f : Coh → Coh) : (s.onCoh f).mgmt = s.mgmt := rfl
@[simp] theorem State.onCoh_link (s : State) (f : Coh → Coh) : (s.onCoh f).link = s.link := rfl
@[simp] theorem State.onCoh_pickle (s : State) (f : Coh → Coh) : (s.onCoh f).pickle = s.pickle := rfl
@[simp] theorem State.onCoh_setup (s : State) (f : Coh → Coh) : (s.onCoh f).setup = s.setup := rfl
@[simp] theorem State.onCoh_pool (s : State) (f : Coh → Coh) : (s.onCoh f).pool = s.pool := rfl
@[simp] theorem State.onCoh_coh (s : State) (f : Coh → Coh) : (s.onCoh f).coh = f s.coh := rfl
@[simp] theorem State.onCoh_xlt (s : State) (f : Coh → Coh) : (s.onCoh f).xlt = s.xlt := rfl
@[simp] theorem State.onCoh_rings (s : State) (f : Coh → Coh) : (s.onCoh f).rings = s.rings := rfl
@[simp] theorem State.onCoh_evt (s : State) (f : Coh → Coh) : (s.onCoh f).evt = s.evt := rfl
@[simp] theorem State.onCoh_arrays (s : State) (f : Coh → Coh) : (s.onCoh f).arrays = s.arrays := rfl
@[simp] theorem State.onCoh_engines (s : State) (f : Coh → Coh) : (s.onCoh f).engines = s.engines := rfl
@[simp] theorem State.onCoh_transforms (s : State) (f : Coh → Coh) : (s.onCoh f).transforms = s.transforms := rfl
@[simp] theorem State.onCoh_fab (s : State) (f : Coh → Coh) : (s.onCoh f).fab = s.fab := rfl
@[simp] theorem State.onCoh_dod (s : State) (f : Coh → Coh) : (s.onCoh f).dod = s.dod := rfl
@[simp] theorem State.onCoh_rep (s : State) (f : Coh → Coh) : (s.onCoh f).rep = s.rep := rfl
@[simp] theorem State.onCoh_dl (s : State) (f : Coh → Coh) : (s.onCoh f).dl = s.dl := rfl
@[simp] theorem State.onCoh_pwr (s : State) (f : Coh → Coh) : (s.onCoh f).pwr = s.pwr := rfl
@[simp] theorem State.onCoh_free (s : State) (f : Coh → Coh) : (s.onCoh f).free = s.free := rfl
@[simp] theorem State.onCoh_pending (s : State) (f : Coh → Coh) : (s.onCoh f).pending = s.pending := rfl

@[simp] theorem State.onPool_hTicks (s : State) (f : Pool → Pool) : (s.onPool f).hTicks = s.hTicks := rfl
@[simp] theorem State.onPool_dieTicks (s : State) (f : Pool → Pool) : (s.onPool f).dieTicks = s.dieTicks := rfl
@[simp] theorem State.onPool_pins (s : State) (f : Pool → Pool) : (s.onPool f).pins = s.pins := rfl
@[simp] theorem State.onPool_boot (s : State) (f : Pool → Pool) : (s.onPool f).boot = s.boot := rfl
@[simp] theorem State.onPool_flash (s : State) (f : Pool → Pool) : (s.onPool f).flash = s.flash := rfl
@[simp] theorem State.onPool_mgmt (s : State) (f : Pool → Pool) : (s.onPool f).mgmt = s.mgmt := rfl
@[simp] theorem State.onPool_link (s : State) (f : Pool → Pool) : (s.onPool f).link = s.link := rfl
@[simp] theorem State.onPool_pickle (s : State) (f : Pool → Pool) : (s.onPool f).pickle = s.pickle := rfl
@[simp] theorem State.onPool_setup (s : State) (f : Pool → Pool) : (s.onPool f).setup = s.setup := rfl
@[simp] theorem State.onPool_pool (s : State) (f : Pool → Pool) : (s.onPool f).pool = f s.pool := rfl
@[simp] theorem State.onPool_coh (s : State) (f : Pool → Pool) : (s.onPool f).coh = s.coh := rfl
@[simp] theorem State.onPool_xlt (s : State) (f : Pool → Pool) : (s.onPool f).xlt = s.xlt := rfl
@[simp] theorem State.onPool_rings (s : State) (f : Pool → Pool) : (s.onPool f).rings = s.rings := rfl
@[simp] theorem State.onPool_evt (s : State) (f : Pool → Pool) : (s.onPool f).evt = s.evt := rfl
@[simp] theorem State.onPool_arrays (s : State) (f : Pool → Pool) : (s.onPool f).arrays = s.arrays := rfl
@[simp] theorem State.onPool_engines (s : State) (f : Pool → Pool) : (s.onPool f).engines = s.engines := rfl
@[simp] theorem State.onPool_transforms (s : State) (f : Pool → Pool) : (s.onPool f).transforms = s.transforms := rfl
@[simp] theorem State.onPool_fab (s : State) (f : Pool → Pool) : (s.onPool f).fab = s.fab := rfl
@[simp] theorem State.onPool_dod (s : State) (f : Pool → Pool) : (s.onPool f).dod = s.dod := rfl
@[simp] theorem State.onPool_rep (s : State) (f : Pool → Pool) : (s.onPool f).rep = s.rep := rfl
@[simp] theorem State.onPool_dl (s : State) (f : Pool → Pool) : (s.onPool f).dl = s.dl := rfl
@[simp] theorem State.onPool_pwr (s : State) (f : Pool → Pool) : (s.onPool f).pwr = s.pwr := rfl
@[simp] theorem State.onPool_free (s : State) (f : Pool → Pool) : (s.onPool f).free = s.free := rfl
@[simp] theorem State.onPool_pending (s : State) (f : Pool → Pool) : (s.onPool f).pending = s.pending := rfl

@[simp] theorem State.onLink_hTicks (s : State) (f : Link → Link) : (s.onLink f).hTicks = s.hTicks := rfl
@[simp] theorem State.onLink_dieTicks (s : State) (f : Link → Link) : (s.onLink f).dieTicks = s.dieTicks := rfl
@[simp] theorem State.onLink_pins (s : State) (f : Link → Link) : (s.onLink f).pins = s.pins := rfl
@[simp] theorem State.onLink_boot (s : State) (f : Link → Link) : (s.onLink f).boot = s.boot := rfl
@[simp] theorem State.onLink_flash (s : State) (f : Link → Link) : (s.onLink f).flash = s.flash := rfl
@[simp] theorem State.onLink_mgmt (s : State) (f : Link → Link) : (s.onLink f).mgmt = s.mgmt := rfl
@[simp] theorem State.onLink_link (s : State) (f : Link → Link) : (s.onLink f).link = f s.link := rfl
@[simp] theorem State.onLink_pickle (s : State) (f : Link → Link) : (s.onLink f).pickle = s.pickle := rfl
@[simp] theorem State.onLink_setup (s : State) (f : Link → Link) : (s.onLink f).setup = s.setup := rfl
@[simp] theorem State.onLink_pool (s : State) (f : Link → Link) : (s.onLink f).pool = s.pool := rfl
@[simp] theorem State.onLink_coh (s : State) (f : Link → Link) : (s.onLink f).coh = s.coh := rfl
@[simp] theorem State.onLink_xlt (s : State) (f : Link → Link) : (s.onLink f).xlt = s.xlt := rfl
@[simp] theorem State.onLink_rings (s : State) (f : Link → Link) : (s.onLink f).rings = s.rings := rfl
@[simp] theorem State.onLink_evt (s : State) (f : Link → Link) : (s.onLink f).evt = s.evt := rfl
@[simp] theorem State.onLink_arrays (s : State) (f : Link → Link) : (s.onLink f).arrays = s.arrays := rfl
@[simp] theorem State.onLink_engines (s : State) (f : Link → Link) : (s.onLink f).engines = s.engines := rfl
@[simp] theorem State.onLink_transforms (s : State) (f : Link → Link) : (s.onLink f).transforms = s.transforms := rfl
@[simp] theorem State.onLink_fab (s : State) (f : Link → Link) : (s.onLink f).fab = s.fab := rfl
@[simp] theorem State.onLink_dod (s : State) (f : Link → Link) : (s.onLink f).dod = s.dod := rfl
@[simp] theorem State.onLink_rep (s : State) (f : Link → Link) : (s.onLink f).rep = s.rep := rfl
@[simp] theorem State.onLink_dl (s : State) (f : Link → Link) : (s.onLink f).dl = s.dl := rfl
@[simp] theorem State.onLink_pwr (s : State) (f : Link → Link) : (s.onLink f).pwr = s.pwr := rfl
@[simp] theorem State.onLink_free (s : State) (f : Link → Link) : (s.onLink f).free = s.free := rfl
@[simp] theorem State.onLink_pending (s : State) (f : Link → Link) : (s.onLink f).pending = s.pending := rfl

@[simp] theorem State.onXlt_hTicks (s : State) (f : Xlt → Xlt) : (s.onXlt f).hTicks = s.hTicks := rfl
@[simp] theorem State.onXlt_dieTicks (s : State) (f : Xlt → Xlt) : (s.onXlt f).dieTicks = s.dieTicks := rfl
@[simp] theorem State.onXlt_pins (s : State) (f : Xlt → Xlt) : (s.onXlt f).pins = s.pins := rfl
@[simp] theorem State.onXlt_boot (s : State) (f : Xlt → Xlt) : (s.onXlt f).boot = s.boot := rfl
@[simp] theorem State.onXlt_flash (s : State) (f : Xlt → Xlt) : (s.onXlt f).flash = s.flash := rfl
@[simp] theorem State.onXlt_mgmt (s : State) (f : Xlt → Xlt) : (s.onXlt f).mgmt = s.mgmt := rfl
@[simp] theorem State.onXlt_link (s : State) (f : Xlt → Xlt) : (s.onXlt f).link = s.link := rfl
@[simp] theorem State.onXlt_pickle (s : State) (f : Xlt → Xlt) : (s.onXlt f).pickle = s.pickle := rfl
@[simp] theorem State.onXlt_setup (s : State) (f : Xlt → Xlt) : (s.onXlt f).setup = s.setup := rfl
@[simp] theorem State.onXlt_pool (s : State) (f : Xlt → Xlt) : (s.onXlt f).pool = s.pool := rfl
@[simp] theorem State.onXlt_coh (s : State) (f : Xlt → Xlt) : (s.onXlt f).coh = s.coh := rfl
@[simp] theorem State.onXlt_xlt (s : State) (f : Xlt → Xlt) : (s.onXlt f).xlt = f s.xlt := rfl
@[simp] theorem State.onXlt_rings (s : State) (f : Xlt → Xlt) : (s.onXlt f).rings = s.rings := rfl
@[simp] theorem State.onXlt_evt (s : State) (f : Xlt → Xlt) : (s.onXlt f).evt = s.evt := rfl
@[simp] theorem State.onXlt_arrays (s : State) (f : Xlt → Xlt) : (s.onXlt f).arrays = s.arrays := rfl
@[simp] theorem State.onXlt_engines (s : State) (f : Xlt → Xlt) : (s.onXlt f).engines = s.engines := rfl
@[simp] theorem State.onXlt_transforms (s : State) (f : Xlt → Xlt) : (s.onXlt f).transforms = s.transforms := rfl
@[simp] theorem State.onXlt_fab (s : State) (f : Xlt → Xlt) : (s.onXlt f).fab = s.fab := rfl
@[simp] theorem State.onXlt_dod (s : State) (f : Xlt → Xlt) : (s.onXlt f).dod = s.dod := rfl
@[simp] theorem State.onXlt_rep (s : State) (f : Xlt → Xlt) : (s.onXlt f).rep = s.rep := rfl
@[simp] theorem State.onXlt_dl (s : State) (f : Xlt → Xlt) : (s.onXlt f).dl = s.dl := rfl
@[simp] theorem State.onXlt_pwr (s : State) (f : Xlt → Xlt) : (s.onXlt f).pwr = s.pwr := rfl
@[simp] theorem State.onXlt_free (s : State) (f : Xlt → Xlt) : (s.onXlt f).free = s.free := rfl
@[simp] theorem State.onXlt_pending (s : State) (f : Xlt → Xlt) : (s.onXlt f).pending = s.pending := rfl

@[simp] theorem State.onFab_hTicks (s : State) (f : Fabric → Fabric) : (s.onFab f).hTicks = s.hTicks := rfl
@[simp] theorem State.onFab_dieTicks (s : State) (f : Fabric → Fabric) : (s.onFab f).dieTicks = s.dieTicks := rfl
@[simp] theorem State.onFab_pins (s : State) (f : Fabric → Fabric) : (s.onFab f).pins = s.pins := rfl
@[simp] theorem State.onFab_boot (s : State) (f : Fabric → Fabric) : (s.onFab f).boot = s.boot := rfl
@[simp] theorem State.onFab_flash (s : State) (f : Fabric → Fabric) : (s.onFab f).flash = s.flash := rfl
@[simp] theorem State.onFab_mgmt (s : State) (f : Fabric → Fabric) : (s.onFab f).mgmt = s.mgmt := rfl
@[simp] theorem State.onFab_link (s : State) (f : Fabric → Fabric) : (s.onFab f).link = s.link := rfl
@[simp] theorem State.onFab_pickle (s : State) (f : Fabric → Fabric) : (s.onFab f).pickle = s.pickle := rfl
@[simp] theorem State.onFab_setup (s : State) (f : Fabric → Fabric) : (s.onFab f).setup = s.setup := rfl
@[simp] theorem State.onFab_pool (s : State) (f : Fabric → Fabric) : (s.onFab f).pool = s.pool := rfl
@[simp] theorem State.onFab_coh (s : State) (f : Fabric → Fabric) : (s.onFab f).coh = s.coh := rfl
@[simp] theorem State.onFab_xlt (s : State) (f : Fabric → Fabric) : (s.onFab f).xlt = s.xlt := rfl
@[simp] theorem State.onFab_rings (s : State) (f : Fabric → Fabric) : (s.onFab f).rings = s.rings := rfl
@[simp] theorem State.onFab_evt (s : State) (f : Fabric → Fabric) : (s.onFab f).evt = s.evt := rfl
@[simp] theorem State.onFab_arrays (s : State) (f : Fabric → Fabric) : (s.onFab f).arrays = s.arrays := rfl
@[simp] theorem State.onFab_engines (s : State) (f : Fabric → Fabric) : (s.onFab f).engines = s.engines := rfl
@[simp] theorem State.onFab_transforms (s : State) (f : Fabric → Fabric) : (s.onFab f).transforms = s.transforms := rfl
@[simp] theorem State.onFab_fab (s : State) (f : Fabric → Fabric) : (s.onFab f).fab = f s.fab := rfl
@[simp] theorem State.onFab_dod (s : State) (f : Fabric → Fabric) : (s.onFab f).dod = s.dod := rfl
@[simp] theorem State.onFab_rep (s : State) (f : Fabric → Fabric) : (s.onFab f).rep = s.rep := rfl
@[simp] theorem State.onFab_dl (s : State) (f : Fabric → Fabric) : (s.onFab f).dl = s.dl := rfl
@[simp] theorem State.onFab_pwr (s : State) (f : Fabric → Fabric) : (s.onFab f).pwr = s.pwr := rfl
@[simp] theorem State.onFab_free (s : State) (f : Fabric → Fabric) : (s.onFab f).free = s.free := rfl
@[simp] theorem State.onFab_pending (s : State) (f : Fabric → Fabric) : (s.onFab f).pending = s.pending := rfl

@[simp] theorem State.onPwr_hTicks (s : State) (f : Power → Power) : (s.onPwr f).hTicks = s.hTicks := rfl
@[simp] theorem State.onPwr_dieTicks (s : State) (f : Power → Power) : (s.onPwr f).dieTicks = s.dieTicks := rfl
@[simp] theorem State.onPwr_pins (s : State) (f : Power → Power) : (s.onPwr f).pins = s.pins := rfl
@[simp] theorem State.onPwr_boot (s : State) (f : Power → Power) : (s.onPwr f).boot = s.boot := rfl
@[simp] theorem State.onPwr_flash (s : State) (f : Power → Power) : (s.onPwr f).flash = s.flash := rfl
@[simp] theorem State.onPwr_mgmt (s : State) (f : Power → Power) : (s.onPwr f).mgmt = s.mgmt := rfl
@[simp] theorem State.onPwr_link (s : State) (f : Power → Power) : (s.onPwr f).link = s.link := rfl
@[simp] theorem State.onPwr_pickle (s : State) (f : Power → Power) : (s.onPwr f).pickle = s.pickle := rfl
@[simp] theorem State.onPwr_setup (s : State) (f : Power → Power) : (s.onPwr f).setup = s.setup := rfl
@[simp] theorem State.onPwr_pool (s : State) (f : Power → Power) : (s.onPwr f).pool = s.pool := rfl
@[simp] theorem State.onPwr_coh (s : State) (f : Power → Power) : (s.onPwr f).coh = s.coh := rfl
@[simp] theorem State.onPwr_xlt (s : State) (f : Power → Power) : (s.onPwr f).xlt = s.xlt := rfl
@[simp] theorem State.onPwr_rings (s : State) (f : Power → Power) : (s.onPwr f).rings = s.rings := rfl
@[simp] theorem State.onPwr_evt (s : State) (f : Power → Power) : (s.onPwr f).evt = s.evt := rfl
@[simp] theorem State.onPwr_arrays (s : State) (f : Power → Power) : (s.onPwr f).arrays = s.arrays := rfl
@[simp] theorem State.onPwr_engines (s : State) (f : Power → Power) : (s.onPwr f).engines = s.engines := rfl
@[simp] theorem State.onPwr_transforms (s : State) (f : Power → Power) : (s.onPwr f).transforms = s.transforms := rfl
@[simp] theorem State.onPwr_fab (s : State) (f : Power → Power) : (s.onPwr f).fab = s.fab := rfl
@[simp] theorem State.onPwr_dod (s : State) (f : Power → Power) : (s.onPwr f).dod = s.dod := rfl
@[simp] theorem State.onPwr_rep (s : State) (f : Power → Power) : (s.onPwr f).rep = s.rep := rfl
@[simp] theorem State.onPwr_dl (s : State) (f : Power → Power) : (s.onPwr f).dl = s.dl := rfl
@[simp] theorem State.onPwr_pwr (s : State) (f : Power → Power) : (s.onPwr f).pwr = f s.pwr := rfl
@[simp] theorem State.onPwr_free (s : State) (f : Power → Power) : (s.onPwr f).free = s.free := rfl
@[simp] theorem State.onPwr_pending (s : State) (f : Power → Power) : (s.onPwr f).pending = s.pending := rfl

@[simp] theorem State.onRep_hTicks (s : State) (f : Repair → Repair) : (s.onRep f).hTicks = s.hTicks := rfl
@[simp] theorem State.onRep_dieTicks (s : State) (f : Repair → Repair) : (s.onRep f).dieTicks = s.dieTicks := rfl
@[simp] theorem State.onRep_pins (s : State) (f : Repair → Repair) : (s.onRep f).pins = s.pins := rfl
@[simp] theorem State.onRep_boot (s : State) (f : Repair → Repair) : (s.onRep f).boot = s.boot := rfl
@[simp] theorem State.onRep_flash (s : State) (f : Repair → Repair) : (s.onRep f).flash = s.flash := rfl
@[simp] theorem State.onRep_mgmt (s : State) (f : Repair → Repair) : (s.onRep f).mgmt = s.mgmt := rfl
@[simp] theorem State.onRep_link (s : State) (f : Repair → Repair) : (s.onRep f).link = s.link := rfl
@[simp] theorem State.onRep_pickle (s : State) (f : Repair → Repair) : (s.onRep f).pickle = s.pickle := rfl
@[simp] theorem State.onRep_setup (s : State) (f : Repair → Repair) : (s.onRep f).setup = s.setup := rfl
@[simp] theorem State.onRep_pool (s : State) (f : Repair → Repair) : (s.onRep f).pool = s.pool := rfl
@[simp] theorem State.onRep_coh (s : State) (f : Repair → Repair) : (s.onRep f).coh = s.coh := rfl
@[simp] theorem State.onRep_xlt (s : State) (f : Repair → Repair) : (s.onRep f).xlt = s.xlt := rfl
@[simp] theorem State.onRep_rings (s : State) (f : Repair → Repair) : (s.onRep f).rings = s.rings := rfl
@[simp] theorem State.onRep_evt (s : State) (f : Repair → Repair) : (s.onRep f).evt = s.evt := rfl
@[simp] theorem State.onRep_arrays (s : State) (f : Repair → Repair) : (s.onRep f).arrays = s.arrays := rfl
@[simp] theorem State.onRep_engines (s : State) (f : Repair → Repair) : (s.onRep f).engines = s.engines := rfl
@[simp] theorem State.onRep_transforms (s : State) (f : Repair → Repair) : (s.onRep f).transforms = s.transforms := rfl
@[simp] theorem State.onRep_fab (s : State) (f : Repair → Repair) : (s.onRep f).fab = s.fab := rfl
@[simp] theorem State.onRep_dod (s : State) (f : Repair → Repair) : (s.onRep f).dod = s.dod := rfl
@[simp] theorem State.onRep_rep (s : State) (f : Repair → Repair) : (s.onRep f).rep = f s.rep := rfl
@[simp] theorem State.onRep_dl (s : State) (f : Repair → Repair) : (s.onRep f).dl = s.dl := rfl
@[simp] theorem State.onRep_pwr (s : State) (f : Repair → Repair) : (s.onRep f).pwr = s.pwr := rfl
@[simp] theorem State.onRep_free (s : State) (f : Repair → Repair) : (s.onRep f).free = s.free := rfl
@[simp] theorem State.onRep_pending (s : State) (f : Repair → Repair) : (s.onRep f).pending = s.pending := rfl

@[simp] theorem State.onDod_hTicks (s : State) (f : Dodgem → Dodgem) : (s.onDod f).hTicks = s.hTicks := rfl
@[simp] theorem State.onDod_dieTicks (s : State) (f : Dodgem → Dodgem) : (s.onDod f).dieTicks = s.dieTicks := rfl
@[simp] theorem State.onDod_pins (s : State) (f : Dodgem → Dodgem) : (s.onDod f).pins = s.pins := rfl
@[simp] theorem State.onDod_boot (s : State) (f : Dodgem → Dodgem) : (s.onDod f).boot = s.boot := rfl
@[simp] theorem State.onDod_flash (s : State) (f : Dodgem → Dodgem) : (s.onDod f).flash = s.flash := rfl
@[simp] theorem State.onDod_mgmt (s : State) (f : Dodgem → Dodgem) : (s.onDod f).mgmt = s.mgmt := rfl
@[simp] theorem State.onDod_link (s : State) (f : Dodgem → Dodgem) : (s.onDod f).link = s.link := rfl
@[simp] theorem State.onDod_pickle (s : State) (f : Dodgem → Dodgem) : (s.onDod f).pickle = s.pickle := rfl
@[simp] theorem State.onDod_setup (s : State) (f : Dodgem → Dodgem) : (s.onDod f).setup = s.setup := rfl
@[simp] theorem State.onDod_pool (s : State) (f : Dodgem → Dodgem) : (s.onDod f).pool = s.pool := rfl
@[simp] theorem State.onDod_coh (s : State) (f : Dodgem → Dodgem) : (s.onDod f).coh = s.coh := rfl
@[simp] theorem State.onDod_xlt (s : State) (f : Dodgem → Dodgem) : (s.onDod f).xlt = s.xlt := rfl
@[simp] theorem State.onDod_rings (s : State) (f : Dodgem → Dodgem) : (s.onDod f).rings = s.rings := rfl
@[simp] theorem State.onDod_evt (s : State) (f : Dodgem → Dodgem) : (s.onDod f).evt = s.evt := rfl
@[simp] theorem State.onDod_arrays (s : State) (f : Dodgem → Dodgem) : (s.onDod f).arrays = s.arrays := rfl
@[simp] theorem State.onDod_engines (s : State) (f : Dodgem → Dodgem) : (s.onDod f).engines = s.engines := rfl
@[simp] theorem State.onDod_transforms (s : State) (f : Dodgem → Dodgem) : (s.onDod f).transforms = s.transforms := rfl
@[simp] theorem State.onDod_fab (s : State) (f : Dodgem → Dodgem) : (s.onDod f).fab = s.fab := rfl
@[simp] theorem State.onDod_dod (s : State) (f : Dodgem → Dodgem) : (s.onDod f).dod = f s.dod := rfl
@[simp] theorem State.onDod_rep (s : State) (f : Dodgem → Dodgem) : (s.onDod f).rep = s.rep := rfl
@[simp] theorem State.onDod_dl (s : State) (f : Dodgem → Dodgem) : (s.onDod f).dl = s.dl := rfl
@[simp] theorem State.onDod_pwr (s : State) (f : Dodgem → Dodgem) : (s.onDod f).pwr = s.pwr := rfl
@[simp] theorem State.onDod_free (s : State) (f : Dodgem → Dodgem) : (s.onDod f).free = s.free := rfl
@[simp] theorem State.onDod_pending (s : State) (f : Dodgem → Dodgem) : (s.onDod f).pending = s.pending := rfl

@[simp] theorem State.onBoot_hTicks (s : State) (f : Boot → Boot) : (s.onBoot f).hTicks = s.hTicks := rfl
@[simp] theorem State.onBoot_dieTicks (s : State) (f : Boot → Boot) : (s.onBoot f).dieTicks = s.dieTicks := rfl
@[simp] theorem State.onBoot_pins (s : State) (f : Boot → Boot) : (s.onBoot f).pins = s.pins := rfl
@[simp] theorem State.onBoot_boot (s : State) (f : Boot → Boot) : (s.onBoot f).boot = f s.boot := rfl
@[simp] theorem State.onBoot_flash (s : State) (f : Boot → Boot) : (s.onBoot f).flash = s.flash := rfl
@[simp] theorem State.onBoot_mgmt (s : State) (f : Boot → Boot) : (s.onBoot f).mgmt = s.mgmt := rfl
@[simp] theorem State.onBoot_link (s : State) (f : Boot → Boot) : (s.onBoot f).link = s.link := rfl
@[simp] theorem State.onBoot_pickle (s : State) (f : Boot → Boot) : (s.onBoot f).pickle = s.pickle := rfl
@[simp] theorem State.onBoot_setup (s : State) (f : Boot → Boot) : (s.onBoot f).setup = s.setup := rfl
@[simp] theorem State.onBoot_pool (s : State) (f : Boot → Boot) : (s.onBoot f).pool = s.pool := rfl
@[simp] theorem State.onBoot_coh (s : State) (f : Boot → Boot) : (s.onBoot f).coh = s.coh := rfl
@[simp] theorem State.onBoot_xlt (s : State) (f : Boot → Boot) : (s.onBoot f).xlt = s.xlt := rfl
@[simp] theorem State.onBoot_rings (s : State) (f : Boot → Boot) : (s.onBoot f).rings = s.rings := rfl
@[simp] theorem State.onBoot_evt (s : State) (f : Boot → Boot) : (s.onBoot f).evt = s.evt := rfl
@[simp] theorem State.onBoot_arrays (s : State) (f : Boot → Boot) : (s.onBoot f).arrays = s.arrays := rfl
@[simp] theorem State.onBoot_engines (s : State) (f : Boot → Boot) : (s.onBoot f).engines = s.engines := rfl
@[simp] theorem State.onBoot_transforms (s : State) (f : Boot → Boot) : (s.onBoot f).transforms = s.transforms := rfl
@[simp] theorem State.onBoot_fab (s : State) (f : Boot → Boot) : (s.onBoot f).fab = s.fab := rfl
@[simp] theorem State.onBoot_dod (s : State) (f : Boot → Boot) : (s.onBoot f).dod = s.dod := rfl
@[simp] theorem State.onBoot_rep (s : State) (f : Boot → Boot) : (s.onBoot f).rep = s.rep := rfl
@[simp] theorem State.onBoot_dl (s : State) (f : Boot → Boot) : (s.onBoot f).dl = s.dl := rfl
@[simp] theorem State.onBoot_pwr (s : State) (f : Boot → Boot) : (s.onBoot f).pwr = s.pwr := rfl
@[simp] theorem State.onBoot_free (s : State) (f : Boot → Boot) : (s.onBoot f).free = s.free := rfl
@[simp] theorem State.onBoot_pending (s : State) (f : Boot → Boot) : (s.onBoot f).pending = s.pending := rfl

@[simp] theorem State.onFlash_hTicks (s : State) (f : Flash → Flash) : (s.onFlash f).hTicks = s.hTicks := rfl
@[simp] theorem State.onFlash_dieTicks (s : State) (f : Flash → Flash) : (s.onFlash f).dieTicks = s.dieTicks := rfl
@[simp] theorem State.onFlash_pins (s : State) (f : Flash → Flash) : (s.onFlash f).pins = s.pins := rfl
@[simp] theorem State.onFlash_boot (s : State) (f : Flash → Flash) : (s.onFlash f).boot = s.boot := rfl
@[simp] theorem State.onFlash_flash (s : State) (f : Flash → Flash) : (s.onFlash f).flash = f s.flash := rfl
@[simp] theorem State.onFlash_mgmt (s : State) (f : Flash → Flash) : (s.onFlash f).mgmt = s.mgmt := rfl
@[simp] theorem State.onFlash_link (s : State) (f : Flash → Flash) : (s.onFlash f).link = s.link := rfl
@[simp] theorem State.onFlash_pickle (s : State) (f : Flash → Flash) : (s.onFlash f).pickle = s.pickle := rfl
@[simp] theorem State.onFlash_setup (s : State) (f : Flash → Flash) : (s.onFlash f).setup = s.setup := rfl
@[simp] theorem State.onFlash_pool (s : State) (f : Flash → Flash) : (s.onFlash f).pool = s.pool := rfl
@[simp] theorem State.onFlash_coh (s : State) (f : Flash → Flash) : (s.onFlash f).coh = s.coh := rfl
@[simp] theorem State.onFlash_xlt (s : State) (f : Flash → Flash) : (s.onFlash f).xlt = s.xlt := rfl
@[simp] theorem State.onFlash_rings (s : State) (f : Flash → Flash) : (s.onFlash f).rings = s.rings := rfl
@[simp] theorem State.onFlash_evt (s : State) (f : Flash → Flash) : (s.onFlash f).evt = s.evt := rfl
@[simp] theorem State.onFlash_arrays (s : State) (f : Flash → Flash) : (s.onFlash f).arrays = s.arrays := rfl
@[simp] theorem State.onFlash_engines (s : State) (f : Flash → Flash) : (s.onFlash f).engines = s.engines := rfl
@[simp] theorem State.onFlash_transforms (s : State) (f : Flash → Flash) : (s.onFlash f).transforms = s.transforms := rfl
@[simp] theorem State.onFlash_fab (s : State) (f : Flash → Flash) : (s.onFlash f).fab = s.fab := rfl
@[simp] theorem State.onFlash_dod (s : State) (f : Flash → Flash) : (s.onFlash f).dod = s.dod := rfl
@[simp] theorem State.onFlash_rep (s : State) (f : Flash → Flash) : (s.onFlash f).rep = s.rep := rfl
@[simp] theorem State.onFlash_dl (s : State) (f : Flash → Flash) : (s.onFlash f).dl = s.dl := rfl
@[simp] theorem State.onFlash_pwr (s : State) (f : Flash → Flash) : (s.onFlash f).pwr = s.pwr := rfl
@[simp] theorem State.onFlash_free (s : State) (f : Flash → Flash) : (s.onFlash f).free = s.free := rfl
@[simp] theorem State.onFlash_pending (s : State) (f : Flash → Flash) : (s.onFlash f).pending = s.pending := rfl

@[simp] theorem State.onMgmt_hTicks (s : State) (f : Mgmt → Mgmt) : (s.onMgmt f).hTicks = s.hTicks := rfl
@[simp] theorem State.onMgmt_dieTicks (s : State) (f : Mgmt → Mgmt) : (s.onMgmt f).dieTicks = s.dieTicks := rfl
@[simp] theorem State.onMgmt_pins (s : State) (f : Mgmt → Mgmt) : (s.onMgmt f).pins = s.pins := rfl
@[simp] theorem State.onMgmt_boot (s : State) (f : Mgmt → Mgmt) : (s.onMgmt f).boot = s.boot := rfl
@[simp] theorem State.onMgmt_flash (s : State) (f : Mgmt → Mgmt) : (s.onMgmt f).flash = s.flash := rfl
@[simp] theorem State.onMgmt_mgmt (s : State) (f : Mgmt → Mgmt) : (s.onMgmt f).mgmt = f s.mgmt := rfl
@[simp] theorem State.onMgmt_link (s : State) (f : Mgmt → Mgmt) : (s.onMgmt f).link = s.link := rfl
@[simp] theorem State.onMgmt_pickle (s : State) (f : Mgmt → Mgmt) : (s.onMgmt f).pickle = s.pickle := rfl
@[simp] theorem State.onMgmt_setup (s : State) (f : Mgmt → Mgmt) : (s.onMgmt f).setup = s.setup := rfl
@[simp] theorem State.onMgmt_pool (s : State) (f : Mgmt → Mgmt) : (s.onMgmt f).pool = s.pool := rfl
@[simp] theorem State.onMgmt_coh (s : State) (f : Mgmt → Mgmt) : (s.onMgmt f).coh = s.coh := rfl
@[simp] theorem State.onMgmt_xlt (s : State) (f : Mgmt → Mgmt) : (s.onMgmt f).xlt = s.xlt := rfl
@[simp] theorem State.onMgmt_rings (s : State) (f : Mgmt → Mgmt) : (s.onMgmt f).rings = s.rings := rfl
@[simp] theorem State.onMgmt_evt (s : State) (f : Mgmt → Mgmt) : (s.onMgmt f).evt = s.evt := rfl
@[simp] theorem State.onMgmt_arrays (s : State) (f : Mgmt → Mgmt) : (s.onMgmt f).arrays = s.arrays := rfl
@[simp] theorem State.onMgmt_engines (s : State) (f : Mgmt → Mgmt) : (s.onMgmt f).engines = s.engines := rfl
@[simp] theorem State.onMgmt_transforms (s : State) (f : Mgmt → Mgmt) : (s.onMgmt f).transforms = s.transforms := rfl
@[simp] theorem State.onMgmt_fab (s : State) (f : Mgmt → Mgmt) : (s.onMgmt f).fab = s.fab := rfl
@[simp] theorem State.onMgmt_dod (s : State) (f : Mgmt → Mgmt) : (s.onMgmt f).dod = s.dod := rfl
@[simp] theorem State.onMgmt_rep (s : State) (f : Mgmt → Mgmt) : (s.onMgmt f).rep = s.rep := rfl
@[simp] theorem State.onMgmt_dl (s : State) (f : Mgmt → Mgmt) : (s.onMgmt f).dl = s.dl := rfl
@[simp] theorem State.onMgmt_pwr (s : State) (f : Mgmt → Mgmt) : (s.onMgmt f).pwr = s.pwr := rfl
@[simp] theorem State.onMgmt_free (s : State) (f : Mgmt → Mgmt) : (s.onMgmt f).free = s.free := rfl
@[simp] theorem State.onMgmt_pending (s : State) (f : Mgmt → Mgmt) : (s.onMgmt f).pending = s.pending := rfl

@[simp] theorem State.onPickle_hTicks (s : State) (f : Pickle → Pickle) : (s.onPickle f).hTicks = s.hTicks := rfl
@[simp] theorem State.onPickle_dieTicks (s : State) (f : Pickle → Pickle) : (s.onPickle f).dieTicks = s.dieTicks := rfl
@[simp] theorem State.onPickle_pins (s : State) (f : Pickle → Pickle) : (s.onPickle f).pins = s.pins := rfl
@[simp] theorem State.onPickle_boot (s : State) (f : Pickle → Pickle) : (s.onPickle f).boot = s.boot := rfl
@[simp] theorem State.onPickle_flash (s : State) (f : Pickle → Pickle) : (s.onPickle f).flash = s.flash := rfl
@[simp] theorem State.onPickle_mgmt (s : State) (f : Pickle → Pickle) : (s.onPickle f).mgmt = s.mgmt := rfl
@[simp] theorem State.onPickle_link (s : State) (f : Pickle → Pickle) : (s.onPickle f).link = s.link := rfl
@[simp] theorem State.onPickle_pickle (s : State) (f : Pickle → Pickle) : (s.onPickle f).pickle = f s.pickle := rfl
@[simp] theorem State.onPickle_setup (s : State) (f : Pickle → Pickle) : (s.onPickle f).setup = s.setup := rfl
@[simp] theorem State.onPickle_pool (s : State) (f : Pickle → Pickle) : (s.onPickle f).pool = s.pool := rfl
@[simp] theorem State.onPickle_coh (s : State) (f : Pickle → Pickle) : (s.onPickle f).coh = s.coh := rfl
@[simp] theorem State.onPickle_xlt (s : State) (f : Pickle → Pickle) : (s.onPickle f).xlt = s.xlt := rfl
@[simp] theorem State.onPickle_rings (s : State) (f : Pickle → Pickle) : (s.onPickle f).rings = s.rings := rfl
@[simp] theorem State.onPickle_evt (s : State) (f : Pickle → Pickle) : (s.onPickle f).evt = s.evt := rfl
@[simp] theorem State.onPickle_arrays (s : State) (f : Pickle → Pickle) : (s.onPickle f).arrays = s.arrays := rfl
@[simp] theorem State.onPickle_engines (s : State) (f : Pickle → Pickle) : (s.onPickle f).engines = s.engines := rfl
@[simp] theorem State.onPickle_transforms (s : State) (f : Pickle → Pickle) : (s.onPickle f).transforms = s.transforms := rfl
@[simp] theorem State.onPickle_fab (s : State) (f : Pickle → Pickle) : (s.onPickle f).fab = s.fab := rfl
@[simp] theorem State.onPickle_dod (s : State) (f : Pickle → Pickle) : (s.onPickle f).dod = s.dod := rfl
@[simp] theorem State.onPickle_rep (s : State) (f : Pickle → Pickle) : (s.onPickle f).rep = s.rep := rfl
@[simp] theorem State.onPickle_dl (s : State) (f : Pickle → Pickle) : (s.onPickle f).dl = s.dl := rfl
@[simp] theorem State.onPickle_pwr (s : State) (f : Pickle → Pickle) : (s.onPickle f).pwr = s.pwr := rfl
@[simp] theorem State.onPickle_free (s : State) (f : Pickle → Pickle) : (s.onPickle f).free = s.free := rfl
@[simp] theorem State.onPickle_pending (s : State) (f : Pickle → Pickle) : (s.onPickle f).pending = s.pending := rfl

@[simp] theorem State.onSetup_hTicks (s : State) (f : Setup → Setup) : (s.onSetup f).hTicks = s.hTicks := rfl
@[simp] theorem State.onSetup_dieTicks (s : State) (f : Setup → Setup) : (s.onSetup f).dieTicks = s.dieTicks := rfl
@[simp] theorem State.onSetup_pins (s : State) (f : Setup → Setup) : (s.onSetup f).pins = s.pins := rfl
@[simp] theorem State.onSetup_boot (s : State) (f : Setup → Setup) : (s.onSetup f).boot = s.boot := rfl
@[simp] theorem State.onSetup_flash (s : State) (f : Setup → Setup) : (s.onSetup f).flash = s.flash := rfl
@[simp] theorem State.onSetup_mgmt (s : State) (f : Setup → Setup) : (s.onSetup f).mgmt = s.mgmt := rfl
@[simp] theorem State.onSetup_link (s : State) (f : Setup → Setup) : (s.onSetup f).link = s.link := rfl
@[simp] theorem State.onSetup_pickle (s : State) (f : Setup → Setup) : (s.onSetup f).pickle = s.pickle := rfl
@[simp] theorem State.onSetup_setup (s : State) (f : Setup → Setup) : (s.onSetup f).setup = f s.setup := rfl
@[simp] theorem State.onSetup_pool (s : State) (f : Setup → Setup) : (s.onSetup f).pool = s.pool := rfl
@[simp] theorem State.onSetup_coh (s : State) (f : Setup → Setup) : (s.onSetup f).coh = s.coh := rfl
@[simp] theorem State.onSetup_xlt (s : State) (f : Setup → Setup) : (s.onSetup f).xlt = s.xlt := rfl
@[simp] theorem State.onSetup_rings (s : State) (f : Setup → Setup) : (s.onSetup f).rings = s.rings := rfl
@[simp] theorem State.onSetup_evt (s : State) (f : Setup → Setup) : (s.onSetup f).evt = s.evt := rfl
@[simp] theorem State.onSetup_arrays (s : State) (f : Setup → Setup) : (s.onSetup f).arrays = s.arrays := rfl
@[simp] theorem State.onSetup_engines (s : State) (f : Setup → Setup) : (s.onSetup f).engines = s.engines := rfl
@[simp] theorem State.onSetup_transforms (s : State) (f : Setup → Setup) : (s.onSetup f).transforms = s.transforms := rfl
@[simp] theorem State.onSetup_fab (s : State) (f : Setup → Setup) : (s.onSetup f).fab = s.fab := rfl
@[simp] theorem State.onSetup_dod (s : State) (f : Setup → Setup) : (s.onSetup f).dod = s.dod := rfl
@[simp] theorem State.onSetup_rep (s : State) (f : Setup → Setup) : (s.onSetup f).rep = s.rep := rfl
@[simp] theorem State.onSetup_dl (s : State) (f : Setup → Setup) : (s.onSetup f).dl = s.dl := rfl
@[simp] theorem State.onSetup_pwr (s : State) (f : Setup → Setup) : (s.onSetup f).pwr = s.pwr := rfl
@[simp] theorem State.onSetup_free (s : State) (f : Setup → Setup) : (s.onSetup f).free = s.free := rfl
@[simp] theorem State.onSetup_pending (s : State) (f : Setup → Setup) : (s.onSetup f).pending = s.pending := rfl

@[simp] theorem State.onEvt_hTicks (s : State) (f : EventRing → EventRing) : (s.onEvt f).hTicks = s.hTicks := rfl
@[simp] theorem State.onEvt_dieTicks (s : State) (f : EventRing → EventRing) : (s.onEvt f).dieTicks = s.dieTicks := rfl
@[simp] theorem State.onEvt_pins (s : State) (f : EventRing → EventRing) : (s.onEvt f).pins = s.pins := rfl
@[simp] theorem State.onEvt_boot (s : State) (f : EventRing → EventRing) : (s.onEvt f).boot = s.boot := rfl
@[simp] theorem State.onEvt_flash (s : State) (f : EventRing → EventRing) : (s.onEvt f).flash = s.flash := rfl
@[simp] theorem State.onEvt_mgmt (s : State) (f : EventRing → EventRing) : (s.onEvt f).mgmt = s.mgmt := rfl
@[simp] theorem State.onEvt_link (s : State) (f : EventRing → EventRing) : (s.onEvt f).link = s.link := rfl
@[simp] theorem State.onEvt_pickle (s : State) (f : EventRing → EventRing) : (s.onEvt f).pickle = s.pickle := rfl
@[simp] theorem State.onEvt_setup (s : State) (f : EventRing → EventRing) : (s.onEvt f).setup = s.setup := rfl
@[simp] theorem State.onEvt_pool (s : State) (f : EventRing → EventRing) : (s.onEvt f).pool = s.pool := rfl
@[simp] theorem State.onEvt_coh (s : State) (f : EventRing → EventRing) : (s.onEvt f).coh = s.coh := rfl
@[simp] theorem State.onEvt_xlt (s : State) (f : EventRing → EventRing) : (s.onEvt f).xlt = s.xlt := rfl
@[simp] theorem State.onEvt_rings (s : State) (f : EventRing → EventRing) : (s.onEvt f).rings = s.rings := rfl
@[simp] theorem State.onEvt_evt (s : State) (f : EventRing → EventRing) : (s.onEvt f).evt = f s.evt := rfl
@[simp] theorem State.onEvt_arrays (s : State) (f : EventRing → EventRing) : (s.onEvt f).arrays = s.arrays := rfl
@[simp] theorem State.onEvt_engines (s : State) (f : EventRing → EventRing) : (s.onEvt f).engines = s.engines := rfl
@[simp] theorem State.onEvt_transforms (s : State) (f : EventRing → EventRing) : (s.onEvt f).transforms = s.transforms := rfl
@[simp] theorem State.onEvt_fab (s : State) (f : EventRing → EventRing) : (s.onEvt f).fab = s.fab := rfl
@[simp] theorem State.onEvt_dod (s : State) (f : EventRing → EventRing) : (s.onEvt f).dod = s.dod := rfl
@[simp] theorem State.onEvt_rep (s : State) (f : EventRing → EventRing) : (s.onEvt f).rep = s.rep := rfl
@[simp] theorem State.onEvt_dl (s : State) (f : EventRing → EventRing) : (s.onEvt f).dl = s.dl := rfl
@[simp] theorem State.onEvt_pwr (s : State) (f : EventRing → EventRing) : (s.onEvt f).pwr = s.pwr := rfl
@[simp] theorem State.onEvt_free (s : State) (f : EventRing → EventRing) : (s.onEvt f).free = s.free := rfl
@[simp] theorem State.onEvt_pending (s : State) (f : EventRing → EventRing) : (s.onEvt f).pending = s.pending := rfl

@[simp] theorem State.onPins_hTicks (s : State) (f : Pins → Pins) : (s.onPins f).hTicks = s.hTicks := rfl
@[simp] theorem State.onPins_dieTicks (s : State) (f : Pins → Pins) : (s.onPins f).dieTicks = s.dieTicks := rfl
@[simp] theorem State.onPins_pins (s : State) (f : Pins → Pins) : (s.onPins f).pins = f s.pins := rfl
@[simp] theorem State.onPins_boot (s : State) (f : Pins → Pins) : (s.onPins f).boot = s.boot := rfl
@[simp] theorem State.onPins_flash (s : State) (f : Pins → Pins) : (s.onPins f).flash = s.flash := rfl
@[simp] theorem State.onPins_mgmt (s : State) (f : Pins → Pins) : (s.onPins f).mgmt = s.mgmt := rfl
@[simp] theorem State.onPins_link (s : State) (f : Pins → Pins) : (s.onPins f).link = s.link := rfl
@[simp] theorem State.onPins_pickle (s : State) (f : Pins → Pins) : (s.onPins f).pickle = s.pickle := rfl
@[simp] theorem State.onPins_setup (s : State) (f : Pins → Pins) : (s.onPins f).setup = s.setup := rfl
@[simp] theorem State.onPins_pool (s : State) (f : Pins → Pins) : (s.onPins f).pool = s.pool := rfl
@[simp] theorem State.onPins_coh (s : State) (f : Pins → Pins) : (s.onPins f).coh = s.coh := rfl
@[simp] theorem State.onPins_xlt (s : State) (f : Pins → Pins) : (s.onPins f).xlt = s.xlt := rfl
@[simp] theorem State.onPins_rings (s : State) (f : Pins → Pins) : (s.onPins f).rings = s.rings := rfl
@[simp] theorem State.onPins_evt (s : State) (f : Pins → Pins) : (s.onPins f).evt = s.evt := rfl
@[simp] theorem State.onPins_arrays (s : State) (f : Pins → Pins) : (s.onPins f).arrays = s.arrays := rfl
@[simp] theorem State.onPins_engines (s : State) (f : Pins → Pins) : (s.onPins f).engines = s.engines := rfl
@[simp] theorem State.onPins_transforms (s : State) (f : Pins → Pins) : (s.onPins f).transforms = s.transforms := rfl
@[simp] theorem State.onPins_fab (s : State) (f : Pins → Pins) : (s.onPins f).fab = s.fab := rfl
@[simp] theorem State.onPins_dod (s : State) (f : Pins → Pins) : (s.onPins f).dod = s.dod := rfl
@[simp] theorem State.onPins_rep (s : State) (f : Pins → Pins) : (s.onPins f).rep = s.rep := rfl
@[simp] theorem State.onPins_dl (s : State) (f : Pins → Pins) : (s.onPins f).dl = s.dl := rfl
@[simp] theorem State.onPins_pwr (s : State) (f : Pins → Pins) : (s.onPins f).pwr = s.pwr := rfl
@[simp] theorem State.onPins_free (s : State) (f : Pins → Pins) : (s.onPins f).free = s.free := rfl
@[simp] theorem State.onPins_pending (s : State) (f : Pins → Pins) : (s.onPins f).pending = s.pending := rfl

@[simp] theorem State.setRing_hTicks (s : State) (n : Nat) (r : Ring) : (s.setRing n r).hTicks = s.hTicks := rfl
@[simp] theorem State.setRing_dieTicks (s : State) (n : Nat) (r : Ring) : (s.setRing n r).dieTicks = s.dieTicks := rfl
@[simp] theorem State.setRing_pins (s : State) (n : Nat) (r : Ring) : (s.setRing n r).pins = s.pins := rfl
@[simp] theorem State.setRing_boot (s : State) (n : Nat) (r : Ring) : (s.setRing n r).boot = s.boot := rfl
@[simp] theorem State.setRing_flash (s : State) (n : Nat) (r : Ring) : (s.setRing n r).flash = s.flash := rfl
@[simp] theorem State.setRing_mgmt (s : State) (n : Nat) (r : Ring) : (s.setRing n r).mgmt = s.mgmt := rfl
@[simp] theorem State.setRing_link (s : State) (n : Nat) (r : Ring) : (s.setRing n r).link = s.link := rfl
@[simp] theorem State.setRing_pickle (s : State) (n : Nat) (r : Ring) : (s.setRing n r).pickle = s.pickle := rfl
@[simp] theorem State.setRing_setup (s : State) (n : Nat) (r : Ring) : (s.setRing n r).setup = s.setup := rfl
@[simp] theorem State.setRing_pool (s : State) (n : Nat) (r : Ring) : (s.setRing n r).pool = s.pool := rfl
@[simp] theorem State.setRing_coh (s : State) (n : Nat) (r : Ring) : (s.setRing n r).coh = s.coh := rfl
@[simp] theorem State.setRing_xlt (s : State) (n : Nat) (r : Ring) : (s.setRing n r).xlt = s.xlt := rfl
@[simp] theorem State.setRing_rings (s : State) (n : Nat) (r : Ring) : (s.setRing n r).rings = tput {} s.rings n r := rfl
@[simp] theorem State.setRing_evt (s : State) (n : Nat) (r : Ring) : (s.setRing n r).evt = s.evt := rfl
@[simp] theorem State.setRing_arrays (s : State) (n : Nat) (r : Ring) : (s.setRing n r).arrays = s.arrays := rfl
@[simp] theorem State.setRing_engines (s : State) (n : Nat) (r : Ring) : (s.setRing n r).engines = s.engines := rfl
@[simp] theorem State.setRing_transforms (s : State) (n : Nat) (r : Ring) : (s.setRing n r).transforms = s.transforms := rfl
@[simp] theorem State.setRing_fab (s : State) (n : Nat) (r : Ring) : (s.setRing n r).fab = s.fab := rfl
@[simp] theorem State.setRing_dod (s : State) (n : Nat) (r : Ring) : (s.setRing n r).dod = s.dod := rfl
@[simp] theorem State.setRing_rep (s : State) (n : Nat) (r : Ring) : (s.setRing n r).rep = s.rep := rfl
@[simp] theorem State.setRing_dl (s : State) (n : Nat) (r : Ring) : (s.setRing n r).dl = s.dl := rfl
@[simp] theorem State.setRing_pwr (s : State) (n : Nat) (r : Ring) : (s.setRing n r).pwr = s.pwr := rfl
@[simp] theorem State.setRing_free (s : State) (n : Nat) (r : Ring) : (s.setRing n r).free = s.free := rfl
@[simp] theorem State.setRing_pending (s : State) (n : Nat) (r : Ring) : (s.setRing n r).pending = s.pending := rfl

@[simp] theorem State.onRing_hTicks (s : State) (n : Nat) (f : Ring → Ring) : (s.onRing n f).hTicks = s.hTicks := rfl
@[simp] theorem State.onRing_dieTicks (s : State) (n : Nat) (f : Ring → Ring) : (s.onRing n f).dieTicks = s.dieTicks := rfl
@[simp] theorem State.onRing_pins (s : State) (n : Nat) (f : Ring → Ring) : (s.onRing n f).pins = s.pins := rfl
@[simp] theorem State.onRing_boot (s : State) (n : Nat) (f : Ring → Ring) : (s.onRing n f).boot = s.boot := rfl
@[simp] theorem State.onRing_flash (s : State) (n : Nat) (f : Ring → Ring) : (s.onRing n f).flash = s.flash := rfl
@[simp] theorem State.onRing_mgmt (s : State) (n : Nat) (f : Ring → Ring) : (s.onRing n f).mgmt = s.mgmt := rfl
@[simp] theorem State.onRing_link (s : State) (n : Nat) (f : Ring → Ring) : (s.onRing n f).link = s.link := rfl
@[simp] theorem State.onRing_pickle (s : State) (n : Nat) (f : Ring → Ring) : (s.onRing n f).pickle = s.pickle := rfl
@[simp] theorem State.onRing_setup (s : State) (n : Nat) (f : Ring → Ring) : (s.onRing n f).setup = s.setup := rfl
@[simp] theorem State.onRing_pool (s : State) (n : Nat) (f : Ring → Ring) : (s.onRing n f).pool = s.pool := rfl
@[simp] theorem State.onRing_coh (s : State) (n : Nat) (f : Ring → Ring) : (s.onRing n f).coh = s.coh := rfl
@[simp] theorem State.onRing_xlt (s : State) (n : Nat) (f : Ring → Ring) : (s.onRing n f).xlt = s.xlt := rfl
@[simp] theorem State.onRing_rings (s : State) (n : Nat) (f : Ring → Ring) : (s.onRing n f).rings = tput {} s.rings n (f (s.ring n)) := rfl
@[simp] theorem State.onRing_evt (s : State) (n : Nat) (f : Ring → Ring) : (s.onRing n f).evt = s.evt := rfl
@[simp] theorem State.onRing_arrays (s : State) (n : Nat) (f : Ring → Ring) : (s.onRing n f).arrays = s.arrays := rfl
@[simp] theorem State.onRing_engines (s : State) (n : Nat) (f : Ring → Ring) : (s.onRing n f).engines = s.engines := rfl
@[simp] theorem State.onRing_transforms (s : State) (n : Nat) (f : Ring → Ring) : (s.onRing n f).transforms = s.transforms := rfl
@[simp] theorem State.onRing_fab (s : State) (n : Nat) (f : Ring → Ring) : (s.onRing n f).fab = s.fab := rfl
@[simp] theorem State.onRing_dod (s : State) (n : Nat) (f : Ring → Ring) : (s.onRing n f).dod = s.dod := rfl
@[simp] theorem State.onRing_rep (s : State) (n : Nat) (f : Ring → Ring) : (s.onRing n f).rep = s.rep := rfl
@[simp] theorem State.onRing_dl (s : State) (n : Nat) (f : Ring → Ring) : (s.onRing n f).dl = s.dl := rfl
@[simp] theorem State.onRing_pwr (s : State) (n : Nat) (f : Ring → Ring) : (s.onRing n f).pwr = s.pwr := rfl
@[simp] theorem State.onRing_free (s : State) (n : Nat) (f : Ring → Ring) : (s.onRing n f).free = s.free := rfl
@[simp] theorem State.onRing_pending (s : State) (n : Nat) (f : Ring → Ring) : (s.onRing n f).pending = s.pending := rfl

@[simp] theorem State.onEngine_hTicks (s : State) (n : Nat) (f : Engine → Engine) : (s.onEngine n f).hTicks = s.hTicks := rfl
@[simp] theorem State.onEngine_dieTicks (s : State) (n : Nat) (f : Engine → Engine) : (s.onEngine n f).dieTicks = s.dieTicks := rfl
@[simp] theorem State.onEngine_pins (s : State) (n : Nat) (f : Engine → Engine) : (s.onEngine n f).pins = s.pins := rfl
@[simp] theorem State.onEngine_boot (s : State) (n : Nat) (f : Engine → Engine) : (s.onEngine n f).boot = s.boot := rfl
@[simp] theorem State.onEngine_flash (s : State) (n : Nat) (f : Engine → Engine) : (s.onEngine n f).flash = s.flash := rfl
@[simp] theorem State.onEngine_mgmt (s : State) (n : Nat) (f : Engine → Engine) : (s.onEngine n f).mgmt = s.mgmt := rfl
@[simp] theorem State.onEngine_link (s : State) (n : Nat) (f : Engine → Engine) : (s.onEngine n f).link = s.link := rfl
@[simp] theorem State.onEngine_pickle (s : State) (n : Nat) (f : Engine → Engine) : (s.onEngine n f).pickle = s.pickle := rfl
@[simp] theorem State.onEngine_setup (s : State) (n : Nat) (f : Engine → Engine) : (s.onEngine n f).setup = s.setup := rfl
@[simp] theorem State.onEngine_pool (s : State) (n : Nat) (f : Engine → Engine) : (s.onEngine n f).pool = s.pool := rfl
@[simp] theorem State.onEngine_coh (s : State) (n : Nat) (f : Engine → Engine) : (s.onEngine n f).coh = s.coh := rfl
@[simp] theorem State.onEngine_xlt (s : State) (n : Nat) (f : Engine → Engine) : (s.onEngine n f).xlt = s.xlt := rfl
@[simp] theorem State.onEngine_rings (s : State) (n : Nat) (f : Engine → Engine) : (s.onEngine n f).rings = s.rings := rfl
@[simp] theorem State.onEngine_evt (s : State) (n : Nat) (f : Engine → Engine) : (s.onEngine n f).evt = s.evt := rfl
@[simp] theorem State.onEngine_arrays (s : State) (n : Nat) (f : Engine → Engine) : (s.onEngine n f).arrays = s.arrays := rfl
@[simp] theorem State.onEngine_engines (s : State) (n : Nat) (f : Engine → Engine) : (s.onEngine n f).engines = tput {} s.engines n (f (s.engine n)) := rfl
@[simp] theorem State.onEngine_transforms (s : State) (n : Nat) (f : Engine → Engine) : (s.onEngine n f).transforms = s.transforms := rfl
@[simp] theorem State.onEngine_fab (s : State) (n : Nat) (f : Engine → Engine) : (s.onEngine n f).fab = s.fab := rfl
@[simp] theorem State.onEngine_dod (s : State) (n : Nat) (f : Engine → Engine) : (s.onEngine n f).dod = s.dod := rfl
@[simp] theorem State.onEngine_rep (s : State) (n : Nat) (f : Engine → Engine) : (s.onEngine n f).rep = s.rep := rfl
@[simp] theorem State.onEngine_dl (s : State) (n : Nat) (f : Engine → Engine) : (s.onEngine n f).dl = s.dl := rfl
@[simp] theorem State.onEngine_pwr (s : State) (n : Nat) (f : Engine → Engine) : (s.onEngine n f).pwr = s.pwr := rfl
@[simp] theorem State.onEngine_free (s : State) (n : Nat) (f : Engine → Engine) : (s.onEngine n f).free = s.free := rfl
@[simp] theorem State.onEngine_pending (s : State) (n : Nat) (f : Engine → Engine) : (s.onEngine n f).pending = s.pending := rfl

@[simp] theorem State.onArray_hTicks (s : State) (n : Nat) (f : Machine.Array → Machine.Array) : (s.onArray n f).hTicks = s.hTicks := rfl
@[simp] theorem State.onArray_dieTicks (s : State) (n : Nat) (f : Machine.Array → Machine.Array) : (s.onArray n f).dieTicks = s.dieTicks := rfl
@[simp] theorem State.onArray_pins (s : State) (n : Nat) (f : Machine.Array → Machine.Array) : (s.onArray n f).pins = s.pins := rfl
@[simp] theorem State.onArray_boot (s : State) (n : Nat) (f : Machine.Array → Machine.Array) : (s.onArray n f).boot = s.boot := rfl
@[simp] theorem State.onArray_flash (s : State) (n : Nat) (f : Machine.Array → Machine.Array) : (s.onArray n f).flash = s.flash := rfl
@[simp] theorem State.onArray_mgmt (s : State) (n : Nat) (f : Machine.Array → Machine.Array) : (s.onArray n f).mgmt = s.mgmt := rfl
@[simp] theorem State.onArray_link (s : State) (n : Nat) (f : Machine.Array → Machine.Array) : (s.onArray n f).link = s.link := rfl
@[simp] theorem State.onArray_pickle (s : State) (n : Nat) (f : Machine.Array → Machine.Array) : (s.onArray n f).pickle = s.pickle := rfl
@[simp] theorem State.onArray_setup (s : State) (n : Nat) (f : Machine.Array → Machine.Array) : (s.onArray n f).setup = s.setup := rfl
@[simp] theorem State.onArray_pool (s : State) (n : Nat) (f : Machine.Array → Machine.Array) : (s.onArray n f).pool = s.pool := rfl
@[simp] theorem State.onArray_coh (s : State) (n : Nat) (f : Machine.Array → Machine.Array) : (s.onArray n f).coh = s.coh := rfl
@[simp] theorem State.onArray_xlt (s : State) (n : Nat) (f : Machine.Array → Machine.Array) : (s.onArray n f).xlt = s.xlt := rfl
@[simp] theorem State.onArray_rings (s : State) (n : Nat) (f : Machine.Array → Machine.Array) : (s.onArray n f).rings = s.rings := rfl
@[simp] theorem State.onArray_evt (s : State) (n : Nat) (f : Machine.Array → Machine.Array) : (s.onArray n f).evt = s.evt := rfl
@[simp] theorem State.onArray_arrays (s : State) (n : Nat) (f : Machine.Array → Machine.Array) : (s.onArray n f).arrays = tput {} s.arrays n (f (s.array n)) := rfl
@[simp] theorem State.onArray_engines (s : State) (n : Nat) (f : Machine.Array → Machine.Array) : (s.onArray n f).engines = s.engines := rfl
@[simp] theorem State.onArray_transforms (s : State) (n : Nat) (f : Machine.Array → Machine.Array) : (s.onArray n f).transforms = s.transforms := rfl
@[simp] theorem State.onArray_fab (s : State) (n : Nat) (f : Machine.Array → Machine.Array) : (s.onArray n f).fab = s.fab := rfl
@[simp] theorem State.onArray_dod (s : State) (n : Nat) (f : Machine.Array → Machine.Array) : (s.onArray n f).dod = s.dod := rfl
@[simp] theorem State.onArray_rep (s : State) (n : Nat) (f : Machine.Array → Machine.Array) : (s.onArray n f).rep = s.rep := rfl
@[simp] theorem State.onArray_dl (s : State) (n : Nat) (f : Machine.Array → Machine.Array) : (s.onArray n f).dl = s.dl := rfl
@[simp] theorem State.onArray_pwr (s : State) (n : Nat) (f : Machine.Array → Machine.Array) : (s.onArray n f).pwr = s.pwr := rfl
@[simp] theorem State.onArray_free (s : State) (n : Nat) (f : Machine.Array → Machine.Array) : (s.onArray n f).free = s.free := rfl
@[simp] theorem State.onArray_pending (s : State) (n : Nat) (f : Machine.Array → Machine.Array) : (s.onArray n f).pending = s.pending := rfl

@[simp] theorem State.onDl_hTicks (s : State) (n : Nat) (f : DlPort → DlPort) : (s.onDl n f).hTicks = s.hTicks := rfl
@[simp] theorem State.onDl_dieTicks (s : State) (n : Nat) (f : DlPort → DlPort) : (s.onDl n f).dieTicks = s.dieTicks := rfl
@[simp] theorem State.onDl_pins (s : State) (n : Nat) (f : DlPort → DlPort) : (s.onDl n f).pins = s.pins := rfl
@[simp] theorem State.onDl_boot (s : State) (n : Nat) (f : DlPort → DlPort) : (s.onDl n f).boot = s.boot := rfl
@[simp] theorem State.onDl_flash (s : State) (n : Nat) (f : DlPort → DlPort) : (s.onDl n f).flash = s.flash := rfl
@[simp] theorem State.onDl_mgmt (s : State) (n : Nat) (f : DlPort → DlPort) : (s.onDl n f).mgmt = s.mgmt := rfl
@[simp] theorem State.onDl_link (s : State) (n : Nat) (f : DlPort → DlPort) : (s.onDl n f).link = s.link := rfl
@[simp] theorem State.onDl_pickle (s : State) (n : Nat) (f : DlPort → DlPort) : (s.onDl n f).pickle = s.pickle := rfl
@[simp] theorem State.onDl_setup (s : State) (n : Nat) (f : DlPort → DlPort) : (s.onDl n f).setup = s.setup := rfl
@[simp] theorem State.onDl_pool (s : State) (n : Nat) (f : DlPort → DlPort) : (s.onDl n f).pool = s.pool := rfl
@[simp] theorem State.onDl_coh (s : State) (n : Nat) (f : DlPort → DlPort) : (s.onDl n f).coh = s.coh := rfl
@[simp] theorem State.onDl_xlt (s : State) (n : Nat) (f : DlPort → DlPort) : (s.onDl n f).xlt = s.xlt := rfl
@[simp] theorem State.onDl_rings (s : State) (n : Nat) (f : DlPort → DlPort) : (s.onDl n f).rings = s.rings := rfl
@[simp] theorem State.onDl_evt (s : State) (n : Nat) (f : DlPort → DlPort) : (s.onDl n f).evt = s.evt := rfl
@[simp] theorem State.onDl_arrays (s : State) (n : Nat) (f : DlPort → DlPort) : (s.onDl n f).arrays = s.arrays := rfl
@[simp] theorem State.onDl_engines (s : State) (n : Nat) (f : DlPort → DlPort) : (s.onDl n f).engines = s.engines := rfl
@[simp] theorem State.onDl_transforms (s : State) (n : Nat) (f : DlPort → DlPort) : (s.onDl n f).transforms = s.transforms := rfl
@[simp] theorem State.onDl_fab (s : State) (n : Nat) (f : DlPort → DlPort) : (s.onDl n f).fab = s.fab := rfl
@[simp] theorem State.onDl_dod (s : State) (n : Nat) (f : DlPort → DlPort) : (s.onDl n f).dod = s.dod := rfl
@[simp] theorem State.onDl_rep (s : State) (n : Nat) (f : DlPort → DlPort) : (s.onDl n f).rep = s.rep := rfl
@[simp] theorem State.onDl_dl (s : State) (n : Nat) (f : DlPort → DlPort) : (s.onDl n f).dl = tput {} s.dl n (f (s.dlPort n)) := rfl
@[simp] theorem State.onDl_pwr (s : State) (n : Nat) (f : DlPort → DlPort) : (s.onDl n f).pwr = s.pwr := rfl
@[simp] theorem State.onDl_free (s : State) (n : Nat) (f : DlPort → DlPort) : (s.onDl n f).free = s.free := rfl
@[simp] theorem State.onDl_pending (s : State) (n : Nat) (f : DlPort → DlPort) : (s.onDl n f).pending = s.pending := rfl

@[simp] theorem State.onCore_hTicks (s : State) (n : Nat) (f : Core → Core) : (s.onCore n f).hTicks = s.hTicks := rfl
@[simp] theorem State.onCore_dieTicks (s : State) (n : Nat) (f : Core → Core) : (s.onCore n f).dieTicks = s.dieTicks := rfl
@[simp] theorem State.onCore_pins (s : State) (n : Nat) (f : Core → Core) : (s.onCore n f).pins = s.pins := rfl
@[simp] theorem State.onCore_boot (s : State) (n : Nat) (f : Core → Core) : (s.onCore n f).boot = s.boot := rfl
@[simp] theorem State.onCore_flash (s : State) (n : Nat) (f : Core → Core) : (s.onCore n f).flash = s.flash := rfl
@[simp] theorem State.onCore_mgmt (s : State) (n : Nat) (f : Core → Core) : (s.onCore n f).mgmt = s.mgmt := rfl
@[simp] theorem State.onCore_link (s : State) (n : Nat) (f : Core → Core) : (s.onCore n f).link = s.link := rfl
@[simp] theorem State.onCore_pickle (s : State) (n : Nat) (f : Core → Core) : (s.onCore n f).pickle = s.pickle := rfl
@[simp] theorem State.onCore_setup (s : State) (n : Nat) (f : Core → Core) : (s.onCore n f).setup = s.setup := rfl
@[simp] theorem State.onCore_pool (s : State) (n : Nat) (f : Core → Core) : (s.onCore n f).pool = s.pool := rfl
@[simp] theorem State.onCore_xlt (s : State) (n : Nat) (f : Core → Core) : (s.onCore n f).xlt = s.xlt := rfl
@[simp] theorem State.onCore_rings (s : State) (n : Nat) (f : Core → Core) : (s.onCore n f).rings = s.rings := rfl
@[simp] theorem State.onCore_evt (s : State) (n : Nat) (f : Core → Core) : (s.onCore n f).evt = s.evt := rfl
@[simp] theorem State.onCore_arrays (s : State) (n : Nat) (f : Core → Core) : (s.onCore n f).arrays = s.arrays := rfl
@[simp] theorem State.onCore_engines (s : State) (n : Nat) (f : Core → Core) : (s.onCore n f).engines = s.engines := rfl
@[simp] theorem State.onCore_transforms (s : State) (n : Nat) (f : Core → Core) : (s.onCore n f).transforms = s.transforms := rfl
@[simp] theorem State.onCore_fab (s : State) (n : Nat) (f : Core → Core) : (s.onCore n f).fab = s.fab := rfl
@[simp] theorem State.onCore_dod (s : State) (n : Nat) (f : Core → Core) : (s.onCore n f).dod = s.dod := rfl
@[simp] theorem State.onCore_rep (s : State) (n : Nat) (f : Core → Core) : (s.onCore n f).rep = s.rep := rfl
@[simp] theorem State.onCore_dl (s : State) (n : Nat) (f : Core → Core) : (s.onCore n f).dl = s.dl := rfl
@[simp] theorem State.onCore_pwr (s : State) (n : Nat) (f : Core → Core) : (s.onCore n f).pwr = s.pwr := rfl
@[simp] theorem State.onCore_free (s : State) (n : Nat) (f : Core → Core) : (s.onCore n f).free = s.free := rfl
@[simp] theorem State.onCore_pending (s : State) (n : Nat) (f : Core → Core) : (s.onCore n f).pending = s.pending := rfl

@[simp] theorem State.onSlice_hTicks (s : State) (n : Nat) (f : SliceCtr → SliceCtr) : (s.onSlice n f).hTicks = s.hTicks := rfl
@[simp] theorem State.onSlice_dieTicks (s : State) (n : Nat) (f : SliceCtr → SliceCtr) : (s.onSlice n f).dieTicks = s.dieTicks := rfl
@[simp] theorem State.onSlice_pins (s : State) (n : Nat) (f : SliceCtr → SliceCtr) : (s.onSlice n f).pins = s.pins := rfl
@[simp] theorem State.onSlice_boot (s : State) (n : Nat) (f : SliceCtr → SliceCtr) : (s.onSlice n f).boot = s.boot := rfl
@[simp] theorem State.onSlice_flash (s : State) (n : Nat) (f : SliceCtr → SliceCtr) : (s.onSlice n f).flash = s.flash := rfl
@[simp] theorem State.onSlice_mgmt (s : State) (n : Nat) (f : SliceCtr → SliceCtr) : (s.onSlice n f).mgmt = s.mgmt := rfl
@[simp] theorem State.onSlice_link (s : State) (n : Nat) (f : SliceCtr → SliceCtr) : (s.onSlice n f).link = s.link := rfl
@[simp] theorem State.onSlice_pickle (s : State) (n : Nat) (f : SliceCtr → SliceCtr) : (s.onSlice n f).pickle = s.pickle := rfl
@[simp] theorem State.onSlice_setup (s : State) (n : Nat) (f : SliceCtr → SliceCtr) : (s.onSlice n f).setup = s.setup := rfl
@[simp] theorem State.onSlice_pool (s : State) (n : Nat) (f : SliceCtr → SliceCtr) : (s.onSlice n f).pool = s.pool := rfl
@[simp] theorem State.onSlice_xlt (s : State) (n : Nat) (f : SliceCtr → SliceCtr) : (s.onSlice n f).xlt = s.xlt := rfl
@[simp] theorem State.onSlice_rings (s : State) (n : Nat) (f : SliceCtr → SliceCtr) : (s.onSlice n f).rings = s.rings := rfl
@[simp] theorem State.onSlice_evt (s : State) (n : Nat) (f : SliceCtr → SliceCtr) : (s.onSlice n f).evt = s.evt := rfl
@[simp] theorem State.onSlice_arrays (s : State) (n : Nat) (f : SliceCtr → SliceCtr) : (s.onSlice n f).arrays = s.arrays := rfl
@[simp] theorem State.onSlice_engines (s : State) (n : Nat) (f : SliceCtr → SliceCtr) : (s.onSlice n f).engines = s.engines := rfl
@[simp] theorem State.onSlice_transforms (s : State) (n : Nat) (f : SliceCtr → SliceCtr) : (s.onSlice n f).transforms = s.transforms := rfl
@[simp] theorem State.onSlice_fab (s : State) (n : Nat) (f : SliceCtr → SliceCtr) : (s.onSlice n f).fab = s.fab := rfl
@[simp] theorem State.onSlice_dod (s : State) (n : Nat) (f : SliceCtr → SliceCtr) : (s.onSlice n f).dod = s.dod := rfl
@[simp] theorem State.onSlice_rep (s : State) (n : Nat) (f : SliceCtr → SliceCtr) : (s.onSlice n f).rep = s.rep := rfl
@[simp] theorem State.onSlice_dl (s : State) (n : Nat) (f : SliceCtr → SliceCtr) : (s.onSlice n f).dl = s.dl := rfl
@[simp] theorem State.onSlice_pwr (s : State) (n : Nat) (f : SliceCtr → SliceCtr) : (s.onSlice n f).pwr = s.pwr := rfl
@[simp] theorem State.onSlice_free (s : State) (n : Nat) (f : SliceCtr → SliceCtr) : (s.onSlice n f).free = s.free := rfl
@[simp] theorem State.onSlice_pending (s : State) (n : Nat) (f : SliceCtr → SliceCtr) : (s.onSlice n f).pending = s.pending := rfl

@[simp] theorem State.onPort_hTicks (s : State) (n : Nat) (f : FabPort → FabPort) : (s.onPort n f).hTicks = s.hTicks := rfl
@[simp] theorem State.onPort_dieTicks (s : State) (n : Nat) (f : FabPort → FabPort) : (s.onPort n f).dieTicks = s.dieTicks := rfl
@[simp] theorem State.onPort_pins (s : State) (n : Nat) (f : FabPort → FabPort) : (s.onPort n f).pins = s.pins := rfl
@[simp] theorem State.onPort_boot (s : State) (n : Nat) (f : FabPort → FabPort) : (s.onPort n f).boot = s.boot := rfl
@[simp] theorem State.onPort_flash (s : State) (n : Nat) (f : FabPort → FabPort) : (s.onPort n f).flash = s.flash := rfl
@[simp] theorem State.onPort_mgmt (s : State) (n : Nat) (f : FabPort → FabPort) : (s.onPort n f).mgmt = s.mgmt := rfl
@[simp] theorem State.onPort_link (s : State) (n : Nat) (f : FabPort → FabPort) : (s.onPort n f).link = s.link := rfl
@[simp] theorem State.onPort_pickle (s : State) (n : Nat) (f : FabPort → FabPort) : (s.onPort n f).pickle = s.pickle := rfl
@[simp] theorem State.onPort_setup (s : State) (n : Nat) (f : FabPort → FabPort) : (s.onPort n f).setup = s.setup := rfl
@[simp] theorem State.onPort_pool (s : State) (n : Nat) (f : FabPort → FabPort) : (s.onPort n f).pool = s.pool := rfl
@[simp] theorem State.onPort_coh (s : State) (n : Nat) (f : FabPort → FabPort) : (s.onPort n f).coh = s.coh := rfl
@[simp] theorem State.onPort_xlt (s : State) (n : Nat) (f : FabPort → FabPort) : (s.onPort n f).xlt = s.xlt := rfl
@[simp] theorem State.onPort_rings (s : State) (n : Nat) (f : FabPort → FabPort) : (s.onPort n f).rings = s.rings := rfl
@[simp] theorem State.onPort_evt (s : State) (n : Nat) (f : FabPort → FabPort) : (s.onPort n f).evt = s.evt := rfl
@[simp] theorem State.onPort_arrays (s : State) (n : Nat) (f : FabPort → FabPort) : (s.onPort n f).arrays = s.arrays := rfl
@[simp] theorem State.onPort_engines (s : State) (n : Nat) (f : FabPort → FabPort) : (s.onPort n f).engines = s.engines := rfl
@[simp] theorem State.onPort_transforms (s : State) (n : Nat) (f : FabPort → FabPort) : (s.onPort n f).transforms = s.transforms := rfl
@[simp] theorem State.onPort_dod (s : State) (n : Nat) (f : FabPort → FabPort) : (s.onPort n f).dod = s.dod := rfl
@[simp] theorem State.onPort_rep (s : State) (n : Nat) (f : FabPort → FabPort) : (s.onPort n f).rep = s.rep := rfl
@[simp] theorem State.onPort_dl (s : State) (n : Nat) (f : FabPort → FabPort) : (s.onPort n f).dl = s.dl := rfl
@[simp] theorem State.onPort_pwr (s : State) (n : Nat) (f : FabPort → FabPort) : (s.onPort n f).pwr = s.pwr := rfl
@[simp] theorem State.onPort_free (s : State) (n : Nat) (f : FabPort → FabPort) : (s.onPort n f).free = s.free := rfl
@[simp] theorem State.onPort_pending (s : State) (n : Nat) (f : FabPort → FabPort) : (s.onPort n f).pending = s.pending := rfl

@[simp] theorem State.onDomain_hTicks (s : State) (n : Nat) (f : Domain → Domain) : (s.onDomain n f).hTicks = s.hTicks := rfl
@[simp] theorem State.onDomain_dieTicks (s : State) (n : Nat) (f : Domain → Domain) : (s.onDomain n f).dieTicks = s.dieTicks := rfl
@[simp] theorem State.onDomain_pins (s : State) (n : Nat) (f : Domain → Domain) : (s.onDomain n f).pins = s.pins := rfl
@[simp] theorem State.onDomain_boot (s : State) (n : Nat) (f : Domain → Domain) : (s.onDomain n f).boot = s.boot := rfl
@[simp] theorem State.onDomain_flash (s : State) (n : Nat) (f : Domain → Domain) : (s.onDomain n f).flash = s.flash := rfl
@[simp] theorem State.onDomain_mgmt (s : State) (n : Nat) (f : Domain → Domain) : (s.onDomain n f).mgmt = s.mgmt := rfl
@[simp] theorem State.onDomain_link (s : State) (n : Nat) (f : Domain → Domain) : (s.onDomain n f).link = s.link := rfl
@[simp] theorem State.onDomain_pickle (s : State) (n : Nat) (f : Domain → Domain) : (s.onDomain n f).pickle = s.pickle := rfl
@[simp] theorem State.onDomain_setup (s : State) (n : Nat) (f : Domain → Domain) : (s.onDomain n f).setup = s.setup := rfl
@[simp] theorem State.onDomain_pool (s : State) (n : Nat) (f : Domain → Domain) : (s.onDomain n f).pool = s.pool := rfl
@[simp] theorem State.onDomain_coh (s : State) (n : Nat) (f : Domain → Domain) : (s.onDomain n f).coh = s.coh := rfl
@[simp] theorem State.onDomain_xlt (s : State) (n : Nat) (f : Domain → Domain) : (s.onDomain n f).xlt = s.xlt := rfl
@[simp] theorem State.onDomain_rings (s : State) (n : Nat) (f : Domain → Domain) : (s.onDomain n f).rings = s.rings := rfl
@[simp] theorem State.onDomain_evt (s : State) (n : Nat) (f : Domain → Domain) : (s.onDomain n f).evt = s.evt := rfl
@[simp] theorem State.onDomain_arrays (s : State) (n : Nat) (f : Domain → Domain) : (s.onDomain n f).arrays = s.arrays := rfl
@[simp] theorem State.onDomain_engines (s : State) (n : Nat) (f : Domain → Domain) : (s.onDomain n f).engines = s.engines := rfl
@[simp] theorem State.onDomain_transforms (s : State) (n : Nat) (f : Domain → Domain) : (s.onDomain n f).transforms = s.transforms := rfl
@[simp] theorem State.onDomain_fab (s : State) (n : Nat) (f : Domain → Domain) : (s.onDomain n f).fab = s.fab := rfl
@[simp] theorem State.onDomain_dod (s : State) (n : Nat) (f : Domain → Domain) : (s.onDomain n f).dod = s.dod := rfl
@[simp] theorem State.onDomain_rep (s : State) (n : Nat) (f : Domain → Domain) : (s.onDomain n f).rep = s.rep := rfl
@[simp] theorem State.onDomain_dl (s : State) (n : Nat) (f : Domain → Domain) : (s.onDomain n f).dl = s.dl := rfl
@[simp] theorem State.onDomain_free (s : State) (n : Nat) (f : Domain → Domain) : (s.onDomain n f).free = s.free := rfl
@[simp] theorem State.onDomain_pending (s : State) (n : Nat) (f : Domain → Domain) : (s.onDomain n f).pending = s.pending := rfl

@[simp] theorem State.draw_hTicks (s : State) : s.draw.2.hTicks = s.hTicks := rfl
@[simp] theorem State.draw_dieTicks (s : State) : s.draw.2.dieTicks = s.dieTicks := rfl
@[simp] theorem State.draw_pins (s : State) : s.draw.2.pins = s.pins := rfl
@[simp] theorem State.draw_boot (s : State) : s.draw.2.boot = s.boot := rfl
@[simp] theorem State.draw_flash (s : State) : s.draw.2.flash = s.flash := rfl
@[simp] theorem State.draw_mgmt (s : State) : s.draw.2.mgmt = s.mgmt := rfl
@[simp] theorem State.draw_link (s : State) : s.draw.2.link = s.link := rfl
@[simp] theorem State.draw_pickle (s : State) : s.draw.2.pickle = s.pickle := rfl
@[simp] theorem State.draw_setup (s : State) : s.draw.2.setup = s.setup := rfl
@[simp] theorem State.draw_pool (s : State) : s.draw.2.pool = s.pool := rfl
@[simp] theorem State.draw_coh (s : State) : s.draw.2.coh = s.coh := rfl
@[simp] theorem State.draw_xlt (s : State) : s.draw.2.xlt = s.xlt := rfl
@[simp] theorem State.draw_rings (s : State) : s.draw.2.rings = s.rings := rfl
@[simp] theorem State.draw_evt (s : State) : s.draw.2.evt = s.evt := rfl
@[simp] theorem State.draw_arrays (s : State) : s.draw.2.arrays = s.arrays := rfl
@[simp] theorem State.draw_engines (s : State) : s.draw.2.engines = s.engines := rfl
@[simp] theorem State.draw_transforms (s : State) : s.draw.2.transforms = s.transforms := rfl
@[simp] theorem State.draw_fab (s : State) : s.draw.2.fab = s.fab := rfl
@[simp] theorem State.draw_dod (s : State) : s.draw.2.dod = s.dod := rfl
@[simp] theorem State.draw_rep (s : State) : s.draw.2.rep = s.rep := rfl
@[simp] theorem State.draw_dl (s : State) : s.draw.2.dl = s.dl := rfl
@[simp] theorem State.draw_pwr (s : State) : s.draw.2.pwr = s.pwr := rfl
@[simp] theorem State.draw_free (s : State) : s.draw.2.free = s.free + 1 := rfl
@[simp] theorem State.draw_pending (s : State) : s.draw.2.pending = s.pending := rfl

end Sys2Proof.Machine
end

