-- ==== Sys2Proof/Laws/Tables.lean ====
section
/-! SUPPORT. The tables: what a look-up finds after an entry is put in or taken out, and that the rising order of the keys is
kept. -/

namespace Sys2Proof.Machine

variable {α : Type}

@[simp] theorem tfind_nil (n : Nat) : tfind ([] : Sparse α) n = none := rfl

theorem tfind_tins_same (t : Sparse α) (n : Nat) (v : α) : tfind (tins t n v) n = some v := by
  induction t with
  | nil => simp [tins, tfind]
  | cons p t ih =>
    obtain ⟨k, w⟩ := p
    simp only [tins]
    split
    · simp [tfind]
    · split
      · simp [tfind]
      · simp [tfind, *]

theorem tfind_tins_other (t : Sparse α) {n m : Nat} (v : α) (h : m ≠ n) : tfind (tins t n v) m = tfind t m := by
  induction t with
  | nil => simp [tins, tfind, Ne.symm h]
  | cons p t ih =>
    obtain ⟨k, w⟩ := p
    simp only [tins]
    split
    · rename_i hk; subst hk; simp [tfind, Ne.symm h]
    · split
      · simp [tfind, Ne.symm h]
      · simp [tfind, ih]

theorem tfind_tdel_same (t : Sparse α) (n : Nat) : tfind (tdel t n) n = none := by
  induction t with
  | nil => rfl
  | cons p t ih =>
    obtain ⟨k, w⟩ := p
    simp only [tdel]
    split
    · exact ih
    · rename_i h; simp [tfind, h, ih]

theorem tfind_tdel_other (t : Sparse α) {n m : Nat} (h : m ≠ n) : tfind (tdel t n) m = tfind t m := by
  induction t with
  | nil => rfl
  | cons p t ih =>
    obtain ⟨k, w⟩ := p
    simp only [tdel]
    split
    · rename_i hk; subst hk; simp [tfind, Ne.symm h, ih]
    · simp [tfind, ih]

/-- A value put under a number is read back there. -/
@[simp] theorem tget_tput_same [DecidableEq α] (d : α) (t : Sparse α) (n : Nat) (v : α) : tget d (tput d t n v) n = v := by
  unfold tget tput
  split
  · next h => subst h; simp [tfind_tdel_same]
  · simp [tfind_tins_same]

/-- Every other number reads as before. -/
theorem tget_tput_other [DecidableEq α] (d : α) (t : Sparse α) {n m : Nat} (v : α) (h : m ≠ n) :
    tget d (tput d t n v) m = tget d t m := by
  unfold tget tput
  split
  · rw [tfind_tdel_other t h]
  · rw [tfind_tins_other t v h]

theorem tget_tput [DecidableEq α] (d : α) (t : Sparse α) (n m : Nat) (v : α) :
    tget d (tput d t n v) m = if m = n then v else tget d t m := by
  by_cases h : m = n
  · subst h; simp
  · simp [h, tget_tput_other]

/-- A lower bound of the keys of a rising table. -/
def Above (b : Option Nat) (n : Nat) : Prop := ∀ m, b = some m → m < n

theorem tRising_cons (b : Option Nat) (k : Nat) (v : α) (t : Sparse α) :
    tRising b ((k, v) :: t) = true ↔ Above b k ∧ tRising (some k) t = true := by
  cases b <;> simp [tRising, Above]

theorem tRising_weaken {b : Option Nat} {k : Nat} (h : Above b k) :
    ∀ {t : Sparse α}, tRising (some k) t = true → tRising b t = true
  | [], _ => rfl
  | (_, _) :: _, ht => by
    rw [tRising_cons] at ht ⊢
    exact ⟨fun m hm => Nat.lt_trans (h m hm) (ht.1 k rfl), ht.2⟩

theorem tRising_tins (n : Nat) (v : α) :
    ∀ (b : Option Nat) (t : Sparse α), tRising b t = true → Above b n → tRising b (tins t n v) = true
  | b, [], _, hn => by simpa [tins] using (tRising_cons b n v []).2 ⟨hn, rfl⟩
  | b, (k, w) :: t, ht, hn => by
    rw [tRising_cons] at ht
    simp only [tins]
    split
    · next h => subst h; exact (tRising_cons _ _ _ _).2 ht
    · next hk =>
      split
      · next hlt =>
        exact (tRising_cons _ _ _ _).2 ⟨hn, (tRising_cons _ _ _ _).2 ⟨fun m hm => by cases hm; exact hlt, ht.2⟩⟩
      · next hle =>
        refine (tRising_cons _ _ _ _).2 ⟨ht.1, tRising_tins n v (some k) t ht.2 ?_⟩
        intro m hm; cases hm; omega

theorem tRising_filter (p : Nat × α → Bool) :
    ∀ (b : Option Nat) (t : Sparse α), tRising b t = true → tRising b (t.filter p) = true
  | _, [], _ => rfl
  | b, (k, w) :: t, ht => by
    rw [tRising_cons] at ht
    simp only [List.filter_cons]
    split
    · exact (tRising_cons _ _ _ _).2 ⟨ht.1, tRising_filter p (some k) t ht.2⟩
    · exact tRising_weaken ht.1 (tRising_filter p (some k) t ht.2)

theorem tdel_eq_filter (t : Sparse α) (n : Nat) : tdel t n = t.filter fun p => p.1 != n := by
  induction t with
  | nil => rfl
  | cons p t ih =>
    obtain ⟨k, w⟩ := p
    by_cases h : k = n <;> simp [tdel, h, ih]

theorem tRising_tput [DecidableEq α] (d : α) (n : Nat) (v : α) (t : Sparse α) (h : tRising none t = true) :
    tRising none (tput d t n v) = true := by
  unfold tput
  split
  · rw [tdel_eq_filter]; exact tRising_filter _ _ _ h
  · exact tRising_tins _ _ _ _ h (fun _ hm => by cases hm)

theorem mem_tins (t : Sparse α) (n : Nat) (v : α) (p : Nat × α) (h : p ∈ tins t n v) : p = (n, v) ∨ p ∈ t := by
  induction t with
  | nil => simp [tins] at h; exact .inl h
  | cons q t ih =>
    obtain ⟨k, w⟩ := q
    simp only [tins] at h
    split at h
    · rcases List.mem_cons.1 h with h | h
      · exact .inl h
      · exact .inr (List.mem_cons_of_mem _ h)
    · split at h
      · rcases List.mem_cons.1 h with h | h
        · exact .inl h
        · exact .inr h
      · rcases List.mem_cons.1 h with h | h
        · exact .inr (h ▸ List.mem_cons_self ..)
        · rcases ih h with h | h
          · exact .inl h
          · exact .inr (List.mem_cons_of_mem _ h)

/-- No entry of a table is the default: what a put keeps. -/
theorem tput_ne_default [DecidableEq α] (d : α) (t : Sparse α) (n : Nat) (v : α) (h : ∀ p ∈ t, p.2 ≠ d) :
    ∀ p ∈ tput d t n v, p.2 ≠ d := by
  intro p hp
  unfold tput at hp
  split at hp
  · rw [tdel_eq_filter] at hp; exact h p (List.mem_filter.1 hp).1
  · next hv =>
    rcases mem_tins _ _ _ _ hp with h' | h'
    · rw [h']; exact hv
    · exact h p h'

/-! ### The units of the state -/

@[simp] theorem State.ring_setRing_same (s : State) (n : Nat) (r : Ring) : (s.setRing n r).ring n = r := by
  simp [State.ring, State.setRing]

theorem State.ring_setRing_other (s : State) {n m : Nat} (r : Ring) (h : m ≠ n) : (s.setRing n r).ring m = s.ring m := by
  simp [State.ring, State.setRing, tget_tput_other _ _ _ h]

@[simp] theorem State.ring_onRing_same (s : State) (n : Nat) (f : Ring → Ring) : (s.onRing n f).ring n = f (s.ring n) := by
  simp [State.onRing]

theorem State.ring_onRing_other (s : State) {n m : Nat} (f : Ring → Ring) (h : m ≠ n) : (s.onRing n f).ring m = s.ring m := by
  simp [State.onRing, State.ring_setRing_other _ _ h]

@[simp] theorem State.engine_onEngine_same (s : State) (e : Nat) (f : Engine → Engine) :
    (s.onEngine e f).engine e = f (s.engine e) := by
  simp [State.engine, State.onEngine]

theorem State.engine_onEngine_other (s : State) {e k : Nat} (f : Engine → Engine) (h : k ≠ e) :
    (s.onEngine e f).engine k = s.engine k := by
  simp [State.engine, State.onEngine, tget_tput_other _ _ _ h]

@[simp] theorem State.array_onArray_same (s : State) (a : Nat) (f : Machine.Array → Machine.Array) :
    (s.onArray a f).array a = f (s.array a) := by
  simp [State.array, State.onArray]

theorem State.array_onArray_other (s : State) {a k : Nat} (f : Machine.Array → Machine.Array) (h : k ≠ a) :
    (s.onArray a f).array k = s.array k := by
  simp [State.array, State.onArray, tget_tput_other _ _ _ h]

@[simp] theorem State.core_onCore_same (s : State) (k : Nat) (f : Core → Core) : (s.onCore k f).core k = f (s.core k) := by
  simp [State.core, State.onCore]

theorem State.core_onCore_other (s : State) {k j : Nat} (f : Core → Core) (h : j ≠ k) : (s.onCore k f).core j = s.core j := by
  simp [State.core, State.onCore, tget_tput_other _ _ _ h]

@[simp] theorem State.domain_onDomain_same (s : State) (d : Nat) (f : Domain → Domain) :
    (s.onDomain d f).domain d = f (s.domain d) := by
  simp [State.domain, State.onDomain]

theorem State.domain_onDomain_other (s : State) {d k : Nat} (f : Domain → Domain) (h : k ≠ d) :
    (s.onDomain d f).domain k = s.domain k := by
  simp [State.domain, State.onDomain, tget_tput_other _ _ _ h]

@[simp] theorem State.port_onPort_same (s : State) (p : Nat) (f : FabPort → FabPort) : (s.onPort p f).port p = f (s.port p) := by
  simp [State.port, State.onPort]

theorem State.port_onPort_other (s : State) {p q : Nat} (f : FabPort → FabPort) (h : q ≠ p) :
    (s.onPort p f).port q = s.port q := by
  simp [State.port, State.onPort, tget_tput_other _ _ _ h]

@[simp] theorem State.dlPort_onDl_same (s : State) (p : Nat) (f : DlPort → DlPort) : (s.onDl p f).dlPort p = f (s.dlPort p) := by
  simp [State.dlPort, State.onDl]

theorem State.dlPort_onDl_other (s : State) {p q : Nat} (f : DlPort → DlPort) (h : q ≠ p) :
    (s.onDl p f).dlPort q = s.dlPort q := by
  simp [State.dlPort, State.onDl, tget_tput_other _ _ _ h]

end Sys2Proof.Machine
end

