-- ==== Sys2Proof/Laws/Memory.lean ====
section
/-! SUPPORT. The pool's memory: what a byte reads after a write or a clear, and that every operation keeps the canonical
form. -/

namespace Sys2Proof.Machine

theorem memByte_memPut (m : List Host.Cell) (a b : Nat) (v : Byte) :
    memByte (memPut m a v) b = if b = a then v else memByte m b := tget_tput _ _ _ _ _

theorem memPut_wf (m : List Host.Cell) (a : Nat) (v : Byte) (h : Memory.wf m) : Memory.wf (memPut m a v) :=
  ⟨tRising_tput _ _ _ _ h.1, tput_ne_default _ _ _ _ h.2⟩

/-- Storing bytes keeps the canonical form. -/
theorem memWrite_wf (bs : List Byte) : ∀ (m : List Host.Cell) (a : Nat), Memory.wf m → Memory.wf (memWrite m a bs) := by
  induction bs with
  | nil => intro m a h; exact h
  | cons b bs ih => intro m a h; exact ih _ _ (memPut_wf _ _ _ h)

theorem memClear_wf (m : List Host.Cell) (lo hi : Nat) (h : Memory.wf m) : Memory.wf (memClear m lo hi) :=
  ⟨tRising_filter _ _ _ h.1, fun c hc => h.2 c (List.mem_filter.1 hc).1⟩

theorem memory_nil_wf : Memory.wf [] := ⟨rfl, fun _ h => by cases h⟩

/-- A byte after a store of bytes: the byte stored there, or the byte that was there. -/
theorem memByte_memWrite (bs : List Byte) : ∀ (m : List Host.Cell) (a b : Nat),
    memByte (memWrite m a bs) b = if a ≤ b ∧ b < a + bs.length then nth 0 bs (b - a) else memByte m b := by
  induction bs with
  | nil => intro m a b; simp [memWrite]
  | cons v bs ih =>
    intro m a b
    simp only [memWrite, ih, memByte_memPut, List.length_cons]
    by_cases h1 : b = a
    · subst h1
      have : ¬ (b + 1 ≤ b) := by omega
      simp [nth]
    · by_cases h2 : a + 1 ≤ b ∧ b < a + 1 + bs.length
      · have h3 : a ≤ b ∧ b < a + (bs.length + 1) := by omega
        have h4 : b - a = (b - (a + 1)) + 1 := by omega
        simp [h2, h3, h4, nth]
      · have h3 : ¬ (a ≤ b ∧ b < a + (bs.length + 1)) := by omega
        rw [if_neg h2, if_neg h1, if_neg h3]

theorem memByte_memWrite_outside (m : List Host.Cell) (a b : Nat) (bs : List Byte) (h : b < a ∨ a + bs.length ≤ b) :
    memByte (memWrite m a bs) b = memByte m b := by
  rw [memByte_memWrite, if_neg (by omega)]

/-- Reading back what was stored. -/
theorem memRead_memWrite (m : List Host.Cell) (a : Nat) (bs : List Byte) : memRead (memWrite m a bs) a bs.length = bs := by
  apply List.ext_getElem
  · simp [memRead, span]
  · intro i h1 h2
    simp [memRead, span, memByte_memWrite, nth, h2]

theorem memByte_memClear (m : List Host.Cell) (lo hi b : Nat) :
    memByte (memClear m lo hi) b = if lo ≤ b ∧ b < hi then memDefault else memByte m b := by
  unfold memByte memClear tget
  induction m with
  | nil => simp
  | cons c m ih =>
    obtain ⟨k, v⟩ := c
    simp only [List.filter_cons]
    by_cases hk : k = b
    · subst hk
      by_cases hin : lo ≤ k ∧ k < hi
      · have : (decide (k < lo) || decide (hi ≤ k)) = false := by simp; omega
        simp only [this, hin, and_self, if_true] at ih ⊢
        simpa using ih
      · have : (decide (k < lo) || decide (hi ≤ k)) = true := by simp; omega
        simp [this, hin, tfind]
    · split
      · simpa [tfind, hk] using ih
      · simpa [tfind, hk] using ih

open Safety in
/-- What a write of a DRAM sector does: the sector's bytes, its poison, and nothing else. -/
theorem dramWrite_memOk (sector : Nat) (bytes : List Byte) (ep : Bool) (s : State) (h : MemOk s) :
    MemOk (dramWrite sector bytes ep s) := memWrite_wf _ _ _ h

theorem dramWrite_memByte (sector : Nat) (bytes : List Byte) (ep : Bool) (s : State) (b : Nat) :
    memByte (dramWrite sector bytes ep s).pool.mem b =
      if sector * 64 ≤ b ∧ b < sector * 64 + bytes.length then nth 0 bytes (b - sector * 64) else memByte s.pool.mem b :=
  memByte_memWrite _ _ _ _

open Safety in
theorem reset_memOk : MemOk State.reset := memory_nil_wf

end Sys2Proof.Machine
end

