-- ==== Sys2Proof/Laws/Home.lean ====
section
/-! SUPPORT. What the operations of the home can do: each changes the coherence state and the contents of the pool alone, and
keeps the pool's memory in canonical form. -/

namespace Sys2Proof.Machine

open Safety

/-- The second state differs from the first in the coherence state and in the pool's contents alone, and its memory is in
canonical form where the first's is. -/
structure HomeOnly (s t : State) : Prop where
  frame : { t with coh := s.coh, pool := { t.pool with mem := s.pool.mem, poison := s.pool.poison } } = s
  memOk : MemOk s → MemOk t

namespace HomeOnly

@[refl] theorem rfl {s : State} : HomeOnly s s := ⟨Eq.refl _, id⟩

theorem trans {s t u : State} (h : HomeOnly s t) (k : HomeOnly t u) : HomeOnly s u := by
  refine ⟨?_, k.memOk ∘ h.memOk⟩
  have h1 := h.frame
  have k1 := k.frame
  cases s; cases t; cases u
  simp only [State.mk.injEq] at h1 k1 ⊢
  obtain ⟨h1, h2, h3, h4, h5, h6, h7, h8, h9, h10, h11, h12, h13, h14, h15, h16, h17, h18, h19, h20, h21, h22, h23, h24⟩ := h1
  obtain ⟨k1, k2, k3, k4, k5, k6, k7, k8, k9, k10, k11, k12, k13, k14, k15, k16, k17, k18, k19, k20, k21, k22, k23, k24⟩ := k1
  subst h1 h2 h3 h4 h5 h6 h7 h8 h9 h12 h13 h14 h15 h16 h17 h18 h19 h20 h21 h22 h23 h24
  subst k1 k2 k3 k4 k5 k6 k7 k8 k9 k12 k13 k14 k15 k16 k17 k18 k19 k20 k21 k22 k23 k24
  simp only [and_true, true_and]
  rw [← h10, ← k10]

theorem ite {s t u : State} {c : Prop} [Decidable c] (h : HomeOnly s t) (k : HomeOnly s u) : HomeOnly s (if c then t else u) := by
  split
  · exact h
  · exact k

theorem foldl {β : Type} {f : State → β → State} (h : ∀ s b, HomeOnly s (f s b)) : ∀ (l : List β) (s : State), HomeOnly s (l.foldl f s)
  | [], _ => rfl
  | b :: l, s => (h s b).trans (foldl h l _)

theorem onCoh (s : State) (f : Coh → Coh) : HomeOnly s (s.onCoh f) := ⟨Eq.refl _, id⟩
theorem onSlice (s : State) (i : Nat) (f : SliceCtr → SliceCtr) : HomeOnly s (s.onSlice i f) := ⟨Eq.refl _, id⟩
theorem onCore (s : State) (k : Nat) (f : Core → Core) : HomeOnly s (s.onCore k f) := ⟨Eq.refl _, id⟩

end HomeOnly

open HomeOnly

theorem dramWrite_only (sector : Nat) (bytes : List Byte) (ep : Bool) (s : State) : HomeOnly s (dramWrite sector bytes ep s) :=
  ⟨Eq.refl _, dramWrite_memOk sector bytes ep s⟩

theorem scSet_only (k : Nat) (l : ScLine) (s : State) : HomeOnly s (scSet k l s) := onCoh _ _
theorem scTouch_only (k : Nat) (s : State) : HomeOnly s (scTouch k s) := onCoh _ _
theorem victimDrop_only (line : Nat) (s : State) : HomeOnly s (victimDrop line s) := onCoh _ _
theorem privDrop_only (cache line : Nat) (s : State) : HomeOnly s (privDrop cache line s) := onCoh _ _
theorem privSet_only (p : PrivLine) (s : State) : HomeOnly s (privSet p s) := (privDrop_only _ _ s).trans (onCoh _ _)
theorem wbufDrop_only (cache line : Nat) (s : State) : HomeOnly s (wbufDrop cache line s) := onCoh _ _
theorem dirTouch_only (k : Nat) (s : State) : HomeOnly s (dirTouch k s) := onCoh _ _
theorem txnSet_only (t : Txn) (s : State) : HomeOnly s (txnSet t s) := onCoh _ _
theorem txnDrop_only (line : Nat) (s : State) : HomeOnly s (txnDrop line s) := onCoh _ _

theorem scWriteBack_only (l : ScLine) (s : State) : HomeOnly s (scWriteBack l s) := by
  unfold scWriteBack
  have h : HomeOnly s (if l.valid0 && l.dirty0 then dramWrite (2 * l.line) (l.data.take 64) l.poison0 s else s) :=
    ite (dramWrite_only ..) rfl
  exact ite (h.trans (dramWrite_only ..)) h

theorem victimPush_only (l : ScLine) (s : State) : HomeOnly s (victimPush l s) := by
  simp only [victimPush]
  split
  · exact ite ((scWriteBack_only ..).trans (onCoh ..)) (onCoh ..)
  · exact rfl

theorem scFreeWay_only (line : Nat) (s : State) : HomeOnly s (scFreeWay line s).2 := by
  simp only [scFreeWay]
  split
  · exact rfl
  · split
    · exact (onCoh ..).trans (victimPush_only ..)
    · exact rfl

theorem scAlloc_only (line : Nat) (s : State) : HomeOnly s (scAlloc line s).2 := by
  simp only [scAlloc]
  split
  · exact scTouch_only ..
  · exact (victimDrop_only ..).trans ((scFreeWay_only ..).trans ((scSet_only ..).trans (scTouch_only ..)))

theorem scFillSector_only (k sec : Nat) (s : State) : HomeOnly s (scFillSector k sec s) := by
  simp only [scFillSector]
  split
  · exact rfl
  · exact ite (ite rfl (scSet_only ..)) (ite rfl (scSet_only ..))

theorem scFill_only (line : Nat) (need0 need1 : Bool) (s : State) : HomeOnly s (scFill line need0 need1 s) :=
  (scAlloc_only line s).trans (HomeOnly.trans (ite (scFillSector_only ..) rfl) (ite (scFillSector_only ..) rfl))

theorem scWrite_only (line off : Nat) (bytes : List Byte) (ep : Bool) (s : State) : HomeOnly s (scWrite line off bytes ep s) := by
  have fill : ∀ (c : Bool) k sec u, HomeOnly u (if c then scFillSector k sec u else u) :=
    fun _ _ _ _ => ite (scFillSector_only ..) rfl
  unfold scWrite
  have h := scAlloc_only line s
  generalize scAlloc line s = a at h ⊢
  obtain ⟨k, u⟩ := a
  dsimp only at h ⊢
  have h0 := h.trans (fill (touches 0 off bytes.length && !coversSector 0 off bytes.length) k 0 u)
  have h1 := h0.trans (fill (touches 1 off bytes.length && !coversSector 1 off bytes.length) k 1 _)
  split
  · exact h1
  · exact h1.trans (scSet_only ..)

theorem scTake_only (line : Nat) (data : List Byte) (p0 p1 : Bool) (s : State) : HomeOnly s (scTake line data p0 p1 s) :=
  (scWrite_only ..).trans (scWrite_only ..)

theorem scClean_only (line : Nat) (s : State) : HomeOnly s (scClean line s) := by
  simp only [scClean]
  split
  · split
    · exact (scWriteBack_only ..).trans (scSet_only ..)
    · exact rfl
  · split
    · exact (scWriteBack_only ..).trans (onCoh ..)
    · exact rfl

theorem scDrop_only (line : Nat) (s : State) : HomeOnly s (scDrop line s) := by
  simp only [scDrop]
  split
  · exact (onCoh ..).trans (victimDrop_only ..)
  · exact victimDrop_only ..

theorem loseReservation_only (cache line : Nat) (s : State) : HomeOnly s (loseReservation cache line s) := by
  unfold loseReservation
  split
  · next k _ =>
    have l1 : HomeOnly s (if (s.core k).l1d.contains line then s.onCore k fun c => { c with l1d := c.l1d.erase line } else s) :=
      ite (onCore ..) rfl
    exact l1.trans (ite (onCore ..) rfl)
  · exact rfl

/-! ### Messages in the switch -/

theorem switchIn_only (input output cls lane : Nat) (data : Bool) (s : State) : HomeOnly s (switchIn input output cls lane data s) := by
  unfold switchIn onOut
  exact onCoh ..

theorem fromAgent_only (agent line cls : Nat) (data : Bool) (s : State) : HomeOnly s (fromAgent agent line cls data s) := by
  unfold fromAgent
  split
  · exact ite (switchIn_only ..) (HomeOnly.trans (switchIn_only ..) (onCoh ..))
  · exact rfl

theorem toAgent_only (agent line cls : Nat) (data : Bool) (s : State) : HomeOnly s (toAgent agent line cls data s) := by
  unfold toAgent
  split
  · exact switchIn_only ..
  · exact rfl

theorem betweenAgents_only (a b line cls : Nat) (data : Bool) (s : State) : HomeOnly s (betweenAgents a b line cls data s) := by
  unfold betweenAgents
  split
  · exact ite rfl (HomeOnly.trans (switchIn_only ..) (onCoh ..))
  · exact fromAgent_only ..

theorem recallCopies_only (d : DirEntry) (s : State) : HomeOnly s (recallCopies d s) :=
  foldl (fun _ _ => (toAgent_only ..).trans (fromAgent_only ..)) _ _

theorem sendResponse_only (r : SnoopResp) (s : State) : HomeOnly s (sendResponse r s) := by
  unfold sendResponse
  split
  · exact fromAgent_only ..
  · next t _ =>
    have back : HomeOnly s (if returnsDirty t r then fromAgent r.cache r.line 4 true s else s) := ite (fromAgent_only ..) rfl
    dsimp only
    generalize (if returnsDirty t r then fromAgent r.cache r.line 4 true s else s) = u at back ⊢
    refine back.trans ?_
    split
    · exact ite rfl (fromAgent_only ..)
    · exact ite rfl (fromAgent_only ..)
    · exact ite rfl (fromAgent_only ..)
    · exact ite (betweenAgents_only ..) (betweenAgents_only ..)

theorem sendGrant_only (t : Txn) (s : State) : HomeOnly s (sendGrant t s) := by
  unfold sendGrant
  split
  · exact toAgent_only ..
  · exact toAgent_only ..
  · exact toAgent_only ..
  · exact rfl
  · exact ite (toAgent_only ..) rfl

theorem sendRequest_only (req : HomeReq) (agent line : Nat) (s : State) : HomeOnly s (sendRequest req agent line s) := by
  unfold sendRequest
  split
  · exact (fromAgent_only ..).trans (fromAgent_only ..)
  · exact (fromAgent_only ..).trans (fromAgent_only ..)
  · exact (fromAgent_only ..).trans (fromAgent_only ..)
  · exact rfl
  · exact fromAgent_only ..

/-! ### Lines leave their holders -/

theorem backInvalidate_only (d : DirEntry) (s : State) : HomeOnly s (backInvalidate d s) := by
  unfold backInvalidate
  refine (recallCopies_only d s).trans ?_
  generalize recallCopies d s = s
  refine HomeOnly.trans (HomeOnly.trans (HomeOnly.trans ?_ (foldl (fun s c => loseReservation_only c d.line s) _ _)) (onCoh ..)) (onSlice ..)
  split
  · exact scTake_only ..
  · exact ite (scTake_only ..) rfl
  · exact rfl

theorem dirFreeWay_only (line : Nat) (s : State) : HomeOnly s (dirFreeWay line s).2 := by
  simp only [dirFreeWay]
  split
  · exact rfl
  · split
    · dsimp only
      exact HomeOnly.trans (backInvalidate_only ..) (onCoh ..)
    · exact rfl

theorem dirSet_only (d : DirEntry) (s : State) : HomeOnly s (dirSet d s) := by
  simp only [dirSet]
  split
  · exact ite (onCoh ..) ((onCoh ..).trans (dirTouch_only ..))
  · exact ite rfl ((dirFreeWay_only ..).trans ((onCoh ..).trans (dirTouch_only ..)))

theorem dirClear_only (line : Nat) (s : State) : HomeOnly s (dirClear line s) := dirSet_only ..

theorem dieClean_only (line : Nat) (s : State) : HomeOnly s (dieClean line s) := by
  simp only [dieClean]
  split
  · exact (dramWrite_only ..).trans ((dramWrite_only ..).trans (onCoh ..))
  · exact onCoh ..

theorem dirtyTaken_only (line : Nat) (s : State) : HomeOnly s (match dirtyCopy s line with
    | some p => scTake line p.data p.poison0 p.poison1 s
    | none => s) := by
  split
  · exact scTake_only ..
  · exact rfl

theorem homeClean_only (line : Nat) (s : State) : HomeOnly s (homeClean line s) := by
  have lose : ∀ u : State, HomeOnly u (match dirEntry u line with
      | some d => (dirHolders d).foldl (fun s c => loseReservation c line s) (recallCopies d u)
      | none => u) := by
    intro u
    split
    · exact (recallCopies_only ..).trans (foldl (fun s c => loseReservation_only c line s) _ _)
    · exact rfl
  have drop : ∀ u : State, HomeOnly u (u.onCoh fun c => { c with priv := c.priv.filter fun p => p.line != line }) := fun u => onCoh u _
  have last : ∀ u : State, HomeOnly u (scDrop line (scClean line (dirClear line u))) := fun u =>
    (dirClear_only line u).trans ((scClean_only line _).trans (scDrop_only line _))
  unfold homeClean
  exact HomeOnly.trans (HomeOnly.trans (HomeOnly.trans (lose s) (dirtyTaken_only line _)) (drop _)) (last _)

theorem homeAtom_only (addr : Nat) (r : AtomReq) (s : State) : HomeOnly s (homeAtom addr r s).2 := by
  unfold homeAtom
  dsimp only
  exact HomeOnly.trans (scWrite_only ..) (onSlice ..)

theorem homeFinish_only (t : Txn) (s : State) : HomeOnly s (homeFinish t s) := by
  unfold homeFinish
  have c : HomeOnly s (if t.data.isEmpty then s
      else s.onSlice (sliceOf t.line) fun c => { c with forwarded := advance c.forwarded 1 }) := ite rfl (onSlice ..)
  generalize (if t.data.isEmpty then s
      else s.onSlice (sliceOf t.line) fun c => { c with forwarded := advance c.forwarded 1 }) = u at c ⊢
  have g := sendGrant_only t u
  dsimp only
  generalize sendGrant t u = v at g ⊢
  refine HomeOnly.trans (HomeOnly.trans c g) ?_
  split
  · exact HomeOnly.trans (HomeOnly.trans (dirSet_only ..) (scWrite_only ..)) (txnSet_only ..)
  · exact HomeOnly.trans (HomeOnly.trans (dirSet_only ..) (homeAtom_only ..)) (txnSet_only ..)
  · exact HomeOnly.trans (dirSet_only ..) (txnSet_only ..)
  · exact HomeOnly.trans (dirSet_only ..) (txnSet_only ..)
  · exact HomeOnly.trans (HomeOnly.trans (ite (scFill_only ..) rfl) (dirSet_only ..)) (txnSet_only ..)

theorem homeWb_only (agent line : Nat) (s : State) : HomeOnly s (homeWb agent line s) := by
  unfold homeWb
  refine (toAgent_only agent line 5 false s).trans (HomeOnly.trans ?_ (onCoh ..))
  refine ite ?_ rfl
  split
  · exact (scTake_only ..).trans (dirClear_only ..)
  · exact rfl

theorem homeEv_only (agent line : Nat) (s : State) : HomeOnly s (homeEv agent line s) := by
  unfold homeEv
  split
  · exact rfl
  · exact ite (ite (dirClear_only ..) rfl) (dirSet_only ..)

theorem reply_only (r : SnoopResp) (s : State) : HomeOnly s ((sendResponse r s).onCoh fun c => { c with resps := c.resps ++ [r] }) :=
  (sendResponse_only ..).trans (onCoh ..)

theorem snoopAnswer_only (n : Snoop) (s : State) : HomeOnly s (snoopAnswer n s) := by
  unfold snoopAnswer
  refine HomeOnly.trans
    (t := s.onCoh fun c => { c with snoops := c.snoops.filter fun x => !(x.line == n.line && x.cache == n.cache) }) (onCoh ..) ?_
  dsimp only
  split
  · split
    · exact (privSet_only ..).trans (reply_only ..)
    · exact (privSet_only ..).trans (reply_only ..)
    · exact (ite (privSet_only ..) rfl).trans (reply_only ..)
    · exact (privDrop_only ..).trans ((loseReservation_only ..).trans (reply_only ..))
    · exact (privDrop_only ..).trans ((loseReservation_only ..).trans (reply_only ..))
  · split
    · exact ite (reply_only ..) (reply_only ..)
    · exact reply_only ..

theorem homeResponse_only (r : SnoopResp) (s : State) : HomeOnly s (homeResponse r s) := by
  unfold homeResponse
  refine HomeOnly.trans
    (t := s.onCoh fun c => { c with resps := c.resps.filter fun x => !(x.line == r.line && x.cache == r.cache) }) (onCoh ..) ?_
  dsimp only
  split
  · exact rfl
  · next t _ =>
    have back : ∀ u : State, HomeOnly u (if returnsDirty t r then scTake r.line r.data r.poison0 r.poison1 u else u) :=
      fun _ => ite (scTake_only ..) rfl
    exact (back _).trans ((txnSet_only ..).trans (ite (homeFinish_only ..) rfl))

theorem homeNotice_only (wb : Bool) (agent line : Nat) (s : State) : HomeOnly s (homeNotice wb agent line s) := by
  unfold homeNotice
  refine (sendRequest_only (if wb then .wb else .ev) agent line s).trans ?_
  generalize sendRequest (if wb then .wb else .ev) agent line s = s
  dsimp only
  split
  · exact (ite (onSlice ..) rfl : HomeOnly s _).trans (onCoh ..)
  · exact ite (homeWb_only ..) (homeEv_only ..)

theorem dramLineWrite_only (p : PrivLine) (s : State) : HomeOnly s (dramLineWrite p s) := (dramWrite_only ..).trans (dramWrite_only ..)

theorem privLeave_only (p : PrivLine) (s : State) : HomeOnly s (privLeave p s) := by
  unfold privLeave
  refine HomeOnly.trans ((privDrop_only ..).trans (loseReservation_only ..)) (ite (ite (dramLineWrite_only ..) rfl) ?_)
  split
  · exact (wbufDrop_only ..).trans ((onCoh ..).trans (homeNotice_only ..))
  · exact rfl
  · exact homeNotice_only ..

theorem privFill_only (p : PrivLine) (s : State) : HomeOnly s (privFill p s) := by
  unfold privFill
  split
  · exact privSet_only ..
  · split
    · exact (privLeave_only ..).trans (privSet_only ..)
    · exact (privSet_only ..).trans (privLeave_only ..)

theorem requesterReceive_only (t : Txn) (s : State) : HomeOnly s (requesterReceive t s) := by
  have take : ∀ p : PrivLine, HomeOnly s (if dirShows s t.agent t.line then privFill p s else s) := fun _ => ite (privFill_only ..) rfl
  have ack : ∀ u : State, HomeOnly u (match t.req with
      | .lock _ => u
      | _ => fromAgent t.agent t.line 5 false u) := by
    intro u
    split
    · exact rfl
    · exact fromAgent_only ..
  simp only [requesterReceive]
  refine HomeOnly.trans (HomeOnly.trans ?_ (ack _)) (txnSet_only ..)
  split
  · split
    · exact take _
    · exact rfl
  · exact take _
  · split
    · exact privSet_only ..
    · exact ite (privFill_only ..) rfl
  · exact rfl

theorem answerSnoops_only (line : Nat) (s : State) : HomeOnly s (answerSnoops line s) := foldl (fun s n => snoopAnswer_only n s) _ _
theorem takeResponses_only (line : Nat) (s : State) : HomeOnly s (takeResponses line s) := foldl (fun s r => homeResponse_only r s) _ _

theorem drainLine_only (line : Nat) (s : State) : HomeOnly s (drainLine line s) := by
  unfold drainLine
  split
  · exact rfl
  · dsimp only
    split
    · exact (answerSnoops_only line s).trans ((takeResponses_only line _).trans ((requesterReceive_only ..).trans (txnDrop_only ..)))
    · exact (answerSnoops_only line s).trans (takeResponses_only line _)

/-! ### Loans -/

theorem foldl_onCoh {β : Type} {f : State → β → State} (h : ∀ s b, HomeOnly s (f s b)) (l : List β) (k : Coh → Coh) (s : State) :
    HomeOnly s ((l.foldl f s).onCoh k) := (foldl h l s).trans (onCoh ..)

theorem loanEnd_only (g : Nat) (s : State) : HomeOnly s (loanEnd g s) :=
  foldl_onCoh (fun s l => (drainLine_only l s).trans (homeClean_only l _)) (granuleLines g) (fun c => { c with loans := without c.loans g }) s

theorem roomForLoan_only (d : Nat) (s : State) : HomeOnly s (roomForLoan d s) := by
  unfold roomForLoan
  split
  · exact ite (loanEnd_only ..) rfl
  · exact rfl

theorem dieRecall_only (d line : Nat) (s : State) : HomeOnly s (dieRecall d line s) := by
  unfold dieRecall
  refine (drainLine_only line s).trans ?_
  generalize drainLine line s = s
  have rest (u : State) (e : Option DirEntry) : HomeOnly s u → HomeOnly s (match e with
      | some e => if e.doms.isEmpty then
          dirSet { e with ids := e.ids.filter fun c => !(agentDie c == some d), fwd := e.fwd.filter fun c => !(agentDie c == some d) } u else u
      | none => u) := by
    intro h
    cases e with
    | none => exact h
    | some e => exact ite (h.trans (dirSet_only ..)) h
  dsimp only
  rcases dirtyCopy s line with _ | p
  · exact rest _ _ (onCoh ..)
  · exact rest _ _ ((ite (scTake_only ..) rfl : HomeOnly s (if agentDie p.cache == some d then
      scTake line p.data p.poison0 p.poison1 s else s)).trans (onCoh ..))

theorem recalled_only (d l : Nat) (s : State) : HomeOnly s (if homeHeld s l then dieRecall d l s else dieClean l s) :=
  ite (dieRecall_only ..) (dieClean_only ..)

theorem lent_only (d g : Nat) (l : List Nat) (i : Nat) (u : State) :
    HomeOnly u (((l.foldl (fun s l => if homeHeld s l then dieRecall d l s else dieClean l s) u).onCoh
      fun c => { c with loans := c.loans ++ [g] }).onSlice i fun c => { c with loans := advance c.loans 1 }) :=
  HomeOnly.trans (foldl_onCoh (fun s l => recalled_only d l s) l _ u) (onSlice ..)

theorem lend_only (d line : Nat) (s : State) : HomeOnly s (lend d line s) := by
  rw [lend]
  exact ((switchIn_only 8 d 2 _ false s).trans (switchIn_only d 8 3 _ false _)).trans
    (lent_only d (granuleOf line) (granuleLines (granuleOf line)) (sliceOf line) _)

theorem loanFor_only (agent line : Nat) (s : State) : HomeOnly s (loanFor agent line s) := by
  unfold loanFor
  generalize dieLocal s (line * 128) = o
  cases o with
  | none => exact rfl
  | some d => exact ite rfl (ite (ite rfl (dieClean_only ..)) ((roomForLoan_only d s).trans (lend_only ..)))

/-! ### Requests -/

theorem homeAccept_only (req : HomeReq) (agent line : Nat) (ep : Bool) (s : State) : HomeOnly s (homeAccept req agent line ep s) := by
  unfold homeAccept
  split
  · exact homeWb_only ..
  · exact homeEv_only ..
  · extract_lets req s1 snoops t s2 s3 s4
    have h1 : HomeOnly s s1 := loanFor_only ..
    have h2 : HomeOnly s1 s2 := onCoh s1 _
    have h3 : HomeOnly s2 s3 := onSlice s2 _ _
    have h4 : HomeOnly s3 s4 := foldl (f := fun s (p : Nat × SnoopKind) => toAgent p.1 line 2 false s) (fun s p => toAgent_only p.1 line 2 false s) snoops s3
    clear_value s4
    have h : HomeOnly s s4 := HomeOnly.trans h1 (HomeOnly.trans h2 (HomeOnly.trans h3 h4))
    exact ite (h.trans (homeFinish_only t s4)) h

theorem unblock_only : ∀ (n : Nat) (s : State), HomeOnly s (unblock n s)
  | 0, _ => rfl
  | n + 1, s => by
    unfold unblock
    split
    · exact rfl
    · exact (onCoh ..).trans ((homeAccept_only ..).trans (unblock_only n _))

theorem homeRequest_only (req : HomeReq) (agent line : Nat) (s : State) : HomeOnly s (homeRequest req agent line s) := by
  unfold homeRequest
  refine (sendRequest_only req agent line s).trans ?_
  generalize sendRequest req agent line s = s
  have c : HomeOnly s (if (txnOf s line).isSome then
      s.onSlice (sliceOf line) fun c => { c with blocked := advance c.blocked 1 } else s) := ite (onSlice ..) rfl
  exact c.trans (ite (onCoh ..) ((homeAccept_only ..).trans (unblock_only ..)))

theorem homeAck_only (line : Nat) (s : State) : HomeOnly s (homeAck line s) := (txnDrop_only ..).trans (unblock_only ..)

theorem endTxn_only (line : Nat) (s : State) : HomeOnly s (endTxn line s) := by
  unfold endTxn
  refine (answerSnoops_only line s).trans ((takeResponses_only line _).trans ?_)
  dsimp only
  split
  · exact (requesterReceive_only ..).trans (homeAck_only ..)
  · exact rfl

theorem endOldest_only (slice : Nat) (s : State) : HomeOnly s (endOldest slice s) := by
  unfold endOldest
  split
  · exact endTxn_only ..
  · exact unblock_only ..

theorem settle_only (line : Nat) : ∀ (n : Nat) (s : State), HomeOnly s (settle line n s)
  | 0, _ => rfl
  | n + 1, _ => ite ((endTxn_only ..).trans (settle_only line n _)) (ite ((endOldest_only ..).trans (settle_only line n _)) rfl)

theorem settleAll_only (line : Nat) (s : State) : HomeOnly s (settleAll line s) := settle_only ..

theorem makeRoom_only (slice : Nat) : ∀ (n : Nat) (s : State), HomeOnly s (makeRoom slice n s)
  | 0, _ => rfl
  | n + 1, _ => ite rfl ((endOldest_only ..).trans (makeRoom_only slice n _))

theorem homeWait_only (line : Nat) (s : State) : HomeOnly s (homeWait line s) := by
  unfold homeWait
  exact ite ((onSlice ..).trans (settleAll_only ..)) (ite (settleAll_only ..) rfl)

theorem homeRoom_only (line : Nat) (s : State) : HomeOnly s (homeRoom line s) := makeRoom_only ..

/-- A transaction run whole changes the coherence state and the pool's contents alone. -/
theorem homeRun_only (req : HomeReq) (agent line : Nat) (ep : Bool) (s : State) : HomeOnly s (homeRun req agent line ep s) :=
  (sendRequest_only req agent line s).trans ((homeWait_only line _).trans ((homeRoom_only line _).trans
    ((homeAccept_only ..).trans (endTxn_only ..))))

/-! ### Lines and ranges -/

theorem dramPatch_only (line off : Nat) (bytes : List Byte) (ep : Bool) (s : State) : HomeOnly s (dramPatch line off bytes ep s) := by
  unfold dramPatch
  exact ite ((ite (dramWrite_only ..) rfl).trans (dramWrite_only ..)) (ite (dramWrite_only ..) rfl)

theorem dieShare_only (line : Nat) (s : State) : HomeOnly s (dieShare line s) := by
  unfold dieShare
  refine HomeOnly.trans ?_ (onCoh ..)
  split
  · exact (dramWrite_only ..).trans (dramWrite_only ..)
  · exact rfl

theorem fetchLine_only (k : Keep) (agent line off n : Nat) (s : State) : HomeOnly s (fetchLine k agent line off n s) := by
  unfold fetchLine
  split
  · exact HomeOnly.trans (ite rfl ((fromAgent_only ..).trans (toAgent_only ..))) (homeWait_only ..)
  · exact ite (dieShare_only ..) (homeRun_only ..)
  · exact ite rfl (ite ((dieShare_only ..).trans (privFill_only ..)) (homeRun_only ..))

theorem ownLine_only (agent line : Nat) (s : State) : HomeOnly s (ownLine agent line s) := by
  unfold ownLine
  split
  · split
    · exact rfl
    · exact privSet_only ..
    · exact ite ((onCoh ..).trans (privSet_only ..)) (homeRun_only ..)
  · exact ite ((dieClean_only ..).trans (privFill_only ..)) (homeRun_only ..)

theorem storeLine_only (k : Keep) (agent line off : Nat) (bytes : List Byte) (ep : Bool) (s : State) :
    HomeOnly s (storeLine k agent line off bytes ep s) := by
  unfold storeLine
  split
  · have sent : HomeOnly s (if direct s agent line then s else toAgent agent line 3 false (fromAgent agent line 4 true (fromAgent agent line 1 false s))) :=
      ite rfl ((fromAgent_only ..).trans ((fromAgent_only ..).trans (toAgent_only ..)))
    exact sent.trans (HomeOnly.trans (homeWait_only line _) ((ite (dieClean_only ..) (homeClean_only ..)).trans (dramPatch_only ..)))
  · exact ite ((dieClean_only ..).trans (dramPatch_only ..)) (homeRun_only ..)
  · refine (ownLine_only agent line s).trans ?_
    dsimp only
    split
    · exact privSet_only ..
    · exact homeRun_only ..

/-- As HomeOnly, with the hot-page counters beside. -/
structure PoolOnly (s t : State) : Prop where
  frame : { t with coh := s.coh, pool := { t.pool with mem := s.pool.mem, poison := s.pool.poison }, xlt := { t.xlt with hot := s.xlt.hot } } = s
  memOk : MemOk s → MemOk t

namespace PoolOnly

@[refl] theorem rfl {s : State} : PoolOnly s s := ⟨Eq.refl _, id⟩

theorem ofHome {s t : State} (h : HomeOnly s t) : PoolOnly s t := by
  refine ⟨?_, h.memOk⟩
  have h1 := h.frame
  cases s; cases t
  simp only [State.mk.injEq] at h1 ⊢
  obtain ⟨h1, h2, h3, h4, h5, h6, h7, h8, h9, h10, h11, h12, h13, h14, h15, h16, h17, h18, h19, h20, h21, h22, h23, h24⟩ := h1
  subst h12
  exact ⟨h1, h2, h3, h4, h5, h6, h7, h8, h9, h10, h11, Eq.refl _, h13, h14, h15, h16, h17, h18, h19, h20, h21, h22, h23, h24⟩

theorem trans {s t u : State} (h : PoolOnly s t) (k : PoolOnly t u) : PoolOnly s u := by
  refine ⟨?_, k.memOk ∘ h.memOk⟩
  have h1 := h.frame
  have k1 := k.frame
  cases s; cases t; cases u
  simp only [State.mk.injEq] at h1 k1 ⊢
  obtain ⟨h1, h2, h3, h4, h5, h6, h7, h8, h9, h10, h11, h12, h13, h14, h15, h16, h17, h18, h19, h20, h21, h22, h23, h24⟩ := h1
  obtain ⟨k1, k2, k3, k4, k5, k6, k7, k8, k9, k10, k11, k12, k13, k14, k15, k16, k17, k18, k19, k20, k21, k22, k23, k24⟩ := k1
  subst h1 h2 h3 h4 h5 h6 h7 h8 h9 h13 h14 h15 h16 h17 h18 h19 h20 h21 h22 h23 h24
  subst k1 k2 k3 k4 k5 k6 k7 k8 k9 k13 k14 k15 k16 k17 k18 k19 k20 k21 k22 k23 k24
  simp only [and_true, true_and]
  rw [← h10, ← k10, ← h12, ← k12]
  exact ⟨Eq.refl _, Eq.refl _⟩

end PoolOnly

theorem hotPool_only (pa n : Nat) (s : State) : PoolOnly s (hotPool pa n s) := by
  unfold hotPool hotBump
  split
  · exact ⟨Eq.refl _, id⟩
  · exact PoolOnly.rfl

theorem counted_only (c : Bool) (pa n : Nat) (s : State) : PoolOnly s (if c then s else hotPool pa n s) := by
  split
  · exact PoolOnly.rfl
  · exact hotPool_only ..

theorem writePool_only (k : Keep) (agent : Nat) :
    ∀ (l : List (Nat × Nat)) (bytes : List Byte) (ep : Bool) (s : State), PoolOnly s (writePool k agent l bytes ep s)
  | [], _, _, _ => PoolOnly.rfl
  | (_, _) :: l, _, _, _ =>
    (PoolOnly.ofHome (storeLine_only ..)).trans ((counted_only ..).trans (writePool_only k agent l _ _ _))

/-- A store to a range changes the coherence state, the pool's contents and the hot-page counters alone. -/
theorem storePool_only (k : Keep) (agent pa : Nat) (bytes : List Byte) (ep : Bool) (s : State) :
    PoolOnly s (storePool k agent pa bytes ep s) := writePool_only ..

/-- A read of a range changes the coherence state, the pool's contents and the hot-page counters alone. -/
theorem readPool_only (k : Keep) (agent pa n : Nat) (s : State) : PoolOnly s (readPool k agent pa n s).2 := by
  have go : ∀ (f : List (Byte × Bool) × State → Nat × Nat → List (Byte × Bool) × State),
      (∀ acc p, PoolOnly acc.2 (f acc p).2) → ∀ (l : List (Nat × Nat)) (acc : List (Byte × Bool) × State), PoolOnly acc.2 (l.foldl f acc).2 := by
    intro f hf l
    induction l with
    | nil => intro acc; exact PoolOnly.rfl
    | cons p l ih => intro acc; exact (hf acc p).trans (ih _)
  exact go _ (fun acc p => (PoolOnly.ofHome (fetchLine_only ..)).trans (counted_only ..)) (linePieces pa n) ([], s)

end Sys2Proof.Machine
end

