-- ==== Sys2Proof/Laws/Events.lean ====
section
/-! SUPPORT. What placing a record, a message and a posted write can do: they change the pool, the event ring, what waits on
the host link, and of the rings what is signalled, and keep the pool's memory in canonical form. -/

namespace Sys2Proof.Machine

open Safety

/-- The second state differs from the first in the coherence state, the pool's contents, the hot-page counters, the event ring,
what is issued to the host, with the account of the operations that issued it, and the rings' own counts alone. -/
structure EventOnly (s t : State) : Prop where
  frame : { t with
    coh := s.coh, pool := { t.pool with mem := s.pool.mem, poison := s.pool.poison }, xlt := { t.xlt with hot := s.xlt.hot }
    evt := s.evt, rings := s.rings
    link := { t.link with posted := s.link.posted, pba := s.link.pba, used := s.link.used, waits := s.link.waits, issuedHi := s.link.issuedHi } } = s
  memOk : MemOk s → MemOk t

namespace EventOnly

@[refl] theorem rfl {s : State} : EventOnly s s := ⟨Eq.refl _, id⟩

theorem ofPool {s t : State} (h : PoolOnly s t) : EventOnly s t := by
  refine ⟨?_, h.memOk⟩
  have h1 := h.frame
  cases s; cases t
  simp only [State.mk.injEq] at h1 ⊢
  obtain ⟨h1, h2, h3, h4, h5, h6, h7, h8, h9, h10, h11, h12, h13, h14, h15, h16, h17, h18, h19, h20, h21, h22, h23, h24⟩ := h1
  subst h7 h13 h14
  exact ⟨h1, h2, h3, h4, h5, h6, Eq.refl _, h8, h9, h10, h11, h12, trivial, trivial, h15, h16, h17, h18, h19, h20, h21, h22, h23, h24⟩

theorem trans {s t u : State} (h : EventOnly s t) (k : EventOnly t u) : EventOnly s u := by
  refine ⟨?_, k.memOk ∘ h.memOk⟩
  have h1 := h.frame
  have k1 := k.frame
  cases s; cases t; cases u
  simp only [State.mk.injEq] at h1 k1 ⊢
  obtain ⟨h1, h2, h3, h4, h5, h6, h7, h8, h9, h10, h11, h12, h13, h14, h15, h16, h17, h18, h19, h20, h21, h22, h23, h24⟩ := h1
  obtain ⟨k1, k2, k3, k4, k5, k6, k7, k8, k9, k10, k11, k12, k13, k14, k15, k16, k17, k18, k19, k20, k21, k22, k23, k24⟩ := k1
  subst h1 h2 h3 h4 h5 h6 h8 h9 h15 h16 h17 h18 h19 h20 h21 h22 h23 h24
  subst k1 k2 k3 k4 k5 k6 k8 k9 k15 k16 k17 k18 k19 k20 k21 k22 k23 k24
  simp only [and_true, true_and]
  rw [← h7, ← k7, ← h10, ← k10, ← h12, ← k12]
  exact ⟨Eq.refl _, Eq.refl _, Eq.refl _⟩

theorem ite {s t u : State} {c : Prop} [Decidable c] (h : EventOnly s t) (k : EventOnly s u) :
    EventOnly s (if c then t else u) := by
  split
  · exact h
  · exact k

theorem foldl {β : Type} {f : State → β → State} (h : ∀ s b, EventOnly s (f s b)) :
    ∀ (l : List β) (s : State), EventOnly s (l.foldl f s)
  | [], _ => rfl
  | b :: l, s => (h s b).trans (foldl h l _)

theorem onRing (s : State) (n : Nat) (f : Ring → Ring) : EventOnly s (s.onRing n f) := ⟨Eq.refl _, id⟩
theorem onEvt (s : State) (f : EventRing → EventRing) : EventOnly s (s.onEvt f) := ⟨Eq.refl _, id⟩
theorem posts (s : State) (p : List Posted) : EventOnly s (s.onLink fun l => { l with posted := l.posted ++ p }) := ⟨Eq.refl _, id⟩
theorem counts (s : State) (f : Xlt → Sparse HotCtr) : EventOnly s (s.onXlt fun x => { x with hot := f x }) := ⟨Eq.refl _, id⟩

end EventOnly

open EventOnly

theorem markHost_only (o : Owner) (s : State) : EventOnly s (markHost o s) := by
  unfold markHost
  split
  · exact ⟨Eq.refl _, id⟩
  · exact rfl

theorem noteIssued_only (o : Owner) (hi : Nat) (s : State) : EventOnly s (noteIssued o hi s) := by
  unfold noteIssued
  split
  · exact ⟨Eq.refl _, id⟩
  · exact rfl

theorem hotNote_only (k : Nat) (s : State) : EventOnly s (hotNote k s) := by
  unfold hotNote
  split
  · exact rfl
  · exact ite (ite ⟨Eq.refl _, id⟩ ⟨Eq.refl _, id⟩) rfl

theorem hotHost_only (hio n : Nat) (s : State) : EventOnly s (hotHost hio n s) :=
  EventOnly.trans (t := hotBump (hostBase + hio) 1 (sectorsOf hio n) s) ⟨Eq.refl _, id⟩ (hotNote_only ..)

theorem postWrite_only (o : Owner) (hio : Nat) (b : List Byte) (ep : Bool) (s : State) : EventOnly s (postWrite o hio b ep s) := by
  unfold postWrite
  exact EventOnly.trans (EventOnly.trans (EventOnly.trans (markHost_only ..) (hotHost_only ..)) (noteIssued_only ..)) (posts _ _)

theorem sendVector_only (v : Nat) (s : State) : EventOnly s (sendVector v s) := by
  unfold sendVector
  exact ite ⟨Eq.refl _, id⟩ (postWrite_only ..)

theorem signalRing_only (n : Nat) (s : State) : EventOnly s (signalRing n s) := by
  unfold signalRing
  exact ite (EventOnly.trans (onRing ..) (sendVector_only ..)) rfl

theorem signalEvents_only (s : State) : EventOnly s (signalEvents s) := by
  unfold signalEvents
  exact ite (EventOnly.trans (onEvt ..) (sendVector_only ..)) rfl

theorem evtWrite_only (o : Onion) (s : State) : EventOnly s (evtWrite o s) := by
  have put : ∀ (a : Nat) (b : List Byte) (c : Bool), EventOnly s (if c then postWrite .event a b false s
      else
        let s := storePool .once agentHub a b false s
        if inTier2 a then hotNote (hotKey s a) s else s) :=
    fun a b c => ite (postWrite_only ..) (EventOnly.trans (ofPool (storePool_only ..)) (ite (hotNote_only ..) rfl))
  unfold evtWrite
  dsimp only
  exact ite (EventOnly.trans (EventOnly.trans (put _ _ _) (onEvt ..)) (signalEvents_only _)) (EventOnly.trans (put _ _ _) (onEvt ..))

theorem evtFlush_only : ∀ (f : Nat) (s : State), EventOnly s (evtFlush f s)
  | 0, _ => rfl
  | f + 1, s => by
    unfold evtFlush
    refine ite rfl (ite ?_ ?_)
    · exact EventOnly.trans (onEvt ..) (EventOnly.trans (evtWrite_only ..) (evtFlush_only f _))
    · split
      · exact rfl
      · exact EventOnly.trans (onEvt ..) (EventOnly.trans (evtWrite_only ..) (evtFlush_only f _))

theorem evtPump_only (s : State) : EventOnly s (evtPump s) := evtFlush_only ..

theorem placeOnion_only (o : Onion) (s : State) : EventOnly s (placeOnion o s) := by
  unfold placeOnion
  split
  · exact onEvt ..
  · refine EventOnly.trans ?_ (evtPump_only _)
    exact onEvt _ _

/-- Placing a record changes what records change alone. -/
theorem event_only (cls reason addr param : Nat) (s : State) : EventOnly s (event cls reason addr param s) := placeOnion_only ..
theorem eventDie_only (cls reason addr param die domain : Nat) (s : State) :
    EventOnly s (eventDie cls reason addr param die domain s) := placeOnion_only ..
theorem eventUnit_only (cls reason addr param die domain kind unit detail count : Nat) (s : State) :
    EventOnly s (eventUnit cls reason addr param die domain kind unit detail count s) := placeOnion_only ..

theorem resignal_only (s : State) : EventOnly s (resignal s) := by
  unfold resignal
  have all := foldl (f := fun (s : State) (r : Nat × Ring) => signalRing r.1 s) (fun s r => signalRing_only r.1 s)
    (evtPump s).rings (evtPump s)
  split
  · exact EventOnly.trans (EventOnly.trans (evtPump_only s) all) (signalEvents_only _)
  · exact rfl

theorem hotPump_only (s : State) : EventOnly s (hotPump s) := by
  unfold hotPump
  exact ite rfl (evtPump_only _)

theorem hotCheckAt_only (k : Nat) (s : State) : EventOnly s (hotCheckAt k s) := EventOnly.trans (hotNote_only k s) (hotPump_only _)

theorem hotCheck_only (s : State) : EventOnly s (hotCheck s) :=
  foldl (f := fun (s : State) (p : Nat × HotCtr) => hotCheckAt p.1 s) (fun s p => hotCheckAt_only p.1 s) s.xlt.hot s

theorem hotAfter_only (pa : Nat) (s : State) : EventOnly s (hotAfter pa s) := by
  unfold hotAfter
  exact ite (hotCheckAt_only ..) rfl

/-- A read of the pool for an agent changes what reads and records change alone. -/
theorem poolRead_only (k : Keep) (agent pa n : Nat) (s : State) : EventOnly s (poolRead k agent pa n s).2 := by
  unfold poolRead
  exact EventOnly.trans (ofPool (readPool_only k agent pa n s)) (EventOnly.trans (hotAfter_only ..) (hotAfter_only ..))

/-- A store to the pool for an agent changes what stores and records change alone. -/
theorem poolWrite_only (k : Keep) (agent pa : Nat) (bytes : List Byte) (ep : Bool) (s : State) :
    EventOnly s (poolWrite k agent pa bytes ep s) := by
  unfold poolWrite
  exact EventOnly.trans (ofPool (storePool_only ..)) (EventOnly.trans (hotAfter_only ..) (hotAfter_only ..))

theorem poolAtom_only (k : Keep) (agent pa : Nat) (r : AtomReq) (s : State) : EventOnly s (poolAtom k agent pa r s).2 := by
  unfold poolAtom
  dsimp only
  refine EventOnly.trans (ofPool (PoolOnly.ofHome (homeWait_only (pa / 128) s))) ?_
  refine EventOnly.trans ?_ (EventOnly.trans (ofPool (hotPool_only pa r.size _)) (hotAfter_only pa _))
  split
  · exact ofPool (PoolOnly.ofHome (storeLine_only ..))
  · exact ofPool (PoolOnly.ofHome (homeRun_only ..))

end Sys2Proof.Machine
end

