-- ==== Sys2Proof/Laws/Issue.lean ====
section
/-! SUPPORT. The issue of an engine instruction: under the conditions of `AtIssue` it is the run of the instruction on the
state after the fetch; and what the end of an issue leaves. -/

namespace Sys2Proof.Machine

open Safety

theorem movePath_ready (path : Path) (rest : List Path) (h : path.st = .ready) :
    movePath isReady false (path :: rest) = (path :: rest, 0) := by
  simp [movePath, isReady, h]

/-- An instruction that is about to issue runs on the state after its fetch. -/
theorem issue_of_atIssue {s s1 : State} {e slot : Nat} {g : Group} {path : Path} {rest : List Path} {prog : ProgramRun}
    {w op : Nat} (run : Cur → State → State) (h : AtIssue s s1 e slot g path rest prog w) (hop : wOp w = op) :
    issue op e slot run s = run ⟨e, slot, g, path, rest, prog, w⟩ s1 := by
  have lawful := h.lawful
  have second := h.second
  obtain ⟨⟨here, program, running, awake, paths, ready, -, turn, marks⟩, ⟨b, hb, clean, hw⟩, fetched, -, -⟩ := h
  have hany : (path :: rest).any isReady = true := by simp [isReady, ready]
  unfold issue
  simp only [here, program, paths, movePath_ready _ _ ready, hany, if_true, running, awake, ready, turn]
  unfold fetchAt at hb fetched
  generalize hv : vaRead (engineKeep s e) e (laneOwner e slot (lowest path)) .fetch path.pc 8 s = v at hb fetched
  obtain ⟨got, s2⟩ := v
  simp only at hb fetched
  subst hb fetched
  have unmarked : readsBad { g with paths := path :: rest, issues := g.issues } path w = false := by
    simp [readsBad, marks]
  simp only [clean, hw, hop, lawful, second]
  cases g
  simp_all

theorem setSlot_find (e slot : Nat) (g : Group) (s : State) : tfind ((setSlot e slot g s).engine e).slots slot = some g := by
  simp [setSlot, tfind_tins_same]

/-- A group that has paths left is put back in its slot, and the engines alone have changed. -/
theorem putGroup_find (e slot : Nat) (g : Group) (s : State) (h : g.paths ≠ []) : putGroup e slot g s = setSlot e slot g s := by
  unfold putGroup
  cases hp : g.paths with
  | nil => exact absurd hp h
  | cons _ _ => simp

theorem setSlot_engines (e slot : Nat) (g : Group) (s : State) : EnginesOnly s (setSlot e slot g s) := rfl
theorem countSlots_engines (c : Cur) (s : State) : EnginesOnly s (countSlots c s) := rfl

end Sys2Proof.Machine
end

