-- ==== Sys2Proof/Laws/PerInstr.lean ====
section
/-! SUPPORT. Per command: the table gives no row bits, so no word spells the command. -/

namespace Sys2Proof.Laws.NoWord

/-- No word decodes to the command. -/
def Statement (i : Instr) : Prop := ∀ nbits w, decodeTableWord nbits w ≠ some i

theorem never (i : Instr) : Statement i := fun _ _ h => nomatch h

theorem powerOn (lid : BitVec 3) (rolePins : BitVec 2) (addrSel : BitVec 3) (slotId : BitVec 6) : Statement (.powerOn lid rolePins addrSel slotId) := never _
theorem deviceReady (memTrained : Bool) : Statement (.deviceReady memTrained) := never _
theorem powerLoss : Statement (.powerLoss) := never _
theorem perstAssert : Statement (.perstAssert) := never _
theorem perstDeassert : Statement (.perstDeassert) := never _
theorem hotReset : Statement (.hotReset) := never _
theorem flr : Statement (.flr) := never _
theorem linkLoss : Statement (.linkLoss) := never _
theorem retrain (speed width : BitVec 4) : Statement (.retrain speed width) := never _
theorem freezeComplete : Statement (.freezeComplete) := never _
theorem pickleDescend : Statement (.pickleDescend) := never _
theorem pickleResume (ring : Nat) : Statement (.pickleResume ring) := never _
theorem pickleDiscard (ring : Nat) : Statement (.pickleDiscard ring) := never _
theorem scrubFillDone : Statement (.scrubFillDone) := never _
theorem configWrite (w : CfgWrite) : Statement (.configWrite w) := never _
theorem bmeWaitExpire : Statement (.bmeWaitExpire) := never _
theorem hostReadCompletion (tag : Nat) (reply : ReadReply) : Statement (.hostReadCompletion tag reply) := never _
theorem completionTimeout (tag : Nat) : Statement (.completionTimeout tag) := never _
theorem postedWriteAck : Statement (.postedWriteAck) := never _
theorem hostAtomicopReceive (bar : Nat) : Statement (.hostAtomicopReceive bar) := never _
theorem inboundMsiWrite (addr : Nat) (data : BitVec 32) : Statement (.inboundMsiWrite addr data) := never _
theorem inboundDownstreamRequest (req : DownReq) : Statement (.inboundDownstreamRequest req) := never _
theorem bar2Read (v len : Nat) : Statement (.bar2Read v len) := never _
theorem bar2Write (v : Nat) (data : List Byte) (ep : Bool) : Statement (.bar2Write v data ep) := never _
theorem registerWrite (src : Port) (offset size : Nat) (val : Word) : Statement (.registerWrite src offset size val) := never _
theorem setupCommit (val : Word) : Statement (.setupCommit val) := never _
theorem srIndexWrite (ch : Port) (part : Part) (val : Word) : Statement (.srIndexWrite ch part val) := never _
theorem srSnapshotDone (ch : Port) : Statement (.srSnapshotDone ch) := never _
theorem ringCfgWrite (ring : Nat) (part : Part) (val : Word) : Statement (.ringCfgWrite ring part val) := never _
theorem eventRingCfgWrite (part : Part) (val : Word) : Statement (.eventRingCfgWrite part val) := never _
theorem ringDb (ring : Nat) (part : Part) (val : Word) : Statement (.ringDb ring part val) := never _
theorem abort (ring : Nat) : Statement (.abort ring) := never _
theorem restartNext (ring : Nat) : Statement (.restartNext ring) := never _
theorem restartSame (ring : Nat) : Statement (.restartSame ring) := never _
theorem clrErr (ring : Nat) : Statement (.clrErr ring) := never _
theorem descReadReturn (ring : Nat) : Statement (.descReadReturn ring) := never _
theorem descReread (ring : Nat) : Statement (.descReread ring) := never _
theorem descNop (ring : Nat) : Statement (.descNop ring) := never _
theorem chain (ring : Nat) : Statement (.chain ring) := never _
theorem transform (ring : Nat) : Statement (.transform ring) := never _
theorem program (ring : Nat) : Statement (.program ring) := never _
theorem maintClean (ring : Nat) : Statement (.maintClean ring) := never _
theorem maintInvalidate (ring : Nat) : Statement (.maintInvalidate ring) := never _
theorem maintCleanInvalidate (ring : Nat) : Statement (.maintCleanInvalidate ring) := never _
theorem invalidateRange (ring : Nat) : Statement (.invalidateRange ring) := never _
theorem invalidateAll (ring : Nat) : Statement (.invalidateAll ring) := never _
theorem setRoot (ring : Nat) : Statement (.setRoot ring) := never _
theorem hold (ring : Nat) : Statement (.hold ring) := never _
theorem release (ring : Nat) : Statement (.release ring) := never _
theorem xltOpDrained (ring : Nat) : Statement (.xltOpDrained ring) := never _
theorem holdLimitExpire (start : Nat) : Statement (.holdLimitExpire start) := never _
theorem fabricPut (ring : Nat) : Statement (.fabricPut ring) := never _
theorem fabricGet (ring : Nat) : Statement (.fabricGet ring) := never _
theorem deliver (ring : Nat) : Statement (.deliver ring) := never _
theorem fabricAtomic (ring : Nat) : Statement (.fabricAtomic ring) := never _
theorem fabricFence (ring : Nat) : Statement (.fabricFence ring) := never _
theorem routeLoad (ring : Nat) : Statement (.routeLoad ring) := never _
theorem flagSend (ring : Nat) : Statement (.flagSend ring) := never _
theorem push (ring : Nat) : Statement (.push ring) := never _
theorem census (ring : Nat) : Statement (.census ring) := never _
theorem powerHint (ring : Nat) : Statement (.powerHint ring) := never _
theorem test (ring : Nat) : Statement (.test ring) := never _
theorem descWait (ring : Nat) : Statement (.descWait ring) := never _
theorem ringWaitSatisfied (ring : Nat) : Statement (.ringWaitSatisfied ring) := never _
theorem waitExpired (ring : Nat) : Statement (.waitExpired ring) := never _
theorem operationAdmit (ring : Nat) : Statement (.operationAdmit ring) := never _
theorem operationComplete (ring : Nat) : Statement (.operationComplete ring) := never _
theorem msixModerationExpire (ring : Option Nat) : Statement (.msixModerationExpire ring) := never _
theorem arrayBeat (array : Nat) : Statement (.arrayBeat array) := never _
theorem passStart (array : Nat) : Statement (.passStart array) := never _
theorem passEnd (array : Nat) : Statement (.passEnd array) := never _
theorem sliceArrive (array : Nat) (operandB : Bool) (bytes : Nat) : Statement (.sliceArrive array operandB bytes) := never _
theorem arrivalTimeout (array : Nat) : Statement (.arrivalTimeout array) := never _
theorem tileDrain (array : Nat) : Statement (.tileDrain array) := never _
theorem tileCommit (ring : Nat) : Statement (.tileCommit ring) := never _
theorem bandFinish (ring rowGroup : Nat) : Statement (.bandFinish ring rowGroup) := never _
theorem partialChunkReceive (ring sender : Nat) (chunk : List Byte) : Statement (.partialChunkReceive ring sender chunk) := never _
theorem wTreeReceive (ring position : Nat) (tile : Nat) (values : List (BitVec 80)) : Statement (.wTreeReceive ring position tile values) := never _
theorem transformTurn (ring : Nat) : Statement (.transformTurn ring) := never _
theorem nop (engine group : Nat) : Statement (.nop engine group) := never _
theorem iadd (engine group : Nat) : Statement (.iadd engine group) := never _
theorem isub (engine group : Nat) : Statement (.isub engine group) := never _
theorem imul (engine group : Nat) : Statement (.imul engine group) := never _
theorem imulh (engine group : Nat) : Statement (.imulh engine group) := never _
theorem and (engine group : Nat) : Statement (.and engine group) := never _
theorem or (engine group : Nat) : Statement (.or engine group) := never _
theorem xor (engine group : Nat) : Statement (.xor engine group) := never _
theorem shl (engine group : Nat) : Statement (.shl engine group) := never _
theorem shr (engine group : Nat) : Statement (.shr engine group) := never _
theorem icmp (engine group : Nat) : Statement (.icmp engine group) := never _
theorem sel (engine group : Nat) : Statement (.sel engine group) := never _
theorem mov (engine group : Nat) : Statement (.mov engine group) := never _
theorem sreg (engine group : Nat) : Statement (.sreg engine group) := never _
theorem limm (engine group : Nat) : Statement (.limm engine group) := never _
theorem br (engine group : Nat) : Statement (.br engine group) := never _
theorem brz (engine group : Nat) : Statement (.brz engine group) := never _
theorem brnz (engine group : Nat) : Statement (.brnz engine group) := never _
theorem jmp (engine group : Nat) : Statement (.jmp engine group) := never _
theorem join (engine group : Nat) : Statement (.join engine group) := never _
theorem sleep (engine group : Nat) : Statement (.sleep engine group) := never _
theorem sleepExpire (engine group : Nat) : Statement (.sleepExpire engine group) := never _
theorem exit (engine group : Nat) : Statement (.exit engine group) := never _
theorem wrelu (engine group : Nat) : Statement (.wrelu engine group) := never _
theorem fadd (engine group : Nat) : Statement (.fadd engine group) := never _
theorem fsub (engine group : Nat) : Statement (.fsub engine group) := never _
theorem fmul (engine group : Nat) : Statement (.fmul engine group) := never _
theorem ffma (engine group : Nat) : Statement (.ffma engine group) := never _
theorem fmin (engine group : Nat) : Statement (.fmin engine group) := never _
theorem fmax (engine group : Nat) : Statement (.fmax engine group) := never _
theorem fcmp (engine group : Nat) : Statement (.fcmp engine group) := never _
theorem fdiv (engine group : Nat) : Statement (.fdiv engine group) := never _
theorem fsqrt (engine group : Nat) : Statement (.fsqrt engine group) := never _
theorem frcp (engine group : Nat) : Statement (.frcp engine group) := never _
theorem frsqrt (engine group : Nat) : Statement (.frsqrt engine group) := never _
theorem fexp2 (engine group : Nat) : Statement (.fexp2 engine group) := never _
theorem flog2 (engine group : Nat) : Statement (.flog2 engine group) := never _
theorem fsin (engine group : Nat) : Statement (.fsin engine group) := never _
theorem fcos (engine group : Nat) : Statement (.fcos engine group) := never _
theorem cvt (engine group : Nat) : Statement (.cvt engine group) := never _
theorem wadd (engine group : Nat) : Statement (.wadd engine group) := never _
theorem wmul (engine group : Nat) : Statement (.wmul engine group) := never _
theorem wfma (engine group : Nat) : Statement (.wfma engine group) := never _
theorem wmin (engine group : Nat) : Statement (.wmin engine group) := never _
theorem wmax (engine group : Nat) : Statement (.wmax engine group) := never _
theorem wcmp (engine group : Nat) : Statement (.wcmp engine group) := never _
theorem wclamp (engine group : Nat) : Statement (.wclamp engine group) := never _
theorem wcvtin (engine group : Nat) : Statement (.wcvtin engine group) := never _
theorem wcvtout (engine group : Nat) : Statement (.wcvtout engine group) := never _
theorem wround (engine group : Nat) : Statement (.wround engine group) := never _
theorem ld (engine group : Nat) : Statement (.ld engine group) := never _
theorem st (engine group : Nat) : Statement (.st engine group) := never _
theorem atom (engine group : Nat) : Statement (.atom engine group) := never _
theorem exactAdd (pa : Nat) (fp64 : Bool) (values : List Nat) : Statement (.exactAdd pa fp64 values) := never _
theorem exrd (engine group : Nat) : Statement (.exrd engine group) := never _
theorem copy (engine group : Nat) : Statement (.copy engine group) := never _
theorem tcopy (engine group : Nat) : Statement (.tcopy engine group) := never _
theorem tstore (engine group : Nat) : Statement (.tstore engine group) := never _
theorem copyDataArrive (engine copyId bytes : Nat) : Statement (.copyDataArrive engine copyId bytes) := never _
theorem rdcnt (engine group : Nat) : Statement (.rdcnt engine group) := never _
theorem setcnt (engine group : Nat) : Statement (.setcnt engine group) := never _
theorem wait (engine group : Nat) : Statement (.wait engine group) := never _
theorem waitSatisfied (engine group : Nat) : Statement (.waitSatisfied engine group) := never _
theorem waitTimeout (engine group : Nat) : Statement (.waitTimeout engine group) := never _
theorem fence (engine group : Nat) : Statement (.fence engine group) := never _
theorem groupStart (ring engine : Nat) : Statement (.groupStart ring engine) := never _
theorem recoveryModeExit (engine : Nat) : Statement (.recoveryModeExit engine) := never _
theorem engineCheckDone (engine : Nat) : Statement (.engineCheckDone engine) := never _
theorem rds (cache line : Nat) : Statement (.rds cache line) := never _
theorem rdu (cache line : Nat) : Statement (.rdu cache line) := never _
theorem upg (cache line : Nat) : Statement (.upg cache line) := never _
theorem rdonce (agent line : Nat) : Statement (.rdonce agent line) := never _
theorem wrline (agent addr : Nat) (data : List Byte) : Statement (.wrline agent addr data) := never _
theorem atomRequest (agent addr : Nat) (req : AtomReq) : Statement (.atomRequest agent addr req) := never _
theorem wb (cache line : Nat) : Statement (.wb cache line) := never _
theorem ev (cache line : Nat) : Statement (.ev cache line) := never _
theorem slotLock (slot line : Nat) : Statement (.slotLock slot line) := never _
theorem snoopReceive (cache line : Nat) : Statement (.snoopReceive cache line) := never _
theorem coherenceDataReceive (line : Nat) : Statement (.coherenceDataReceive line) := never _
theorem finalAckReceive (line : Nat) : Statement (.finalAckReceive line) := never _
theorem loanReturn (granule : Nat) : Statement (.loanReturn granule) := never _
theorem lrSnoopDelayExpire (core : Nat) : Statement (.lrSnoopDelayExpire core) := never _
theorem cboClean (core : Nat) (req : CboReq) : Statement (.cboClean core req) := never _
theorem cboFlush (core : Nat) (req : CboReq) : Statement (.cboFlush core req) := never _
theorem cboInval (core addr : Nat) (env : CoreEnv) : Statement (.cboInval core addr env) := never _
theorem cboZero (core : Nat) (req : CboReq) : Statement (.cboZero core req) := never _
theorem patrolScrub (sector wrong : Nat) : Statement (.patrolScrub sector wrong) := never _
theorem hotpageDecay : Statement (.hotpageDecay) := never _
theorem hotpageMuteExpire (region : Nat) : Statement (.hotpageMuteExpire region) := never _
theorem portPartnerDetect (port : Nat) : Statement (.portPartnerDetect port) := never _
theorem portTrainDone (port : Nat) (result : TrainResult) : Statement (.portTrainDone port result) := never _
theorem portDown (port : Nat) (cause : DownCause) : Statement (.portDown port cause) := never _
theorem fabPortEnWrite (part : Part) (val : Word) : Statement (.fabPortEnWrite part val) := never _
theorem frameReceive (port : Nat) (crcOk : Bool) (kind : FrameKind) : Statement (.frameReceive port crcOk kind) := never _
theorem packetForward (port : Nat) (pkt : Packet) : Statement (.packetForward port pkt) := never _
theorem fabricGetReceive (pkt : Packet) : Statement (.fabricGetReceive pkt) := never _
theorem fabricPutReceive (pkt : Packet) : Statement (.fabricPutReceive pkt) := never _
theorem fabricFlagReceive (pkt : Packet) : Statement (.fabricFlagReceive pkt) := never _
theorem fabricAtomicReceive (pkt : Packet) : Statement (.fabricAtomicReceive pkt) := never _
theorem deliveryReceive (pkt : Packet) : Statement (.deliveryReceive pkt) := never _
theorem receivedAck (src : AckSrc) (seq : Nat) : Statement (.receivedAck src seq) := never _
theorem performedAck (src : AckSrc) (seq : Nat) (data : List Byte) (poisoned : BitVec 4) : Statement (.performedAck src seq data poisoned) := never _
theorem negativeAckReceive (src : AckSrc) (seq reason : Nat) : Statement (.negativeAckReceive src seq reason) := never _
theorem gapNoticeSend (peer seq : Nat) : Statement (.gapNoticeSend peer seq) := never _
theorem gapNoticeReceive (src : AckSrc) (seq : Nat) : Statement (.gapNoticeReceive src seq) := never _
theorem rtoExpire (peer seq : Nat) : Statement (.rtoExpire peer seq) := never _
theorem e2eTimeout (peer : Nat) : Statement (.e2eTimeout peer) := never _
theorem busyNoticeReceive (src : AckSrc) (seq : Nat) : Statement (.busyNoticeReceive src seq) := never _
theorem busyResend (peer seq : Nat) : Statement (.busyResend peer seq) := never _
theorem fabWinWrite (window word : Nat) (part : Part) (val : Word) : Statement (.fabWinWrite window word part val) := never _
theorem winDrainDone : Statement (.winDrainDone) := never _
theorem fabRtDataWrite (part : Part) (val : Word) : Statement (.fabRtDataWrite part val) := never _
theorem routeCommit (part : Part) (val : Word) : Statement (.routeCommit part val) := never _
theorem routeHoldExpire : Statement (.routeHoldExpire) := never _
theorem dodgemCtlWrite (part : Part) (val : Word) : Statement (.dodgemCtlWrite part val) := never _
theorem dodgemReorderRelease : Statement (.dodgemReorderRelease) := never _
theorem flitReceive (port lane : Nat) (flit : Flit) : Statement (.flitReceive port lane flit) := never _
theorem nakReceive (port lane seq : Nat) : Statement (.nakReceive port lane seq) := never _
theorem wireRecentre (port group wire : Nat) : Statement (.wireRecentre port group wire) := never _
theorem wireRemap (port group : Nat) (toDie : Bool) : Statement (.wireRemap port group toDie) := never _
theorem laneRetire (port lane : Nat) (toDie : Bool) : Statement (.laneRetire port lane toDie) := never _
theorem discoveryFrame (port : Nat) (frame : Identity) : Statement (.discoveryFrame port frame) := never _
theorem powerSample (reading : PowerReading) : Statement (.powerSample reading) := never _
theorem powerStep : Statement (.powerStep) := never _
theorem domainIdleLower (domain : Nat) : Statement (.domainIdleLower domain) := never _
theorem creditUpdate (avgMw : Nat) : Statement (.creditUpdate avgMw) := never _
theorem thermalLimitStep (die : Nat) (junction : Int) : Statement (.thermalLimitStep die junction) := never _
theorem thermalTrip (die : Nat) (junction : Int) : Statement (.thermalTrip die junction) := never _
theorem thermalShutdown (die : Nat) (junction : Int) : Statement (.thermalShutdown die junction) := never _
theorem coldJunctionHold (die : Nat) (junction : Int) : Statement (.coldJunctionHold die junction) := never _
theorem lidRecheck (code : BitVec 3) : Statement (.lidRecheck code) := never _
theorem safetyNetAssert (regulator : Nat) : Statement (.safetyNetAssert regulator) := never _
theorem safetyNetRelease : Statement (.safetyNetRelease) := never _
theorem coolantLoss : Statement (.coolantLoss) := never _
theorem coolantLossEnd : Statement (.coolantLossEnd) := never _
theorem ageingCheck (unit : Nat) (short : Bool) : Statement (.ageingCheck unit short) := never _
theorem wearLedgerWrite : Statement (.wearLedgerWrite) := never _
theorem forecastPublish : Statement (.forecastPublish) := never _
theorem pwrFixedWrite (part : Part) (val : Word) : Statement (.pwrFixedWrite part val) := never _
theorem rung1Enter : Statement (.rung1Enter) := never _
theorem rung2Enter : Statement (.rung2Enter) := never _
theorem rung3Enter : Statement (.rung3Enter) := never _
theorem rungWake (wake : Wake) : Statement (.rungWake wake) := never _
theorem enterRung4 : Statement (.enterRung4) := never _
theorem enterRung5 : Statement (.enterRung5) := never _
theorem memInitDone : Statement (.memInitDone) := never _
theorem correctedError (ev : ErrEvent) : Statement (.correctedError ev) := never _
theorem pairSubstitute (die unit : Nat) : Statement (.pairSubstitute die unit) := never _
theorem retirePendingDone (die unit : Nat) : Statement (.retirePendingDone die unit) := never _
theorem retire (kind die unit : Nat) : Statement (.retire kind die unit) := never _
theorem restore (kind die unit : Nat) : Statement (.restore kind die unit) := never _
theorem clearPages : Statement (.clearPages) := never _
theorem repCmdDone (passed : Bool) : Statement (.repCmdDone passed) := never _
theorem sideshowBegin (ring : Nat) : Statement (.sideshowBegin ring) := never _
theorem sideshowEnd (ring : Nat) (result : SideResult) : Statement (.sideshowEnd ring result) := never _
theorem controllerWatchdog (controller : Nat) : Statement (.controllerWatchdog controller) := never _
theorem svnCommit : Statement (.svnCommit) := never _
theorem imageTransferDone (image : Image) : Statement (.imageTransferDone image) := never _
theorem activateFirmware : Statement (.activateFirmware) := never _
theorem getVersion : Statement (.getVersion) := never _
theorem getCapabilities : Statement (.getCapabilities) := never _
theorem negotiateAlgorithms (asym hash : Nat) : Statement (.negotiateAlgorithms asym hash) := never _
theorem getDigests : Statement (.getDigests) := never _
theorem getCertificate (slot offset length : Nat) : Statement (.getCertificate slot offset length) := never _
theorem challenge (slot nonce : Nat) : Statement (.challenge slot nonce) := never _
theorem getMeasurements (index : Nat) (sign : Bool) : Statement (.getMeasurements index sign) := never _
theorem spdmUnsupportedRequest (code : BitVec 8) : Statement (.spdmUnsupportedRequest code) := never _
theorem sensorRead (id : Nat) : Statement (.sensorRead id) := never _
theorem coolantEffecter (state : Nat) : Statement (.coolantEffecter state) := never _
theorem inletEffecter (value : Nat) : Statement (.inletEffecter value) := never _
theorem powerCapEffecter (watts : Nat) : Statement (.powerCapEffecter watts) := never _
theorem rungRequestEffecter (state : Nat) : Statement (.rungRequestEffecter state) := never _
theorem pcieRoleEffecter (role : Nat) : Statement (.pcieRoleEffecter role) := never _
theorem linkUp (speed width : BitVec 4) (flit : Bool) : Statement (.linkUp speed width flit) := never _
theorem msixTableWrite (offset size : Nat) (val : Word) : Statement (.msixTableWrite offset size val) := never _
theorem rootPortErrorReceive (port : Nat) (status : BitVec 32) : Statement (.rootPortErrorReceive port status) := never _
theorem bar0Read (src : Port) (offset size : Nat) : Statement (.bar0Read src offset size) := never _
theorem eventRingHeadWrite (part : Part) (val : Word) : Statement (.eventRingHeadWrite part val) := never _
theorem setupCommitDone : Statement (.setupCommitDone) := never _
theorem thermalTripClear (die : Nat) (junction : Int) : Statement (.thermalTripClear die junction) := never _
theorem coldJunctionEnd (die : Nat) (junction : Int) : Statement (.coldJunctionEnd die junction) := never _
theorem snoopResponseReceive (line cache : Nat) : Statement (.snoopResponseReceive line cache) := never _
theorem wbAckReceive (cache line : Nat) : Statement (.wbAckReceive cache line) := never _
theorem memoryReadReturn (sector wrong : Nat) : Statement (.memoryReadReturn sector wrong) := never _
theorem pageWalkDone (agent va : Nat) (access : Access) (began : BitVec 32) : Statement (.pageWalkDone agent va access began) := never _
theorem coreSubstitute (core : Nat) : Statement (.coreSubstitute core) := never _
theorem firmwareHandoverDone : Statement (.firmwareHandoverDone) := never _
theorem controllerRestartDone (controller : Nat) : Statement (.controllerRestartDone controller) := never _
theorem mctpControlRequest (binding : Binding) (req : MctpControl) : Statement (.mctpControlRequest binding req) := never _
theorem e2eHandshake (shake : Handshake) : Statement (.e2eHandshake shake) := never _
theorem coreLoad (core pa : Nat) (acc : CoreAcc) : Statement (.coreLoad core pa acc) := never _
theorem coreStore (core pa : Nat) (acc : CoreAcc) (val : Nat) : Statement (.coreStore core pa acc val) := never _
theorem coreAmo (core pa : Nat) (req : CoreAmoReq) : Statement (.coreAmo core pa req) := never _
theorem coreLr (core pa : Nat) (acc : CoreAcc) : Statement (.coreLr core pa acc) := never _
theorem coreSc (core pa : Nat) (acc : CoreAcc) (val : Nat) : Statement (.coreSc core pa acc val) := never _
theorem coreFence (core : Nat) (sets : FenceSets) : Statement (.coreFence core sets) := never _
theorem coreWfi (core : Nat) : Statement (.coreWfi core) := never _

end Sys2Proof.Laws.NoWord
end

