-- ==== Sys2Proof/Laws/Read.lean ====
section
/-! SUPPORT. What reading at a virtual address can do: a read translates, asks the host or a peer and takes what has come, and
leaves the arrays, the engines, the transform engines and the waiting commands as they were. -/

namespace Sys2Proof.Machine

/-- The units that run work, and the waiting commands. -/
def units (s : State) : Sparse Array × Sparse Engine × Sparse (Option Nat) × List Instr := (s.arrays, s.engines, s.transforms, s.pending)

/-- The second state has the units and the waiting commands of the first. -/
def UnitsKept (s t : State) : Prop := units t = units s

namespace UnitsKept

theorem same {s : State} : UnitsKept s s := rfl
theorem trans {s t u : State} (h : UnitsKept s t) (k : UnitsKept t u) : UnitsKept s u := Eq.trans k h

theorem arrays {s t : State} (h : UnitsKept s t) : t.arrays = s.arrays := congrArg (·.1) h
theorem engines {s t : State} (h : UnitsKept s t) : t.engines = s.engines := congrArg (·.2.1) h
theorem transforms {s t : State} (h : UnitsKept s t) : t.transforms = s.transforms := congrArg (·.2.2.1) h
theorem pending {s t : State} (h : UnitsKept s t) : t.pending = s.pending := congrArg (·.2.2.2) h

theorem ofEvent {s t : State} (h : EventOnly s t) : UnitsKept s t := by have f := congrArg units h.frame; exact f

theorem foldl {β : Type} {f : State → β → State} (h : ∀ s b, UnitsKept s (f s b)) :
    ∀ (l : List β) (s : State), UnitsKept s (l.foldl f s)
  | [], _ => rfl
  | b :: l, s => (h s b).trans (foldl h l (f s b))

end UnitsKept

open UnitsKept

/-! ### Translation -/

theorem l1Fill_kept (agent : Nat) (e : TlbEntry) (s : State) : UnitsKept s (l1Fill agent e s) := by
  unfold l1Fill; split <;> rfl

theorem l2Fill_kept (e : TlbEntry) (s : State) : UnitsKept s (l2Fill e s) := rfl

theorem tlbUse_kept (agent va : Nat) (e : TlbEntry) (s : State) : UnitsKept s (tlbUse agent va e s) := by
  unfold tlbUse; split <;> exact l1Fill_kept ..

theorem pteRead_kept (pa : Nat) (s : State) : UnitsKept s (pteRead pa s).2 := ofEvent (poolRead_only ..)

theorem walkFrom_kept (acc : Access) (va : Nat) : ∀ (ls : List Nat) (ppn : Nat) (s : State), UnitsKept s (walkFrom acc va ls ppn s).2
  | [], _, _ => rfl
  | level :: rest, ppn, s => by
    have go := walkFrom_kept acc va rest
    have read := pteRead_kept (ppn * 4096 + bits va (12 + 9 * level) 9 * 8) s
    simp only [walkFrom]
    generalize pteRead (ppn * 4096 + bits va (12 + 9 * level) 9 * 8) s = r at read ⊢
    repeat' split
    all_goals first
      | exact rfl
      | exact go _ _
      | exact read
      | exact read.trans (go _ _)

theorem walk_kept (acc : Access) (va : Nat) (s : State) : UnitsKept s (walk acc va s).2 := by
  unfold walk; split
  · rfl
  · exact walkFrom_kept ..

theorem walkFill_kept (agent : Nat) (acc : Access) (va : Nat) (s : State) : UnitsKept s (walkFill agent acc va s).2 := by
  have h := walk_kept acc va s
  unfold walkFill
  generalize walk acc va s = r at h ⊢
  obtain ⟨⟨r, e⟩, s'⟩ := r
  simp only at h ⊢
  repeat' split
  all_goals first
    | exact h
    | exact h.trans ((l2Fill_kept _ _).trans (l1Fill_kept ..))

theorem translate_kept (agent : Nat) (acc : Access) (va : Nat) (s : State) : UnitsKept s (translate agent acc va s).2 := by
  unfold translate
  repeat' split
  all_goals first
    | exact rfl
    | exact walkFill_kept ..
    | exact tlbUse_kept ..
    | (simp only; split <;> first | exact rfl | exact walkFill_kept .. | exact tlbUse_kept ..)

theorem place_kept (agent : Nat) (acc : Access) (va : Nat) (s : State) : UnitsKept s (place agent acc va s).2 := by
  have h := translate_kept agent acc va s
  unfold place
  generalize translate agent acc va s = r at h ⊢
  obtain ⟨r, s'⟩ := r
  cases r <;> simp only at h ⊢ <;> repeat' split
  all_goals first
    | exact h
    | exact h.trans (ofEvent (event_only ..))

/-! ### Requests -/

theorem blockedWait_kept (o : Owner) (s : State) : UnitsKept s (blockedWait o s) := by
  unfold blockedWait
  split
  · simp only; split <;> rfl
  · rfl

theorem hostAsk_kept (o : Owner) (hio n va : Nat) (s : State) : UnitsKept s (hostAsk o hio n va s) := by
  unfold hostAsk
  repeat' split
  · rfl
  · exact blockedWait_kept ..
  · exact UnitsKept.trans (ofEvent (markHost_only o s)) rfl

theorem dodgemAct_kept (k : Nat) (s : State) : UnitsKept s (dodgemAct k s).2 := by
  unfold dodgemAct
  simp only
  repeat' split
  all_goals rfl

theorem leaveAll_kept (ms : List Sent) (s : State) : UnitsKept s (leaveAll ms s) := foldl (f := fun s m => leave m s) (fun _ _ => rfl) ms s

theorem releaseHeld_kept (p : Nat) (s : State) : UnitsKept s (releaseHeld p s) :=
  UnitsKept.trans rfl (foldl (f := fun s (h : Nat × List Sent) => leaveAll h.2 s) (fun s h => leaveAll_kept h.2 s) _ _)

theorem frameMode_kept (p : Nat) (s : State) : UnitsKept s (frameMode p s) := by
  have h := dodgemAct_kept 0 s
  unfold frameMode
  generalize dodgemAct 0 s = r at h ⊢
  repeat' split
  all_goals first
    | exact rfl
    | exact h

theorem leave_kept (m : Sent) (s : State) : UnitsKept s (leave m s) := rfl
theorem hold_kept (f : Dodgem → Dodgem) (s : State) : UnitsKept s (s.onDod f) := rfl
theorem onFab_kept (f : Fabric → Fabric) (s : State) : UnitsKept s (s.onFab f) := rfl

theorem leaveRelease_kept (l : List Sent) (s : State) : UnitsKept s (l.foldl (fun s m => releaseHeld m.port s) (leaveAll l s)) :=
  (leaveAll_kept l s).trans (foldl (f := fun s (m : Sent) => releaseHeld m.port s) (fun s m => releaseHeld_kept m.port s) l _)

theorem transmit_kept (m : Sent) (req : Bool) (dst : Nat) (s : State) : UnitsKept s (transmit m req dst s) := by
  unfold transmit
  cases dodgemSees s m.port req dst
  · simp only [Bool.false_eq_true, if_false]
    exact (frameMode_kept m.port s).trans ((leave_kept m _).trans (releaseHeld_kept m.port _))
  · simp only [if_true]
    have a := dodgemAct_kept 1 s
    generalize dodgemAct 1 s = r1 at a ⊢
    obtain ⟨drop, s1⟩ := r1
    cases drop
    · simp only [Bool.false_eq_true, if_false]
      have b := a.trans (frameMode_kept m.port s1)
      generalize frameMode m.port s1 = s2 at b ⊢
      have c := b.trans (dodgemAct_kept 3 s2)
      generalize dodgemAct 3 s2 = r3 at c ⊢
      have d := c.trans (dodgemAct_kept 2 r3.2)
      generalize dodgemAct 2 r3.2 = r2 at d ⊢
      have e := d.trans (dodgemAct_kept 4 r2.2)
      generalize dodgemAct 4 r2.2 = r4 at e ⊢
      split
      · exact e.trans (hold_kept _ _)
      · exact e.trans (leaveRelease_kept _ _)
    · exact a

theorem sendPacket_kept {t : TxPkt} {s s' : State} (h : sendPacket t s = some s') : UnitsKept s s' := by
  unfold sendPacket at h
  split at h
  · cases h; exact transmit_kept ..
  · cases h

theorem originate_kept (t : TxPkt) (s : State) : UnitsKept s (originate t s).2 := by
  unfold originate
  by_cases h : t.peer = nodeId s
  · rw [if_pos h]; exact same
  rw [if_neg h]
  by_cases w : sendWaits t.peer s = true
  · rw [if_pos w]; exact same
  rw [if_neg w]
  extract_lets seq t'
  generalize sent : sendPacket t' s = r
  cases r with
  | none => exact ofEvent (event_only ..)
  | some s1 => exact (sendPacket_kept sent).trans (onFab_kept _ _)

theorem performHere_get_kept (src off n : Nat) (data : List (Byte × Bool)) (s : State) :
    UnitsKept s (performHere src .get off n data s).2 := by
  unfold performHere
  repeat' split
  all_goals try exact rfl
  simp only
  split
  · exact rfl
  · exact ofEvent (poolRead_only ..)

theorem windowFault_kept (src off reason : Nat) (s : State) : UnitsKept s (windowFault src off reason s) := by
  unfold windowFault
  extract_lets s1 last now
  have a : UnitsKept s s1 := onFab_kept _ _
  split
  · exact a.trans ((onFab_kept _ _).trans (ofEvent (event_only ..)))
  · exact a

/-! ### Reads -/

theorem takeArrived_kept (o : Owner) (pa n va : Nat) (ask : State → Got × State) (s : State) (h : UnitsKept s (ask s).2) :
    UnitsKept s (takeArrived o pa n va ask s).2 := by
  unfold takeArrived
  split
  · simp only; split <;> rfl
  · exact h

theorem readPiece_kept (k : Keep) (agent : Nat) (o : Owner) (acc : Access) (op va n : Nat) (s : State) :
    UnitsKept s (readPiece k agent o acc op va n s).2 := by
  have h := place_kept agent acc va s
  unfold readPiece
  generalize place agent acc va s = r at h ⊢
  obtain ⟨p, s'⟩ := r
  cases p with
  | pool pa u => exact h.trans (ofEvent (poolRead_only ..))
  | host hio =>
    refine h.trans (takeArrived_kept _ _ _ _ _ _ ?_)
    simp only
    repeat' split
    all_goals first
      | exact rfl
      | exact hostAsk_kept ..
  | fabric node off =>
    refine h.trans (takeArrived_kept _ _ _ _ _ _ ?_)
    simp only
    split
    · exact rfl
    · generalize ht : TxPkt.mk .. = t
      have a := originate_kept t s'
      generalize originate t s' = r at a ⊢
      obtain ⟨r, s1⟩ := r
      cases r with
      | loopback =>
        have b := performHere_get_kept node off n [] s1
        simp only at a ⊢
        generalize performHere node .get off n [] s1 = q at b ⊢
        obtain ⟨q, s2⟩ := q
        cases q with
        | ok d => exact a.trans b
        | error c => exact a.trans (b.trans (windowFault_kept ..))
      | _ => exact a
  | fault st c => exact h
  | held => exact h

theorem readPieces_kept (k : Keep) (agent : Nat) (o : Owner) (acc : Access) (op : Nat) :
    ∀ (ps : List (Nat × Nat)) (s : State), UnitsKept s (readPieces k agent o acc op ps s).2
  | [], _ => rfl
  | (va, n) :: ps, s => by
    have h := readPiece_kept k agent o acc op va n s
    have go := readPieces_kept k agent o acc op ps
    simp only [readPieces]
    generalize readPiece k agent o acc op va n s = r at h ⊢
    obtain ⟨r, s1⟩ := r
    have g := go s1
    cases r <;> simp only at h ⊢
    case data b =>
      generalize readPieces k agent o acc op ps s1 = q at g ⊢
      obtain ⟨q, s2⟩ := q
      cases q <;> simp only at g ⊢
      case wait => exact rfl
      all_goals exact h.trans g
    case wait =>
      generalize readPieces k agent o acc op ps s1 = q at g ⊢
      obtain ⟨q, s2⟩ := q
      cases q <;> simp only at g ⊢
      case fault => exact h.trans g
      all_goals exact h
    case fault => exact h

/-- A read leaves the units and the waiting commands as they were. -/
theorem vaRead_kept (k : Keep) (agent : Nat) (o : Owner) (acc : Access) (va n : Nat) (s : State) :
    UnitsKept s (vaRead k agent o acc va n s).2 := readPieces_kept ..

end Sys2Proof.Machine
end

