-- ==== Sys2Proof/WellFormed.lean ====
section
/-! DEFINITION. Which commands are well formed: every unit number an operand names exists on the module (Tables 2
and 3 of chapter 01, R310, R388), and every length and size is one the rules give. -/

namespace Sys2Proof

/-- Submission rings 0 to 1,023 (R310). -/
def ringOk (n : Nat) : Bool := decide (n < 1024)
/-- Engines and arrays by die × 136 + unit (R142). -/
def engineOk (e : Nat) : Bool := decide (e < 544)
/-- Private caches: those of the engines, then those of the cores. -/
def cacheOk (c : Nat) : Bool := decide (c < 696)
/-- Cores by 76 × processor die + number. -/
def coreOk (k : Nat) : Bool := decide (k < 152)
/-- Dembet ports (R254). -/
def portOk (p : Nat) : Bool := decide (p < 64)
/-- Dies by the die codes 0 to 8. -/
def dieOk (d : Nat) : Bool := decide (d ≤ 8)
/-- Node numbers of the fabric: 14 bits (R250). -/
def nodeOk (n : Nat) : Bool := decide (n < 16384)
/-- The sender of a response and the port it arrives on. -/
def ackSrcOk (a : AckSrc) : Bool := nodeOk a.peer && portOk a.port
/-- Die-link ports of H (Table 1 of chapter 13). -/
def dlPortOk (p : Nat) : Bool := decide (p < 8)
/-- Lines by address / 128, below 2^49. -/
def lineOk (l : Nat) : Bool := decide (l < 2 ^ 49)
/-- Physical and virtual addresses. -/
def addrOk (a : Nat) : Bool := decide (a < 2 ^ 64)
/-- Sizes of a register access (R439). -/
def accessOk (n : Nat) : Bool := n == 4 || n == 8
/-- Sizes of an access of a core. -/
def coreSizeOk (n : Nat) : Bool := n == 1 || n == 2 || n == 4 || n == 8
/-- At most 16 PMP entries (R195). -/
def coreEnvOk (e : CoreEnv) : Bool := decide (e.pmp.length ≤ 16)
/-- An access of a core. -/
def coreAccOk (a : CoreAcc) : Bool := coreSizeOk a.size && coreEnvOk a.env
/-- Sizes of an atomic (R209, R210). -/
def atomOk (r : AtomReq) : Bool := r.size == 4 || r.size == 8 || (r.size == 16 && r.kind == .cas)
/-- Bounds of a fabric packet (R252). -/
def packetOk (p : Packet) : Bool :=
  portOk p.port && nodeOk p.src && nodeOk p.dst && decide (p.seq < 2 ^ 24) && decide (p.offset < 2 ^ 41)
    && decide (p.length ≤ 256) && decide (p.data.length ≤ 256)

/-- Every operand of a command is in its range. -/
def wellFormed : Instr → Bool
  | .pickleResume r => ringOk r
  | .pickleDiscard r => ringOk r
  | .bar2Read v len => addrOk v && decide (len ≤ 4096)
  | .bar2Write v data _ => addrOk v && decide (data.length ≤ 4096)
  | .registerWrite _ _ size _ => accessOk size
  | .bar0Read _ _ size => accessOk size
  | .msixTableWrite _ size _ => accessOk size
  | .ringCfgWrite r _ _ => ringOk r
  | .ringDb r _ _ => ringOk r
  | .abort r => ringOk r
  | .restartNext r => ringOk r
  | .restartSame r => ringOk r
  | .clrErr r => ringOk r
  | .descReadReturn r => ringOk r
  | .descReread r => ringOk r
  | .descNop r => ringOk r
  | .chain r => ringOk r
  | .transform r => ringOk r
  | .program r => ringOk r
  | .maintClean r => ringOk r
  | .maintInvalidate r => ringOk r
  | .maintCleanInvalidate r => ringOk r
  | .invalidateRange r => ringOk r
  | .invalidateAll r => ringOk r
  | .setRoot r => ringOk r
  | .hold r => ringOk r
  | .release r => ringOk r
  | .xltOpDrained r => ringOk r
  | .fabricPut r => ringOk r
  | .fabricGet r => ringOk r
  | .deliver r => ringOk r
  | .fabricAtomic r => ringOk r
  | .fabricFence r => ringOk r
  | .routeLoad r => ringOk r
  | .flagSend r => ringOk r
  | .push r => ringOk r
  | .census r => ringOk r
  | .powerHint r => ringOk r
  | .test r => ringOk r
  | .descWait r => ringOk r
  | .ringWaitSatisfied r => ringOk r
  | .waitExpired r => ringOk r
  | .operationAdmit r => ringOk r
  | .operationComplete r => ringOk r
  | .msixModerationExpire r => match r with | some n => ringOk n | none => true
  | .arrayBeat a => engineOk a
  | .passStart a => engineOk a
  | .passEnd a => engineOk a
  | .sliceArrive a _ n => engineOk a && decide (n ≤ 262144)
  | .arrivalTimeout a => engineOk a
  | .tileDrain a => engineOk a
  | .tileCommit r => ringOk r
  | .bandFinish r g => ringOk r && decide (g < 128)
  | .partialChunkReceive r p _ => ringOk r && nodeOk p
  | .wTreeReceive r p _ _ => ringOk r && nodeOk p
  | .transformTurn r => ringOk r
  | .nop e g => engineOk e && decide (g < 128)
  | .iadd e g => engineOk e && decide (g < 128)
  | .isub e g => engineOk e && decide (g < 128)
  | .imul e g => engineOk e && decide (g < 128)
  | .imulh e g => engineOk e && decide (g < 128)
  | .and e g => engineOk e && decide (g < 128)
  | .or e g => engineOk e && decide (g < 128)
  | .xor e g => engineOk e && decide (g < 128)
  | .shl e g => engineOk e && decide (g < 128)
  | .shr e g => engineOk e && decide (g < 128)
  | .icmp e g => engineOk e && decide (g < 128)
  | .sel e g => engineOk e && decide (g < 128)
  | .mov e g => engineOk e && decide (g < 128)
  | .sreg e g => engineOk e && decide (g < 128)
  | .limm e g => engineOk e && decide (g < 128)
  | .br e g => engineOk e && decide (g < 128)
  | .brz e g => engineOk e && decide (g < 128)
  | .brnz e g => engineOk e && decide (g < 128)
  | .jmp e g => engineOk e && decide (g < 128)
  | .join e g => engineOk e && decide (g < 128)
  | .sleep e g => engineOk e && decide (g < 128)
  | .sleepExpire e g => engineOk e && decide (g < 128)
  | .exit e g => engineOk e && decide (g < 128)
  | .wrelu e g => engineOk e && decide (g < 128)
  | .fadd e g => engineOk e && decide (g < 128)
  | .fsub e g => engineOk e && decide (g < 128)
  | .fmul e g => engineOk e && decide (g < 128)
  | .ffma e g => engineOk e && decide (g < 128)
  | .fmin e g => engineOk e && decide (g < 128)
  | .fmax e g => engineOk e && decide (g < 128)
  | .fcmp e g => engineOk e && decide (g < 128)
  | .fdiv e g => engineOk e && decide (g < 128)
  | .fsqrt e g => engineOk e && decide (g < 128)
  | .frcp e g => engineOk e && decide (g < 128)
  | .frsqrt e g => engineOk e && decide (g < 128)
  | .fexp2 e g => engineOk e && decide (g < 128)
  | .flog2 e g => engineOk e && decide (g < 128)
  | .fsin e g => engineOk e && decide (g < 128)
  | .fcos e g => engineOk e && decide (g < 128)
  | .cvt e g => engineOk e && decide (g < 128)
  | .wadd e g => engineOk e && decide (g < 128)
  | .wmul e g => engineOk e && decide (g < 128)
  | .wfma e g => engineOk e && decide (g < 128)
  | .wmin e g => engineOk e && decide (g < 128)
  | .wmax e g => engineOk e && decide (g < 128)
  | .wcmp e g => engineOk e && decide (g < 128)
  | .wclamp e g => engineOk e && decide (g < 128)
  | .wcvtin e g => engineOk e && decide (g < 128)
  | .wcvtout e g => engineOk e && decide (g < 128)
  | .wround e g => engineOk e && decide (g < 128)
  | .ld e g => engineOk e && decide (g < 128)
  | .st e g => engineOk e && decide (g < 128)
  | .atom e g => engineOk e && decide (g < 128)
  | .exactAdd pa _ vs => addrOk pa && decide (vs.length ≤ 32)
  | .exrd e g => engineOk e && decide (g < 128)
  | .copy e g => engineOk e && decide (g < 128)
  | .tcopy e g => engineOk e && decide (g < 128)
  | .tstore e g => engineOk e && decide (g < 128)
  | .copyDataArrive e _ n => engineOk e && decide (n ≤ 128)
  | .rdcnt e g => engineOk e && decide (g < 128)
  | .setcnt e g => engineOk e && decide (g < 128)
  | .wait e g => engineOk e && decide (g < 128)
  | .waitSatisfied e g => engineOk e && decide (g < 128)
  | .waitTimeout e g => engineOk e && decide (g < 128)
  | .fence e g => engineOk e && decide (g < 128)
  | .groupStart r e => ringOk r && engineOk e
  | .recoveryModeExit e => engineOk e
  | .engineCheckDone e => engineOk e
  | .rds c l => cacheOk c && lineOk l
  | .rdu c l => cacheOk c && lineOk l
  | .upg c l => cacheOk c && lineOk l
  | .rdonce _ l => lineOk l
  | .wrline _ a d => addrOk a && decide (a % 128 + d.length ≤ 128)
  | .atomRequest _ a r => addrOk a && atomOk r
  | .wb c l => cacheOk c && lineOk l
  | .ev c l => cacheOk c && lineOk l
  | .slotLock s l => lineOk s && lineOk l
  | .snoopReceive c l => cacheOk c && lineOk l
  | .coherenceDataReceive l => lineOk l
  | .finalAckReceive l => lineOk l
  | .lrSnoopDelayExpire k => coreOk k
  | .cboClean k r => coreOk k && addrOk r.addr && coreEnvOk r.env
  | .cboFlush k r => coreOk k && addrOk r.addr && coreEnvOk r.env
  | .cboInval k a e => coreOk k && addrOk a && coreEnvOk e
  | .cboZero k r => coreOk k && addrOk r.addr && coreEnvOk r.env
  | .portPartnerDetect p => portOk p
  | .portTrainDone p _ => portOk p
  | .portDown p _ => portOk p
  | .frameReceive p _ _ => portOk p
  | .packetForward p k => portOk p && packetOk k
  | .fabricGetReceive k => packetOk k
  | .fabricPutReceive k => packetOk k
  | .fabricFlagReceive k => packetOk k
  | .fabricAtomicReceive k => packetOk k
  | .deliveryReceive k => packetOk k
  | .receivedAck a _ => ackSrcOk a
  | .performedAck a _ _ _ => ackSrcOk a
  | .negativeAckReceive a _ r => ackSrcOk a && decide (r < 16)
  | .gapNoticeSend p _ => nodeOk p
  | .gapNoticeReceive a _ => ackSrcOk a
  | .rtoExpire p _ => nodeOk p
  | .e2eTimeout p => nodeOk p
  | .e2eHandshake h => nodeOk h.peer && portOk h.port
  | .busyNoticeReceive a _ => ackSrcOk a
  | .busyResend p _ => nodeOk p
  | .fabWinWrite w k _ _ => decide (w < 64) && decide (k < 4)
  | .flitReceive p _ f => dlPortOk p && f.data.length == 128
  | .nakReceive p _ s => dlPortOk p && decide (s < 256)
  | .wireRecentre p _ _ => dlPortOk p
  | .wireRemap p _ _ => dlPortOk p
  | .laneRetire p _ _ => dlPortOk p
  | .discoveryFrame p _ => dlPortOk p
  | .thermalLimitStep d _ => dieOk d
  | .thermalTrip d _ => dieOk d
  | .thermalTripClear d _ => dieOk d
  | .thermalShutdown d _ => dieOk d
  | .coldJunctionHold d _ => dieOk d
  | .coldJunctionEnd d _ => dieOk d
  | .pairSubstitute d u => dieOk d && decide (u < 136)
  | .retirePendingDone d u => dieOk d && decide (u < 136)
  | .retire _ d _ => dieOk d
  | .restore _ d _ => dieOk d
  | .sideshowBegin r => ringOk r
  | .sideshowEnd r _ => ringOk r
  | .controllerWatchdog c => decide (c < 9)
  | .controllerRestartDone c => decide (c < 9)
  | .coreSubstitute k => coreOk k
  | .snoopResponseReceive l c => lineOk l && cacheOk c
  | .wbAckReceive c l => cacheOk c && lineOk l
  | .coreLoad k a n => coreOk k && addrOk a && coreAccOk n
  | .coreStore k a n _ => coreOk k && addrOk a && coreAccOk n
  | .coreAmo k a r => coreOk k && addrOk a && coreEnvOk r.acc.env && atomOk r.atom
  | .coreLr k a n => coreOk k && addrOk a && (n.size == 4 || n.size == 8) && coreEnvOk n.env
  | .coreSc k a n _ => coreOk k && addrOk a && (n.size == 4 || n.size == 8) && coreEnvOk n.env
  | .coreFence k _ => coreOk k
  | .coreWfi k => coreOk k
  | .powerOn _ _ _ _ => true
  | .deviceReady _ => true
  | .powerLoss => true
  | .perstAssert => true
  | .perstDeassert => true
  | .hotReset => true
  | .flr => true
  | .linkLoss => true
  | .retrain _ _ => true
  | .freezeComplete => true
  | .pickleDescend => true
  | .scrubFillDone => true
  | .configWrite _ => true
  | .bmeWaitExpire => true
  | .hostReadCompletion _ _ => true
  | .completionTimeout _ => true
  | .postedWriteAck => true
  | .hostAtomicopReceive _ => true
  | .inboundMsiWrite _ _ => true
  | .inboundDownstreamRequest _ => true
  | .setupCommit _ => true
  | .srIndexWrite _ _ _ => true
  | .srSnapshotDone _ => true
  | .eventRingCfgWrite _ _ => true
  | .holdLimitExpire _ => true
  | .loanReturn _ => true
  | .patrolScrub _ _ => true
  | .hotpageDecay => true
  | .hotpageMuteExpire _ => true
  | .fabPortEnWrite _ _ => true
  | .winDrainDone => true
  | .fabRtDataWrite _ _ => true
  | .routeCommit _ _ => true
  | .routeHoldExpire => true
  | .dodgemCtlWrite _ _ => true
  | .dodgemReorderRelease => true
  | .powerSample _ => true
  | .powerStep => true
  | .domainIdleLower _ => true
  | .creditUpdate _ => true
  | .lidRecheck _ => true
  | .safetyNetAssert _ => true
  | .safetyNetRelease => true
  | .coolantLoss => true
  | .coolantLossEnd => true
  | .ageingCheck _ _ => true
  | .wearLedgerWrite => true
  | .forecastPublish => true
  | .pwrFixedWrite _ _ => true
  | .rung1Enter => true
  | .rung2Enter => true
  | .rung3Enter => true
  | .rungWake _ => true
  | .enterRung4 => true
  | .enterRung5 => true
  | .memInitDone => true
  | .correctedError _ => true
  | .clearPages => true
  | .repCmdDone _ => true
  | .svnCommit => true
  | .imageTransferDone _ => true
  | .activateFirmware => true
  | .getVersion => true
  | .getCapabilities => true
  | .negotiateAlgorithms _ _ => true
  | .getDigests => true
  | .getCertificate _ _ _ => true
  | .challenge _ _ => true
  | .getMeasurements _ _ => true
  | .spdmUnsupportedRequest _ => true
  | .sensorRead _ => true
  | .coolantEffecter _ => true
  | .inletEffecter _ => true
  | .powerCapEffecter _ => true
  | .rungRequestEffecter _ => true
  | .pcieRoleEffecter _ => true
  | .linkUp _ _ _ => true
  | .rootPortErrorReceive _ _ => true
  | .eventRingHeadWrite _ _ => true
  | .setupCommitDone => true
  | .memoryReadReturn _ _ => true
  | .pageWalkDone _ _ _ _ => true
  | .firmwareHandoverDone => true
  | .mctpControlRequest _ _ => true

end Sys2Proof
end

