-- ==== Sys2Proof/Tests/Slice0.lean ====
section
/-! SUPPORT. Tests of the model: ill-formed commands are refused by the check, and for each statement concrete states and
operands meet its hypotheses, with what the command then leaves where that can be evaluated. -/

namespace Sys2Proof.Tests

open Sys2Proof.Machine Sys2Proof.Safety Sys2Proof.Claims

set_option Elab.async false

/-- The command answers a next state that P holds of. -/
def after (c : Instr) (s : State) (P : State → Bool) : Bool :=
  match exec c s with
  | .next t => P t
  | _ => false

/-- A booted module with the link up, Bus Master Enable set and MSI-X off. -/
def up : State := { State.reset with
  boot := { ready := true, stage := 7, trained := true }
  link := { State.reset.link with up := true, bme := true }
  pwr := { State.reset.pwr with dieOff := [], profile := 2, rung := 0 } }

/-! ### Engine instructions -/

/-- An instruction word from its fields (Table 10 of chapter 06). -/
def word (op ty rd ra rb rc : Nat) (i : Bool := false) (rm : Nat := 0) (ord : Nat := 0) (aux : Nat := 0) : Nat :=
  op * 2 ^ 56 + ty * 2 ^ 52 + rd * 2 ^ 44 + ra * 2 ^ 36 + rb * 2 ^ 28 + rc * 2 ^ 20 + one i * 2 ^ 19 + rm * 2 ^ 16 + ord * 2 ^ 10 + aux

/-- A path of one lane at 0x4000, a grant, and a program of 32 registers. -/
def pth : Path := { pc := 0x4000, lanes := 1 }
def grant : Grant := { ring := 0, isChain := false, groups := 1, regs := 32, ways := 1, stagingKib := 1, counters := 1 }
def prg : ProgramRun := { groups := 1, regs := 32, engines := 1, admitted := true, entry := 0x4000, counters := 1, live := [0], waitMs := 1 }

/-- A group with given registers of lane 0. -/
def grp (r : List (Nat × BitVec 32)) (rest : List Path := []) : Group := { ring := 0, index := 0, regs := r, paths := pth :: rest }

/-- A group of a program at a word that stands at 0x4000, an address that the TLB of engine 0 maps to itself. -/
def at_ (w : Nat) (g : Group) : State := { up with
  rings := [(0, { State.reset.ring 0 with state := .running, op := some (.program prg) })]
  engines := [(0, { mode := 3, grants := [grant], slots := [(0, g)] })]
  xlt := { State.reset.xlt with l1 := [(0, [{ va := 0, log2 := 30, pa := 0, flags := 0xDF, pbmt := 0 }])] }
  pool := { State.reset.pool with mem := memWrite [] 0x4000 (toBytes 8 w) } }

/-- The state after the fetch. -/
def fetched (w : Nat) (g : Group) : State := (fetchAt (at_ w g) 0 0 pth 0x4000).2

/-- The fetch brings the word, and the word is legal. -/
def issues (w : Nat) (g : Group) : Bool :=
  (match (fetchAt (at_ w g) 0 0 pth 0x4000).1 with
    | .data b => !anyPoison b && ofBytes (plain b) == w
    | _ => false) && legal w 32

theorem atIssue (w : Nat) (r : List (Nat × BitVec 32)) (rest : List Path) (h : issues w (grp r rest) = true) :
    AtIssue (at_ w (grp r rest)) (fetched w (grp r rest)) 0 0 (grp r rest) pth rest prg w := by
  unfold issues at h
  rw [Bool.and_eq_true] at h
  refine ⟨⟨rfl, rfl, rfl, rfl, rfl, rfl, by decide, rfl, rfl⟩, ?_, rfl, h.2, rfl⟩
  unfold Brings
  have h1 := h.1
  show ∃ b, (fetchAt (at_ w (grp r rest)) 0 0 pth 0x4000).1 = Got.data b ∧ _
  generalize (fetchAt (at_ w (grp r rest)) 0 0 pth 0x4000).1 = got at h1 ⊢
  cases got <;> simp_all

/-- A legal word of every engine instruction. -/
def words : List Nat :=
  [word 0 0 0 0 0 0, word 1 0 1 2 3 0, word 2 1 1 2 3 0, word 3 2 2 4 6 0, word 4 3 2 4 6 0, word 5 0 1 2 3 0, word 6 0 1 2 3 0,
   word 7 2 2 4 6 0, word 8 0 1 2 3 0, word 9 1 1 2 3 0, word 0xA 0 1 2 3 0, word 0xB 0 1 2 3 4, word 0xC 0 1 0 5 0 true,
   word 0xD 0 1 0 0 0, word 0xE 2 2 0 0 0, word 0x10 0 0 0 1 0 true, word 0x11 0 0 1 1 0 true, word 0x12 0 0 1 1 0 true,
   word 0x13 0 0 2 0 0, word 0x14 0 0 0 0 0, word 0x15 0 0 0 3 0 true, word 0x16 0 0 0 0 0]
def wordsFloat : List Nat :=
  [word 0x17 7 3 6 0 0, word 0x20 5 1 2 3 0, word 0x21 6 2 4 6 0, word 0x22 4 1 2 3 0, word 0x23 5 1 2 3 4, word 0x24 5 1 2 3 0,
   word 0x25 5 1 2 3 0, word 0x26 5 1 2 3 0, word 0x30 5 1 2 3 0, word 0x31 5 1 2 0 0, word 0x32 5 1 2 0 0, word 0x33 5 1 2 0 0,
   word 0x34 5 1 2 0 0, word 0x35 5 1 2 0 0, word 0x36 5 1 2 0 0, word 0x37 5 1 2 0 0, word 0x38 0 1 2 1 0 (aux := 3),
   word 0x40 7 3 6 9 0, word 0x41 7 3 6 9 0, word 0x42 7 3 6 9 12, word 0x43 7 3 6 9 0, word 0x44 7 3 6 9 0, word 0x45 7 1 6 9 0,
   word 0x46 7 3 6 9 12, word 0x47 7 3 2 0 0 (aux := 1), word 0x48 7 1 3 0 0 (aux := 1), word 0x49 7 3 6 0 0]
def wordsMemory : List Nat :=
  [word 0x50 0 1 2 0 0, word 0x51 0 1 2 0 0, word 0x52 0 1 2 3 0, word 0x53 5 1 2 0 0 (aux := 1), word 0x54 0 0 2 4 5 (aux := 0x40),
   word 0x55 0 0 2 4 8 (aux := 0x40), word 0x56 0 0 2 4 8 (aux := 0x40), word 0x57 0 1 0 0 0, word 0x58 0 0 1 0 0, word 0x59 0 0 1 0 0,
   word 0x5A 0 0 0 0 0 (ord := 3)]

theorem test_words_issue : words.all (fun w => issues w (grp [])) = true := by decide +kernel
theorem test_float_words_issue : wordsFloat.all (fun w => issues w (grp [])) = true := by decide +kernel
theorem test_memory_words_issue : wordsMemory.all (fun w => issues w (grp [])) = true := by decide +kernel

/-- Every word of the lists is about to issue: the hypotheses of the statements about engine instructions. -/
theorem test_words_meet_AtIssue : (∀ w ∈ words, AtIssue (at_ w (grp [])) (fetched w (grp [])) 0 0 (grp []) pth [] prg w)
    ∧ (∀ w ∈ wordsFloat, AtIssue (at_ w (grp [])) (fetched w (grp [])) 0 0 (grp []) pth [] prg w)
    ∧ ∀ w ∈ wordsMemory, AtIssue (at_ w (grp [])) (fetched w (grp [])) 0 0 (grp []) pth [] prg w :=
  ⟨fun w h => atIssue w [] [] (List.all_eq_true.1 test_words_issue w h),
   fun w h => atIssue w [] [] (List.all_eq_true.1 test_float_words_issue w h),
   fun w h => atIssue w [] [] (List.all_eq_true.1 test_memory_words_issue w h)⟩

/-- What n registers from rd of lane 0 hold after a command, the path standing after the word. -/
def leaves (c : Instr) (w : Nat) (r : List (Nat × BitVec 32)) (rd n v : Nat) : Bool :=
  after c (at_ w (grp r)) fun t => match tfind (t.engine 0).slots 0 with
    | some g => regRead g 0 rd n == v && g.paths == [{ pth with pc := 0x4008 }]
    | none => false

/-- Sums, differences and products wrap, IMULH is signed, SHR of a negative number fills with its sign (Table 12). -/
theorem test_integer_results :
    leaves (.iadd 0 0) (word 1 0 1 2 3 0) [(2, 0xFFFFFFFF), (3, 2)] 1 1 1 = true
    ∧ leaves (.isub 0 0) (word 2 2 2 4 6 0) [(6, 1)] 2 2 0xFFFFFFFFFFFFFFFF = true
    ∧ leaves (.imul 0 0) (word 3 0 1 2 2 0) [(2, 0x10001)] 1 1 0x20001 = true
    ∧ leaves (.imulh 0 0) (word 4 1 1 2 3 0) [(2, 0xFFFFFFFF), (3, 5)] 1 1 0xFFFFFFFF = true
    ∧ leaves (.imulh 0 0) (word 4 0 1 2 3 0) [(2, 0xFFFFFFFF), (3, 5)] 1 1 4 = true
    ∧ leaves (.and 0 0) (word 5 0 1 2 3 0) [(2, 12), (3, 10)] 1 1 8 = true
    ∧ leaves (.or 0 0) (word 6 0 1 2 3 0) [(2, 12), (3, 10)] 1 1 14 = true
    ∧ leaves (.xor 0 0) (word 7 0 1 2 3 0) [(2, 12), (3, 10)] 1 1 6 = true
    ∧ leaves (.shl 0 0) (word 8 0 1 2 3 0) [(2, 3), (3, 33)] 1 1 6 = true
    ∧ leaves (.shr 0 0) (word 9 1 1 2 3 0) [(2, 0x80000000), (3, 4)] 1 1 0xF8000000 = true
    ∧ leaves (.shr 0 0) (word 9 0 1 2 3 0) [(2, 0x80000000), (3, 4)] 1 1 0x08000000 = true := by decide +kernel

/-- A signed comparison, a selection, an immediate, and what SREG and LIMM bring. -/
theorem test_move_results :
    leaves (.icmp 0 0) (word 0xA 1 1 2 3 0 (aux := 2)) [(2, 0xFFFFFFFF)] 1 1 1 = true
    ∧ leaves (.icmp 0 0) (word 0xA 0 1 2 3 0 (aux := 2)) [(2, 0xFFFFFFFF)] 1 1 0 = true
    ∧ leaves (.sel 0 0) (word 0xB 0 1 2 3 4) [(2, 9), (3, 7), (4, 8)] 1 1 7 = true
    ∧ leaves (.sel 0 0) (word 0xB 0 1 2 3 4) [(3, 7), (4, 8)] 1 1 8 = true
    ∧ leaves (.mov 0 0) (word 0xC 9 1 0 0x80 0 true) [] 1 1 0xFFFFFF80 = true
    ∧ leaves (.mov 0 0) (word 0xC 5 1 0 0 0x3C true) [] 1 1 0x3F800000 = true
    ∧ leaves (.sreg 0 0) (word 0xD 0 1 0 0 0 (aux := 4)) [] 1 1 1 = true
    ∧ leaves (.nop 0 0) (word 0 0 0 0 0 0) [(1, 5)] 1 1 5 = true := by decide +kernel

theorem test_limm_brings_its_literal :
    after (.limm 0 0) { at_ 0 (grp []) with pool := { State.reset.pool with
        mem := memWrite (memWrite [] 0x4000 (toBytes 8 (word 0xE 2 2 0 0 0))) 0x4008 (toBytes 8 0x1122334455667788) } }
      (fun t => match tfind (t.engine 0).slots 0 with
        | some g => regRead g 0 2 2 == 0x1122334455667788 && g.paths == [{ pth with pc := 0x4010 }]
        | none => false) = true := by decide +kernel

/-- Where the paths of the group stand after a command. -/
def pathsAfter (c : Instr) (w : Nat) (r : List (Nat × BitVec 32)) (rest : List Path) : Option (List Path) :=
  match exec c (at_ w (grp r rest)) with
  | .next t => (tfind (t.engine 0).slots 0).map (·.paths)
  | _ => none

/-- A second path, of lane 1. -/
def other (st : PathState) (pc : Nat) : Path := { pc := pc, lanes := 2, st := st }

theorem test_control_moves_paths :
    pathsAfter (.br 0 0) (word 0x10 0 0 0 0xFF 0xFF true) [] [] = some [{ pth with pc := 0x3FF8 }]
    ∧ pathsAfter (.brz 0 0) (word 0x11 0 0 1 2 0 true) [] [] = some [{ pth with pc := 0x4010 }]
    ∧ pathsAfter (.brz 0 0) (word 0x11 0 0 1 2 0 true) [(1, 1)] [] = some [{ pth with pc := 0x4008 }]
    ∧ pathsAfter (.brnz 0 0) (word 0x12 0 0 1 2 0 true) [(1, 1)] [] = some [{ pth with pc := 0x4010 }]
    ∧ pathsAfter (.jmp 0 0) (word 0x13 0 0 2 0 0) [(2, 0x5000)] [] = some [{ pth with pc := 0x5000 }]
    ∧ pathsAfter (.join 0 0) (word 0x14 0 0 0 0 0) [] [other .join 0x4000] = some [{ pc := 0x4008, lanes := 3 }]
    ∧ pathsAfter (.join 0 0) (word 0x14 0 0 0 0 0) [] [other .ready 0x4000] = some [other .ready 0x4000, { pth with st := .join }]
    ∧ pathsAfter (.sleep 0 0) (word 0x15 0 0 0 3 0 true) [] [other .ready 0x4000] = some [other .ready 0x4000, { pth with pc := 0x4008 }]
    ∧ pathsAfter (.exit 0 0) (word 0x16 0 0 0 0 0) [] [other .ready 0x6000] = some [other .ready 0x6000]
    ∧ pathsAfter (.exit 0 0) (word 0x16 0 0 0 0 0) [] [] = none := by decide +kernel

/-- The hypotheses on the other paths, each clause, and the end of a sleep. -/
theorem test_control_witnesses :
    issues (word 0x14 0 0 0 0 0) (grp [] [other .join 0x4000]) = true
    ∧ issues (word 0x14 0 0 0 0 0) (grp [] [other .ready 0x4000]) = true
    ∧ issues (word 0x15 0 0 0 3 0 true) (grp [] [other .join 0x4000]) = true
    ∧ issues (word 0x16 0 0 0 0 0) (grp [] [other .ready 0x6000]) = true
    ∧ (after (.sleep 0 0) (at_ (word 0x15 0 0 0 3 0 true) (grp [])) fun t => (tfind (t.engine 0).slots 0).map (·.sleeping) == some 3) = true
    ∧ (after (.sleepExpire 0 0) (at_ 0 { grp [] with sleeping := 3 }) fun t => (tfind (t.engine 0).slots 0).map (·.sleeping) == some 0) = true := by
  decide +kernel

/-- Floating-point results that can be checked by hand: 1 + 2, 1 - 2, 3 x 2, 2 x 3 + 1, minima and maxima of zeros, relations,
1/3 and the root of 2 to nearest even. -/
theorem test_float_results :
    leaves (.fadd 0 0) (word 0x20 5 1 2 3 0) [(2, 0x3F800000), (3, 0x40000000)] 1 1 0x40400000 = true
    ∧ leaves (.fsub 0 0) (word 0x21 5 1 2 3 0) [(2, 0x3F800000), (3, 0x40000000)] 1 1 0xBF800000 = true
    ∧ leaves (.fmul 0 0) (word 0x22 4 1 2 3 0) [(2, 0x4200), (3, 0x4000)] 1 1 0x4600 = true
    ∧ leaves (.ffma 0 0) (word 0x23 5 1 2 3 4) [(2, 0x40000000), (3, 0x40400000), (4, 0x3F800000)] 1 1 0x40E00000 = true
    ∧ leaves (.fmin 0 0) (word 0x24 5 1 2 3 0) [(2, 0), (3, 0x80000000)] 1 1 0x80000000 = true
    ∧ leaves (.fmax 0 0) (word 0x25 5 1 2 3 0) [(2, 0x7FC00000), (3, 0x3F800000)] 1 1 0x7FC00000 = true
    ∧ leaves (.fcmp 0 0) (word 0x26 5 1 2 3 0 (aux := 3)) [(2, 0x7FC00000)] 1 1 1 = true
    ∧ leaves (.fcmp 0 0) (word 0x26 5 1 2 3 0 (aux := 1)) [(2, 0x3F800000), (3, 0x40000000)] 1 1 1 = true
    ∧ leaves (.fdiv 0 0) (word 0x30 5 1 2 3 0) [(2, 0x3F800000), (3, 0x40400000)] 1 1 0x3EAAAAAB = true
    ∧ leaves (.fsqrt 0 0) (word 0x31 5 1 2 0 0) [(2, 0x40000000)] 1 1 0x3FB504F3 = true := by decide +kernel

/-- W sums, products and relations, and conversions: FP32 1.5 to FP16, FP32 in and out of W, WRELU of a negative value. -/
theorem test_wide_results :
    leaves (.cvt 0 0) (word 0x38 0 1 2 3 0 (aux := 1)) [(2, 0x3FC00000)] 1 1 0x3E00 = true
    ∧ leaves (.wcvtin 0 0) (word 0x47 7 3 2 0 0 (aux := 1)) [(2, 0x3F800000)] 3 3 0x3FFF8000000000000000 = true
    ∧ leaves (.wcvtout 0 0) (word 0x48 7 1 3 0 0 (aux := 1)) [(4, 0x80000000), (5, 0x3FFF)] 1 1 0x3F800000 = true
    ∧ leaves (.wadd 0 0) (word 0x40 7 3 6 6 0) [(7, 0x80000000), (8, 0x3FFF)] 3 3 0x40000000000000000000 = true
    ∧ leaves (.wcmp 0 0) (word 0x45 7 1 6 6 0) [(7, 0x80000000), (8, 0x3FFF)] 1 1 1 = true
    ∧ leaves (.wrelu 0 0) (word 0x17 7 3 6 0 0) [(7, 0x80000000), (8, 0xBFFF)] 3 3 0 = true := by decide +kernel

/-! ### Memory instructions of engines -/

/-- A grant's scratch and staging bytes after a command. -/
def spaceAfter (c : Instr) (s : State) (sp a n : Nat) : Option Nat :=
  match exec c s with
  | .next t => (grantOf (t.engine 0) 0).map fun gr => ofBytes (memRead (spaceMem gr sp) a n)
  | _ => none

/-- The group of `at_` with bytes in its scratch. -/
def withScratch (w : Nat) (r : List (Nat × BitVec 32)) (m : List Host.Cell) : State := { at_ w (grp r) with
  engines := [(0, { mode := 3, grants := [{ grant with scratch := m }], slots := [(0, grp r)] })] }

/-- LD and ST in scratch and in memory, and an atomic: the old value comes back and the new one stands. -/
theorem test_loads_stores_and_atomics :
    (after (.ld 0 0) (withScratch (word 0x50 0 1 2 0 0 (aux := 0x40)) [(2, 8)] [(8, 5), (9, 1)]) fun t =>
      match tfind (t.engine 0).slots 0 with | some g => regRead g 0 1 1 == 0x105 | none => false) = true
    ∧ leaves (.ld 0 0) (word 0x50 0 1 2 0 0) [(2, 0x4004)] 1 1 0x50001020 = true
    ∧ spaceAfter (.st 0 0) (withScratch (word 0x51 0 1 2 0 0 (aux := 0x40)) [(1, 0xAABBCCDD), (2, 8)] [(12, 7)]) 1 8 5 = some 0x07AABBCCDD
    ∧ (after (.st 0 0) (at_ (word 0x51 0 1 2 0 0) (grp [(1, 0xAABBCCDD), (2, 0x5000)])) fun t =>
      ofBytes (plain (lineBytes t 0x5000 4)) == 0xAABBCCDD && ofBytes (plain (lineBytes t 0x5004 4)) == 0) = true
    ∧ spaceAfter (.atom 0 0) (withScratch (word 0x52 0 1 2 3 0 (aux := 0x40)) [(2, 8), (3, 4)] [(8, 5)]) 1 8 4 = some 9 := by
  decide +kernel

/-- The one lane of the path reaches its place in scratch and in memory. -/
theorem test_reaches (l : Nat) (h : Active pth l) :
    Reaches grant 1 (spaceAddr (grp [(2, 8)]) (word 0x50 0 1 2 0 0 (aux := 0x40)) l) 4 4
    ∧ memAddr (grp [(2, 0x4004)]) (word 0x50 0 1 2 0 0) l % 4 = 0 := by
  obtain ⟨h1, h2⟩ := h
  have : l = 0 := by
    have all : ∀ k < 32, bit pth.lanes.toNat k = true → k = 0 := by decide +kernel
    exact all l h1 h2
  subst this
  refine ⟨⟨by decide +kernel, by decide +kernel, by decide +kernel, fun a ha => ?_⟩, by decide +kernel⟩
  exact absurd ha (List.not_mem_nil)

/-- A load and a store of the lane end, as LanesLoad and LanesStore ask. -/
theorem test_lanes_end :
    (match vaRead (engineKeep (fetched (word 0x50 0 1 2 0 0) (grp [(2, 0x4004)])) 0) 0 (laneOwner 0 0 0) .read 0x4004 4
        (fetched (word 0x50 0 1 2 0 0) (grp [(2, 0x4004)])) with
      | (.data b, _) => !anyPoison b && ofBytes (plain b) == 0x50001020
      | _ => false) = true
    ∧ (match vaWrite .cache 0 (laneOwner 0 0 0) 0x5000 (toBytes 4 1) false (fetched (word 0x51 0 1 2 0 0) (grp [])) with
      | (.done, _) => true
      | _ => false) = true := by decide +kernel

/-- A slot of 64 bytes with the sum 1.0: EXRD to FP32 gives it, and EXACT_ADD adds 1.0 and 2.0; a misaligned slot is refused. -/
theorem test_exact_slots :
    leaves (.exrd 0 0) (word 0x53 5 1 2 0 0 (aux := 1)) [(2, 0x8000)] 1 1 0 = true
    ∧ (match place 0 .read 0x8000 (fetched (word 0x53 5 1 2 0 0 (aux := 1)) (grp [(2, 0x8000)])) with
      | (.pool 0x8000 false, s2) => !rangePoisoned s2 0x8000 64 && s2.coh.txns.isEmpty && s2.coh.queue.isEmpty && s2.coh.snoops.isEmpty
        && s2.coh.resps.isEmpty && s2.coh.wbuf.isEmpty && dirEntry s2 256 == none && scCopy s2 256 == none && dieLocal s2 0x8000 == none
        && s2.coh.priv.all fun p => p.line != 256
      | _ => false) = true
    ∧ (after (.exactAdd 0x8000 false [0x3F800000, 0x40000000]) up fun t =>
      slotNow t 0x8000 false == [0x3F800000, 0x40000000].foldl (fun b v => slotAdd false b v) (slotNow up 0x8000 false)
        && encodeNum .fp32 (convertNum .fp32 .rne .ieee 0 (slotNum .rne false (slotNow t 0x8000 false))) == 0x40400000
        && t.pool == up.pool) = true
    ∧ (after (.exactAdd 0x8000 true [0x3FF0000000000000]) up fun t =>
      slotNow t 0x8000 true == [0x3FF0000000000000].foldl (fun b v => slotAdd true b v) (slotNow up 0x8000 true)) = true
    ∧ (after (.exactAdd 0x8001 false [0]) up fun t => t == up) = true := by decide +kernel

/-- A tensor of two INT8 elements at 0x5000, its descriptor at 0x4080, and two bytes in scratch. -/
def tensored (op : Nat) : State :=
  let s := withScratch (word op 0 0 2 4 8 (aux := 0x40)) [(2, 0x4080), (4, 8), (8, 0), (9, 0), (16, 2), (17, 1)] [(8, 5), (9, 6)]
  let m := [(0x4081, 0x50), (0x4098, 114), (0x40A0, 2), (0x40A4, 1), (0x40AC, 1), (0x40B0, 2)].foldl (fun m p => memWrite m p.1 [p.2]) s.pool.mem
  { s with pool := { s.pool with mem := m } }

theorem test_boxes :
    (match vaRead .once 0 (laneOwner 0 0 0) .read 0x4080 128 (tensored 0x55) with
      | (.data b, _) => !anyPoison b && !tensorBad (parseTensor 0x4080 (plain b)) && !tensorFmtBad (parseTensor 0x4080 (plain b))
      | _ => false) = true
    ∧ (after (.tcopy 0 0) (tensored 0x55) fun t => (t.engine 0).copies.map (fun r => (r.len, r.dst, r.va, r.counter)) == [(2, 8, 0x4080, 0)]) = true
    ∧ (after (.tstore 0 0) (tensored 0x56) fun t => plain (lineBytes t 0x5000 2) == [5, 6]
      && (tfind (t.engine 0).slots 0).map (fun g => g.paths.map (·.pc)) == some [0x4008]) = true
    ∧ pth.tstore = none ∧ 8 + 2 ≤ spaceSize grant 1 := by decide +kernel

theorem test_quiet_home : QuietHome up ∧ poolBacked 0x8000 = true :=
  ⟨⟨rfl, rfl, rfl, rfl, rfl, rfl, rfl, rfl, rfl, rfl⟩, by decide +kernel⟩

/-- A copy that runs: 4 bytes from 0x4000 to scratch offset 8 under counter 0. -/
def copying : CopyRun := { id := 0, ring := 0, element := 0, toStaging := false, dst := 8, counter := 0, va := 0x4000, len := 4 }
def withCopy : State := { at_ 0x1122334455667788 (grp []) with
  engines := [(0, { mode := 3, grants := [grant], slots := [(0, grp [])], copies := [copying] })] }

theorem test_copies :
    (after (.copy 0 0) (at_ (word 0x54 0 0 2 4 5 (aux := 0x40)) (grp [(2, 0x4000), (4, 8), (5, 4)])) fun t =>
      (t.engine 0).copies == [copying]) = true
    ∧ (after (.copy 0 0) (at_ (word 0x54 0 0 2 4 5 (aux := 0x40)) (grp [(2, 0x4000), (4, 8)])) fun t => (t.engine 0).copies.isEmpty) = true
    ∧ 8 + 4 ≤ spaceSize grant 1 ∧ bit prg.counters 0 = true
    ∧ (after (.copyDataArrive 0 0 3) withCopy fun t =>
      (t.engine 0).copies == [{ copying with done := 3 }] && tget 0 (t.engine 0).counters 0 == 3) = true
    ∧ (after (.copyDataArrive 0 0 4) withCopy fun t => (t.engine 0).copies.isEmpty && tget 0 (t.engine 0).counters 0 == 4
        && (grantOf (t.engine 0) 0).map (fun gr => ofBytes (memRead gr.scratch 8 4)) == some 0x55667788) = true
    ∧ (match vaRead .once 0 (.engine 0 8192) .read 0x4000 4 withCopy with
      | (.data b, s1) => b.length == 4 && s1.engine 0 == withCopy.engine 0
      | _ => false) = true := by decide +kernel

/-- A path that waits for counter 0 to reach 4. -/
def waiting : Group := { ring := 0, index := 0, paths := [{ pth with st := .counter 0 4 }] }
def counted (n : BitVec 32) (g : Group) (w : Nat) : State := { at_ w g with
  engines := [(0, { mode := 3, grants := [grant], slots := [(0, g)], counters := if n = 0 then [] else [(0, n)] })] }

theorem test_counters_and_waits :
    (after (.rdcnt 0 0) (counted 7 (grp []) (word 0x57 0 1 0 0 0)) fun t =>
      match tfind (t.engine 0).slots 0 with | some g => regRead g 0 1 1 == 7 | none => false) = true
    ∧ (after (.setcnt 0 0) (at_ (word 0x58 0 0 1 0 0) (grp [(1, 9)])) fun t => tget 0 (t.engine 0).counters 0 == 9) = true
    ∧ (after (.setcnt 0 0) (at_ (word 0x58 0 0 1 0 0 (aux := 1)) (grp [(1, 9)])) fun t =>
      (programOf t 0).bind (·.stop) == some { status := 0x31, role := 11, reason := 0xF, element := 0, address := 0x4000 }) = true
    ∧ pathsAfter (.wait 0 0) (word 0x59 0 0 1 0 0) [] [] = some [{ pth with pc := 0x4008 }]
    ∧ pathsAfter (.wait 0 0) (word 0x59 0 0 1 0 0) [(1, 4)] [] = some [{ pth with pc := 0x4008, st := .counter 0 4 }]
    ∧ (after (.waitSatisfied 0 0) (counted 4 waiting 0) fun t => (tfind (t.engine 0).slots 0).map (·.paths) == some [pth]) = true
    ∧ (after (.waitTimeout 0 0) (counted 0 waiting 0) fun t => (programOf t 0).bind (·.stop) == some { status := 0x51, element := 0 }) = true
    ∧ pathsAfter (.fence 0 0) (word 0x5A 0 0 0 0 0 (ord := 3)) [] [] = some [{ pth with pc := 0x4008 }] := by decide +kernel

/-- An illegal word: type code 15 of IADD, FENCE with ORD 0, and an opcode that no instruction has; and a stopped program. -/
theorem test_illegal_words_stop :
    legal (word 1 15 1 2 3 0) 32 = false ∧ formOf (word 0xFF 0 0 0 0 0) = none
    ∧ ([(Instr.iadd 0 0, word 1 15 1 2 3 0), (.nop 0 0, word 0xFF 0 0 0 0 0), (.fence 0 0, word 0x5A 0 0 0 0 0)].all fun p =>
      after p.1 (at_ p.2 (grp [])) fun t =>
      (programOf t 0).bind (·.stop) == some { status := 0x31, role := 12, reason := 0xF, element := 0, address := 0x4000 }) = true
    ∧ (after (.iadd 0 0) (at_ (word 1 15 1 2 3 0) (grp [])) fun t => after (.nop 0 0) t fun u =>
      (programOf t 0).any (·.stop.isSome) && u.engines == t.engines && u.rings == t.rings) = true := by
  decide +kernel

/-- A program of one group of a grid of 2 that has an engine, none of its groups resident. -/
def starting : State := { at_ 0 (grp []) with
  rings := [(0, { State.reset.ring 0 with state := .running, op := some (.program { prg with used := [0], grid := 2, live := [] }) })]
  engines := [(0, { mode := 3, grants := [grant] })] }

theorem test_groups_start_and_engines_recover :
    (after (.groupStart 0 0) starting fun t => match tfind (t.engine 0).slots 0 with
      | some g => g.paths == [{ pc := 0x4000, lanes := 0xFFFFFFFF }] && g.regs.isEmpty && (programOf t 0).map (·.next) == some 1
      | none => false) = true
    ∧ (after (.recoveryModeExit 0) starting fun t => (t.engine 0).mode == 0) = true
    ∧ (after (.engineCheckDone 1) up fun t => (up.engine 1).mode == 1 && (t.engine 1).mode == 0 && (t.engine 1).reason == 0) = true := by
  decide +kernel

/-! ### Coherence, cores and memory -/

/-- A line of data. -/
def full (b : Byte) : List Byte := List.replicate 128 b

/-- Line 100 held by a cache in a state, as the directory knows. -/
def heldIn (c : Nat) (st : LineState) (d : DirEntry) : State := { up with
  coh := { State.reset.coh with
    priv := [{ cache := c, line := 100, st := st, data := full 7 }]
    dir := [(dirBase 100, d)] } }
def alone (c : Nat) : DirEntry := { line := 100, excl := true, ids := [c] }
/-- Line 100 shared by caches, the first the F holder. -/
def shared (l : List Nat) : DirEntry := { line := 100, excl := false, ids := l, fwd := l.head? }

/-- Line 100 of the module after reset is idle. -/
theorem test_idle_line : IdleLine up 100 ∧ NoHotPages up ∧ QueueWaits up := by
  refine ⟨?_, Or.inl (by decide +kernel), fun _ h => (List.not_mem_nil h).elim⟩
  exact {
    free := by decide +kernel, unqueued := by decide +kernel, room := by decide +kernel, shared := by decide +kernel
    backed := by decide +kernel, unheld := by decide +kernel
    quiet := ⟨fun _ h => (List.not_mem_nil h).elim, fun _ h => (List.not_mem_nil h).elim⟩
    whole := fun l h => by
      have : scCopy up 100 = none := by decide +kernel
      rw [this] at h; cases h
    placed := fun i l h _ => (List.not_mem_nil h).elim }

/-- The transaction of line 100 after a command is granted. -/
def granted (c : Instr) (s : State) (p : Txn → State → Bool) : Bool :=
  after c s fun t => match txnOf t 100 with | some x => x.granted && p x t | none => false

theorem test_requests_on_an_unheld_line :
    cacheOn up 544 = true ∧ privOf up 544 100 = none
    ∧ ([Instr.rds 544 100, .rdu 544 100, .upg 544 100].all fun c =>
      granted c up fun x t => x.data == zeroLine && !x.acked && dirEntry t 100 == some (alone 544)) = true
    ∧ (granted (.rdonce 544 100) up fun x t => x.data == zeroLine && dirEntry t 100 == none) = true
    ∧ (granted (.wrline 544 12804 [1, 2]) up fun _ t => (homeLine t 100).1 == patch zeroLine 4 [1, 2]) = true
    ∧ (granted (.atomRequest 544 12808 ⟨.add, 4, 5, 0, []⟩) up fun x t => x.result == 0 && (homeLine t 100).1 == patch zeroLine 8 [5, 0, 0, 0]) = true := by
  decide +kernel

/-- The snoops that wait after a command. -/
def snoopsAfter (c : Instr) (s : State) : Option (List (Nat × SnoopKind)) :=
  match exec c s with
  | .next t => some (t.coh.snoops.map fun n => (n.cache, n.kind))
  | _ => none

theorem test_snoops_of_table_3 :
    [Instr.rds 544 100, .rdu 544 100, .rdonce 544 100, .wrline 544 12800 [0]].map (fun c => snoopsAfter c (heldIn 1 .m (alone 1)))
      = [some [(1, .share)], some [(1, .unique)], some [(1, .clean)], some [(1, .invalidate)]]
    ∧ snoopsAfter (.slotLock 100 101) { heldIn 1 .m { alone 1 with line := 101 } with coh := { (heldIn 1 .m (alone 1)).coh with
        dir := [(dirBase 101, { alone 1 with line := 101 })] } } = some [(1, .invalidate)]
    ∧ snoopsAfter (.rds 544 100) (heldIn 1 .f (shared [1, 2])) = some [(1, .forward)]
    ∧ snoopsAfter (.rdu 544 100) (heldIn 1 .f (shared [1, 2])) = some [(1, .invalidate), (2, .invalidate)]
    ∧ dirEntry (heldIn 1 .m (alone 1)) 100 = some (alone 1) ∧ lineQueued (heldIn 1 .m (alone 1)) 100 = false := by decide +kernel

/-- A snoop of line 100 waits at a cache that holds it. -/
def snooped (c : Nat) (st : LineState) (k : SnoopKind) (x : Core := {}) : State :=
  let s := heldIn c st (alone c)
  { s with coh := { s.coh with snoops := [{ line := 100, cache := c, kind := k }], cores := if x = {} then [] else [(c - 544, x)] } }

theorem test_snoops_are_answered_and_slots_lock :
    (after (.slotLock 100 101) up fun t => match txnOf t 101 with | some x => x.granted && x.acked | none => false) = true
    ∧ (after (.snoopReceive 1 100) (snooped 1 .m .share) fun t =>
      t.coh.resps.map (fun r => (r.hit, r.dirty, r.data)) == [(true, true, full 7)] && (privOf t 1 100).map (·.st) == some .s
        && t.coh.snoops.isEmpty) = true
    ∧ (after (.snoopReceive 1 100) (snooped 1 .m .clean) fun t => (privOf t 1 100).map (·.st) == some .e) = true
    ∧ (after (.snoopReceive 1 100) (snooped 1 .m .unique) fun t => privOf t 1 100 == none) = true
    ∧ snoopDelayed (snooped 545 .m .unique { reservation := some 100, lrDelay := true }) { line := 100, cache := 545, kind := .unique } = true
    ∧ (after (.snoopReceive 545 100) (snooped 545 .m .unique { reservation := some 100, lrDelay := true }) fun t =>
      t.coh.snoops == [{ line := 100, cache := 545, kind := .unique, delayed := true }] && t.coh.resps.isEmpty) = true
    ∧ (after (.lrSnoopDelayExpire 1) { snooped 545 .m .unique { reservation := some 100, lrDelay := true } with
        coh := { (snooped 545 .m .unique { reservation := some 100, lrDelay := true }).coh with
          snoops := [{ line := 100, cache := 545, kind := .unique, delayed := true }] } } fun t =>
      t.coh.snoops.isEmpty && t.coh.resps.length == 1 && !(t.core 1).lrDelay) = true := by decide +kernel

/-- A transaction of cache 544 on line 100. -/
def transacting (x : Txn) (resps : List SnoopResp := []) (d : DirEntry := alone 1) : State := { up with
  coh := { State.reset.coh with dir := [(dirBase 100, d)], txns := [x], resps := resps } }
def hit : SnoopResp := { line := 100, cache := 1, hit := true, dirty := true, data := full 7 }

theorem test_grants_reach_their_requester :
    (granted (.snoopResponseReceive 100 1) (transacting { line := 100, req := .rds, agent := 544, waitFor := [1] } [hit]) fun x t =>
      x.data == full 7 && t.coh.resps.isEmpty) = true
    ∧ (after (.snoopResponseReceive 100 1) (transacting { line := 100, req := .rds, agent := 544, waitFor := [1, 2] } [hit]) fun t =>
      (txnOf t 100).map (fun x => (x.granted, x.waitFor, x.data)) == some (false, [2], full 7)) = true
    ∧ (after (.coherenceDataReceive 100) (transacting { line := 100, req := .rdu, agent := 544, data := full 7, granted := true } [] (alone 544)) fun t =>
      privOf t 544 100 == some { cache := 544, line := 100, st := .m, data := full 7 } && (txnOf t 100).map (·.acked) == some true) = true
    ∧ (after (.coherenceDataReceive 100)
        (transacting { line := 100, req := .rds, agent := 544, data := full 7, granted := true } [] (shared [1, 544])) fun t =>
      (privOf t 544 100).map (·.st) == some .f) = true
    ∧ (after (.coherenceDataReceive 100) (transacting { line := 100, req := .rdonce 0 128, agent := 544, data := full 7, granted := true }) fun t =>
      t.coh.priv.isEmpty) = true
    ∧ dirShows (transacting { line := 100, req := .rdu, agent := 544 } [] (alone 544)) 544 100 = true ∧ 0 < privWays up 544
    ∧ (after (.coherenceDataReceive 100) (transacting { line := 100, req := .rdu, agent := 544, data := full 7, granted := true }) fun t =>
      t.coh.priv.isEmpty) = true
    ∧ (after (.finalAckReceive 100) (transacting { line := 100, req := .rdu, agent := 544, granted := true, acked := true }) fun t =>
      t.coh.txns.isEmpty) = true := by decide +kernel

theorem test_write_backs_evictions_and_loans :
    ownerOf (heldIn 544 .m (alone 544)) 100 = some 544 ∧ direct (heldIn 544 .m (alone 544)) 544 100 = false
    ∧ (after (.wb 544 100) (heldIn 544 .m (alone 544)) fun t => privOf t 544 100 == none && t.coh.wbAcks == [(544, 100)]
      && dirEntry t 100 == none && (homeLine t 100).1 == full 7
      && after (.wbAckReceive 544 100) t fun u => u.coh.wbuf.isEmpty && u.coh.wbAcks.isEmpty) = true
    ∧ (after (.ev 544 100) (heldIn 544 .e (alone 544)) fun t => privOf t 544 100 == none && dirEntry t 100 == none) = true
    ∧ (after (.ev 544 100) (heldIn 544 .f (shared [544, 1])) fun t =>
      dirEntry t 100 == some { line := 100, excl := false, ids := [1] }) = true
    ∧ heldOutside { up with coh := { State.reset.coh with loans := [3] } } 3 = false
    ∧ (after (.loanReturn 3) { up with coh := { State.reset.coh with loans := [3, 4] } } fun t => t.coh.loans == [4]) = true := by
  decide +kernel

/-- The directory of `heldIn` lists line 100 once. -/
theorem test_once_in_dir : ((List.range 16).filter fun w => (tfind (heldIn 544 .m (alone 544)).coh.dir (dirBase 100 + w)).isSome) = [0] := by
  decide +kernel

/-- Line 100 in memory alone, its first bytes 1, 2, 3, 4; and line 100 in the L1 instruction cache of core 0. -/
def inMemory : State := { up with pool := { up.pool with mem := memWrite [] 12800 [1, 2, 3, 4] } }
def coded : State := { up with coh := { up.coh with cores := [(0, { l1i := [{ line := 100, data := full 7, poison0 := false, poison1 := false }] })] } }

theorem test_core_loads_and_stores :
    coreServes up 0 = true ∧ fenced up 0 (readAfter 12804) = false ∧ pmpPermits {} 0 12804 4 = true
    ∧ coreRegion (coreRuns 0 {} up) 12804 4 = .pool ∧ coreRegion (coreRuns 0 {} up) 0x9000000000 4 = .unbacked
    ∧ privFreeWay (coreRuns 0 {} inMemory) 544 100 = some 0 ∧ lrHolds (coreRuns 0 {} up) 544 100 = false
    ∧ (after (.coreLoad 0 12804 { size := 4 }) (heldIn 544 .m (alone 544)) fun t =>
      (t.core 0).result == 0x07070707 && (t.core 0).exception == none) = true
    ∧ (after (.coreLoad 0 12800 { size := 4 }) inMemory fun t => (t.core 0).result == 0x04030201 && (privOf t 544 100).map (·.st) == some .e) = true
    ∧ (after (.coreLoad 0 12800 { size := 4, uncached := true }) inMemory fun t => (t.core 0).result == 0x04030201 && t.coh.priv.isEmpty) = true
    ∧ (after (.coreLoad 0 12804 { size := 4, fetch := true }) coded fun t => (t.core 0).result == 0x07070707) = true
    ∧ (after (.coreLoad 0 0x9000000000 { size := 4 }) up fun t =>
      (t.core 0).exception == some 5 && (t.core 0).tval == 0x9000000000 && t.evt.held.map (·.cls) == [0x12]) = true
    ∧ (after (.coreLoad 0 0x9000000000 { size := 4, fetch := true }) up fun t => (t.core 0).exception == some 1) = true := by decide +kernel

theorem test_core_stores_and_zeros :
    (after (.coreStore 0 12804 { size := 4 } 0x11223344) (heldIn 544 .e (alone 544)) fun t => privOf t 544 100 ==
      some { cache := 544, line := 100, st := .m, data := patch (full 7) 4 [0x44, 0x33, 0x22, 0x11] }) = true
    ∧ (after (.coreStore 0 12804 { size := 4 } 0x11223344) inMemory fun t => (privOf t 544 100).map (fun q => (q.st, q.data)) ==
      some (.m, patch zeroLine 0 [1, 2, 3, 4, 0x44, 0x33, 0x22, 0x11]) && dirEntry t 100 == some (alone 544) && t.coh.txns.isEmpty) = true
    ∧ (after (.coreStore 0 12804 { size := 4, uncached := true } 0x11223344) inMemory fun t =>
      dramLine t 100 == patch zeroLine 0 [1, 2, 3, 4, 0x44, 0x33, 0x22, 0x11] && t.coh.priv.isEmpty) = true
    ∧ (after (.cboZero 0 { addr := 12804 }) inMemory fun t => homeLine t 100 == (zeroLine, false, false) && t.coh.priv.isEmpty
      && t.coh.txns.isEmpty && dirEntry t 100 == none) = true
    ∧ (after (.cboZero 0 ⟨12804, { mode := .u, menvcfg := 0x80 }, false⟩) inMemory fun t => (t.core 0).exception == some 2 && t.pool == inMemory.pool) = true
    ∧ envcfgAll {} (bit · 7) = true ∧ envcfgAll { mode := .u, menvcfg := 0x80 } (bit · 7) = false := by
  decide +kernel

/-- Core 0 waits at a FENCE for its fabric stores, and what the FENCE orders after itself waits. -/
theorem test_fence_holds_later_loads :
    let s : State := { up with
      coh := { up.coh with cores := [(0, { waitsFence := true, fence := { predI := true, predO := true, predR := true, predW := true } })] }
      fab := { up.fab with tx := [{ peer := 1, seq := 0, kind := .put, ordered := false, offset := 0, length := 8, owner := .core 0 }] } }
    fenced s 0 (readAfter 12804) = true ∧ (after (.coreLoad 0 12804 { size := 4 }) s fun t => t == s) = true := by decide +kernel

/-- A core that holds a reservation on line 100. -/
def reserved : State :=
  let s := heldIn 544 .m (alone 544)
  { s with coh := { s.coh with cores := [(0, { reservation := some 100, lrDelay := true })] } }

theorem test_core_atomics_and_reservations :
    coreAtomKnown ⟨.add, 4, 5, 0, []⟩ = true
    ∧ (after (.coreAmo 0 12808 ⟨{ size := 4 }, .add, 4, 5, 0, []⟩) up fun t => (t.core 0).result == 0 && (homeLine t 100).1 == patch zeroLine 8 [5, 0, 0, 0]
      && t.coh.txns.isEmpty) = true
    ∧ (after (.coreAmo 0 12810 ⟨{ size := 4 }, .add, 4, 5, 0, []⟩) up fun t => (t.core 0).exception == some 6) = true
    ∧ (after (.coreLr 0 12800 { size := 4 }) (heldIn 544 .e (alone 544)) fun t => (t.core 0).reservation == some 100 && (t.core 0).lrDelay
      && (t.core 0).result == 0x07070707) = true
    ∧ (after (.coreSc 0 12800 { size := 4 } 1) reserved fun t => (t.core 0).result == 0 && (t.core 0).reservation == none
      && (privOf t 544 100).map (·.data) == some (patch (full 7) 0 [1, 0, 0, 0])) = true
    ∧ (after (.coreSc 0 12800 { size := 4 } 1) (heldIn 544 .m (alone 544)) fun t => (t.core 0).result == 1 && t.coh.priv == (heldIn 544 .m (alone 544)).coh.priv) = true := by
  decide +kernel

theorem test_core_maintenance_and_fences :
    (dirtyCopy (heldIn 544 .m (alone 544)) 100).map (·.cache) = some 544 ∧ scCopy (heldIn 544 .m (alone 544)) 100 = none
    ∧ (after (.cboClean 0 { addr := 12800 }) (heldIn 544 .m (alone 544)) fun t => dramLine t 100 == full 7 && (privOf t 544 100).map (·.st) == some .e) = true
    ∧ (after (.cboFlush 0 { addr := 12800 }) (heldIn 544 .m (alone 544)) fun t => dramLine t 100 == full 7 && t.coh.priv.isEmpty) = true
    ∧ (after (.cboInval 0 12800 {}) (heldIn 544 .m (alone 544)) fun t => dramLine t 100 == zeroLine && t.coh.priv.isEmpty) = true
    ∧ (after (.cboClean 0 ⟨12800, { mode := .u }, false⟩) (heldIn 544 .m (alone 544)) fun t => (t.core 0).exception == some 2) = true
    ∧ (after (.cboInval 0 12800 { mode := .u }) (heldIn 544 .m (alone 544)) fun t => (t.core 0).exception == some 2) = true
    ∧ cbieOff { mode := .u } = true ∧ cbieOff {} = false ∧ cbieFlush {} = false
    ∧ (after (.coreFence 0 { predI := false, predO := false, predR := false, predW := false, fencei := true }) coded fun t => (t.core 0).l1i.isEmpty) = true
    ∧ (after (.coreFence 0 { predI := true, predO := true, predR := true, predW := true }) up
      fun t => !(t.core 0).waitsFence) = true
    ∧ (after (.coreWfi 0) up fun t => (t.core 0).wfi) = true := by decide +kernel

/-- A line in the system cache with no sector valid, and a hot-page counter. -/
def cached : State := { up with coh := { State.reset.coh with sc := [(scBase 100, { line := 100, data := zeroLine })] } }
def counting (decay : Word) : State := { up with xlt := { State.reset.xlt with hotpage := decay <<< 48, hot := [(16, ⟨1, 2, 9, true⟩)] } }

theorem test_memory_errors_and_hot_pages :
    flag up.pool.scrub 0 = true
    ∧ (after (.patrolScrub 200 9) up fun t => t.pool.poison == [200] && t.evt.held.map (fun o => (o.cls, o.reason, o.addr)) == [(0x10, 1, 12800)]) = true
    ∧ (after (.memoryReadReturn 0x400000000 3) up fun t => t.evt.held.map (fun o => (o.cls, o.reason)) == [(0x10, 2)]) = true
    ∧ (after (.memoryReadReturn 200 8) cached fun t => (tfind t.coh.sc (scBase 100)).map (·.valid0) == some true) = true
    ∧ (after .hotpageDecay (counting 1) fun t => tfind t.xlt.hot 16 == some ⟨1, 2, 4, true⟩) = true
    ∧ (after .hotpageDecay (counting 0) fun t => t == counting 0) = true
    ∧ hotThreshold (counting 0).xlt 2 = 0 := by decide +kernel

/-! ### Rings -/

/-- A ring of 64 descriptors in device memory, enabled. -/
def ring0 : Ring := { sq := 0x10006, cq := 0x20006, cfg := 1, state := .idle, log2 := 6 }
def withRing (q : Ring) : State := { up with rings := [(5, q)] }
def withRings (q r : Ring) : State := { up with rings := [(5, q), (6, r)] }

/-- The 64 bytes of a descriptor with phase 1, sequence 0 and tag 0xABCDEF. -/
def descr (kind : Nat) (rest : List Byte) : List Byte :=
  let b := toBytes 8 (0xABCDEF0000010000 + kind) ++ rest
  b ++ List.replicate (64 - b.length) 0

/-- Ring 5 has accepted its only descriptor. -/
def taken (kind : Nat) (rest : List Byte) : Ring :=
  { ring0 with tail := 1, head := 1, state := .running, kind := kind, desc := some (descr kind rest) }

/-- Ring 5 runs an operation. -/
def busy (o : Op) : Ring := { taken 0 [] with op := some o }

/-- Ring 5 completed its descriptor with a status, which its record tells. -/
def ended (status completed : Nat) (t : State) : Bool :=
  (t.ring 5).completed.toNat == completed && (t.ring 5).last.w0 % 256 == status && (t.ring 5).op.isNone
  && (t.ring 5).state == (if status ≤ 1 then .idle else .stopped)

theorem test_doorbell_cases :
    doorbellsClosed (wakeUp .doorbell (withRing ring0)) = false ∧ wakeUp .doorbell (withRing ring0) = withRing ring0
    ∧ (after (.ringDb 5 .whole 1) (withRing {}) fun t => (t.ring 5).dbErr
        && t.evt.held.map (fun o => (o.cls, o.reason, o.param)) == [(0x24, 2, 5)]) = true
    ∧ (after (.ringDb 5 .whole 1) (withRing { ring0 with state := .frozen }) fun t => (t.ring 5).tail == 0) = true
    ∧ (after (.ringDb 5 .whole 0x700000000) (withRing ring0) fun t => (t.ring 5).dbTag == 7 && (t.ring 5).tail == 0) = true
    ∧ (after (.ringDb 5 .low 0xFFFFFFFF) (withRing ring0) fun t => (t.ring 5).tail == 0 && !(t.ring 5).dbErr) = true
    ∧ (after (.ringDb 5 .low 65) (withRing ring0) fun t => (t.ring 5).dbErr
        && t.evt.held.map (fun o => (o.cls, o.reason, o.addr)) == [(0x24, 1, 65)]) = true
    ∧ (after (.ringDb 5 .low 64) (withRing ring0) fun t => (t.ring 5).tail == 64 && (t.ring 5).state == .running
        && (t.ring 5).reading) = true
    ∧ (after (.ringDb 5 .low 2) (withRing { ring0 with state := .stopped }) fun t => (t.ring 5).tail == 2
        && (t.ring 5).state == .stopped) = true := by decide +kernel

theorem test_ring_set_up :
    carried up 5 = false
    ∧ (after (.ringCfgWrite 5 .whole 1) (withRing { sq := 0x10006, cq := 0x20006 }) fun t => (t.ring 5).state == .idle) = true
    ∧ (after (.ringCfgWrite 5 .whole 1) (withRing { sq := 0x10005, cq := 0x20006 }) fun t => (t.ring 5).cfgErr && !ringEn (t.ring 5)) = true
    ∧ (after (.ringCfgWrite 5 .whole 1) (withRing { sq := 0x10011, cq := 0x20006 }) fun t => (t.ring 5).cfgErr) = true
    ∧ (after (.ringCfgWrite 5 .whole 0) (withRing ring0) fun t => (t.ring 5).state == .disabled) = true
    ∧ (after (.ringCfgWrite 5 .whole 0) (withRing { ring0 with state := .running }) fun t => (t.ring 5).cfgErr && ringEn (t.ring 5)) = true
    ∧ (after (.ringCfgWrite 5 .whole 0x1001) (withRing ring0) fun t => t == withRing ring0) = true := by decide +kernel

/-- The event ring with a base in device memory. -/
def evented (cfg : Word) (held : List Onion) : State := { up with evt := { base := 0x30006, cfg := cfg, held := held } }

theorem test_event_ring_set_up :
    ringPlaceOk (evented 0 []).evt.base (64 * 2 ^ ringLog2 (evented 0 []).evt.base) = true
    ∧ (after (.eventRingCfgWrite .whole 1) (evented 0 []) fun t => flag t.evt.cfg 0 && t.evt.produced == 0) = true
    ∧ (after (.eventRingCfgWrite .whole 1) (evented 0 [{ cls := 0x22, reason := 7 }]) fun t => t.evt.held.isEmpty
        && t.evt.produced == 1 && (homeLine t 1536).1 != zeroLine) = true
    ∧ (after (.eventRingHeadWrite .whole 3) (evented 1 []) fun t => t.evt.head == 3) = true := by decide +kernel

theorem test_ring_aborts :
    (after (.abort 5) (withRing { ring0 with tail := 1, state := .rereading, rereads := 3 }) fun t => (t.ring 5).state == .stopped
        && (t.ring 5).sdesc && (t.ring 5).last == {}) = true
    ∧ recordWaits 5 (withRing ring0) = false
    ∧ (after (.abort 5) (withRing (busy (.wait 1 6 0))) (ended 0x42 0)) = true
    ∧ opAdmitted (.chain {}) = false ∧ (after (.abort 5) (withRing (busy (.chain {}))) (ended 0x42 0)) = true
    ∧ (after (.abort 5) (withRing (taken 1 [])) (ended 0x42 0)) = true
    ∧ (after (.abort 5) (withRing (busy (.push { length := 8, issued := 8 }))) fun t => (t.ring 5).state == .aborting) = true
    ∧ (after (.abort 5) (withRing (busy (.fabric { op := 5 }))) fun t => (t.ring 5).state == .aborting) = true
    ∧ (after (.abort 5) (withRing ring0) fun t => (t.ring 5).cfgErr) = true := by decide +kernel

theorem test_ring_restarts :
    (withRing { taken 0 [] with state := .stopped, sdesc := true, op := none }).pwr.rung = 0
    ∧ (after (.restartNext 5) (withRing { taken 0 [] with state := .stopped, sdesc := true }) fun t =>
        (t.ring 5).head == 1 && (t.ring 5).completed == 1 && (t.ring 5).state == .idle) = true
    ∧ (after (.restartSame 5) (withRing { taken 0 [] with state := .stopped, sdesc := true }) fun t =>
        (t.ring 5).head == 0 && (t.ring 5).completed == 0 && (t.ring 5).state == .running && (t.ring 5).reading) = true
    ∧ (after (.restartSame 5) (withRing { ring0 with state := .stopped }) fun t => (t.ring 5).state == .idle) = true
    ∧ (after (.restartNext 5) (withRing ring0) fun t => (t.ring 5).cfgErr) = true
    ∧ (after (.clrErr 5) (withRing { ring0 with dbErr := true, cfgErr := true }) fun t => t == withRing ring0) = true := by decide +kernel

/-- Ring 5 reads the descriptor at index 0, whose bytes stand in its memory. -/
def fetching (b : List Byte) (again : Nat) : State :=
  storePool .once agentHub 0x10000 b false (withRing { ring0 with tail := 1, state := .running, reading := true, rereads := again })

theorem test_descriptor_reads :
    isReading ((fetching (descr 0 []) 0).ring 5) = true
    ∧ plain (poolRead .once agentHub (descAddr ((fetching (descr 0 []) 0).ring 5)) 64 (fetching (descr 0 []) 0)).1 = descr 0 []
    ∧ (after (.descReadReturn 5) (fetching (descr 0 []) 0) fun t => (t.ring 5).head == 1 && (t.ring 5).desc == some (descr 0 [])) = true
    ∧ (after (.descReadReturn 5) (fetching (descr 0 [1]) 0) (ended 0x13 0)) = true
    ∧ (after (.descReadReturn 5) (withRing { ring0 with tail := 1, state := .running, reading := true }) fun t =>
        (t.ring 5).state == .rereading && (t.ring 5).head == 0) = true
    ∧ (after (.descReadReturn 5) (withRing { ring0 with tail := 1, state := .rereading, reading := true, rereads := 64 })
        fun t => (t.ring 5).state == .stopped && (t.ring 5).sdesc && (t.ring 5).last.w0 % 256 == 0x20) = true
    ∧ (after (.descReread 5) (withRing { ring0 with tail := 1, state := .rereading }) fun t => (t.ring 5).reading
        && (t.ring 5).rereads == 1) = true := by decide +kernel

/-- The payload of a WAIT for count 3 of a ring. -/
def waitFor (w : Nat) : List Byte := toBytes 4 3 ++ toBytes 2 w

theorem test_nop_and_wait :
    descOf (withRing (taken 0 [])) 5 0 = some (descr 0 []) ∧ admits (withRing (taken 0 [])) = true
    ∧ (after (.descNop 5) (withRing (taken 0 [])) (ended 0 1)) = true
    ∧ (after (.descNop 5) (withRing (taken 0 [])) fun t => (t.ring 5).last.w0 == 0xABCDEF0000014100) = true
    ∧ descOf (withRing (taken 0x0B (waitFor 5))) 5 0x0B = some (descr 0x0B (waitFor 5))
    ∧ (after (.descWait 5) (withRing (taken 0x0B (waitFor 5))) (ended 0x13 0)) = true
    ∧ (after (.descWait 5) (withRings (taken 0x0B (waitFor 6)) { ring0 with completed := 3 }) (ended 0 1)) = true
    ∧ (after (.descWait 5) (withRings (taken 0x0B (waitFor 6)) { ring0 with completed := 2 }) fun t =>
        (t.ring 5).state == .waiting && (t.ring 5).op == some (.wait 3 6 0)) = true
    ∧ (after (.ringWaitSatisfied 5) (withRings { busy (.wait 3 6 1) with state := .waiting } { ring0 with completed := 4 })
        fun t => ended 0 1 t && (t.ring 5).progress == 4) = true
    ∧ (after (.waitExpired 5) (withRings { busy (.wait 3 6 1) with state := .waiting } { ring0 with completed := 2 })
        fun t => ended 0x21 0 t && (t.ring 5).progress == 2) = true := by decide +kernel

/-- A record of ring 5 goes at once; with its completion ring at the host it waits in an episode until the limit has passed. -/
def episode (past : Bool) : State :=
  let s := withRing { taken 0 [] with cq := 0x8000000000020006 }
  { s with link := { s.link with bme := false, episode := some { limitPassed := past } } }

theorem test_record_goes :
    recordWaits 5 (withRing (taken 0 [])) = false ∧ ringHost ((withRing (taken 0 [])).ring 5).cq = false ∧ up.link.scrubOwed = false
    ∧ ringHost ((episode false).ring 5).cq = true ∧ recordWaits 5 (episode false) = true ∧ limitPassed (episode true) = true
    ∧ NoHotPages up ∧ hostSource up 0x100 3 = none := by
  refine ⟨by decide +kernel, by decide +kernel, rfl, by decide +kernel, by decide +kernel, by decide +kernel, Or.inl (by decide +kernel), by decide +kernel⟩

/-- The payload of a push. -/
def pushOfBytes (src dst len : Nat) : List Byte := toBytes 8 src ++ toBytes 8 dst ++ toBytes 8 len

theorem test_push :
    descOf (withRing (taken 7 (pushOfBytes 0 0 0))) 5 7 = some (descr 7 (pushOfBytes 0 0 0))
    ∧ (after (.push 5) (withRing (taken 7 (pushOfBytes 0x100 0x200 0))) (ended 0x13 0)) = true
    ∧ (after (.push 5) (withRing (taken 7 (pushOfBytes 0x100 0x200 (2 ^ 40 + 1)))) (ended 0x13 0)) = true
    ∧ (after (.push 5) (withRing (taken 7 (pushOfBytes 0x100 hioTop 1))) (ended 0x13 0)) = true := by decide +kernel

/-- The L2 TLB maps page 0 to itself. -/
def mapped (s : State) : State := l2Fill { va := 0, log2 := 12, pa := 0, flags := 0xDF, pbmt := 0 } s

theorem test_push_issues :
    let s := storePool .once agentHub 0x100 [1, 2, 3] false (mapped (withRing (taken 7 (pushOfBytes 0x100 0x200 3))))
    (match vaRead .once agentHub (.ring 5) .read 0x100 3 s with
      | (.data b, u) => plain b == [1, 2, 3] && !anyPoison b && canSend u && decide (7 ≤ u.link.mpsLog2) && u.rings == s.rings
      | _ => false) = true
    ∧ (after (.push 5) s fun t => t.link.posted == [{ owner := .ring 5, hio := 0x200, bytes := [1, 2, 3] }]
        && (pushOf t 5).map (fun p => (p.issued, p.acked)) == some (3, 0)) = true := by decide +kernel

/-- MSI-X enabled, with moderation on ring 5's vector 9 and on the event ring, and a record that waits on each. -/
def moderated (masked : Bool) : State :=
  let s := withRing { ring0 with cfg := 0x13001, unsignalled := 2 }
  { s with
    link := { s.link with msixEn := true, msix := [(9, { addr := 0xFEE00000, data := 0x77, masked := masked })] }
    evt := { s.evt with cfg := 0x13001, unsignalled := 1 } }

theorem test_operation_ends :
    (after (.operationComplete 5) (withRing (busy (.push { length := 8, issued := 8, acked := 8 }))) fun t => ended 0 1 t
        && (t.ring 5).progress == 8) = true
    ∧ opEnded 5 (withRing (busy (.push { length := 8, issued := 8, acked := 8 }))) (.push { length := 8, issued := 8, acked := 8 }) = true
    ∧ (after (.operationComplete 5) (withRing (busy (.push { length := 8, issued := 8, acked := 4 }))) fun t =>
        (t.ring 5).state == .running) = true := by decide +kernel

theorem test_msix :
    canSignal (moderated false) = true ∧ flag ((moderated false).ring 5).cfg 12 = true ∧ flag (moderated false).evt.cfg 12 = true
    ∧ field ((moderated false).ring 5).cfg 13 11 = 9
    ∧ canSignal up = false ∧ up.endpoint = true
    ∧ (after (.msixTableWrite 144 8 0xFEE01000) up fun t => tget {} t.link.msix 9 == { addr := 0xFEE01000 }) = true
    ∧ (after (.msixTableWrite 152 8 0x55) up fun t => tget {} t.link.msix 9 == { data := 0x55, masked := false }) = true
    ∧ (after (.msixModerationExpire none) (moderated false) fun t => t.evt.unsignalled == 0) = true := by decide +kernel

/-! ### Chains, transforms and programs as loaded -/

/-- Page 0 of the pool, its bytes that are not 0: a chain of one output with A = (3, 5) and B = (7, 11), a transform that copies
two bytes, a program of one group, and their structures. -/
def image : List Host.Cell :=
  -- the chain descriptor: product, one share, K = Ks = 2, one array, 4 groups of 64 registers
  [(0x100, 1), (0x101, 1), (0x106, 17), (0x110, 1), (0x114, 1), (0x118, 2), (0x11C, 2), (0x120, 128), (0x121, 2),
     (0x129, 3), (0x130, 128), (0x131, 3), (0x161, 1), (0x162, 4), (0x163, 64), (0x166, 1)]
  -- A: INT8, 2 by 1
  ++ [(0x281, 4), (0x298, 114), (0x2A0, 2), (0x2A4, 1), (0x2AC, 1), (0x2B0, 2)]
  -- B: INT8, 1 by 2
  ++ [(0x300, 16), (0x301, 4), (0x318, 114), (0x320, 1), (0x324, 1), (0x32C, 2), (0x330, 1)]
  -- C: INT32, 1 by 1
  ++ [(0x380, 32), (0x381, 4), (0x398, 130), (0x3A0, 1), (0x3A4, 4), (0x3AC, 1), (0x3B0, 4)]
  -- the elements of A and B
  ++ [(0x400, 3), (0x401, 5), (0x410, 7), (0x411, 11)]
  -- the transform descriptor
  ++ [(0x500, 1), (0x502, 8), (0x510, 128), (0x511, 2), (0x519, 6)]
  -- the program descriptor
  ++ [(0x540, 1), (0x542, 1), (0x543, 32), (0x544, 1), (0x551, 8), (0x560, 1)]
  -- the destination of the transform: INT8, 2 by 1
  ++ [(0x600, 48), (0x601, 4), (0x618, 114), (0x620, 2), (0x624, 1), (0x62C, 1), (0x630, 2)]

/-- Ring 5 in a state with that page, mapped to itself. -/
def loads (q : Ring) : State :=
  let s := l2Fill { va := 0, log2 := 12, pa := 0, flags := 0xDF, pbmt := 0 } { up with rings := [(5, q)] }
  { s with pool := { s.pool with mem := image }, engines := [(0, { mode := 3 })] }

/-- The operations they give, the bytes of the tensors left out. -/
def tensor (at_ base : Nat) (fmt : Fmt) (d0 d1 : Nat × Int) : TDesc :=
  { at_ := at_, base := base, fmt := fmt, rank := 2, dims := [{ size := d0.1, stride := d0.2 }, { size := d1.1, stride := d1.2 }] }
def loadedChain : ChainRun := {
  d := { share := 1, rowGroup := 1, product := true, m := 1, n := 1, k := 2, ks := 2, aDesc := 0x280, bDesc := 0x300, cDesc := 0x380,
         arrivalMs := 1, groups := 4, regs := 64, arrays := 1 }
  a := some (tensor 0x280 0x400 .int8 (2, 1) (1, 2)), b := some (tensor 0x300 0x410 .int8 (1, 1) (2, 1))
  c := some (tensor 0x380 0x420 .int32 (1, 4) (1, 4)) }
def loadedTransform : TransformRun := {
  perm := [0, 1, 0, 0, 0, 0, 0, 0], src := tensor 0x280 0x400 .int8 (2, 1) (1, 2), dst := tensor 0x600 0x430 .int8 (2, 1) (1, 2) }
def loadedProgram : ProgramRun := { groups := 1, regs := 32, engines := 1, entry := 0x800, grid := 1 }
/-- A load answers with an operation as told. -/
def loadsAs {α : Type} (x : Load (α × State)) (p : α → Bool) : Bool := match x with | .ok (a, _) => p a | _ => false

theorem test_chain_loads :
    loadsAs (loadChain 5 0x100 (loads (taken 1 (toBytes 8 0x100)))) (fun c => c.d.m == 1) = true := by decide +kernel

theorem test_transform_and_program_load :
    loadsAs (loadTransform 5 0x500 (loads (taken 2 (toBytes 8 0x500)))) (fun x => !x.inPlace) = true
    ∧ loadsAs (loadProgram 5 0x540 (loads (taken 3 (toBytes 8 0x540)))) (· == loadedProgram) = true := by decide +kernel

theorem test_admission_of_chains :
    descOf (loads (taken 1 (toBytes 8 0x100))) 5 1 = some (descr 1 (toBytes 8 0x100)) ∧ descAddrOf (descr 1 (toBytes 8 0x120)) % 64 ≠ 0
    ∧ (after (.chain 5) (loads (taken 1 (toBytes 8 0x120))) (ended 0x13 0)) = true
    ∧ (after (.operationAdmit 5) (loads { busy (.chain loadedChain) with state := .waiting }) fun t => (t.array 0).ring == some 5) = true
    ∧ (after (.operationAdmit 5) { loads { busy (.chain loadedChain) with state := .waiting } with pwr := State.reset.pwr }
      fun t => (t.ring 5).state == .waiting) = true := by decide +kernel

theorem test_admission_of_transforms_and_programs :
    (after (.operationAdmit 5) { loads { busy (.transform loadedTransform) with state := .waiting } with
        transforms := [0, 1, 2, 3, 4, 5, 6, 7].map fun k => (k, some 1) } fun t => (t.ring 5).state == .waiting) = true
    ∧ (after (.program 5) (loads (taken 3 (toBytes 8 0x540))) fun t => (t.engine 0).grants.map (·.ring) == [5]
      && (programOf t 5).map (·.used) == some [0]) = true
    ∧ (after (.operationAdmit 5) (loads { busy (.program loadedProgram) with state := .waiting }) fun t => (t.ring 5).state == .running) = true
    ∧ (after (.operationAdmit 5) (loads { busy (.transform loadedTransform) with state := .waiting }) fun t => (t.ring 5).state == .running) = true := by
  decide +kernel

/-! ### Arrays -/

/-- The chain runs on array 0, which is left as told. -/
def runs : ChainRun := { loadedChain with admitted := true, arrays := [0] }
def onArr (c : ChainRun) (ar : Machine.Array) : State := { loads (busy (.chain c)) with arrays := [(0, { ar with ring := some 5 })] }

/-- The operands of the pass, staged, and the tile they are for. -/
def staged : Machine.Array :=
  match exec (.passStart 0) (onArr runs {}) with | .next t => t.array 0 | _ => {}

/-- The chain with its A pulled from a remote slice into a buffer. -/
def pulled : ChainRun := { runs with slices := [{ source := 0x400, kFirst := 0, counter := 2 }] }

theorem test_pass_starts_and_beats :
    arrayChain (onArr runs {}) 0 = some (5, runs) ∧ runs.d.product = true ∧ tileAt runs 0 (posOf {}) = some 0 ∧ arrived runs {} = true
    ∧ (after (.passStart 0) (onArr runs {}) fun t => (t.array 0).running && (t.array 0).stagedA == [[decodeNum .int8 3], [decodeNum .int8 5]]
      && (t.array 0).stagedB == [[decodeNum .int8 7], [decodeNum .int8 11]]) = true
    ∧ passBeats (fmtOf runs).1 (passDepth runs 0) = 1
    ∧ (after (.arrayBeat 0) (onArr runs staged) fun t => (t.array 0).beat == 1 && (t.array 0).tiles.map (fun r => r.accs.map fun x => (x.status, x.window)) == [[(8, [76, 0, 0, 0])]]) = true
    ∧ (after (.arrayBeat 0) (onArr runs { staged with stall := 2 }) fun t => (t.array 0).stall == 1 && (t.array 0).beat == 0) = true
    ∧ (after (.arrayBeat 0) (onArr pulled {}) fun t => (t.array 0).ctr.arrival == 1) = true := by decide +kernel

theorem test_pass_is_staged :
    bandFree runs 0 = true ∧ waitsPartials (onArr runs {}) runs 0 {} = false ∧ passCount runs = 1
    ∧ (match stagePass (chainWho 5 0) runs { ring := some 5 } 0 (onArr runs {}) with
      | (x, f, w, _) => f.isNone && !w && x.stagedA == [[decodeNum .int8 3], [decodeNum .int8 5]]) = true := by decide +kernel

/-- A chain of BF16, whose accumulators have 18 bins; its tiles fill the accumulator memory, the first one drained or not. -/
def wide : ChainRun := { runs with a := some (tensor 0x280 0x400 .bf16 (2, 2) (1, 4)), b := some (tensor 0x300 0x410 .bf16 (1, 2) (2, 2)) }
def crowded (drained : Nat) : Machine.Array :=
  { running := true, beat := passBeats (fmtOf wide).1 (passDepth wide 0), drainable := List.replicate (tilesInFlight wide) { tile := 0 }, drained := drained }

theorem test_beats_while_tiles_drain :
    (laccOf (fmtOf wide).1 (fmtOf wide).2).1 = 18 ∧ memoryFull wide (crowded 0) = true
    ∧ drains wide (crowded 0) = true ∧ drains wide (crowded 1) = false
    ∧ (after (.arrayBeat 0) (onArr wide (crowded 0)) fun t => (t.array 0).ctr.drain == 1 && (t.array 0).drained == 1) = true
    ∧ (after (.arrayBeat 0) (onArr wide (crowded 1)) fun t => (t.array 0).ctr.epilogue == 1 && (t.array 0).drained == 1) = true
    ∧ (after (.passEnd 0) (onArr wide (crowded 1)) fun t => (t.array 0).running) = true := by decide +kernel

theorem test_pass_ends_and_slices :
    (after (.passEnd 0) (onArr runs { staged with beat := 1 }) fun t => !(t.array 0).running && (t.array 0).passNo == 1
      && (t.array 0).drainable.map (·.tile) == [0]) = true
    ∧ arrived pulled {} = false ∧ wantsSlice pulled 0 { open0 := some 0 } false = some (0, (0, 0, 0), { source := 0x400, kFirst := 0, counter := 2 })
    ∧ (after (.sliceArrive 0 false 2) (onArr pulled { open0 := some 0 }) fun t => tget 0 (t.array 0).counts 0 == 2
      && tget 0 (t.engine 0).counters 2 == 2) = true
    ∧ (after (.arrivalTimeout 0) (onArr pulled {}) fun t => (chainOf t 5).bind (fun c => c.stop.map (·.status)) == some 0x51) = true := by
  decide +kernel

/-! ### Tiles -/

/-- The tile of the chain has drained. -/
def w76 : Machine.Num := .fin false 76 0
def drained : ChainRun := { runs with ready := [(0, [w76])] }
/-- A chain of an epilogue alone, and its operand as A. -/
def stream : ChainRun := { runs with
  d := { runs.d with product := false, k := 0, ks := 0, m := 1, n := 1 }, b := none
  a := runs.c.map fun t => { t with base := 0x400, fmt := .int8, dims := [{ size := 1, stride := 1 }, { size := 1, stride := 1 }] } }

theorem test_tiles_drain :
    partialsIn runs 0 = true
    ∧ drainBeats runs 0 = 1 ∧ (after (.tileDrain 0) (onArr runs { drained := 1, drainable := [{ tile := 0, accs := [{ sum := 76 }] }] }) fun t => (t.array 0).drainable.isEmpty
      && (chainOf t 5).map (fun c => (tget [] c.ready 0).map (encodeNum .int32)) == some [76]) = true
    ∧ (match streamRead (chainWho 5 0) stream (tileOutputs stream 0) (onArr stream {}) with
      | ((ys, f, w), _) => f.isNone && !w && ys.map (encodeNum .int8) == [3]) = true
    ∧ (after (.tileDrain 0) (onArr stream {}) fun t => (chainOf t 5).map (fun c => (tget [] c.ready 0).length) == some 1) = true := by
  decide +kernel

theorem test_tiles_commit :
    usesHold drained.d = false ∧ drained.plan = none ∧ drained.d.split = false ∧ stopAt drained = 1
    ∧ (match tileEpilogue (chainWho 5 0) drained ((tileOutputs drained 0).zip [w76]) (onArr drained {}) with
      | ((_, f, w), _) => f.isNone && !w) = true
    ∧ (after (.tileCommit 5) (onArr drained {}) fun t => (homeLine t 8).1.drop 0x20 |>.take 4 |> (· == [76, 0, 0, 0])) = true
    ∧ (after (.tileCommit 5) (onArr drained {}) fun t => (chainOf t 5).map (fun c => (c.committed, c.bytes)) == some (1, 32)) = true := by
  decide +kernel

/-! ### Tiles, partials and transforms, continued -/

/-- A chain that holds its rows, with ROWQUANT and E4M3 outputs. -/
def holding : ChainRun := { drained with
  d := { drained.d with rowOps := 16, rowScale := 1, holdRows := 16, rowGroup := 1 }
  c := some { tensor 0x380 0x420 .e4m3 (1, 1) (1, 1) with at_ := 0x380 } }
/-- A completion chain whose SOFTMAX reads the row's maximum from its statistics at 0x440. -/
def completing : ChainRun := { stream with
  d := { stream.d with rowOps := 8, split := true, splitFmt := 1 }, ready := [(0, [w76])]
  c := some (tensor 0x380 0x420 .fp32 (1, 4) (1, 4)), stats := some (tensor 0x600 0x440 .fp32 (5, 4) (1, 20)) }

theorem test_bands_and_completions :
    usesHold holding.d = true ∧ usesHold completing.d = false ∧ stripOf completing 0 = [0]
    ∧ (match bandEpilogue 5 holding [0] (onArr holding {}) with | ((_, f, w), _) => f.isNone && !w) = true
    ∧ (after (.bandFinish 5 0) (onArr holding {}) fun t => (chainOf t 5).map (fun c => (c.committed, c.ready)) == some (1, [])) = true
    ∧ (match readStats (chainWho 5 0) completing 0 (rowsOf completing 0) (onArr completing {}) with
      | ((v, f, w), _) => v.length == 1 && f.isNone && !w) = true
    ∧ (after (.tileCommit 5) (onArr completing {}) fun t => (chainOf t 5).map (fun c => (c.committed, c.bytes)) == some (1, 32)) = true := by
  decide +kernel

/-- A commit whose write faults: C lies in a page that is not mapped, and the root is 0. -/
def outside : ChainRun := { drained with c := some (tensor 0x380 0x10420 .int32 (1, 4) (1, 4)) }

theorem test_commit_faults :
    (after (.tileCommit 5) (onArr outside {}) fun t => (chainOf t 5).map (fun c => (c.committed, c.bytes, c.stop.isSome)) == some (0, 0, true)) = true := by
  decide +kernel

/-- The page of C is held while the tile commits, and free when it goes on (R115, R249). -/
def heldC : State :=
  let s := onArr drained {}
  { s with xlt := { s.xlt with holds := [{ slot := 0, start := 0x420, length := 4, limitMs := 1, since := 0 }] } }

theorem test_commit_waits_and_goes_on :
    (after (.tileCommit 5) heldC fun t => (chainOf t 5).map (fun c => (c.committed, c.todo.length, c.todoTiles)) == some (0, 1, 1)
      && after (.tileCommit 5) { t with xlt := { t.xlt with holds := [] } } fun u =>
        (chainOf u 5).map (fun c => (c.committed, c.bytes, c.todo.length, c.todoTiles)) == some (1, 32, 0, 0)) = true := by decide +kernel

/-- Chains that gather partials: exact ones of one sender, and W values by the tree of nodes 0 to 2. -/
def gathers : ChainRun := { runs with d := { runs.d with partialMode := 2 }, plan := some { nodes := [0, 1], senders := 1 } }
def climbs : ChainRun := { runs with d := { runs.d with partialMode := 3 }, plan := some { nodes := [0, 1, 2] } }
/-- A chunk of 64 records of R113: no status, bin 0 holds 9. -/
def record9 : List Byte := (List.replicate 64 [0, 0, 1, 0, 0, 0, 9, 0, 0, 0, 0, 0]).flatten

theorem test_partials :
    parseChunk (laccOf (fmtOf gathers).1 (fmtOf gathers).2).1 (chunkOutputs gathers) record9 = some (List.replicate 64 { sum := 9 })
    ∧ chunksPerTile gathers = 64 ∧ chunkPlace gathers 1 = (1, 0)
    ∧ (after (.partialChunkReceive 5 1 record9) (onArr gathers {}) fun t => (chainOf t 5).map (fun c => (c.rx, c.rxChunks)) ==
      some ([(0, [{ sum := 9 }])], [(1, 1)])) = true
    ∧ (after (.partialChunkReceive 5 1 [0, 0, 9, 0]) (onArr gathers {}) fun t => (chainOf t 5).bind (fun c => c.stop.map (·.status)) == some 0x13) = true
    ∧ (after (.partialChunkReceive 5 1 record9) (onArr { gathers with rxChunks := [(1, 1)] } {}) fun t => (chainOf t 5).map (fun c => (c.rx, c.rxChunks)) ==
      some ([], [(1, 2)])) = true
    ∧ treeLevels 3 0 = [0, 1] ∧ planPos (onArr climbs {}) { nodes := [0, 1, 2] } = 0
    ∧ (after (.wTreeReceive 5 2 0 [0]) (onArr climbs {}) fun t => (chainOf t 5).map (fun c => c.tree.map (·.1)) == some [1]) = true := by decide +kernel

/-- Transforms at work: the copy at its last element, and a transpose of 2 by 2 bytes in place. -/
def copyTurn : TransformRun := { loadedTransform with admitted := true, done := 1, written := 1 }
def transposing : TransformRun := { copyTurn with
  done := 0, written := 0, perm := [1, 0, 0, 0, 0, 0, 0, 0], inPlace := true
  src := tensor 0x280 0x400 .int8 (2, 1) (2, 2), dst := tensor 0x280 0x400 .int8 (2, 1) (2, 2) }
def transforms (x : TransformRun) : State := { loads (busy (.transform x)) with transforms := [(0, some 5)] }

/-- A core has reserved the line of the transpose, and delays what would take it (R212). -/
def heldOut (s : State) : State := { s with coh := { s.coh with
  cores := [(0, { reservation := some 8, lrDelay := true })], dir := [(dirBase 8, { line := 8, excl := true, ids := [544] })]
  priv := [{ cache := 544, line := 8, st := .e, data := (homeLine s 8).1 }] } }

theorem test_transform_turns :
    (transformOf (transforms copyTurn) 5).isSome = true ∧ copyTurn.dst.scaleFmt = .none ∧ copyTurn.done + 1 = tcount copyTurn.dst
    ∧ (match readSource (transformWho 5 copyTurn) (enterRow copyTurn copyTurn.done) (unlinear (ownExts copyTurn.dst) 1) 2 (transforms copyTurn) with
      | (.bits _, _) => true | (.num _, _) => true | _ => false) = true
    ∧ (after (.transformTurn 5) (transforms copyTurn) fun t => (transformOf t 5).map (fun x => (x.done, x.written)) == some (2, 2)) = true
    ∧ (after (.transformTurn 5) (transforms copyTurn) fun t => ((homeLine t 8).1.drop 0x31).take 1 == [5]) = true
    ∧ (after (.transformTurn 5) (heldOut (transforms transposing)) fun t =>
      (transformOf t 5).map (fun x => (x.done, x.todo.length, x.written)) == some (0, 4, 0)) = true
    ∧ pairCount transposing = 1 ∧ transposing.todo = []
    ∧ (after (.transformTurn 5) (transforms transposing) fun t => (transformOf t 5).map (fun x => (x.done, x.written)) == some (1, 4)) = true := by
  decide +kernel

/-! ### Maintenance, translation and fabric operations -/

/-- Ring 5 holds a descriptor of a kind whose structure at 0x100 holds the bytes given. -/
def structAt (kind : Nat) (b : List Byte) : State :=
  let s := mapped (withRing (taken kind (toBytes 8 0x100)))
  { s with pool := { s.pool with mem := memWrite [] 0x100 b } }

/-- The structure is read as ReadsStructure asks, and the bytes satisfy a test. -/
def reads (s : State) (kind : Nat) (p : List Byte → State → Bool) : Bool :=
  match descOf s 5 kind with
  | some d => descAddrOf d % 64 == 0 && match readStruct 5 (descAddrOf d) 64 s with
    | (.data b, s1) => !anyPoison b && p (plain b) s1
    | _ => false
  | none => false

/-- A dirty line 8 in the system cache and a copy of line 9 in a private cache. -/
def holdsLines (s : State) : State := { s with coh := { s.coh with
  sc := [(scBase 8, { line := 8, valid0 := true, valid1 := true, dirty0 := true, dirty1 := true, data := full 9 })]
  priv := [{ cache := 5, line := 9, st := .s, data := full 4 }] } }

theorem test_maintenance :
    (after (.maintClean 5) (withRing (taken 4 (toBytes 8 0x120))) (ended 0x13 0)) = true
    ∧ reads (structAt 4 [1, 0, 1, 0]) 4 (fun b _ => maintBad b) = true
    ∧ (after (.maintClean 5) (structAt 4 [1, 0, 1, 0]) (ended 0x13 0)) = true
    ∧ reads (structAt 4 [1, 0, 9]) 4 (fun b _ => !maintBad b) = true
    ∧ (after (.maintClean 5) (holdsLines (structAt 4 [1, 0, 9])) fun t => ended 0 1 t && memByte t.pool.mem 1024 == 9) = true
    ∧ (after (.maintInvalidate 5) (holdsLines (structAt 4 [1, 0, 10])) fun t => ended 0 1 t && t.coh.priv.isEmpty
      && t.coh.sc.all fun x => x.2.line != 8) = true
    ∧ (after (.maintCleanInvalidate 5) (holdsLines (structAt 4 [1, 0, 11])) fun t => memByte t.pool.mem 1024 == 9 && t.coh.priv.isEmpty) = true := by
  decide +kernel

/-- A range of 0x80 bytes from 0x400, and set 2 to 2 of slice 0 with way 0. -/
theorem test_maintenance_of_ranges_and_ways :
    reads (structAt 4 ([1, 0, 1, 0, 0, 0, 0, 0] ++ toBytes 8 0x400 ++ toBytes 8 0x80)) 4 (fun b s => !maintBad b
      && (maintRange .clean 2 0x400 0x80 s).1 == .done) = true
    ∧ (after (.maintClean 5) (holdsLines (structAt 4 ([1, 0, 1, 0, 0, 0, 0, 0] ++ toBytes 8 0x400 ++ toBytes 8 0x80))) fun t =>
      ended 0 1 t && (t.ring 5).progress == 0x80 && memByte t.pool.mem 1024 == 9) = true
    ∧ (after (.maintClean 5) (structAt 4 ([1, 0, 1, 0, 0, 0, 0, 0] ++ toBytes 8 0x100000 ++ toBytes 8 0x80)) fun t =>
      (t.ring 5).state == .stopped && (t.ring 5).role == 14) = true
    ∧ reads (structAt 4 ([1, 0, 5] ++ List.replicate 21 0 ++ toBytes 8 (2 ^ 32 + 2 ^ 20 + 2 ^ 8))) 4 (fun b _ => !maintBad b) = true
    ∧ (after (.maintClean 5) (structAt 4 ([1, 0, 5] ++ List.replicate 21 0 ++ toBytes 8 (2 ^ 32 + 2 ^ 20 + 2 ^ 8))) (ended 0 1)) = true
    ∧ txnOf (holdsLines up) 8 = none ∧ lineQueued (holdsLines up) 8 = false := by decide +kernel

/-- The bytes of a translation descriptor (Table 6 of chapter 09). -/
def xltBytes (op start length root : Nat) : List Byte := [1, BitVec.ofNat 8 op] ++ List.replicate 6 0 ++ toBytes 8 start ++ toBytes 8 length ++ toBytes 8 root
def holding1 (s : State) : State := { s with xlt := { s.xlt with holds := [⟨0, 0x2000, 0x1000, 10, 0⟩] } }
/-- Ring 5's operation has been accepted. -/
def accepted (x : XltRun) : State :=
  let s := withRing (busy (.xlt { x with started := true }))
  { s with xlt := { s.xlt with ops := [5] } }

theorem test_translation_operations :
    reads (structAt 5 (xltBytes 1 0 0x1000 0)) 5 (fun b s => !xltBad b (parseXlt b) s && xltFits (parseXlt b) s) = true
    ∧ (after (.invalidateRange 5) (structAt 5 (xltBytes 1 0 0 0)) (ended 0x13 0)) = true
    ∧ (after (.invalidateRange 5) (structAt 5 (xltBytes 1 0 0x1000 0)) fun t => t.xlt.epoch == 1 && t.xlt.l2.isEmpty && t.xlt.ops == [5]) = true
    ∧ (after (.invalidateRange 5) (structAt 5 (xltBytes 1 0x1000 0x1000 0)) fun t => t.xlt.epoch == 1 && t.xlt.l2.length == 1) = true
    ∧ (after (.invalidateAll 5) (structAt 5 (xltBytes 2 0 0 0)) fun t => t.xlt.epoch == 1 && t.xlt.l2.isEmpty) = true
    ∧ (after (.setRoot 5) (structAt 5 (xltBytes 3 0 0 (10 * 2 ^ 60 + 7))) fun t => t.xlt.root == 0xA000000000000007) = true
    ∧ (after (.hold 5) (structAt 5 (xltBytes 4 0x2000 0x1000 0)) fun t => t.xlt.ops == [5] && t.xlt.holds.isEmpty) = true
    ∧ (after (.hold 5) (let s := structAt 5 (xltBytes 4 0x2000 0x1000 0); { s with xlt := { s.xlt with ops := [8, 9, 10, 11, 12, 13, 14, 15] } })
      fun t => (t.ring 5).state == .waiting && t.xlt.epoch == 0) = true
    ∧ (after (.release 5) (holding1 (structAt 5 (xltBytes 5 0x2000 0x1000 0))) fun t => ended 0 1 t && t.xlt.holds.isEmpty) = true := by
  decide +kernel

theorem test_holds_and_walks :
    xltDrained { op := 4, started := true } (accepted { op := 4 }) = true
    ∧ (after (.xltOpDrained 5) (accepted { op := 4, start := 0x2000, length := 0x1000 }) fun t => ended 0 1 t && t.xlt.ops.isEmpty
      && t.xlt.holds == [⟨0, 0x2000, 0x1000, 10, 0⟩]) = true
    ∧ (after (.holdLimitExpire 0x2000) (holding1 up) fun t => t.xlt.holds.isEmpty
      && t.evt.held.map (fun o => (o.cls, o.addr, o.param)) == [(0x31, 0x2000, 0x1000)]) = true := by decide +kernel

/-- A root of mode 10 at page 16, with a pointer at levels 4 and 3 and a leaf of level 2 that maps virtual address 0 to page 0, with
the access and dirty flags set. -/
def rooted : State := { up with
  xlt := { State.reset.xlt with root := 0xA000000000000010 }
  pool := { State.reset.pool with mem := [(0x10000, 0x4401), (0x11000, 0x4801), (0x12000, 0xD7)].foldl (fun m p => memWrite m p.1 (toBytes 8 p.2)) [] } }

theorem test_page_walk :
    isHeld rooted 0 = false ∧ canonical 0 = true
    ∧ (match walk .read 0 rooted with | ((.ok pa _ _, some _), s1) => pa == 0 && (regionFault s1 3 pa).isNone | _ => false) = true
    ∧ (after (.pageWalkDone 3 0 .read 0) rooted fun t => t.xlt.l2.length == 1 && (tget [] t.xlt.l1 3).length == 1) = true
    ∧ (after (.pageWalkDone 3 0 .read 7) rooted fun t => t.xlt.l2.isEmpty && t.xlt.l1.isEmpty) = true := by decide +kernel

/-! ### Fabric operations, census, hint and test -/

/-- The bytes of a fabric descriptor to node 9 (Table 11 of chapter 10), local address 0x200. -/
def fabBytes (op offset length : Nat) (flags : Nat := 0) (node : Nat := 9) (va : Nat := 0x200) (value : Nat := 0) : List Byte :=
  toBytes 8 (1 + op * 2 ^ 8 + flags) ++ toBytes 8 node ++ toBytes 8 offset ++ toBytes 8 va ++ toBytes 8 length ++ toBytes 8 value
/-- Port 2 is up, and routes to node 9 and 12 use it. -/
def routed (s : State) : State := { s with fab := { s.fab with ports := [(2, { state := 3 })], routes := [(9, 4), (12, 4)] } }

/-- What packets ring 5 has sent. -/
def packets (t : State) : List (Nat × Nat × PktKind × Nat × Nat × List Byte) :=
  t.fab.tx.map fun p => (p.peer, p.seq, p.kind, p.offset, p.length, p.data)

theorem test_fabric_operations :
    reads (structAt 6 (fabBytes 1 0x1000 4)) 6 (fun b _ => !fabricBad b (parseFabric b)) = true
    ∧ pickPort (routed up) false 9 = some 2 ∧ nodeId (routed up) = 0 ∧ unacked (routed up) 9 = 0
    ∧ (after (.fabricPut 5) (structAt 6 (fabBytes 1 0x1000 0)) (ended 0x13 0)) = true
    ∧ (after (.fabricPut 5) (routed (structAt 6 (fabBytes 1 0x1000 4))) fun t => packets t == [(9, 0, .put, 0x1000, 4, [0, 0, 0, 0])]) = true
    ∧ (after (.fabricGet 5) (routed (structAt 6 (fabBytes 2 0x1000 4))) fun t => packets t == [(9, 0, .get, 0x1000, 4, [])]) = true
    ∧ (after (.deliver 5) (routed (structAt 6 (fabBytes 3 0x1000 4))) fun t => packets t == [(9, 0, .deliver, 0x1000, 4, [0, 0, 0, 0])]) = true
    ∧ (after (.fabricAtomic 5) (routed (structAt 6 (fabBytes 4 0x1000 0 (value := 3)))) fun t => (packets t).map (·.2.2.2.2.2) == [toBytes 8 3]) = true := by
  decide +kernel

/-- A PUT with a flag whose bytes are acknowledged. -/
def flagged : FabricRun := { op := 1, flag := true, node := 9, length := 4, acked := [(0, 4)], value := 7, flagOffset := 64 }

theorem test_fabric_fence_route_and_flag :
    (after (.fabricFence 5) (routed (structAt 6 (fabBytes 5 0 0 (va := 0)))) fun t => (fabricOf t 5).map (·.fenceSeqs) == some []) = true
    ∧ (after (.routeLoad 5) (routed (structAt 6 (fabBytes 6 12 8 (node := 0)))) fun t => routeOf t true 12 == 0 && (fabricOf t 5).map (·.sent) == some 1) = true
    ∧ fabricBytes { length := 4, acked := [(0, 4)] } = 4
    ∧ (after (.flagSend 5) (routed (withRing (busy (.fabric flagged)))) fun t => packets t == [(9, 0, .flag, 64, 8, toBytes 8 7)]) = true := by decide +kernel

/-- The payloads of a census of table 0, of a hint and of a test of one pair. -/
def censusOf (buf size mask : Nat) : List Byte := toBytes 8 buf ++ toBytes 8 size ++ toBytes 8 mask

theorem test_census_and_test :
    (after (.census 5) (withRing (taken 8 (censusOf 1 0 0))) (ended 0x13 0)) = true
    ∧ censusSize 0x8002 = 131392
    ∧ (after (.census 5) (withRing (taken 8 (censusOf 0x40 131391 0x8002))) fun t => ended 0x10 0 t && (t.ring 5).second == 131392) = true
    ∧ (after (.powerHint 5) (withRing (taken 9 [])) (ended 0x13 0)) = true
    ∧ (after (.test 5) (withRing (taken 10 [1, 1, 3, 0, 2])) (ended 0x13 0)) = true
    ∧ (after (.test 5) (withRing (taken 10 [1, 1, 3, 0, 1])) fun t => (testOf t 5).map (·.units) == some [3]) = true := by decide +kernel

/-- A hint of no power and one ms meets the conditions of the statement. -/
theorem test_hint_fields :
    let d := descr 9 ([0, 0, 0, 0] ++ [1, 0, 0, 0])
    descOf (withRing (taken 9 ([0, 0, 0, 0] ++ [1, 0, 0, 0]))) 5 9 = some d ∧ descWord d 12 4 ≠ 0
    ∧ descWord d 16 2 ≤ ceiling (withRing (taken 9 ([0, 0, 0, 0] ++ [1, 0, 0, 0]))) := by
  refine ⟨by decide +kernel, by decide +kernel, ?_⟩
  have : descWord (descr 9 ([0, 0, 0, 0] ++ [1, 0, 0, 0])) 16 2 = 0 := by decide +kernel
  rw [this]
  exact Nat.zero_le _

/-! ### Power, boot, resets, the host link -/

/-- A module that boots: its reset line is up. -/
def booting : State := { State.reset with
  pins := { State.reset.pins with perst := false }
  dl := (List.range 8).map fun p => (p, { state := 3, kind := dlKind p, lanesUp := dlLanes p, lanesDn := dlLanes p }) }

theorem test_power_and_boot :
    (after (.powerOn 2 0 1 7) State.reset fun t => t.boot.island && !t.boot.ready && !t.boot.lidFault && t.pwr.profile == 2
      && t.pins.addrSel == 1 && t.pins.slotId == 7 && t.link.role == 0 && t.link.source == 0) = true
    ∧ (after (.powerOn 3 3 0 0) State.reset fun t => t.boot.lidFault && t.boot.stage == 1 && t.link.source == 2) = true
    ∧ (after .powerLoss up fun t => !t.boot.island && !t.pins.pgood) = true
    ∧ badPort ((List.range 8).foldl (fun u p => if u.boot.trained then dlAgain p u else portReady u p) booting) = none
    ∧ (after (.deviceReady true) booting fun t => t.boot.ready && t.boot.stage == 7 && t.pwr.dieOff.isEmpty
      && t.evt.held.map (fun o => (o.cls, o.reason)) == [(0x80, booting.boot.kind)]) = true
    ∧ (after (.deviceReady false) booting fun t => !t.boot.ready && t.boot.fail == 3) = true
    ∧ (after (.deviceReady true) { booting with dl := tins booting.dl 4 { state := 1 } } fun t => t.boot.fail == 2 && t.boot.failDie == 5) = true
    ∧ (after (.deviceReady true) { booting with pins := State.reset.pins } fun t => !t.boot.ready && t.boot.stage == 6 && t.boot.trained) = true := by
  decide +kernel

/-- `up` with its reset line up. -/
def live : State := { up with pins := { State.reset.pins with perst := false } }

/-- An atomic of ring 5 runs as an FLR with the scrub comes. -/
def atomicRuns : State := { live with
  rings := [(5, { busy (.fabric { op := 4, node := 9, length := 8, sent := 1 }) with cfg := 1 })]
  link := { live.link with resetCtl := 1 }, pool := { live.pool with mem := [(5, 1)] } }

theorem test_resets :
    portLive live = true
    ∧ (after .perstAssert live fun t => !t.link.up && t.link.losses == 1 && t.boot.kind == 2 && !t.boot.ready && t.pins.perst) = true
    ∧ (after .hotReset live fun t => !t.link.up && t.link.losses == 1 && !t.link.bme) = true
    ∧ (after .flr live fun t => t.link.up && t.link.losses == 0 && !t.link.bme && t.boot.ready) = true
    ∧ (after .flr { live with link := { live.link with resetCtl := 1 }, pool := { live.pool with mem := [(5, 1)] } } fun t =>
      t.pool.mem.isEmpty && t.link.scrubBusy) = true
    ∧ (after .flr atomicRuns fun t => t.link.scrubOwed && t.link.scrubBusy && !t.pool.mem.isEmpty && after .scrubFillDone t (· == t)) = true
    ∧ (after .flr { live with link := { live.link with mpsLog2 := 9 } } fun t => t.link.mpsLog2 == 9 && !t.link.bme) = true
    ∧ (after .hotReset { live with boot := { live.boot with ready := false } } fun t => !t.link.up && t.link.losses == 1) = true
    ∧ (after .scrubFillDone { live with link := { live.link with scrubBusy := true } } fun t => t == live) = true
    ∧ (after .perstDeassert up fun t => t == live) = true := by decide +kernel

/-- Pickle mode on, with a ring that has work. -/
def pickled : State :=
  let s := withRing ring0
  { s with pickle := { s.pickle with ctl := 0x0003E831 } }
/-- A freeze in progress, and the record of a ring frozen with no descriptor. -/
def freezes : State := { pickled with pickle := { pickled.pickle with freezing := true, cause := 3 } }
def frozen : State := { withRing { ring0 with state := .frozen } with
  pickle := { State.reset.pickle with ctl := 0x0003E831, valid := true
                                      entries := [{ ring := 5, resumable := true, status := 0x60, descIndex := 0, progress := 0, hasDesc := false }] } }

theorem test_link_loss_and_pickle :
    pickleOn pickled = true ∧ pickleOn up = false
    ∧ (after .linkLoss up fun t => !t.link.up && t.link.losses == 1 && t.boot.ready && !t.pickle.freezing) = true
    ∧ (after .linkLoss pickled fun t => !t.link.up && t.pickle.freezing && t.pickle.cause == 3) = true
    ∧ (after .freezeComplete freezes fun t => !t.pickle.freezing && t.pwr.rung == 1 && (t.ring 5).state == .frozen
      && t.pickle.entries.map (fun e => (e.ring, e.status, e.hasDesc)) == [(5, 0x60, false)]) = true
    ∧ (atomicRuns.rings.any fun r => holdsFreeze r.2) = true
    ∧ (after .freezeComplete { atomicRuns with pickle := freezes.pickle } fun t => t.pickle.freezing && t.pwr.rung == 0) = true
    ∧ (after .freezeComplete { freezes with rings := [] } fun t => !t.pickle.freezing && t.pickle.valid && t.pickle.entries.isEmpty) = true
    ∧ (after (.retrain 4 2) up fun t => t.link.retrains == 1 && t.link.speed == 4) = true
    ∧ (after .pickleDescend { frozen with pwr := { frozen.pwr with rung := 1 }, pickle := { frozen.pickle with ctl := 0x0003E821 } } fun t => t.pwr.rung == 2) = true
    ∧ (after .pickleDescend { frozen with pwr := { frozen.pwr with rung := 1 } } fun t => t.pwr.rung == 3 && t.pwr.dieOff == [1, 2, 3, 4, 5, 6]) = true := by
  decide +kernel

theorem test_pickle_entries :
    hubServed frozen = true
    ∧ (after (.pickleResume 6) frozen fun t => t.pickle.actErr) = true
    ∧ (after (.pickleResume 5) { frozen with setup := { frozen.setup with committed := true } } fun t => t.pickle.entries.isEmpty
      && (t.ring 5).state == .idle) = true
    ∧ (after (.pickleDiscard 5) frozen fun t => t.pickle.entries.isEmpty && !t.pickle.valid && (t.ring 5).state == .stopped
      && !(t.ring 5).sdesc) = true := by decide +kernel

/-- A read of four bytes is outstanding for an engine, and a push has a write outstanding. -/
def asks (o : Owner) : State := { up with link := { up.link with reads := [{ tag := 3, owner := o, hio := 0x80, len := 4 }] } }
def posts : State :=
  let s := withRing (busy (.push { length := 8, issued := 8 }))
  { s with link := { s.link with posted := [{ owner := .ring 5, hio := 0, bytes := [1, 2] }] } }

theorem test_host_link :
    (after (.configWrite (.busMaster false)) live fun t => !t.link.bme) = true
    ∧ (after (.configWrite (.bar2Size 8)) live fun t => t.link.bar2Log2 == 38) = true
    ∧ (after (.configWrite (.read (.header 0))) live fun t => t.link.answer == .data [0x6B, 0x1F, 0x12, 0x48] false) = true
    ∧ (after (.configWrite (.bar4Read 144 4)) { live with link := { live.link with msix := [(9, { addr := 0xFEE01000 })] } } fun t =>
      t.link.answer == .data [0, 0x10, 0xE0, 0xFE] false) = true
    ∧ readsFull (asks (.engine 0 0)) = false
    ∧ (after (.hostAtomicopReceive 2) live fun t => t.link.answer == .unsupported) = true
    ∧ inEpisode { live with link := { live.link with bme := false } } = true
    ∧ (after .bmeWaitExpire { live with link := { live.link with bme := false } } fun t => t.link.episode.map (·.limitPassed) == some true) = true
    ∧ (after (.hostReadCompletion 3 (.data [1, 2, 3, 4])) (asks (.engine 0 0)) fun t => t.link.reads.isEmpty
      && t.link.arrived.map (fun a => (a.pa, a.bytes)) == [(hostPa 0x80, [1, 2, 3, 4])]) = true
    ∧ (after (.hostReadCompletion 3 .ur) (asks (.engine 0 0)) fun t => t.link.arrived.map (fun a => (a.status, a.reason)) == [(0x31, 0xC)]) = true
    ∧ (after (.completionTimeout 3) (asks (.engine 0 0)) fun t => t.link.arrived.map (·.status) == [0x40]) = true
    ∧ (after (.completionTimeout 3) { asks (.fetch 5) with rings := [(5, { ring0 with sq := 0x8000000000010006, state := .running, reading := true, tail := 1 })] }
      fun t => (t.ring 5).state == .stopped) = true
    ∧ (after .postedWriteAck posts fun t => t.link.posted.isEmpty && (pushOf t 5).map (·.acked) == some 2) = true := by decide +kernel

/-- The module is a root port, with its message range at 0x100000. -/
def root : State := { up with link := { up.link with role := 1, rpCtl := 0x100001 } }

theorem test_root_port :
    root.endpoint = false ∧ msiHit root 0x100010 = true
    ∧ (after (.inboundMsiWrite 0x100010 5) root fun t => t.link.msiIn == [(0x10, 5)]) = true
    ∧ (after (.inboundDownstreamRequest .peer) root fun t => t.link.answer == .unsupported) = true
    ∧ (after (.inboundDownstreamRequest (.read 0 4)) { root with boot := State.reset.boot } fun t => t.link.answer == .data [0, 0, 0, 0] false) = true := by
  decide +kernel

/-- Page 0 mapped, with a byte at 0x80. -/
def served : State :=
  let s := mapped live
  { s with pool := { s.pool with mem := memWrite [] 0x80 [7] } }

theorem test_bar2 :
    bar2Reach served 0x80 2 = true ∧ bar2Closed served = false
    ∧ (hostPlaces .read (hostPieces4k 0x80 2) served).1 = .ok [(0x80, 2, .once)]
    ∧ (after (.bar2Read 0x80 2) served fun t => t.link.answer == .data [7, 0] false) = true
    ∧ (after (.bar2Write 0x80 [9, 8] false) served fun t => (homeLine t 1).1.take 2 == [9, 8]) = true
    ∧ (after (.bar2Read 0x2000 2) served fun t => t.link.answer == .unsupported && t.evt.held.map (·.cls) == [0x21]) = true
    ∧ (after (.bar2Write 0x2000 [9] false) served fun t => t.link.answer == .discarded && t.pool == served.pool) = true
    ∧ (after (.bar2Read 0x80 2) { served with boot := State.reset.boot } fun t => t.link.answer == .data [0, 0] false) = true := by decide +kernel

theorem test_bar0 :
    partOf 0x400000 8 = some .whole ∧ partOf 0x400004 4 = some .high ∧ partOf 0x400004 8 = none ∧ pageServed live 0x400000 = true
    ∧ (after (.registerWrite .host 0x400000 8 0x10006) live fun t => (t.ring 0).sq == 0x10006) = true
    ∧ (after (.registerWrite .host 0x400000 2 1) live fun t => t.link.answer == .discarded && t.evt.held.map (fun o => (o.cls, o.addr)) == [(0x20, 0x400000)]) = true := by
  decide +kernel

/-- Reads of BAR0: HUB_ID's first half, a register of a page that is not served, and a reserved offset. -/
theorem test_bar0_reads :
    (after (.bar0Read .host 0 4) live fun t => t.link.answer == .data (toBytes 4 0x1F6B0101) false) = true
    ∧ (after (.bar0Read .host 0x400000 8) { live with boot := State.reset.boot } fun t => t.link.answer == .data [0, 0, 0, 0, 0, 0, 0, 0] false) = true
    ∧ (after (.bar0Read .host 0x1000000 4) live fun t => t.link.answer == .data [0, 0, 0, 0] false) = true
    ∧ (after (.bar0Read .host 0x400000 3) live fun t => t.link.answer == .unsupported) = true := by decide +kernel

theorem test_setup :
    commitCause live = 0 ∧ commitCause { live with rings := [(5, { ring0 with state := .running })] } = 2
    ∧ (after (.setupCommit 1) live fun t => t.setup.committed && !t.setup.busy) = true
    ∧ (after (.setupCommit 1) { live with rings := [(5, { ring0 with state := .running })] } fun t => t.setup.err && t.setup.errCause == 2) = true
    ∧ (after (.setupCommit 1) { live with pool := { live.pool with placement := 0, mem := [(5, 1)] } } fun t => t.setup.busy && t.pool.ilvForce == 0
      && t.pool.mem.isEmpty) = true
    ∧ (after (.srIndexWrite .host .whole 0x10000000003) live fun t => t.setup.srHost.busy && t.setup.srHost.index == 0x10000000003) = true := by
  decide +kernel

/-- A snapshot of an entry of the table of rings is in progress. -/
def snaps (index : Word) : State := { live with setup := { live.setup with srHost := { index := index, busy := true } } }
def snapped (index : Word) (p : Readout → Bool) : Bool :=
  match exec (.srSnapshotDone .host) (snaps index) with | .next t => p t.setup.srHost | _ => false

theorem test_snapshots :
    snapped 0x3F0000000003 (fun r => r.err == 1 && !r.busy) = true ∧ snapped 0x10000000400 (fun r => r.err == 2) = true
    ∧ snapped 0x10000000003 (fun r => r.err == 0 && r.data.length == 128 && r.entries == 1024) = true
    ∧ (match exec .setupCommitDone { live with setup := { live.setup with busy := true } } with | .next t => t.setup.committed | _ => false) = true := by
  decide +kernel

/-! ### The fabric and the die links -/

/-- Port 2 in a state, and the set-up committed. -/
def port2 (st : Nat) : State := { up with
  setup := { State.reset.setup with committed := true }, fab := { State.reset.fab with ports := [(2, { state := st })], routes := [(9, 4)] } }
/-- A packet from node 9 on port 2 to node 0. -/
def pkt : Packet := { port := 2, src := 9, dst := 0, seq := 0, kind := .put, ordered := true, offset := 0x100, length := 2, data := [5, 6],
                      poisoned := 0, bank := false, response := false, hops := 3, crcOk := true }

theorem test_ports :
    portsTrain (port2 1) = true ∧ portEn (port2 1) 2 = true
    ∧ (after (.portPartnerDetect 2) (port2 1) fun t => (t.port 2).state == 2) = true
    ∧ (after (.portTrainDone 2 .failed) (port2 2) fun t => (t.port 2).state == 1) = true
    ∧ (after (.portTrainDone 2 (.up 3 9 1)) (port2 2) fun t => (t.port 2).state == 3 && (t.port 2).nbrNode == 9) = true
    ∧ (after (.portTrainDone 2 (.up 2 0 1)) (port2 2) fun t => (t.port 2).state == 6) = true
    ∧ (after (.portDown 2 .linkFailure) (port2 3) fun t => (t.port 2).state == 1) = true
    ∧ (after (.fabPortEnWrite .whole 0) (port2 3) fun t => (t.port 2).state == 0) = true
    ∧ (after (.frameReceive 2 false .packets) (port2 3) fun t => t.fab.out == [{ port := 2, msg := .linkRetry, len := 0 }]) = true
    ∧ (after (.frameReceive 2 true .retry) { port2 3 with fab := { (port2 3).fab with retryBuf := [{ port := 2, msg := .perfAck 9 0 [] 0, len := 0 }] } } fun t =>
      t.fab.out.length == 1 && t.fab.retryBuf.isEmpty && (t.port 2).retries == 1) = true
    ∧ (after (.portTrainDone 2 (.up 3 9 1)) { port2 2 with setup := up.setup } fun t => (t.port 2).state == 2) = true
    ∧ (after (.packetForward 2 { pkt with dst := 9 }) (port2 3) fun t => t.fab.out.map (·.port) == [2] && (t.port 2).transit == 1) = true
    ∧ (after (.packetForward 2 { pkt with dst := 9, hops := 8 }) (port2 3) fun t => t.fab.hopDrops == 1 && t.fab.out.isEmpty) = true
    ∧ (after (.packetForward 2 { pkt with dst := 7 }) (port2 3) fun t => t.fab.noRoute == 1) = true := by decide +kernel

theorem test_windows_and_routes :
    (after (.fabWinWrite 4 0 .whole 0x9800000002000001) up fun t => t.fab.winDraining && winEn (winOf t 4) && winBase (winOf t 4) == 1
      && winLimit (winOf t 4) == 1) = true
    ∧ (after .winDrainDone up fun t => t == up) = true
    ∧ (after (.fabRtDataWrite .whole 6) up fun t => routeOf t true 0 == 6 && routeOf t false 0 == 0 && field t.fab.rtIndex 0 14 == 1) = true
    ∧ (after (.routeCommit .whole 3) up fun t => t.fab.active && t.fab.held) = true
    ∧ (after .routeHoldExpire { up with fab := { up.fab with held := true } } fun t => !t.fab.held) = true
    ∧ (after (.dodgemCtlWrite .whole 0xC000000000000003) up fun t => flag t.dod.ctl 62 && field t.dod.ctl 0 6 == 3
      && t.evt.held.map (fun o => (o.cls, o.reason, o.param)) == [(0x78, 1, 3)]) = true
    ∧ (after .dodgemReorderRelease { up with dod := { up.dod with heldPkts := [(0, [{ port := 2, msg := .linkRetry, len := 0 }])] } } fun t =>
      t.dod.heldPkts.isEmpty && t.fab.out.length == 1) = true := by decide +kernel

/-- A window that covers offsets below 64 KiB, for every node and kind, on the pool from 0. -/
def windowed : State := { port2 3 with fab := { (port2 3).fab with wins := [(0, { w0 := 0x9C00000000000000 })] } }

theorem test_packets_performed :
    (after (.fabricPutReceive { pkt with crcOk := false }) windowed fun t => t.fab.crcDrops == 1 && t.fab.rx.isEmpty) = true
    ∧ (match windowCheck windowed 9 .put 0x100 with | .ok _ => true | _ => false) = true ∧ poolBacked 0x100 = true
    ∧ (after (.fabricPutReceive pkt) windowed fun t => (homeLine t 2).1.take 2 == [5, 6] && (rxOf t 9).base == 1
      && t.fab.out.map (fun m => (m.port, m.msg, m.response)) == [(2, .perfAck 9 0 [] 0, true)]) = true
    ∧ (after (.fabricGetReceive { pkt with kind := .get }) windowed fun t => t.fab.out.map (·.msg) == [.perfAck 9 0 [0, 0] 0]) = true
    ∧ (after (.fabricFlagReceive { pkt with kind := .flag, offset := 0x20000 }) windowed fun t => t.fab.out.map (·.msg) == [.nak 9 0 1]
      && t.fab.winFaults == 1) = true
    ∧ (after (.deliveryReceive { pkt with kind := .deliver }) windowed fun t => t.fab.out.map (·.msg) == [.nak 9 0 4]) = true := by decide +kernel

theorem test_packets_in_order :
    (after (.fabricPutReceive pkt) { windowed with fab := { windowed.fab with rx := [(9, { base := 1 })] } } fun t =>
      t.fab.duplicates == 1 && t.pool.mem.isEmpty) = true
    ∧ (after (.fabricPutReceive pkt) { windowed with fab := { windowed.fab with rx := [(9, { base := 1, refused := [(0, 3)] })] } } fun t =>
      t.fab.duplicates == 1 && t.fab.out.map (·.msg) == [.nak 9 0 3]) = true
    ∧ (after (.fabricPutReceive { pkt with op := 7 }) { windowed with fab := { windowed.fab with rx := [(9, { faulted := [(7, 3)] })] } } fun t =>
      t.fab.winFaults == 0 && (rxOf t 9).refused == [(0, 3)] && t.pool.mem.isEmpty) = true
    ∧ (after (.fabricPutReceive { pkt with seq := 1 }) windowed fun t => (rxOf t 9).held.map (·.seq) == [1] && (rxOf t 9).base == 0
      && t.pool.mem.isEmpty) = true
    ∧ (after (.gapNoticeSend 9 0) { windowed with fab := { windowed.fab with rx := [(9, { held := [{ pkt with seq := 1 }] })] } } fun t =>
      t.fab.gapNotices == 1 && t.fab.out.map (·.msg) == [.gap 9 0]) = true
    ∧ (after (.fabricAtomicReceive { pkt with kind := .atomic ⟨.add, 8, 3, 0, []⟩, length := 8 }) windowed fun t =>
      t.fab.out.map (·.msg) == [.perfAck 9 0 [0, 0, 0, 0, 0, 0, 0, 0] 0] && (homeLine t 2).1.take 1 == [3]) = true := by decide +kernel

/-- A packet of ring 5's PUT to node 9 is unacknowledged. -/
def tx9 : TxPkt := { peer := 9, seq := 4, kind := .put, ordered := true, offset := 0x100, length := 2, owner := .ring 5, busy := true, e2e := up.fab.e2e }
def sending (p : TxPkt) : State :=
  let s := routed (withRing (busy (.fabric { op := 1, node := 9, length := 2, sent := 2, offset := 0x100 })))
  { s with fab := { s.fab with tx := [p] } }

theorem test_acknowledgements :
    txOf (sending tx9) 9 4 = some tx9
    ∧ (after (.receivedAck ⟨9, 2⟩ 4) (sending tx9) fun t => t.fab.tx.map (·.received) == [true]) = true
    ∧ (after (.busyNoticeReceive ⟨9, 2⟩ 4) (sending { tx9 with busy := false }) fun t => t.fab.tx.map (·.busy) == [true]) = true
    ∧ (after (.performedAck ⟨9, 2⟩ 4 [] 0) (sending tx9) fun t => t.fab.tx.isEmpty && (fabricOf t 5).map (·.acked) == some [(0, 2)]) = true
    ∧ (after (.performedAck ⟨9, 2⟩ 4 [] 0) (sending { tx9 with isFlag := true }) fun t => (fabricOf t 5).map (·.flagAcked) == some true) = true
    ∧ (after (.negativeAckReceive ⟨9, 2⟩ 4 3) (sending tx9) fun t => (fabricOf t 5).bind (fun f => f.stop.map (fun r => (r.status, r.reason))) == some (0x32, 3)) = true
    ∧ (after (.gapNoticeReceive ⟨9, 2⟩ 4) (sending tx9) fun t => t.fab.retransmits == 1 && t.fab.out.length == 1) = true
    ∧ (after (.rtoExpire 9 4) (sending tx9) fun t => t.fab.tx.map (·.resends) == [1]) = true
    ∧ (after (.busyResend 9 4) (sending tx9) fun t => t.fab.tx.map (·.busy) == [false] && t.fab.retransmits == 0) = true
    ∧ (after (.e2eTimeout 9) (sending tx9) fun t => t.fab.tx.isEmpty && t.fab.broken == [9]) = true := by decide +kernel

theorem test_handshake_and_resends :
    field tx9.e2e 44 4 = 6 ∧ (countIn 2 0 (sending tx9)).port 2 = { (sending tx9).port 2 with rxPackets := 1 }
    ∧ (after (.rtoExpire 9 4) (sending { tx9 with received := true }) fun t => t.fab.out.isEmpty) = true
    ∧ (after (.e2eHandshake ⟨9, 2, true⟩) { up with fab := { up.fab with broken := [9], nextSeq := [(9, 7)] } } fun t => t.fab.broken.isEmpty && t.fab.nextSeq.isEmpty) = true
    ∧ (after (.e2eHandshake ⟨9, 2, false⟩) { routed up with fab := { (routed up).fab with nextSeq := [(9, 7)], rx := [(9, { base := 3 })] } } fun t =>
      t.fab.nextSeq == [(9, 7)] && rxOf t 9 == {} && t.fab.out.map (·.msg) == [.handshake 9 true]) = true := by
  decide +kernel

/-- Port 0 of the die links is up with its lanes. -/
def dlUp0 (x : DlPort) : State := { up with dl := [(0, { x with state := 3, lanesUp := dlLanes 0, lanesDn := dlLanes 0 })] }

/-- A good flit with sequence number 0 whose data are left out, and the same with a data byte too many. -/
def flit0 : Flit := { data := [], side := BitVec.ofNat 128 ((flitCrc [] (255 * 2 ^ 80)).toNat * 2 ^ 96 + 255 * 2 ^ 80) }
def flitBad : Flit := { flit0 with data := [1] }
/-- A header flit of class 2 that returns three credits of class 1. -/
def flit2 : Flit := madeFlit [] (255 * 2 ^ 80 + 2 * 2 ^ 76 + 2 ^ 72 + 2 ^ 69 + 3 * 2 ^ 64)

theorem test_flits :
    laneUp 0 ((dlUp0 {}).dlPort 0) 0 0 = true ∧ flitGood flit0 = true ∧ flitSeq flit0 = 0 ∧ flitGood flitBad = false
    ∧ (after (.flitReceive 0 0 flit0) (dlUp0 {}) fun t => (laneOf (t.dlPort 0) 0).lastGood == 0 && (laneOf (t.dlPort 0) 0).retry.length == 1 && (switchOut t 8).waiting.isEmpty) = true
    ∧ (let r := arbitrate (fun _ => 1) 10 1 { out := { waiting := packFlit ⟨0, 1, 0, false, 1⟩ (packFlit ⟨1, 2, 0, false, 1⟩ []) } }
      (r.out.waiting.length, r.sent.length) = (1, 1))
    ∧ (after (.flitReceive 0 0 flit2) (dlUp0 {}) fun t => (switchOut t 8).waiting == [⟨0, 2, 0, false, 1⟩] && (t.dlPort 0).credits == [(1, 3)]
      && (t.dlPort 0).flitsRx == 1) = true
    ∧ (after (.flitReceive 0 0 flitBad) (dlUp0 {}) fun t => (t.dlPort 0).crcFails == 1 && (laneOf (t.dlPort 0) 0).nak) = true := by decide +kernel

/-- An error on wire 7 of group 0, which waits for its repair. -/
def wired : DlPort := { errors := [(7, 1, 0)], due := [0], lanes := [(0, { retry := [{ data := [], side := 0 }, { data := [], side := BitVec.ofNat 128 (2 ^ 88) }] })] }

theorem test_die_link_repair :
    faultyWire (groupErrors 0 0 0 (dlUp0 wired)) = some 7 ∧ isDue 0 0 0 (dlUp0 wired) = true
    ∧ (after (.nakReceive 0 0 0) (dlUp0 wired) fun t => (laneOf (t.dlPort 0) 0).resend.length == 1 && (t.dlPort 0).retries == 1) = true
    ∧ (after (.wireRecentre 0 0 7) (dlUp0 wired) fun t => t == dlUp0 wired) = true
    ∧ (after (.wireRemap 0 0 false) (dlUp0 wired) fun t => tfind (t.dlPort 0).spares 0 == some 7 && (t.dlPort 0).remaps == 1) = true
    ∧ (after (.laneRetire 0 0 false) (dlUp0 { wired with spares := [(0, 3)] }) fun t => (t.dlPort 0).retired == [0] && (t.dlPort 0).state == 4) = true
    ∧ (after (.discoveryFrame 0 ⟨dlKind 0, 0, 0, dataGroups 0, true⟩) up fun t => (t.dlPort 0).state == 3 && (t.dlPort 0).designator == some 1) = true
    ∧ (after (.discoveryFrame 0 ⟨dlKind 0 + 1, 0, 0, dataGroups 0, true⟩) up fun t => (t.dlPort 0).state == 5) = true
    ∧ (after (.discoveryFrame 0 ⟨dlKind 0, 0, 0, dataGroups 0, false⟩) up fun t => (t.dlPort 0).state == 1) = true := by decide +kernel

/-! ### Power, rungs and repair -/

/-- Domain d at a point. -/
def atPoint (d op : Nat) (s : State) : State := s.onDomain d fun x => { x with inForce := op }
def reading (mw : Nat) : PowerReading := ⟨mw, mw, [], []⟩

theorem test_power_manager :
    ceiling up = 3800 ∧ lowerChoice (keepSample ⟨3900000, 0, [], []⟩ (atPoint 3 5 up)) true = some 3
    ∧ (after (.powerSample (reading 3900000)) (atPoint 3 5 up) fun t => (t.domain 3).inForce == 0 && t.pwr.window.length == 1) = true
    ∧ (after (.powerSample ⟨3900000, 0, [7], []⟩) (atPoint 3 5 up) fun t => (t.domain 3).inForce == 4 && (t.domain 0).powerMw == 7) = true
    ∧ (after (.powerSample (reading 1000)) (atPoint 3 5 up) fun t => (t.domain 3).inForce == 5) = true
    ∧ (after .powerStep { atPoint 3 5 up with pwr := { (atPoint 3 5 up).pwr with window := [reading 3900000] } } fun t => (t.domain 3).inForce == 4) = true
    ∧ (after (.domainIdleLower 3) (atPoint 3 5 up) fun t => (t.domain 3).inForce == 0) = true
    ∧ (after (.creditUpdate 4000000) up fun t => t.pwr.balanceUj == 2299000000) = true
    ∧ (after (.creditUpdate 3000001) { up with pwr := { up.pwr with balanceUj := 1 } } fun t => t.pwr.creditMode && t.pwr.balanceUj == 0
      && t.evt.held.map (fun o => (o.cls, o.reason)) == [(0x61, 1)]) = true := by decide +kernel

theorem test_power_registers :
    (after (.pwrFixedWrite .whole 0x10000708) up fun t => field t.pwr.fixed 32 3 == 4) = true
    ∧ (after (.pwrFixedWrite .whole 0x10000FFF) up fun t => t.pwr.fixErr && t.pwr.fixed == 0) = true
    ∧ (after (.creditUpdate 0) { up with pwr := { up.pwr with creditMode := true, balanceUj := 1150000000 } } fun t => !t.pwr.creditMode) = true
    ∧ (raiseChoice { up with pwr := { up.pwr with fixed := 0x410000708 } }).isSome = true := by decide +kernel

/-- A die that has tripped. -/
def tripped (x : Therm) : State := { up with pwr := { up.pwr with therm := [(2, x)] } }

theorem test_thermal_rules :
    (after (.thermalLimitStep 2 980) up fun t => (thermOf t 2).limit == 6 && (thermOf t 2).junction == 980) = true
    ∧ (after (.thermalLimitStep 2 949) (tripped { limit := 3 }) fun t => (thermOf t 2).limit == 4) = true
    ∧ domainDie 9 = 2
    ∧ (after (.thermalTrip 2 1050) (atPoint 9 5 (atPoint 0 4 up)) fun t => (thermOf t 2).tripped && (t.domain 9).inForce == 0 && (t.domain 0).inForce == 4) = true
    ∧ (after (.thermalTripClear 2 949) (tripped { tripped := true }) fun t => !(thermOf t 2).tripped && t.evt.held.map (·.cls) == [0x66]) = true
    ∧ (after (.thermalShutdown 2 1100) up fun t => t.pwr.rung == 5 && t.pins.thermtrip && t.pwr.shutdown == some (2, 1100)) = true
    ∧ (after (.coldJunctionHold 2 (-1)) (atPoint 9 5 up) fun t => coldHold t && (t.domain 9).inForce == 0 && !admits t) = true
    ∧ coldHold (onTherm 2 (fun y => { y with cold := y.cold && decide ((0 : Int) < 0), junction := 0 }) (tripped { cold := true })) = false := by decide +kernel

/-- The end of a cold hold, at 0 degC; held records of coolant and lid. -/
theorem test_supply_rules :
    (after (.coldJunctionEnd 2 0) (tripped { cold := true }) fun t => !coldHold t && t.evt.held.map (fun o => (o.cls, o.reason)) == [(0x6A, 2)]) = true
    ∧ (after (.lidRecheck up.pins.lidAtReset) up fun t => !t.pwr.srcLid) = true
    ∧ (after (.lidRecheck (up.pins.lidAtReset + 1)) up fun t => t.pwr.srcLid && t.pwr.coolantLoss && t.pwr.balanceUj == 0) = true
    ∧ (after (.safetyNetAssert 9) (atPoint 9 5 up) fun t => t.pwr.safetyNet && (t.domain 9).inForce == 0 && t.evt.held.map (·.cls) == [0x60]) = true
    ∧ (after .safetyNetRelease { up with pwr := { up.pwr with safetyNet := true } } fun t => !t.pwr.safetyNet) = true
    ∧ (after .coolantLoss up fun t => t.pwr.coolantLoss && t.pins.coolantLow && t.pwr.balanceUj == 0) = true
    ∧ (after .coolantLossEnd { up with pwr := { up.pwr with coolantLoss := true, srcPin := true } } fun t => !t.pwr.coolantLoss) = true
    ∧ (after (.ageingCheck 3 true) up fun t => ratedOf t 3 == 6 && t.evt.held.map (·.cls) == [0x63]) = true := by decide +kernel

/-- An hour's wear enters the ledger. -/
theorem test_wear_ledger :
    (after .wearLedgerWrite { up with pwr := { up.pwr with domains := [(1, { wearTicks := 250000000 })] } } fun t => t.flash.hours == 1
      && (t.domain 1).wearTicks == 50000000 && wearTotal (t.domain 1) == 2) = true := by decide +kernel

/-- A rung, and the deepest automatic one 3. -/
def onRung (r : Nat) : State := { up with pwr := { up.pwr with rung := r, rungCtl := 0x300640064 }, coh := { up.coh with cores := [] }, link := { up.link with up := false } }

theorem test_rungs :
    (after (.rungWake .doorbell) (onRung 1) fun t => t.pwr.rung == 0) = true
    ∧ (after (.rungWake .fabricPacket) (onRung 2) fun t => t.pwr.rung == 2) = true
    ∧ (after (.rungWake .bar2) (onRung 3) fun t => t.pwr.rung == 0 && t.pwr.dieOff.isEmpty) = true
    ∧ (after (.rungWake .d0) (onRung 4) fun t => t.pwr.rung == 0 && t.pwr.memInit) = true
    ∧ (after (.rungWake .perst) (onRung 5) fun t => t.boot.kind == 3 && !t.boot.ready) = true
    ∧ (after (.rungWake .d0) (onRung 5) fun t => t.pwr.rung == 5) = true
    ∧ (after .memInitDone { up with pwr := { up.pwr with memInit := true } } fun t => t == up) = true := by decide +kernel

/-- Every core waits in WFI. -/
def quiet (s : State) : State := { s with coh := { s.coh with cores := (List.range 152).map fun k => (k, { wfi := true }) } }

theorem test_descents :
    (after .rung1Enter (quiet (onRung 0)) fun t => t.pwr.rung == 1) = true
    ∧ (after .rung2Enter (quiet (onRung 1)) fun t => t.pwr.rung == 2) = true
    ∧ (after .rung3Enter (quiet (onRung 2)) fun t => t.pwr.rung == 3 && t.pwr.dieOff == [1, 2, 3, 4, 5, 6]) = true
    ∧ (after .enterRung4 (quiet (onRung 1)) fun t => t.pwr.rung == 4 && !t.pwr.rungErr) = true
    ∧ (after .enterRung5 (quiet (onRung 1)) fun t => t.pwr.rung == 5) = true
    ∧ (after .enterRung4 { quiet (onRung 1) with rings := [(5, busy (.push {}))] } fun t => t.pwr.rungErr && t.pwr.rung == 1) = true := by decide +kernel

/-! ### Errors, repair and the control complex -/

/-- An error of a class at an address of tier 2. -/
def err (cls : Nat) : ErrEvent := { cls := cls, item := 9, die := 1, unit := 3, pa := 0x10000001000, injected := false, structural := false }
/-- Pair 3 of die 1 whose retirement is decided, in a state; every spare of the die taken. -/
def decided (st : Nat) : State := up.onRep fun r => { r with map := tins r.map (repKey 1 1 3) { state := st, cause := 3 } }

theorem test_errors :
    dieFrozen up 1 = false ∧ (field (ruleOf up 8) 0 8, flag (ruleOf up 8) 31) = (1, true) ∧ (field (ruleOf up 7) 0 8, inTier2 0x10000001000) = (4, true)
    ∧ (after (.correctedError { err 8 with injected := true }) up fun t => t == up) = true
    ∧ (after (.correctedError { err 8 with structural := true, wrong := 3 }) up fun t => t.boot.structural) = true
    ∧ (after (.correctedError (err 7)) up fun t => t.rep.counts == [⟨7, 9, 1, [0]⟩]) = true
    ∧ (after (.correctedError (err 8)) up fun t => t.pool.retired2 == [0x10000001000] && t.rep.counts.isEmpty
      && t.evt.held.map (·.cls) == [0x70, 0x73]) = true
    ∧ (after (.correctedError (err 7)) { up with boot := { up.boot with restarting := [1] } } fun t => t.boot.queued == [err 7]) = true := by decide +kernel

theorem test_units_move :
    pickSpare (decided 0) 1 1 3 = some 16
    ∧ (after (.pairSubstitute 1 3) { decided 0 with engines := [(3, { mode := 0 })] } fun t => (repEntry t 1 1 3).state == 4 && (repEntry t 1 1 3).partner == 16
      && (repEntry t 1 1 16).state == 0 && (t.engine (pairIndex 1 16)).reason == 5) = true
    ∧ pairIdle (decided 5) (pairIndex 1 3) = true
    ∧ (after (.retirePendingDone 1 3) (decided 5) fun t => (repEntry t 1 1 3).state == 4) = true := by decide +kernel

/-- Every spare pair of the die stands in, so none is free; and a core whose retirement is decided. -/
def noSpares : State := [16, 33, 50, 67, 84, 101, 118, 135].foldl (fun s v => s.onRep fun r => { r with
  map := tins r.map (repKey 1 1 v) { state := 2 } }) (decided 0)
def coreDecided : State := up.onRep fun r => { r with map := tins r.map (repKey 4 5 3) { cause := 3 } }

theorem test_units_wait :
    pickSpare noSpares 1 1 3 = none ∧ pickSpare coreDecided 4 5 3 = some 18
    ∧ (after (.pairSubstitute 1 3) noSpares fun t => (repEntry t 1 1 3).state == 5 && t.evt.held.map (·.cls) == [0x72, 0x79]) = true
    ∧ (after (.coreSubstitute 3) coreDecided fun t => (repEntry t 4 5 3).state == 4 && (repEntry t 4 5 18).state == 0 && (t.core 3).wfi) = true := by
  decide +kernel

/-- A RESTORE of pair 16 of die 1 is tested, a mismatch having come before or not. -/
def restoring (again : Bool) : State := up.onRep fun r => { r with
  busy := true, cmd := some (2, 1, 1, 16), side := [(1, 1, 16, 0xFFFF)], retest := again
  map := tins r.map (repKey 1 1 16) { state := 3, cause := 3, partner := 0xFFFF } }

theorem test_repair_commands :
    retireTaken 1 1 3 up = true ∧ retireTaken 1 9 3 up = false ∧ restoreTaken 1 1 3 up = false ∧ restoreTaken 1 1 3 (decided 4) = true
    ∧ (after (.retire 1 1 16) up fun t => t.rep.busy && (repEntry t 1 1 16).state == 4) = true
    ∧ (after (.retire 1 9 3) up fun t => t.rep.err && t.rep.result == 3) = true
    ∧ (after (.restore 1 1 3) (decided 4) fun t => t.rep.cmd == some (2, 1, 1, 3) && (repEntry t 1 1 3).state == 3) = true
    ∧ (after .clearPages { up with rep := { up.rep with busy := true } } fun t => t.rep.err) = true
    ∧ (after .clearPages up fun t => t.pool.clearPages) = true
    ∧ (after (.repCmdDone true) (restoring false) fun t => t.rep.result == 1 && !t.rep.busy && (repEntry t 1 1 16).state == 1) = true
    ∧ (after (.repCmdDone false) (restoring true) fun t => t.rep.result == 2 && (repEntry t 1 1 16).state == 4) = true
    ∧ (after (.repCmdDone false) (restoring false) fun t => t.rep.retest && t.rep.busy) = true := by decide +kernel

/-- A test of pair 3 of die 1. -/
def tests (x : TestRun) : State := withRing (busy (.test { x with kind := 1, die := 1, op := 1, units := [3] }))

/-- The same while firmware is handed over. -/
def deferred (x : TestRun) : State := (tests x).onBoot fun b => { b with act := some { staged := 1 } }

theorem test_sideshow :
    deferReason { kind := 1, die := 1, op := 1, units := [3] } 3 (tests {}) = none ∧ 2 ≤ field (ruleOf up 2) 0 8
    ∧ (after (.sideshowBegin 5) (tests {}) fun t => (testOf t 5).map (·.onSide) == some (some 3) && t.evt.held.any (·.cls == 0x76)) = true
    ∧ deferReason { kind := 1, die := 1, op := 1, units := [3] } 3 (deferred {}) = some 6
    ∧ (after (.sideshowBegin 5) (deferred {}) fun t => (testOf t 5).bind (fun x => x.stop.map (·.second)) == some 6) = true
    ∧ (after (.sideshowEnd 5 .passed) (tests { onSide := some 3 }) fun t => (testOf t 5).map (fun x => (x.treated, x.failed)) == some (1, 0)) = true
    ∧ (after (.sideshowEnd 5 (.failed 2)) (tests { onSide := some 3 }) fun t => (testOf t 5).map (·.retest) == some true) = true
    ∧ (after (.sideshowEnd 5 (.failed 2)) (tests { onSide := some 3, retest := true }) fun t => (testOf t 5).map (fun x => (x.treated, x.failed)) == some (1, 1)) = true
    ∧ (after (.sideshowEnd 5 (.untreatable 4)) (tests { onSide := some 3 }) fun t => (testOf t 5).bind (fun x => x.stop.map (·.second)) == some 4) = true := by
  decide +kernel

/-- The responder at a stage of its negotiation. -/
def spdm (k : Nat) : State := { up with mgmt := { up.mgmt with spdm := k } }

theorem test_spdm :
    (after .getVersion up fun t => t.mgmt.spdm == 1 && t.mgmt.answer == .spdm 0x04 [0x12]) = true
    ∧ (after .getCapabilities up fun t => t.mgmt.answer == .spdmError 4) = true
    ∧ (after .getCapabilities (spdm 1) fun t => t.mgmt.spdm == 2) = true
    ∧ (after (.negotiateAlgorithms 8 1) (spdm 2) fun t => t.mgmt.spdm == 3) = true
    ∧ (after (.negotiateAlgorithms 4 1) (spdm 2) fun t => t.mgmt.spdm == 2) = true
    ∧ (after (.getDigests) (spdm 2) fun t => t.mgmt.answer == .spdmError 4) = true
    ∧ (after (.getCertificate 1 0 4) (spdm 3) fun t => t.mgmt.answer == .spdmError 1) = true
    ∧ (after (.challenge 1 0) (spdm 3) fun t => t.mgmt.answer == .spdmError 1) = true
    ∧ (after (.getMeasurements 0 false) (spdm 3) fun t => t.mgmt.answer == .spdm 0x60 [7]) = true
    ∧ (after (.getMeasurements 9 true) (spdm 3) fun t => t.mgmt.answer == .spdmError 1) = true
    ∧ (after (.spdmUnsupportedRequest 0xE0) up fun t => t.mgmt.answer == .spdmError 7) = true := by decide +kernel

theorem test_management_bus :
    (after (.sensorRead 5) up fun t => t.mgmt.answer == .value 2300) = true
    ∧ (after (.sensorRead 6) up fun t => t.mgmt.answer == .value 250) = true ∧ (after (.sensorRead 16) up fun t => t.mgmt.answer == .pldmError) = true
    ∧ (after (.coolantEffecter 2) up fun t => t.pwr.srcBus && t.mgmt.answer == .ok) = true
    ∧ (after (.inletEffecter 300) up fun t => t.pwr.inletBus == 300 && t.pwr.inletLast == 2) = true
    ∧ (after (.powerCapEffecter 900) up fun t => field t.pwr.cap 0 16 == 900) = true
    ∧ enterRefused up = true ∧ (after (.rungRequestEffecter 4) up fun t => t.pwr.rungErr && t.mgmt.answer == .pldmError) = true
    ∧ (after (.rungRequestEffecter 1) (onRung 3) fun t => t.pwr.rung == 0) = true
    ∧ (after (.pcieRoleEffecter 2) up fun t => t.flash.role == some 2) = true ∧ (after (.pcieRoleEffecter 4) up fun t => t.mgmt.answer == .pldmError) = true := by
  decide +kernel

/-- An endpoint identifier set and read, and the rung 4 that a quiet module takes. -/
theorem test_mctp_and_rung_request :
    (after (.mctpControlRequest .i3c (.setEndpointId 9)) up fun t => eidOf t.mgmt .i3c == 9 && eidOf t.mgmt .smbus == eidOf up.mgmt .smbus) = true
    ∧ (after (.mctpControlRequest .smbus .getEndpointId) up fun t => t.mgmt.answer == .mctp [0, eidOf up.mgmt .smbus, 0, 0]) = true
    ∧ enterRefused (quiet (onRung 1)) = false
    ∧ (after (.rungRequestEffecter 4) (quiet (onRung 1)) fun t => t.pwr.rung == 4 && t.mgmt.answer == .ok) = true := by decide +kernel

/-- Images for component 1 under key 0, each signed with one key whose hash stands in the fuses: with no REVOKE, and revoking key 2;
one that revokes its own key. Made outside the model by FIPS 180-4 and PKCS #1 v2.2. -/
def image1 : Image := ⟨
  bytesBe 64 0x4a5146570100000002000000030000000300000000000000039058c6f2c0cb492c533b0a4d14ef77cc0f78abccced5287d84a1a2011cfb810000000000000000
  ++ bytesBe 64 0xcd9bfdfe5eeaf75b57965d363799dec6caafb2cadb4db93e5c2d9e30ef394e4460ab1bd39b04393087aae9d0a369f4240c0bff178a933f08bb8bd66f614b0b00
  ++ bytesBe 64 0xced85ba0a8964855d9089afcff82f4045c0baa460cfe4e82d4578fe2dfb08c40b7681b02d950ba2c7f9e6d284fd91d4e176d3e972dc6521f7014aa3fb080f63e
  ++ bytesBe 64 0x2704c53e2d97ec16bfe52ca25eb125de3a44021464a589d0c51961441ae0efdc0d8a56cfd8d3f7a8db75b71653767ba25631807aed02cc8a5a233a4b43070e5b
  ++ bytesBe 64 0x63b49a594a2450cb304cf1568d9f0c8b5c3f0c8013f6f9dd383dcfaafdf844707a6e5b0c8ff75ed58d4cd0e2a98157ea6cf65eeac86528fa8f9f0a5780f61524
  ++ bytesBe 64 0xf49501d1ba573b7aeb25531e1eea10404f23dd35ee8569855421478233387bfa97661b3354e61a4d9d1b4cc887754fda36cf7f46dfd076ef0b5594b089240f9e
  ++ bytesBe 64 0x7b94522c6c488e77993129587702369fd7a1dea7b2459343dc6f17e9651d9d14e63087c4a3588176597b550cdccb560082f8b81a2dddb9edc38b889f24ce2041
  ++ bytesBe 64 0x6b1d91f0019dbc403fe6fc1920cc03768ba9d55b36dbad771d5d580dfc605999562db811b915673f0d00d2b1044d91c0ea002b6b8f84590c2dd2dc0f15ca3c0f
  ++ bytesBe 64 0xcfcf82a6fbd40741c1806ef6e2c6f03885a9107c0c351e6bc014d7bf49ac6f87894a5ac2086cecc5a0452424f942c8e2cbd156e2c2ad87297be4afe68cff8e82
  ++ bytesBe 64 0x7d5fde372a88ce958c9df3959537f6abd645fb752415467014b090021dab5e38e32ac76760bd9ae40c106abe7ddf2345fdf8782b6c200d0f0590e33213659c21
  ++ bytesBe 64 0x555057293700b937dad870ec9527e96b8d4ef1a0812c441af9c19f290032bfb809d37c0f7da0940563723cfc81df7e8892c8e7d634b508f97a5283d49b4e56d7
  ++ bytesBe 64 0xf9dcd127ab86137a92abdb94f47f8e811f6c3d358f7fa0bbe5ff828d4eddc1fb6ab43d99de55e0953938be627f4f426d81a738bbb5ed1fd894ad269a33917597
  ++ bytesBe 64 0x6e299e6fae8a99e9bab7c0cdfc1a49c3acca5fa7d616cc6fd036834102aa896d359948e712d943af5dc80778316e053cc62c0c6d40300bc8f5462f043d7ca649, [1, 2, 3]⟩
def image2 : Image := ⟨
  bytesBe 64 0x4a5146570100040002000000030000000300000000000000039058c6f2c0cb492c533b0a4d14ef77cc0f78abccced5287d84a1a2011cfb810000000000000000
  ++ bytesBe 64 0xcd9bfdfe5eeaf75b57965d363799dec6caafb2cadb4db93e5c2d9e30ef394e4460ab1bd39b04393087aae9d0a369f4240c0bff178a933f08bb8bd66f614b0b00
  ++ bytesBe 64 0xced85ba0a8964855d9089afcff82f4045c0baa460cfe4e82d4578fe2dfb08c40b7681b02d950ba2c7f9e6d284fd91d4e176d3e972dc6521f7014aa3fb080f63e
  ++ bytesBe 64 0x2704c53e2d97ec16bfe52ca25eb125de3a44021464a589d0c51961441ae0efdc0d8a56cfd8d3f7a8db75b71653767ba25631807aed02cc8a5a233a4b43070e5b
  ++ bytesBe 64 0x63b49a594a2450cb304cf1568d9f0c8b5c3f0c8013f6f9dd383dcfaafdf844707a6e5b0c8ff75ed58d4cd0e2a98157ea6cf65eeac86528fa8f9f0a5780f61524
  ++ bytesBe 64 0xf49501d1ba573b7aeb25531e1eea10404f23dd35ee8569855421478233387bfa97661b3354e61a4d9d1b4cc887754fda36cf7f46dfd076ef0b5594b089240f9e
  ++ bytesBe 64 0x7b94522c6c488e77993129587702369fd7a1dea7b2459343dc6f17e9651d9d14e63087c4a3588176597b550cdccb560082f8b81a2dddb9edc38b889f24ce2041
  ++ bytesBe 64 0xb6a40b4b93faa302bcf0483216e045f3cfd87abc2eed791d73d8d2c9fb6f31cb1f66d4c0f85df83cfc7629fb73cf829cb552f485a6b59e0b5c6a271440465367
  ++ bytesBe 64 0x2d80acc6b86e2ecf84b24163d964c6b68a1ccfcbfe4ae6f6e588ad50b2d549e62a09d54f396c9b3aecb916d3e95c34ceb316ab1aa74ff4daa4bf45ec81ffdf90
  ++ bytesBe 64 0xef32aa59d5644a088430d6e2b15c966f8c05cb74db491c84a2350f9b5e52752103e221ed1a162004095c3a68dfefcf46ff74d22ddb73a2daaa89644ea2e4128b
  ++ bytesBe 64 0x31d91147e0bfb52e5cba4947508eb3122582cf710609f0a8c29b36bb5913cfea33215d9ac476c3564c32896a56683a428257e8e54afb4c61813d25ed5af7959f
  ++ bytesBe 64 0x0c670723f3208ee1f908f7b675dd69d162d6207d8f16549acca45f01a820e345e39e99009e78fa9e4d8b13e0fc2669c1346fcd75b0226160f97897e5b706637e
  ++ bytesBe 64 0xcda2d051e11fd53483aec30c8d33eaa8aacffd5d154a2ddc4a5e71454e34bb4822758bb29367ee5964f9e77a830f53599e13bd8d35c241b868a0aed23ca7748f, [1, 2, 3]⟩
def imageOwn : Image := ⟨
  bytesBe 64 0x4a5146570100010002000000030000000300000000000000039058c6f2c0cb492c533b0a4d14ef77cc0f78abccced5287d84a1a2011cfb810000000000000000
  ++ bytesBe 64 0xcd9bfdfe5eeaf75b57965d363799dec6caafb2cadb4db93e5c2d9e30ef394e4460ab1bd39b04393087aae9d0a369f4240c0bff178a933f08bb8bd66f614b0b00
  ++ bytesBe 64 0xced85ba0a8964855d9089afcff82f4045c0baa460cfe4e82d4578fe2dfb08c40b7681b02d950ba2c7f9e6d284fd91d4e176d3e972dc6521f7014aa3fb080f63e
  ++ bytesBe 64 0x2704c53e2d97ec16bfe52ca25eb125de3a44021464a589d0c51961441ae0efdc0d8a56cfd8d3f7a8db75b71653767ba25631807aed02cc8a5a233a4b43070e5b
  ++ bytesBe 64 0x63b49a594a2450cb304cf1568d9f0c8b5c3f0c8013f6f9dd383dcfaafdf844707a6e5b0c8ff75ed58d4cd0e2a98157ea6cf65eeac86528fa8f9f0a5780f61524
  ++ bytesBe 64 0xf49501d1ba573b7aeb25531e1eea10404f23dd35ee8569855421478233387bfa97661b3354e61a4d9d1b4cc887754fda36cf7f46dfd076ef0b5594b089240f9e
  ++ bytesBe 64 0x7b94522c6c488e77993129587702369fd7a1dea7b2459343dc6f17e9651d9d14e63087c4a3588176597b550cdccb560082f8b81a2dddb9edc38b889f24ce2041
  ++ bytesBe 64 0x6df003a0cbf1c6179b9998b1f1e620e04bc6efdeb00910eda4b1589879470ddf5335ef4787088cfdd322995671d1992547d6b816067d1ca76ce4d5fc50a6b01a
  ++ bytesBe 64 0xabdd6ec6ded38efedbe4668b91ec789b07529d485b86f49560fda30473249be7b99ff8d7b025c500321a09e3743f215e86fdf869d58d41209ba2bbd4f18da3cc
  ++ bytesBe 64 0xf5122c87990c2a5aef39cdd7978bd468efb1816fd0087f2d0b195a5b0f5e8825efcfcfdff5e0456d16725846171f8b4a186246be63cfea3ab75f0596cb63eba9
  ++ bytesBe 64 0x6a4ed83be210e30eb3e128c5924cba0b8913f55ea41e7d5dbee45415c4dbedb3935aad106a47c448e6e02fc87ea9b1a59b71a15a9e1e3237d8b9f76640316106
  ++ bytesBe 64 0x7cd82a2310d93d1c87356a291e54eb9911521103b6bbaa5bfae1c4ce58fc4c5545395486e6e00bde65cf2539a7ab893f62c60e5963179a1bb1966f7e813b3718
  ++ bytesBe 64 0x3f0b790df5b3544132ec62ee0459b85a224e01ce4dfe1d6d323c010679163e485b62fb9a3dc70497d93cc60340e770d84a903993901356d4a3f0a31110efb2cc, [1, 2, 3]⟩
def fused : State := { up with flash := { up.flash with otp := [(0, BitVec.ofNat 256 0xcec5a0a19e4ef5ada74f2ef80b8dbebd682d676ca52990aa1725b23c9f753a64)] } }
def stagedFw : State := { fused with mgmt := { up.mgmt with staged := 2, update := 1 } }

theorem test_images :
    imageFault fused 1 image1 = none ∧ imageFault fused 1 { image1 with body := [1, 2, 4] } = some 1 ∧ imageFault fused 1 imageOwn = some 1
    ∧ imageFault fused 2 image1 = some 1 ∧ image1.version = 2 ∧ image1.svn = 3 := by decide +kernel

theorem test_image_transfers :
    (after (.imageTransferDone image1) fused fun t => bit t.mgmt.staged 1 && (slotOf t 1 1).image == image1 && t.mgmt.answer == .ok) = true
    ∧ (after (.imageTransferDone { image1 with body := [] }) fused fun t => !bit t.mgmt.staged 1 && (slotOf t 1 1).invalid) = true
    ∧ componentRuns fused 1 = true ∧ inactiveSlot fused 1 = 1 := by decide +kernel

theorem test_firmware :
    hubServed up = true ∧ handsOver up 1 = false
    ∧ (after (.controllerWatchdog 1) up fun t => t.boot.restarting == [1] && t.evt.held.map (fun o => (o.cls, o.reason)) == [(0x85, 1)]) = true
    ∧ (after .svnCommit { up with flash := { up.flash with minSvn := [(1, 5)] } } fun t => tget 0 t.flash.minSvn 1 == 5 && tget 0 t.flash.minSvn 0 == 1) = true
    ∧ (after .activateFirmware up fun t => t.mgmt.answer == .pldmError) = true
    ∧ nextController 2 0 = some 0
    ∧ (after .activateFirmware stagedFw fun t => t.boot.act == some { staged := 2, at_ := 0 } && t.mgmt.update == 3) = true
    ∧ (after .activateFirmware { stagedFw with boot := { stagedFw.boot with fail := 3, ready := false } } fun t => t.mgmt.staged == 0
      && t.boot.slots == 2) = true := by decide +kernel

theorem test_firmware_handover :
    nextController 2 4 = none ∧ nextController 2 1 = some 1 ∧ nextController 1 0 = some 8
    ∧ (after .firmwareHandoverDone { stagedFw with boot := { stagedFw.boot with act := some { staged := 2, at_ := 3 } } } fun t => t.boot.act.isNone
      && t.boot.slots == 2 && t.flash.lastActivated == 2 && t.mgmt.staged == 0) = true
    ∧ (after (.controllerRestartDone 1) { up with boot := { up.boot with restarting := [1] } } fun t => t.boot.restarting.isEmpty) = true := by
  decide +kernel

/-! ### The whole block -/

theorem test_step_and_reset :
    memByte State.reset.pool.mem 5 = 0 ∧ Memory.wf State.reset.pool.mem = true ∧ State.reset.pwr.rung = 1
    ∧ (step { up with pending := [.scrubFillDone] } matches .next _) = true
    ∧ (match step up with | .next t => t.hTicks == 1 | _ => false) = true
    ∧ (repEntry State.reset 1 3 16).state = 1 ∧ (repEntry State.reset 1 3 15).state = 0 ∧ (repEntry State.reset 4 6 18).state = 1 := by decide +kernel

/-- A minimum SVN and a revocation stand, and a step keeps them; a step on a memory in canonical form. -/
theorem test_step_keeps :
    (match step { up with pending := [.svnCommit], flash := { up.flash with minSvn := [(0, 9)], revoked := 2 } } with
      | .next t => tget 0 t.flash.minSvn 0 == 9 && bit t.flash.revoked 1 | _ => false) = true
    ∧ Memory.wf [(1, 2), (7, 3)] = true := by decide +kernel

/-- Slot B of component 1 holds an image that revokes key 2, and it becomes active: at the end of a hand-over, and where the
boot has stopped. An image that revokes its own key is refused. -/
def revoking : State := { stagedFw with flash := { fused.flash with slots := [(3, { image := image2 })] } }

theorem test_revocations :
    (after .firmwareHandoverDone { revoking with boot := { revoking.boot with act := some { staged := 2, at_ := 3 } } } fun t =>
      t.flash.revoked == 4) = true
    ∧ (after .activateFirmware { revoking with boot := { revoking.boot with fail := 3, ready := false } } fun t => t.flash.revoked == 4) = true
    ∧ (after (.imageTransferDone imageOwn) fused fun t => !bit t.mgmt.staged 1 && (slotOf t 1 1).invalid) = true
    ∧ (after (.registerWrite .host 0x600008 8 1) { up with flash := { up.flash with minSvn := [(1, 0)] } } fun t =>
      tget 0 t.flash.minSvn 1 == 1) = true := by decide +kernel

theorem test_formats :
    decodeNum .fp16 0x3C00 ≠ .nan ∧ encodeNum .fp16 (decodeNum .fp16 0x3C00) = 0x3C00 ∧ decodeNum .e2m1 7 = .fin false 3 1
    ∧ encodeNum .fp32 (decodeNum .fp32 0x00000001) = 1 := by decide +kernel

/-! ### Well-formed commands -/

/-- One ill-formed term for each check, refused, and one at the edge of the range, accepted. -/
theorem test_wellFormed_units :
    wellFormed (.ringDb 1024 .whole 0) = false ∧ wellFormed (.ringDb 1023 .whole 0) = true
    ∧ wellFormed (.arrayBeat 544) = false ∧ wellFormed (.iadd 543 128) = false ∧ wellFormed (.iadd 543 127) = true
    ∧ wellFormed (.rds 696 0) = false ∧ wellFormed (.coreWfi 152) = false ∧ wellFormed (.portPartnerDetect 64) = false
    ∧ wellFormed (.thermalTrip 9 0) = false ∧ wellFormed (.receivedAck ⟨16384, 0⟩ 0) = false ∧ wellFormed (.receivedAck ⟨0, 64⟩ 0) = false ∧ wellFormed (.laneRetire 8 0 false) = false
    ∧ wellFormed (.pairSubstitute 1 136) = false ∧ wellFormed (.controllerWatchdog 9) = false ∧ wellFormed (.fabWinWrite 64 0 .whole 0) = false
    ∧ wellFormed (.fabWinWrite 0 4 .whole 0) = false ∧ wellFormed (.bandFinish 0 128) = false ∧ wellFormed (.nakReceive 0 0 256) = false
    ∧ wellFormed (.groupStart 0 544) = false ∧ wellFormed (.negativeAckReceive ⟨0, 0⟩ 0 16) = false := by decide +kernel

theorem test_wellFormed_sizes :
    wellFormed (.coherenceDataReceive (2 ^ 49)) = false ∧ wellFormed (.cboZero 0 { addr := 2 ^ 64 }) = false
    ∧ wellFormed (.registerWrite .host 0 3 0) = false ∧ wellFormed (.bar0Read .host 0 8) = true ∧ wellFormed (.msixTableWrite 0 2 0) = false
    ∧ wellFormed (.coreLoad 0 0 { size := 3 }) = false ∧ wellFormed (.coreLr 0 0 { size := 2 }) = false ∧ wellFormed (.coreAmo 0 0 ⟨{ size := 4 }, .add, 3, 0, 0, []⟩) = false
    ∧ wellFormed (.fabricPutReceive { pkt with length := 257 }) = false ∧ wellFormed (.fabricPutReceive pkt) = true
    ∧ wellFormed (.fabricGetReceive { pkt with seq := 2 ^ 24 }) = false ∧ wellFormed (.fabricGetReceive { pkt with offset := 2 ^ 41 }) = false
    ∧ wellFormed (.bar2Read 0 4097) = false ∧ wellFormed (.sliceArrive 0 false 262145) = false ∧ wellFormed (.copyDataArrive 0 0 129) = false
    ∧ wellFormed (.wrline 0 127 [1, 2]) = false ∧ wellFormed (.exactAdd 0 false (List.replicate 33 0)) = false
    ∧ wellFormed (.flitReceive 0 0 { data := [], side := 0 }) = false := by decide +kernel

/-- The table gives no row bits: no word spells a command, and the queue is left as it is. -/
theorem test_no_word : decodeTableWord 32 0 = none ∧ up.withFetchWord 32 0 = up := by decide +kernel

/-! ### Further witnesses: copies of boxes, waits, memory without copies, and the control complex -/

/-- A copy of a tensor's box under way. -/
def boxed : State := match exec (.tcopy 0 0) (tensored 0x55) with | .next t => t | _ => up

theorem test_box_lands :
    (boxed.engine 0).copies.map (fun r => (r.len, r.box.isSome)) = [(2, true)]
    ∧ (after (.copyDataArrive 0 0 2) boxed fun t => (t.engine 0).copies.isEmpty && tget 0 (t.engine 0).counters 0 == 2
      && (grantOf (t.engine 0) 0).map (fun gr => ofBytes (memRead gr.scratch 8 2)) == some 0) = true
    ∧ (after (.copyDataArrive 0 0 1) boxed fun t => (t.engine 0).copies.map (·.done) == [1]) = true := by decide +kernel

/-- Memory of the NC and IO types, a requester that shares the line, and a core at rest. -/
theorem test_uncached_and_shared :
    (after (.coreLr 0 12800 { size := 4, uncached := true }) up fun t => (t.core 0).exception == some 5 && (t.core 0).reservation == none) = true
    ∧ (after (.coreSc 0 12800 { size := 4, uncached := true } 1) reserved fun t => (t.core 0).exception == some 7
      && (t.core 0).reservation == some 100 && t.coh.priv == reserved.coh.priv) = true
    ∧ (after (.cboZero 0 ⟨12804, {}, true⟩) inMemory fun t => dramLine t 100 == zeroLine && t.coh.priv.isEmpty) = true
    ∧ (after (.coherenceDataReceive 100) (let s := heldIn 544 .s (alone 544); { s with coh := { s.coh with
        txns := [{ line := 100, req := .upg, agent := 544, granted := true }] } }) fun t =>
      (privOf t 544 100).map (fun p => (p.st, p.data)) == some (.m, full 7)) = true
    ∧ (after (.coreWfi 0) { up with coh := { up.coh with cores := [(0, { wfi := true })] } } fun t => t.coh.cores == [(0, { wfi := true })]) = true
    ∧ (after (.coreWfi 0) up fun t => (t.core 0).wfi && (t.core 0).cycle == 1 && (t.core 0).instret == 1) = true := by decide +kernel

/-- A held range at the output of a chain that is ready to commit, with no beat for its array. -/
def heldTile : State :=
  let s := onArr { drained with todo := [.data [0, 0] 1] } {}
  { s with xlt := { s.xlt with holds := [{ slot := 0, start := 0x420, length := 4, limitMs := 1, since := 0 }] } }

theorem test_empty_beats :
    (chainOf heldTile 5).map (commitHeld heldTile) = some true
    ∧ (after (.arrayBeat 0) heldTile fun t => (t.array 0).ctr.arrival == 1) = true
    ∧ finishes { holding with arrays := [0] } 0 = true
    ∧ (after (.arrayBeat 0) (onArr holding {}) fun t => (t.array 0).ctr.epilogue == 1) = true
    ∧ (nextTile { runs with committed := 1, arrays := [0] } 0 { group := 1 }).isSome = false
    ∧ (after (.arrayBeat 0) (onArr { runs with committed := 1 } { group := 1 }) fun t => t.array 0 == { group := 1, ring := some 5 }) = true := by
  decide +kernel

/-- Eight operations are in progress, and a RELEASE comes. -/
def releaseLate : State :=
  let s := holding1 (structAt 5 (xltBytes 5 0x2000 0x1000 0))
  { s with xlt := { s.xlt with ops := [8, 9, 10, 11, 12, 13, 14, 15] } }

theorem test_release_waits :
    (after (.release 5) releaseLate fun t => (t.ring 5).state == .waiting && t.xlt.holds.length == 1
      && after (.operationAdmit 5) { t with xlt := { t.xlt with ops := [] } } fun u => ended 0 1 u && u.xlt.holds.isEmpty) = true := by decide +kernel

/-- Bus Master Enable is 0, and a fetch from host memory has timed out; a fetch that waits for one of the 512 reads. -/
def fetchLost (bme : Bool) : State := { withRing { ring0 with state := .running, reading := true, readTag := some 3, cq := 0x8000000000000000 } with
  link := { up.link with bme := bme, reads := [{ tag := 3, owner := .fetch 5, hio := 0, len := 64 }] } }

theorem test_record_waits_in_an_episode :
    recordWaits 5 (fetchLost false) = true ∧ recordWaits 5 (fetchLost true) = false
    ∧ (after (.completionTimeout 3) (fetchLost false) fun t => (t.ring 5).state == .running && (t.ring 5).op == some (.finished { status := 0x40 })) = true
    ∧ (after (.completionTimeout 3) (fetchLost true) fun t => (t.ring 5).state == .stopped) = true
    ∧ (after (.configWrite (.busMaster false)) { live with link := { live.link with waits := [5] } } fun t =>
      (episodeOf t).rings == [5] && !t.link.bme) = true
    ∧ (after (.configWrite (.msixMask true)) live fun t => t.link.msixMask) = true
    ∧ (after (.abort 5) (withRing { taken 5 [] with state := .waiting, desc := some (descr 5 []), kind := 5 }) fun t =>
      (t.ring 5).last.w0 % 256 == 0x42) = true := by decide +kernel

/-- A port whose only trained lane is retired, and a delivery to a chain whose credits are not written. -/
def laneGone : State := (port2 2).onRep fun r => { r with map := tins r.map (repKey 8 (portDie 2) 2) { state := 4 }, lanes := [(2, 0)] }
def crediting : State :=
  let s := onArr { runs with slices := [{ source := 0, kFirst := 0, counter := 0, push := true }], credits := [(0, 1, 1)] } {}
  { s with fab := { windowed.fab with wins := [(0, { w0 := 0xBC00000000000000, w1 := 5 })] }, setup := windowed.setup }

theorem test_ports_and_deliveries :
    lanesKept laneGone 2 1 = 0 ∧ lanesKept laneGone 2 3 = 2 ∧ lanesKept (port2 2) 2 3 = 3
    ∧ (after (.portTrainDone 2 (.up 1 9 1)) laneGone fun t => (t.port 2).state == 1 && (t.port 2).nbrNode == 0) = true
    ∧ deliveryWaits 0x100 crediting = true
    ∧ (after (.deliveryReceive { pkt with kind := .deliver }) crediting fun t => t.fab.busyNacks == 1 && t.fab.rx.isEmpty) = true
    ∧ (after (.wireRemap 0 1 false) (dlUp0 wired) fun t => t == dlUp0 wired) = true := by decide +kernel

/-- The chain of certificates is longer than its serial number. -/
theorem test_certificates (s : State) : 16 ≤ (certChain s).length := by
  simp only [certChain, certificates, serialDigits, List.flatten_cons, List.flatten_nil, List.length_append, List.length_map,
    List.length_reverse, List.length_range, List.length_nil]
  omega

theorem test_control_complex :
    slotFault up 0 (one (bit up.flash.active 0)) = none
    ∧ (after (.controllerRestartDone 0) { up with boot := { up.boot with restarting := [0] } } fun t => t.boot.restarting.isEmpty && t.boot.fail == 0) = true
    ∧ (after (.mctpControlRequest .i3c .getMessageTypes) up fun t => t.mgmt.answer == .mctp [0, 3, 0, 1, 5]) = true
    ∧ (after (.mctpControlRequest .smbus .pldmRequestUpdate) up fun t => t.mgmt.update == 2 && t.mgmt.answer == .ok) = true
    ∧ (after (.getMeasurements 7 false) (spdm 3) fun t => t.mgmt.answer == .spdm 0x60 (7 :: 7 :: 0x83 :: securityConfig up)) = true
    ∧ (after .firmwareHandoverDone { stagedFw with boot := { stagedFw.boot with act := some { staged := 2, at_ := 0 } } } fun t =>
      t.boot.act == some { staged := 2, at_ := 1 }) = true
    ∧ (slotOf { fused with flash := { fused.flash with slots := [(2, { image := image1 })] } } 1 0).shipped = false
    ∧ sideOf (restoring false) 1 1 16 = some (1, 1, 16, 0xFFFF) := by decide +kernel

end Sys2Proof.Tests
end

section
/-! SUPPORT. What the settling of the ports leaves alone, each outcome of the set-up commit (R441, R442) and of a snapshot of the
state readout (R444), and the statements on them; and the warm reset that leaves a hot-page counter. -/

namespace Sys2Proof.Proofs.Scope

open Sys2Proof.Machine

/-! ### The ports settle (R254) -/

/-- The second state differs from the first in the ports, in what waits at them and in what the Dodgem unit holds alone. -/
def PortsOnly (s t : State) : Prop :=
  ∃ ports out retryBuf heldPkts, t = { s with
    fab := { s.fab with ports := ports, out := out, retryBuf := retryBuf }, dod := { s.dod with heldPkts := heldPkts } }

namespace PortsOnly

theorem same (s : State) : PortsOnly s s := ⟨_, _, _, _, rfl⟩

theorem trans {s t u : State} (h : PortsOnly s t) (k : PortsOnly t u) : PortsOnly s u := by
  obtain ⟨_, _, _, _, rfl⟩ := h
  obtain ⟨_, _, _, _, rfl⟩ := k
  exact ⟨_, _, _, _, rfl⟩

theorem foldl {β : Type} {f : State → β → State} (h : ∀ s b, PortsOnly s (f s b)) : ∀ (l : List β) (s : State), PortsOnly s (l.foldl f s)
  | [], s => same s
  | b :: l, s => (h s b).trans (foldl h l (f s b))

variable {s t : State} (h : PortsOnly s t)
include h

theorem setup : t.setup = s.setup := by obtain ⟨_, _, _, _, rfl⟩ := h; rfl
theorem pool : t.pool = s.pool := by obtain ⟨_, _, _, _, rfl⟩ := h; rfl
theorem rings : t.rings = s.rings := by obtain ⟨_, _, _, _, rfl⟩ := h; rfl
theorem xlt : t.xlt = s.xlt := by obtain ⟨_, _, _, _, rfl⟩ := h; rfl

end PortsOnly

theorem onPort_portsOnly (p : Nat) (f : FabPort → FabPort) (s : State) : PortsOnly s (s.onPort p f) := ⟨_, _, _, _, rfl⟩

theorem portLeave_portsOnly (p st : Nat) (s : State) : PortsOnly s (portLeave p st s) := ⟨_, _, _, _, rfl⟩

theorem portsSettle_portsOnly (s : State) : PortsOnly s (portsSettle s) := by
  refine PortsOnly.foldl (fun s p => ?_) (List.range 64) s
  dsimp only
  split
  · split
    · exact portLeave_portsOnly ..
    · exact PortsOnly.same s
  · split
    · exact PortsOnly.same s
    · exact onPort_portsOnly ..

/-! ### The set-up commit (R441, R442) -/

/-- The end of a commit sets the lock; only the ports follow it. -/
theorem commitDone_portsOnly (s : State) :
    PortsOnly (s.onSetup fun u => { u with committed := true, busy := false, fill := false }) (commitDone s) :=
  portsSettle_portsOnly _

/-- A write of 1 to HUB_SETUP requests the commit and clears no error. -/
theorem exec_setupCommit_one {s : State} (h : hubServed s = true) : exec (.setupCommit 1) s = .next (commitRequest s) := by
  change Host.Outcome.next (if hubServed s then commitRequest s else s) = _
  rw [if_pos h]

theorem commitRequest_locked {s : State} (h : s.setup.committed = true ∨ s.setup.busy = true) : commitRequest s = s := by
  simp [commitRequest, h]

section
variable {s : State} (free : s.setup.committed = false) (idle : s.setup.busy = false)
include free idle

theorem commitRequest_refused (h : commitCause s ≠ 0) :
    commitRequest s = s.onSetup fun u => { u with err := true, errCause := BitVec.ofNat 2 (commitCause s) } := by
  simp [commitRequest, free, idle, h]

/-- With the placement in force the commit fills nothing, and is done in its own command. -/
theorem commitRequest_unfilled (h : commitCause s = 0) (kept : field s.pool.placement 0 6 = s.pool.ilvForce) :
    commitRequest s = commitDone (tlbsEmpty (s.onSetup fun u => { u with busy := true, fill := false })) := by
  simp [commitRequest, free, idle, h, kept]

/-- With another placement the commit fills tier 1, and is busy. -/
theorem commitRequest_filled (h : commitCause s = 0) (changed : field s.pool.placement 0 6 ≠ s.pool.ilvForce) :
    commitRequest s = tlbsEmpty (((fillTier1 s).onPool fun p => { p with ilvForce := field s.pool.placement 0 6 }).onSetup
      fun u => { u with busy := true, fill := true }) := by
  have fill : (field s.pool.placement 0 6 != s.pool.ilvForce) = true := by simpa using changed
  simp [commitRequest, free, idle, h, fill]

end

/-- The fill clears tier 1 and no byte beyond it (R176). -/
theorem fillTier1_memByte (s : State) (a : Nat) :
    memByte (fillTier1 s).pool.mem a = if a < 0x9000000000 then 0 else memByte s.pool.mem a := by
  have cleared := memByte_memClear s.pool.mem 0 0x9000000000 a
  simp only [Nat.zero_le, true_and] at cleared
  exact cleared

/-! ### State readout (R444) -/

/-- The channel's readout after a change of it. -/
theorem readoutOf_onReadout (ch : Port) (f : Readout → Readout) (s : State) : readoutOf (onReadout ch f s) ch = f (readoutOf s ch) := by
  cases ch <;> rfl

/-- A change of a readout changes the set-up alone. -/
theorem onReadout_frame (ch : Port) (f : Readout → Readout) (s : State) : { onReadout ch f s with setup := s.setup } = s := rfl

/-- A whole write of a register under a mask that covers a field gives the field that of the value written. -/
theorem field_partWrite_whole (old val : Word) {mask : Word} {lo w : Nat} (covers : ∀ i < w, mask.getLsbD (lo + i) = true) :
    field (partWrite old mask .whole val) lo w = field val lo w := by
  have bitwise : (partWrite old mask .whole val).extractLsb' lo w = val.extractLsb' lo w := by
    refine BitVec.eq_of_getLsbD_eq fun i hi => ?_
    have inWord := BitVec.lt_of_getLsbD (covers i hi)
    have taken : mask[lo + i] = true := covers i hi
    have all : mask &&& partMask .whole = mask := BitVec.and_allOnes
    simp [partWrite, all, maskWrite, partVal, taken, inWord]
  exact congrArg BitVec.toNat bitwise

theorem snapshot_unknownTable {s : State} {index : Word} (h : tableShapes[field index 40 6]? = none) :
    snapshot s index = { index := index, err := 1 } := by
  simp [snapshot, h]

section
variable {s : State} {index : Word} {n b : Nat} (h : tableShapes[field index 40 6]? = some (n, b))
include h

theorem snapshot_shape : (snapshot s index).entries = n ∧ (snapshot s index).entryBytes = b := by
  simp only [snapshot, h]
  split
  · exact ⟨rfl, rfl⟩
  · split <;> exact ⟨rfl, rfl⟩

theorem snapshot_beyond (out : n ≤ field index 0 32) : (snapshot s index).err = 2 := by
  simp [snapshot, h, out]

theorem snapshot_entry (inside : field index 0 32 < n) (on : entryOff s (field index 40 6) (field index 0 32) = false) :
    (snapshot s index).err = 0 ∧ (snapshot s index).data = tableEntry s (field index 40 6) (field index 0 32) := by
  have : ¬ n ≤ field index 0 32 := by omega
  simp [snapshot, h, this, on]

end

theorem snapshot_busy (s : State) (index : Word) : (snapshot s index).busy = false := by
  simp only [snapshot]
  split
  · rfl
  · split
    · rfl
    · split <;> rfl

/-! ### The statements -/

section
variable {s : State} (served : hubServed s = true) (free : s.setup.committed = false) (idle : s.setup.busy = false)
include served free idle

theorem setupCommit_refused (h : commitCause s ≠ 0) : exec (.setupCommit 1) s = .next { s with
    setup := { s.setup with err := true, errCause := BitVec.ofNat 2 (commitCause s) } } := by
  rw [exec_setupCommit_one served, commitRequest_refused free idle h]
  rfl

theorem setupCommit_unfilled (h : commitCause s = 0) (kept : field s.pool.placement 0 6 = s.pool.ilvForce) :
    ∃ t, exec (.setupCommit 1) s = .next t ∧ t.setup.committed = true ∧ t.setup.busy = false ∧ t.pool = s.pool
      ∧ t.xlt.l1 = [] ∧ t.xlt.l2 = [] := by
  refine ⟨_, exec_setupCommit_one served, ?_⟩
  rw [commitRequest_unfilled free idle h kept]
  have done := commitDone_portsOnly (tlbsEmpty (s.onSetup fun u => { u with busy := true, fill := false }))
  rw [done.setup, done.pool, done.xlt]
  exact ⟨rfl, rfl, rfl, rfl, rfl⟩

theorem setupCommit_filled (h : commitCause s = 0) (changed : field s.pool.placement 0 6 ≠ s.pool.ilvForce) :
    ∃ t, exec (.setupCommit 1) s = .next t ∧ t.setup.committed = false ∧ t.setup.busy = true
      ∧ t.pool.ilvForce = field s.pool.placement 0 6
      ∧ (∀ a, a < 0x9000000000 → memByte t.pool.mem a = 0)
      ∧ (∀ a, 0x9000000000 ≤ a → memByte t.pool.mem a = memByte s.pool.mem a) := by
  refine ⟨_, exec_setupCommit_one served, ?_⟩
  rw [commitRequest_filled free idle h changed]
  refine ⟨free, rfl, rfl, fun a below => ?_, fun a above => ?_⟩
  · exact (fillTier1_memByte s a).trans (if_pos below)
  · exact (fillTier1_memByte s a).trans (if_neg (Nat.not_lt.2 above))

end

theorem setupCommitDone_locks {s : State} (busy : s.setup.busy = true) :
    ∃ t, exec .setupCommitDone s = .next t ∧ t.setup.committed = true ∧ t.setup.busy = false ∧ t.pool = s.pool ∧ t.rings = s.rings := by
  have done := commitDone_portsOnly s
  refine ⟨commitDone s, by simp [exec, execSetupCommitDone, busy], ?_⟩
  rw [done.setup, done.pool, done.rings]
  exact ⟨rfl, rfl, rfl, rfl⟩

theorem srIndexWrite_starts {s : State} (ready : s.boot.ready = true) (ch : Port) (val : Word) :
    ∃ t, exec (.srIndexWrite ch .whole val) s = .next t ∧ { t with setup := s.setup } = s ∧ (readoutOf t ch).busy = true
      ∧ field (readoutOf t ch).index 0 32 = field val 0 32 ∧ field (readoutOf t ch).index 40 6 = field val 40 6 := by
  refine ⟨srWrite ch .whole val s, by simp [exec, execSrIndexWrite, whenReady, ready], ?_⟩
  unfold srWrite
  rw [readoutOf_onReadout]
  exact ⟨onReadout_frame .., rfl, field_partWrite_whole _ _ (by decide), field_partWrite_whole _ _ (by decide)⟩

theorem exec_srSnapshotDone {s : State} {ch : Port} (busy : (readoutOf s ch).busy = true) (runs : admissionPaused s = false) :
    exec (.srSnapshotDone ch) s = .next (onReadout ch (fun r => snapshot s r.index) s) := by
  simp [exec, execSrSnapshotDone, busy, runs]

/-- Settles O41: each outcome of a commit by its own equation, the fill through the law of a cleared range of memory, the end of a
commit through what the settling of the ports leaves alone; a snapshot by the cases of its table and index. -/
theorem setupCommitsAndSnapshots : Obligations.SetupCommitsAndSnapshots := by
  intro s
  refine ⟨fun served free idle => ⟨fun h => ⟨_, setupCommit_refused served free idle h, rfl⟩,
    setupCommit_unfilled served free idle, setupCommit_filled served free idle⟩, fun locked served => ?_,
    setupCommitDone_locks, srIndexWrite_starts, fun ch busy runs => ⟨_, exec_srSnapshotDone busy runs, onReadout_frame .., ?_⟩⟩
  · rw [exec_setupCommit_one served, commitRequest_locked locked]
  · rw [readoutOf_onReadout]
    refine ⟨snapshot_busy .., fun unknown => by rw [snapshot_unknownTable unknown], fun n b shape => ?_⟩
    exact ⟨(snapshot_shape shape).1, (snapshot_shape shape).2, snapshot_beyond shape, snapshot_entry shape⟩

/-! ### A warm reset that leaves a hot-page counter -/

/-- A booted endpoint with Pickle mode on and its event ring at the start of tier 2. The controller of X0 is restarting, and an
uncorrectable error of X0's memory waits for it (R415): CONTROLLER_WATCHDOG and CORRECTED_ERROR leave a booted module so. -/
def errorWaits : State := { State.reset with
  boot := { ready := true, stage := 7, trained := true, restarting := [7]
            queued := [{ cls := 8, item := 0, die := 7, unit := 0, pa := 0x10000001000, injected := false, structural := false }] }
  pins := { State.reset.pins with perst := false }
  link := { State.reset.link with up := true, bme := true }
  pickle := { State.reset.pickle with ctl := 0x0003E831 }
  evt := { base := 0x0000010000000006, cfg := 1 }
  pwr := { State.reset.pwr with dieOff := [], profile := 2, rung := 0 } }

open Claims in
theorem WarmReset.hot {s t : State} {cause : BitVec 2} (h : WarmReset s t cause) : t.xlt.hot = [] := by
  obtain ⟨-, -, -, -, -, -, -, -, -, -, -, -, -, -, -, hot, -⟩ := h
  exact hot

/-- The error that waited is counted once the counters are cleared: its records 0x70 and 0x73 are writes to tier 2 (R248, R391). -/
theorem perstAssert_leaves_hotCounter : ∃ t, exec .perstAssert errorWaits = .next t ∧ t.xlt.hot ≠ [] :=
  ⟨_, rfl, by decide +kernel⟩

/-- Refutes O37: of the items that a warm reset is to leave at their reset values, the hot-page counters need not be. The reset
releases the errors that waited for a controller after it has cleared them, and with Pickle mode on the records of those errors go
to an event ring in tier 2, where each counts as an access. -/
theorem not_resetsLeaveWhatTheirTableSays : ¬ Obligations.ResetsLeaveWhatTheirTableSays := by
  intro h
  obtain ⟨t, reset, counted⟩ := perstAssert_leaves_hotCounter
  obtain ⟨u, reset', warm, -⟩ := (h errorWaits).1 (by decide) (by decide) (by decide)
  have same : t = u := by simpa using reset.symm.trans reset'
  exact counted (same ▸ WarmReset.hot warm)

end Sys2Proof.Proofs.Scope
end

section
/-! SUPPORT. The engine instructions that write RD in each active lane and go on after their word (R153, R170, R171): what the
registers hold after the writes, where the paths stand at the end of the issue, and from both the form `WritesRd` of their effect. -/

namespace Sys2Proof.Proofs.EngineWrites

open Sys2Proof.Machine Sys2Proof.Safety

/-! ### Registers -/

/-- A write of registers changes nothing else of the group. -/
theorem regWrite_frame (lane : Nat) : ∀ (n r v : Nat) (g : Group),
    regWrite lane r n v g = { g with regs := (regWrite lane r n v g).regs }
  | 0, _, _, _ => rfl
  | n + 1, r, v, g => regWrite_frame lane n (r + 1) (v / 2 ^ 32) { g with regs := tput 0 g.regs (lane * 256 + r) (BitVec.ofNat 32 v) }

/-- Registers lane × 256 + r .. + m - 1 lie outside n registers written from lane k's register rd. -/
def Apart (lane r m k rd n : Nat) : Prop := lane * 256 + r + m ≤ k * 256 + rd ∨ k * 256 + rd + n ≤ lane * 256 + r

theorem tget_regWrite_apart {lane i : Nat} : ∀ (n r v : Nat) (g : Group), i < lane * 256 + r ∨ lane * 256 + r + n ≤ i →
    tget 0 (regWrite lane r n v g).regs i = tget 0 g.regs i
  | 0, _, _, _, _ => rfl
  | n + 1, r, v, g, h => by
    rw [regWrite, tget_regWrite_apart n (r + 1) _ _ (by omega)]
    exact tget_tput_other _ _ _ (by omega)

/-- What registers read depends on the group's registers alone. -/
theorem regRead_congr {g g' : Group} (h : g'.regs = g.regs) (lane : Nat) (n : Nat) : ∀ r, regRead g' lane r n = regRead g lane r n := by
  induction n with
  | zero => exact fun _ => rfl
  | succ n ih => exact fun r => by rw [regRead, regRead, h, ih]

theorem regRead_regWrite_apart {lane k rd n m : Nat} (v : Nat) (g : Group) : ∀ {r : Nat}, Apart lane r m k rd n →
    regRead (regWrite k rd n v g) lane r m = regRead g lane r m := by
  induction m with
  | zero => exact fun _ => rfl
  | succ m ih =>
    intro r h
    unfold Apart at h
    rw [regRead, regRead, tget_regWrite_apart n rd v g (by omega), ih (by unfold Apart; omega)]

/-- The registers written hold the low 32-bit words of the value. -/
theorem regRead_regWrite_same (lane : Nat) : ∀ (n r v : Nat) (g : Group),
    regRead (regWrite lane r n v g) lane r n = v % 2 ^ (32 * n)
  | 0, _, v, _ => by rw [Nat.mul_zero, Nat.pow_zero, Nat.mod_one]; rfl
  | n + 1, r, v, g => by
    have first : tget 0 (regWrite lane r (n + 1) v g).regs (lane * 256 + r) = BitVec.ofNat 32 v := by
      rw [regWrite, tget_regWrite_apart n (r + 1) _ _ (by omega)]
      exact tget_tput_same ..
    rw [regRead, first, regWrite, regRead_regWrite_same lane n (r + 1), BitVec.toNat_ofNat, Nat.mul_succ, Nat.add_comm (32 * n),
      Nat.pow_add, Nat.mod_mul]

/-! ### Writes in several lanes -/

/-- n registers from rd of the lanes of a list take the value of their lane. -/
def writeLanes (rd n : Nat) (f : Nat → Nat) (lanes : List Nat) (g : Group) : Group :=
  lanes.foldl (fun g i => regWrite i rd n (f i) g) g

theorem writeLanes_frame (rd n : Nat) (f : Nat → Nat) : ∀ (lanes : List Nat) (g : Group),
    writeLanes rd n f lanes g = { g with regs := (writeLanes rd n f lanes g).regs }
  | [], _ => rfl
  | i :: lanes, g => by
    have rest := writeLanes_frame rd n f lanes (regWrite i rd n (f i) g)
    rw [regWrite_frame i n rd (f i) g] at rest
    rw [writeLanes, List.foldl_cons, regWrite_frame i n rd (f i) g]
    exact rest

theorem regRead_writeLanes_apart {rd n lane r m : Nat} (f : Nat → Nat) : ∀ {lanes : List Nat} (g : Group),
    (∀ k ∈ lanes, Apart lane r m k rd n) → regRead (writeLanes rd n f lanes g) lane r m = regRead g lane r m
  | [], _, _ => rfl
  | k :: _, g, h => by
    rw [writeLanes, List.foldl_cons]
    exact (regRead_writeLanes_apart f _ fun j hj => h j (List.mem_cons_of_mem _ hj)).trans
      (regRead_regWrite_apart _ g (h k (List.mem_cons_self ..)))

/-- The registers of two lanes are apart where they lie in their lanes. -/
theorem apart_of_lane_ne {lane r m k rd n : Nat} (ne : lane ≠ k) (h : r + m ≤ 256) (bound : rd + n ≤ 256) :
    Apart lane r m k rd n := by
  unfold Apart
  omega

theorem regRead_writeLanes_mem {rd n lane : Nat} (f : Nat → Nat) (bound : rd + n ≤ 256) : ∀ {lanes : List Nat} (g : Group),
    lanes.Nodup → lane ∈ lanes → regRead (writeLanes rd n f lanes g) lane rd n = f lane % 2 ^ (32 * n)
  | k :: lanes, g, distinct, mem => by
    obtain ⟨notIn, distinct⟩ := List.nodup_cons.1 distinct
    rw [writeLanes, List.foldl_cons]
    by_cases here : lane = k
    · subst here
      refine (regRead_writeLanes_apart f _ fun j hj => ?_).trans (regRead_regWrite_same lane n rd (f lane) g)
      exact apart_of_lane_ne (fun h => notIn (h ▸ hj)) bound bound
    · exact regRead_writeLanes_mem f bound _ distinct ((List.mem_cons.1 mem).resolve_left here)

theorem mem_lanesOf {path : Path} {lane : Nat} : lane ∈ lanesOf path.lanes ↔ Active path lane := by
  simp [lanesOf, Active]

theorem lanesOf_nodup (l : BitVec 32) : (lanesOf l).Nodup := List.nodup_range.filter _

/-! ### Paths at the end of an issue -/

/-- The ring of paths turns; it neither gains nor loses one. -/
theorem mem_movePath {ok : Path → Bool} {away : Bool} {q : Path} (ps : List Path) : q ∈ (movePath ok away ps).1 ↔ q ∈ ps := by
  cases ps with
  | nil => rfl
  | cons p t =>
    unfold movePath
    dsimp only
    split
    · rfl
    · split
      · next i _ =>
        have parts : q ∈ t ↔ q ∈ t.take i ∨ q ∈ t.drop i := by rw [← List.mem_append, List.take_append_drop]
        simp only [List.mem_append, List.mem_cons, List.not_mem_nil, or_false, parts]
        tauto
      · rfl

/-- A ring whose first path may issue does not join. -/
theorem tryJoin_ready {p : Path} {t : List Path} (h : p.st = .ready) : tryJoin (p :: t) = p :: t := by
  simp [tryJoin, h]

/-- The paths of the group after an instruction that goes on after its word, before the ring turns. -/
def pathsAfter (c : Cur) : List Path := goOn c 8 :: c.rest.filter fun p => p.lanes != 0

theorem onEngine_engines (e : Nat) (f : Engine → Engine) (s : State) : EnginesOnly s (s.onEngine e f) := rfl

theorem enginesOnly_trans {s t u : State} (h : EnginesOnly s t) (k : EnginesOnly t u) : EnginesOnly s u := by
  have back := congrArg (fun x : State => ({ x with engines := s.engines } : State)) k
  exact back.trans h

theorem goOn_mem (c : Cur) : goOn c 8 ∈ pathsAfter c := List.mem_cons_self ..

/-- An instruction that only writes registers ends with the group in its slot: its paths are those of `pathsAfter`, in an order
that the rotation chooses, and the rest of the engine and the other units are as they were. -/
theorem endPlain_leaves {c : Cur} (g : Group) (s : State) (threads : c.path.lanes ≠ 0) :
    ∃ ps issues, (∀ q, q ∈ ps ↔ q ∈ pathsAfter c)
      ∧ tfind ((endPlain c g s).engine c.e).slots c.slot = some { g with paths := ps, issues := issues }
      ∧ EnginesOnly s (endPlain c g s) ∧ OtherEngines c.e s (endPlain c g s) ∧ OtherGroups c.e c.slot s (endPlain c g s) := by
  have ring : tryJoin (([goOn c 8] ++ c.rest).filter fun p => p.lanes != 0) = pathsAfter c := by
    have stays : ((goOn c 8).lanes != 0) = true := by simpa [goOn] using threads
    rw [List.singleton_append, List.filter_cons, if_pos stays]
    exact tryJoin_ready rfl
  unfold endPlain endIssue
  rw [ring]
  dsimp only
  rw [putGroup_find _ _ _ _ (List.ne_nil_of_mem ((mem_movePath _).2 (goOn_mem c)))]
  refine ⟨_, _, fun q => mem_movePath (pathsAfter c), setSlot_find ..,
    enginesOnly_trans (enginesOnly_trans (countSlots_engines c s) (onEngine_engines ..)) (setSlot_engines ..), fun j hj => ?_, ?_⟩
  · simp [setSlot, countSlots, State.engine_onEngine_other _ _ hj]
  · simp +contextual [OtherGroups, setSlot, countSlots, tfind_tins_other]

/-! ### Instructions that write RD -/

theorem eachLane_writeLanes (n : Nat) (f : Nat → Nat) (c : Cur) (s : State) :
    eachLane n f c s = endPlain c (writeLanes (wRd c.w) n f (lanesOf c.path.lanes) c.g) s := rfl

/-- A result of the instruction's type is the write of its register value (R170). -/
theorem eachTyped_eq_eachLane (f : Nat → Nat) (c : Cur) (s : State) :
    eachTyped f c s = eachLane (tyRegs (wTy c.w)) (fun i => regValue (wTy c.w) (f i)) c s := rfl

/-- A value of a type fits its registers (Table 11 of chapter 06). -/
theorem tyBits_le (ty : Nat) : tyBits ty ≤ 32 * tyRegs ty := by
  have listed : ∀ ty < 13, tyBits ty ≤ 32 * tyRegs ty := by decide
  by_cases known : ty < 13
  · exact listed ty known
  · obtain ⟨k, rfl⟩ := Nat.exists_eq_add_of_le' (Nat.le_of_not_lt known)
    exact Nat.zero_le _

theorem regValue_lt (ty v : Nat) : regValue ty v < 2 ^ (32 * tyRegs ty) := by
  have signed : ∀ x, ofSigned 32 x < 2 ^ 32 := fun x => by unfold ofSigned; omega
  unfold regValue
  split
  · next h => rcases h with rfl | rfl <;> exact signed _
  · exact (Nat.mod_lt _ (Nat.two_pow_pos _)).trans_le (Nat.pow_le_pow_right (by decide) (tyBits_le ty))

/-- The form of a legal word: its type is one of the form's, its codes are defined, its destination is in range (R174). -/
theorem form_of_legal {w regs : Nat} (lawful : legal w regs = true) :
    ∃ f, formOf w = some f ∧ wTy w ∈ f.tys ∧ f.ok = true ∧ regOk regs f.rd (wRd w) = true := by
  unfold legal at lawful
  split at lawful
  · next f hf =>
    simp only [formLegal, Bool.and_eq_true, List.contains_iff_mem] at lawful
    exact ⟨f, hf, by tauto⟩
  · cases lawful

theorem type_of_legal {w regs : Nat} {tys : List Nat} (lawful : legal w regs = true) (form : (formOf w).map (·.tys) = some tys) :
    wTy w ∈ tys := by
  obtain ⟨f, hf, ty, -⟩ := form_of_legal lawful
  simp_all

theorem ok_of_legal {w regs : Nat} {ok : Bool} (lawful : legal w regs = true) (form : (formOf w).map (·.ok) = some ok) : ok = true := by
  obtain ⟨f, hf, -, defined, -⟩ := form_of_legal lawful
  simp_all

/-- The destination of a legal word lies below register 256 (R170, R174). -/
theorem rd_bound {w regs n : Nat} (lawful : legal w regs = true) (form : (formOf w).map (·.rd) = some n) : wRd w + n ≤ 256 := by
  obtain ⟨f, hf, -, -, dest⟩ := form_of_legal lawful
  obtain rfl : f.rd = n := by simpa [hf] using form
  unfold regOk at dest
  split at dest
  · next none => simp_all
  · simp only [Bool.and_eq_true, decide_eq_true_eq] at dest
    omega

section
variable {i : Instr} {s s1 : State} {e slot : Nat} {g : Group} {path : Path} {rest : List Path} {prog : ProgramRun} {w op : Nat}
  {run : Cur → State → State} (at_ : AtIssue s s1 e slot g path rest prog w)
include at_

/-- An instruction that writes n registers in each active lane has the effect `WritesRd`, with what the registers then hold. -/
theorem writesRd_of_eachLane {n : Nat} {f : Nat → Nat} {P : Group → Nat → Prop} (exec_eq : exec i s = .next (issue op e slot run s))
    (hop : wOp w = op) (form : (formOf w).map (·.rd) = some n)
    (run_eq : run ⟨e, slot, g, path, rest, prog, w⟩ s1 = eachLane n f ⟨e, slot, g, path, rest, prog, w⟩ s1)
    (result : ∀ g' l, regRead g' l (wRd w) n = f l % 2 ^ (32 * n) → P g' l) :
    WritesRd i s s1 e slot g path rest w n P := by
  have bound := rd_bound at_.lawful form
  generalize written : writeLanes (wRd w) n f (lanesOf path.lanes) g = g1
  have frame : g1 = { g with regs := g1.regs } := written ▸ writeLanes_frame ..
  obtain ⟨ps, issues, paths, slot_eq, engines, others, groups⟩ :=
    endPlain_leaves (c := ⟨e, slot, g, path, rest, prog, w⟩) g1 s1 at_.runnable.threads
  have runs : exec i s = .next (endPlain ⟨e, slot, g, path, rest, prog, w⟩ g1 s1) := by
    rw [exec_eq, issue_of_atIssue run at_ hop, run_eq, eachLane_writeLanes, written]
  have regs (l r m : Nat) :
      regRead { g1 with paths := ps, issues := issues } l r m = regRead (writeLanes (wRd w) n f (lanesOf path.lanes) g) l r m := by
    subst written
    refine regRead_congr ?_ l m r
    rfl
  refine ⟨_, _, runs, engines, others, groups, slot_eq, by rw [frame], by rw [frame],
    ⟨⟨_, (paths _).2 (goOn_mem _), rfl, rfl, rfl⟩, fun q hq threads => ?_⟩,
    by rw [frame]; exact at_.runnable.awake, fun l active => result _ l ?_, fun l r hr apart => ?_⟩
  · exact (paths q).2 (List.mem_cons_of_mem _ (List.mem_filter.2 ⟨hq, by simpa using threads⟩))
  · rw [regs]
    exact regRead_writeLanes_mem f bound g (lanesOf_nodup _) (mem_lanesOf.2 active)
  · rw [regs]
    refine regRead_writeLanes_apart f g fun j hj => ?_
    by_cases here : l = j
    · subst here
      have := apart (mem_lanesOf.1 hj)
      unfold Apart
      omega
    · exact apart_of_lane_ne here (by omega) bound

/-- As `writesRd_of_eachLane`, for an instruction that writes a result of its type. -/
theorem writesRd_of_eachTyped {f : Nat → Nat} {P : Group → Nat → Prop} (exec_eq : exec i s = .next (issue op e slot run s))
    (hop : wOp w = op) (form : (formOf w).map (·.rd) = some (tyRegs (wTy w)))
    (run_eq : run ⟨e, slot, g, path, rest, prog, w⟩ s1 = eachTyped f ⟨e, slot, g, path, rest, prog, w⟩ s1)
    (result : ∀ g' l, regRead g' l (wRd w) (tyRegs (wTy w)) = regValue (wTy w) (f l) → P g' l) :
    WritesRd i s s1 e slot g path rest w (tyRegs (wTy w)) P :=
  writesRd_of_eachLane at_ exec_eq hop form (run_eq.trans (eachTyped_eq_eachLane ..)) fun g' l h =>
    result g' l (h.trans (Nat.mod_eq_of_lt (regValue_lt ..)))

end

end Sys2Proof.Proofs.EngineWrites
end

section
/-! SUPPORT. The number formats in the engine instructions (chapters 02 and 06): what each writes into RD, and the statements on
them. -/

namespace Sys2Proof.Proofs.NumberInstructions

open Sys2Proof.Machine Sys2Proof.Safety Sys2Proof.Claims Sys2Proof.Proofs.EngineWrites

/-! ### Floating-point and wide results -/

section
variable {i : Instr} {s s1 : State} {e slot : Nat} {g : Group} {path : Path} {rest : List Path} {prog : ProgramRun} {w op : Nat} {f : Fmt}
  (at_ : AtIssue s s1 e slot g path rest prog w)
include at_

/-- The value that an instruction gives in a lane, rounded already, as bits of its floating-point type. -/
theorem eachTyped_result (hf : tyFmt (wTy w) = some f) {V : Fmt → Cur → Nat → Machine.Num}
    (exec_eq : exec i s = .next (issue op e slot (fun c => eachTyped (fun l => encodeNum (opFmt c) (V (opFmt c) c l)) c) s))
    (hop : wOp w = op) (form : (formOf w).map (·.rd) = some (tyRegs (wTy w))) {P : Group → Nat → Prop}
    (result : ∀ g' l, (∀ v, V f ⟨e, slot, g, path, rest, prog, w⟩ l = v →
      regRead g' l (wRd w) (tyRegs (wTy w)) = regValue (wTy w) (encodeNum f v)) → P g' l) :
    Result i s s1 e slot g path rest w P := by
  have fmt : opFmt ⟨e, slot, g, path, rest, prog, w⟩ = f := by simp [opFmt, hf]
  refine writesRd_of_eachTyped at_ exec_eq hop form rfl fun g' l h => result g' l fun v value => ?_
  rw [fmt, value] at h
  exact h

/-- FADD to FMAX: the operation on the values of the operands, rounded once to the type (R47, R151). -/
theorem runFloat_result (hf : tyFmt (wTy w) = some f) {F : Rm → Machine.Num → Machine.Num → Machine.Num → Machine.Num}
    (exec_eq : exec i s = .next (issue op e slot (runFloat F) s)) (hop : wOp w = op)
    (form : (formOf w).map (·.rd) = some (tyRegs (wTy w))) :
    Result i s s1 e slot g path rest w
      (RoundedRd prog g w f fun l => F (wordRm w) (numA g w l f) (numB g w l f) (numC g w l f)) :=
  eachTyped_result (V := fun t c l => convertNum t (fpRm c) .ieee (fpDraw c l)
    (F (fpRm c) (decodeNum t (srcA c l)) (decodeNum t (srcB c l)) (decodeNum t (srcC c l)))) at_ hf exec_eq hop form
    fun _ _ h => h _ rfl

/-- A word whose form has the type W alone names it. -/
theorem type_wide (tys : (formOf w).map (·.tys) = some [7]) : wTy w = 7 := List.mem_singleton.1 (type_of_legal at_.lawful tys)

/-- An instruction that writes a W value writes its 80 bits to three registers. -/
theorem wide_result {V : Cur → Nat → Nat} {P : Group → Nat → Prop}
    (exec_eq : exec i s = .next (issue op e slot (fun c => eachTyped (V c) c) s)) (hop : wOp w = op)
    (tys : (formOf w).map (·.tys) = some [7]) (form : wTy w = 7 → (formOf w).map (·.rd) = some 3)
    (result : ∀ g' l, regRead g' l (wRd w) 3 = V ⟨e, slot, g, path, rest, prog, w⟩ l % 2 ^ 80 → P g' l) :
    WritesRd i s s1 e slot g path rest w 3 P := by
  have ty := type_wide at_ tys
  have regs : tyRegs (wTy w) = 3 := by rw [ty]; rfl
  have written := writesRd_of_eachTyped (P := P) at_ exec_eq hop (regs.symm ▸ form ty) rfl fun g' l h => result g' l (by rw [ty] at h; exact h)
  rw [regs] at written
  exact written

/-- WADD to WCLAMP and WRELU: the operation on W values, rounded to odd (R40, R152). -/
theorem runWide_result {F : Machine.Num → Machine.Num → Machine.Num → Machine.Num}
    (exec_eq : exec i s = .next (issue op e slot (runWide F) s)) (hop : wOp w = op)
    (tys : (formOf w).map (·.tys) = some [7]) (form : wTy w = 7 → (formOf w).map (·.rd) = some 3) :
    WritesRd i s s1 e slot g path rest w 3 (OddRd w fun l => F (numA g w l .w) (numB g w l .w) (numC g w l .w)) :=
  wide_result at_ exec_eq hop tys form fun _ _ h => h

/-- FCMP and WCMP: 1 where the relation of AUX holds between the values of the operands, and 0 where it does not (R171). -/
theorem runFcmp_relation (hf : tyFmt (wTy w) = some f) {P : Nat → Prop}
    (exec_eq : exec i s = .next (issue op e slot runFcmp s)) (hop : wOp w = op) (form : (formOf w).map (·.rd) = some 1)
    (holds : ∀ l, numRel (wAux w) (numA g w l f) (numB g w l f) = true ↔ P l) :
    Relation i s s1 e slot g path rest w P := by
  have fmt : opFmt ⟨e, slot, g, path, rest, prog, w⟩ = f := by simp [opFmt, hf]
  refine writesRd_of_eachLane at_ exec_eq hop form rfl fun g' l h => ?_
  rw [fmt] at h
  change _ = one (numRel (wAux w) (numA g w l f) (numB g w l f)) % _ at h
  rw [← holds l, h]
  cases numRel (wAux w) (numA g w l f) (numB g w l f) <;> decide

end

/-! ### Relations -/

theorem numEq_nan {a b : Machine.Num} (h : numEq a b = true) : a ≠ .nan ∧ b ≠ .nan := by
  cases a <;> cases b <;> simp_all [numEq]

theorem numLt_nan {a b : Machine.Num} (h : numLt a b = true) : a ≠ .nan ∧ b ≠ .nan := by
  cases a <;> cases b <;> simp_all [numLt]

/-- The relations that AUX names (R171). An operand that is NaN is unordered, and neither equal to nor below the other. -/
theorem numRel_iff {code : Nat} (known : code ≤ 3) (a b : Machine.Num) : numRel code a b = true ↔
    (code = 0 ∧ numEq a b = true) ∨ (code = 1 ∧ numLt a b = true ∧ numEq a b = false)
    ∨ (code = 2 ∧ (numLt a b = true ∨ numEq a b = true)) ∨ (code = 3 ∧ (a = .nan ∨ b = .nan)) := by
  have eq := @numEq_nan a b
  have lt := @numLt_nan a b
  interval_cases code <;> simp only [numRel, fcmpHolds]
  · simp; tauto
  · simp; tauto
  · cases h : numEq a b <;> simp [h] at eq ⊢ <;> tauto
  · simp

/-! ### Division, root and the functions of the XCN pipe -/

/-- A NaN converted to a floating-point type is the canonical NaN (R38). -/
theorem convertNum_nan {f : Fmt} {ty : Nat} (hf : tyFmt ty = some f) (rm : Rm) (draw : Nat) : convertNum f rm .ieee draw .nan = .nan := by
  unfold tyFmt at hf
  split at hf <;> cases hf <;> rfl

theorem convertNum_inf {f : Fmt} {ty : Nat} (hf : tyFmt ty = some f) (rm : Rm) (draw : Nat) (neg : Bool) :
    convertNum f rm .ieee draw (.inf neg) = .inf neg := by
  unfold tyFmt at hf
  split at hf <;> cases hf <;> rfl

theorem convertNum_zero {f : Fmt} {ty : Nat} (hf : tyFmt ty = some f) (rm : Rm) (draw : Nat) (neg : Bool) (e : Int) :
    convertNum f rm .ieee draw (.fin neg 0 e) = .fin neg 0 0 := by
  unfold tyFmt at hf
  split at hf <;> cases hf <;> rfl

/-- Where the exact value of a function is stated, its result is that value, converted to the type (R151). -/
theorem xcnFunc_value {op x : Nat} {f : Fmt} {v : Machine.Num} (exact_eq : exactXcn op (decodeNum f x) = .value v) (rm : Rm) (draw : Nat) :
    xcnFunc op f rm draw x = convertNum f rm .ieee draw v := by
  rw [xcnFunc, exact_eq]
  rfl

theorem exactXcn_nan (op : Nat) : exactXcn op .nan = .value .nan := by
  unfold exactXcn
  rfl

section
variable (t : Fmt) (ty : Nat) (rm : Rm) (draw : Nat) {a b : Nat}

theorem fpDiv_nan (h : decodeNum t a = .nan ∨ decodeNum t b = .nan) : fpDiv t ty rm draw a b = .nan := by
  rcases h with h | h
  · simp [fpDiv, h]
  · cases ha : decodeNum t a <;> simp [fpDiv, ha, h]

theorem fpDiv_finite {x y : Bool} {m k : Nat} {p q : Int} (ha : decodeNum t a = .fin x m p) (hb : decodeNum t b = .fin y k q)
    (hm : m ≠ 0) (hk : k ≠ 0) : fpDiv t ty rm draw a b = roundFloat t rm .ieee draw (divFin x m p y k q) := by
  simp [fpDiv, ha, hb, hm, hk]

theorem fpDiv_inf_finite {x y : Bool} {k : Nat} {q : Int} (ha : decodeNum t a = .inf x) (hb : decodeNum t b = .fin y k q) :
    fpDiv t ty rm draw a b = .inf (x != y) := by
  simp [fpDiv, ha, hb]

theorem fpDiv_finite_inf {x y : Bool} {m : Nat} {p : Int} (ha : decodeNum t a = .fin x m p) (hb : decodeNum t b = .inf y) :
    fpDiv t ty rm draw a b = numZero (x != y) := by
  simp [fpDiv, ha, hb]

theorem fpSqrt_nan (ha : decodeNum t a = .nan) : fpSqrt t ty rm draw a = .nan := by simp [fpSqrt, ha]

theorem fpSqrt_inf (ha : decodeNum t a = .inf false) : fpSqrt t ty rm draw a = .inf false := by simp [fpSqrt, ha]

theorem fpSqrt_positive {m : Nat} {p : Int} (ha : decodeNum t a = .fin false m p) (hm : m ≠ 0) :
    fpSqrt t ty rm draw a = roundFloat t rm .ieee draw (sqrtFin m p) := by
  simp [fpSqrt, ha, hm]

end

/-- FRCP to FCOS: RD takes a value of the type, the NaN of a NaN, and the exact value, converted, where that is stated. -/
theorem runXcn_result {i : Instr} {s s1 : State} {e slot : Nat} {g : Group} {path : Path} {rest : List Path} {prog : ProgramRun}
    {w op : Nat} {f : Fmt} {P : Nat → Machine.Num → Machine.Num → Prop} (at_ : AtIssue s s1 e slot g path rest prog w)
    (hf : tyFmt (wTy w) = some f) (exec_eq : exec i s = .next (issue op e slot (runXcn op) s)) (hop : wOp w = op)
    (form : (formOf w).map (·.rd) = some (tyRegs (wTy w)))
    (stated : ∀ l x y, P l x y → ∃ v, exactXcn op x = .value v ∧ convertNum f (wordRm w) .ieee (wordDraw prog g w l) v = y) :
    Result i s s1 e slot g path rest w fun g' l =>
      (∃ v, regRead g' l (wRd w) (tyRegs (wTy w)) = regValue (wTy w) (encodeNum f v))
      ∧ (numA g w l f = .nan → regRead g' l (wRd w) (tyRegs (wTy w)) = regValue (wTy w) (encodeNum f .nan))
      ∧ ∀ x y, P l x y → numA g w l f = x → regRead g' l (wRd w) (tyRegs (wTy w)) = regValue (wTy w) (encodeNum f y) := by
  refine eachTyped_result (V := fun t c l => xcnFunc op t (fpRm c) (fpDraw c l) (srcA c l)) at_ hf exec_eq hop form
    fun g' l h => ⟨⟨_, h _ rfl⟩, fun nan => ?_, fun x y pair operand => ?_⟩
  · have value : exactXcn op (numA g w l f) = .value .nan := by rw [nan, exactXcn_nan]
    exact h _ ((xcnFunc_value value ..).trans (convertNum_nan hf ..))
  · obtain ⟨v, exact_eq, converted⟩ := stated l x y pair
    have value : exactXcn op (numA g w l f) = .value v := by rw [operand, exact_eq]
    exact h _ ((xcnFunc_value value ..).trans converted)

/-! ### Conversions -/

section
variable {e slot : Nat} {g : Group} {path : Path} {rest : List Path} {prog : ProgramRun} {w code : Nat} {f : Fmt}
  (hf : fmtOfCode code = some f)
include hf

/-- A value held in registers from RA in the format of a code. -/
theorem storedRead_eq (l : Nat) : storedRead ⟨e, slot, g, path, rest, prog, w⟩ l code (wRa w) =
    decodeNum f (regRead g l (wRa w) (fmtRegs code) % 2 ^ fmtBits f) := by
  simp [storedRead, hf]

/-- A value converted to the format of a code under RM and OV (R41, R171). -/
theorem storedBits_eq {ov : Ov} (hov : ovOfCode (wOv w) = some ov) (l : Nat) (v : Machine.Num) :
    storedBits ⟨e, slot, g, path, rest, prog, w⟩ l code v =
      encodeNum f (convertNum f (wordRm w) ov (wordDraw prog g w l) v) := by
  simp only [storedBits, hf, hov, Option.getD_some]
  rfl

end

/-- A W value fills its three registers with zeros (R170). -/
theorem wide_mod (x : Nat) : x % 2 ^ 80 % 2 ^ (32 * 3) = x % 2 ^ 80 :=
  Nat.mod_eq_of_lt ((Nat.mod_lt _ (by decide)).trans (by decide))

/-- A format code that AUX holds is the whole of it. -/
theorem wFmt_eq_wAux {w : Nat} (h : wAux w ≤ 8) : wFmt w = wAux w := by
  unfold wFmt wAux bits at *
  omega

/-! ### The statements -/

/-- Settles O3: each instruction runs its operation on the decoded operands in every lane and rounds once; a compare writes the
relation that its AUX names, which is at most 3 in a legal word. -/
theorem floatInstructionsRoundAndCompare : Obligations.FloatInstructionsRoundAndCompare := by
  unfold Obligations.FloatInstructionsRoundAndCompare
  refine ⟨fun s s1 e slot g path rest prog w f at_ hf => ⟨fun hop => ?_, fun hop => ?_, fun hop => ?_, fun hop => ?_, fun hop => ?_,
    fun hop => ?_⟩, fun s s1 e slot g path rest prog w f at_ hf => ⟨fun hop => ?_, fun hop => ?_⟩⟩
  · exact runFloat_result (F := fun rm a b _ => addNum rm a b) at_ hf rfl hop (by simp [formOf, hop])
  · exact runFloat_result (F := fun rm a b _ => addNum rm a (negNum b)) at_ hf rfl hop (by simp [formOf, hop])
  · exact runFloat_result (F := fun _ a b _ => mulNum a b) at_ hf rfl hop (by simp [formOf, hop])
  · exact runFloat_result (F := fun rm a b c => addNum rm (mulNum a b) c) at_ hf rfl hop (by simp [formOf, hop])
  · exact runFloat_result (F := fun _ a b _ => minNum a b) at_ hf rfl hop (by simp [formOf, hop])
  · exact runFloat_result (F := fun _ a b _ => maxNum a b) at_ hf rfl hop (by simp [formOf, hop])
  · have known : wAux w ≤ 3 := of_decide_eq_true (ok_of_legal at_.lawful (by simp [formOf, hop]))
    exact runFcmp_relation at_ hf rfl hop (by simp [formOf, hop]) fun l => numRel_iff known _ _
  · have known : wAux w ≤ 3 := of_decide_eq_true (ok_of_legal at_.lawful (by simp [formOf, hop]))
    exact runFcmp_relation at_ hf rfl hop (by simp [formOf, hop]) fun l => numRel_iff known _ _

/-- Settles O5: each instruction runs its operation on the W values of its operands in every lane and rounds it to odd; a legal word
of these opcodes has the type W. -/
theorem wideInstructionsRoundToOdd : Obligations.WideInstructionsRoundToOdd := by
  unfold Obligations.WideInstructionsRoundToOdd
  intro s s1 e slot g path rest prog w at_
  refine ⟨fun hop => ?_, fun hop => ?_, fun hop => ?_, fun hop => ?_, fun hop => ?_, fun hop => ?_, fun hop => ?_⟩
  · exact runWide_result (F := fun a _ _ => maxNum a (numZero false)) at_ rfl hop (by simp [formOf, hop])
      fun _ => by simp [formOf, hop]
  · exact runWide_result (F := fun a b _ => addNum .rne a b) at_ rfl hop (by simp [formOf, hop])
      fun ty => by simp [formOf, hop, ty, tyRegs, nth]
  · exact runWide_result (F := fun a b _ => mulNum a b) at_ rfl hop (by simp [formOf, hop])
      fun ty => by simp [formOf, hop, ty, tyRegs, nth]
  · exact runWide_result (F := fun a b c => addNum .rne (mulNum a b) c) at_ rfl hop (by simp [formOf, hop])
      fun _ => by simp [formOf, hop]
  · exact runWide_result (F := fun a b _ => minNum a b) at_ rfl hop (by simp [formOf, hop])
      fun ty => by simp [formOf, hop, ty, tyRegs, nth]
  · exact runWide_result (F := fun a b _ => maxNum a b) at_ rfl hop (by simp [formOf, hop])
      fun ty => by simp [formOf, hop, ty, tyRegs, nth]
  · exact runWide_result (F := fun a b c => minNum (maxNum a b) c) at_ rfl hop (by simp [formOf, hop])
      fun _ => by simp [formOf, hop]

/-- Settles O4: a quotient and a root by the cases of their operands; a function of the XCN pipe by its exact value where that is
stated, for a NaN, at an infinity and at zero (log entry 8). -/
theorem divideRootAndTranscendentalsWriteRd : Obligations.DivideRootAndTranscendentalsWriteRd := by
  unfold Obligations.DivideRootAndTranscendentalsWriteRd
  refine ⟨fun s s1 e slot g path rest prog w f at_ hf => ⟨fun hop => ?_, fun hop => ?_⟩,
    fun s s1 e slot g path rest prog w f at_ hf => ⟨fun hop => ?_, fun hop => ?_, fun hop => ?_, fun hop => ?_, fun hop => ?_,
    fun hop => ?_⟩⟩
  · refine eachTyped_result (V := fun t c l => fpDiv t (wTy c.w) (fpRm c) (fpDraw c l) (srcA c l) (srcB c l)) at_ hf rfl hop
      (by simp [formOf, hop]) fun g' l h => ⟨fun nan => ?_, fun x m p y k q ha hb hm hk => ?_, fun x y k q ha hb => ?_,
        fun x m p y ha hb => ?_⟩
    · exact h _ (fpDiv_nan _ _ _ _ nan)
    · exact h _ (fpDiv_finite _ _ _ _ ha hb hm hk)
    · exact h _ (fpDiv_inf_finite _ _ _ _ ha hb)
    · exact h _ (fpDiv_finite_inf _ _ _ _ ha hb)
  · refine eachTyped_result (V := fun t c l => fpSqrt t (wTy c.w) (fpRm c) (fpDraw c l) (srcA c l)) at_ hf rfl hop
      (by simp [formOf, hop]) fun g' l h => ⟨fun nan => ?_, fun inf => ?_, fun m p ha hm => ?_⟩
    · exact h _ (fpSqrt_nan _ _ _ _ nan)
    · exact h _ (fpSqrt_inf _ _ _ _ inf)
    · exact h _ (fpSqrt_positive _ _ _ _ ha hm)
  · refine runXcn_result at_ hf rfl hop (by simp [formOf, hop]) ?_
    rintro _ _ _ ⟨n, rfl, rfl⟩
    exact ⟨_, rfl, convertNum_zero hf ..⟩
  · refine runXcn_result at_ hf rfl hop (by simp [formOf, hop]) ?_
    rintro _ _ _ ⟨rfl, rfl⟩
    exact ⟨_, rfl, convertNum_zero hf ..⟩
  · refine runXcn_result at_ hf rfl hop (by simp [formOf, hop]) ?_
    rintro _ _ _ (⟨rfl, rfl⟩ | ⟨rfl, rfl⟩)
    · exact ⟨_, rfl, convertNum_inf hf ..⟩
    · exact ⟨_, rfl, convertNum_zero hf ..⟩
  · refine runXcn_result at_ hf rfl hop (by simp [formOf, hop]) ?_
    rintro _ _ _ ⟨rfl, rfl⟩
    exact ⟨_, rfl, convertNum_inf hf ..⟩
  · refine runXcn_result at_ hf rfl hop (by simp [formOf, hop]) ?_
    rintro _ _ _ ⟨n, p, rfl, rfl⟩
    exact ⟨_, rfl, convertNum_zero hf ..⟩
  · refine runXcn_result at_ hf rfl hop (by simp [formOf, hop]) ?_
    rintro _ _ _ ⟨n, p, rfl, rfl⟩
    exact ⟨_, rfl, rfl⟩

/-- Settles O6: each lane's held value is converted once; the format codes of a legal word are those of its AUX and RB, and a
destination of type W takes three registers. A format to itself is a conversion too (log entry 104). -/
theorem conversionsRoundOnce : Obligations.ConversionsRoundOnce := by
  unfold Obligations.ConversionsRoundOnce
  intro s s1 e slot g path rest prog w f d ov at_ hf hov
  refine ⟨fun hop hd => ?_, fun hop => ?_, fun hop => ?_, fun hop => ?_⟩
  · refine writesRd_of_eachLane at_ rfl hop (by simp [formOf, hop]) rfl fun g' l h => ?_
    rw [storedBits_eq hd hov, storedRead_eq hf] at h
    exact h
  · refine wide_result (V := fun c l => encodeNum .w (storedRead c l (wFmt c.w) (wRa c.w))) at_ rfl hop (by simp [formOf, hop])
      (fun _ => by simp [formOf, hop]) fun g' l h => ?_
    rw [storedRead_eq hf] at h
    exact h.trans (wide_mod _).symm
  · have code : wFmt w = wAux w := wFmt_eq_wAux (of_decide_eq_true (ok_of_legal at_.lawful (by simp [formOf, hop])))
    refine writesRd_of_eachLane at_ rfl hop (by simp [formOf, hop, code]) rfl fun g' l h => ?_
    rw [storedBits_eq hf hov] at h
    exact h
  · refine wide_result (V := fun c l => encodeNum .w (decodeNum ((fmtOfCode (wFmt c.w)).getD .fp64)
        (storedBits c l (wFmt c.w) (decodeNum .w (srcA c l))))) at_ rfl hop (by simp [formOf, hop])
      (fun _ => by simp [formOf, hop]) fun g' l h => ?_
    rw [storedBits_eq hf hov, hf] at h
    exact h.trans (wide_mod _).symm

end Sys2Proof.Proofs.NumberInstructions
end

section
/-! SUPPORT. Every format holds its values exactly (chapter 02): what decoding gives and encoding takes, field by field, and that a
conversion to the format of a value rounds nothing. -/

namespace Sys2Proof.Proofs.NumberFormats

open Sys2Proof.Machine

/-! ### Integers (R39, R50) -/

/-- An integer as a value of an integer format. -/
def intNum (c : Int) : Machine.Num := .fin (c < 0) c.natAbs 0

theorem signed_natAbs (c : Int) : (if decide (c < 0) = true then -(c.natAbs : Int) else (c.natAbs : Int)) = c := by
  simp only [decide_eq_true_eq]
  split <;> omega

theorem toSigned_range {w : Nat} (pos : 0 < w) (x : Nat) : -(2 : Int) ^ (w - 1) ≤ toSigned w x ∧ toSigned w x < 2 ^ (w - 1) := by
  obtain ⟨k, rfl⟩ := Nat.exists_eq_add_of_le' pos
  have double : 2 ^ (k + 1) = 2 * 2 ^ k := by rw [Nat.pow_succ, Nat.mul_comm]
  have below : x % 2 ^ (k + 1) < 2 * 2 ^ k := double ▸ Nat.mod_lt _ (Nat.two_pow_pos _)
  have cast : (2 : Int) ^ k = (2 ^ k : Nat) := by norm_cast
  unfold toSigned
  generalize x % 2 ^ (k + 1) = y at below ⊢
  rw [Nat.add_sub_cancel, cast, double]
  dsimp only
  split <;> omega

/-- Two's complement encoding undoes the reading. -/
theorem ofSigned_toSigned {w x : Nat} (h : x < 2 ^ w) : ofSigned w (toSigned w x) = x := by
  have same : toSigned w x % (2 ^ w : Nat) = x := by
    simp only [toSigned, Nat.mod_eq_of_lt h]
    split
    · exact Int.emod_eq_of_lt (by omega) (by omega)
    · rw [Int.sub_emod_right]
      exact Int.emod_eq_of_lt (by omega) (by omega)
  rw [ofSigned, same, Int.toNat_natCast]

section
variable {f : Fmt} (int : fmtIsInt f = true)
include int

theorem encodeNum_intNum (c : Int) : encodeNum f (intNum c) = ofSigned (fmtBits f) c := by
  have value := signed_natAbs c
  cases f <;> cases int
  all_goals
    simp only [encodeNum, intNum, ge_iff_le, le_refl, if_true, Int.toNat_zero, Nat.shiftLeft_zero]
    rw [value]

/-- A pattern of an integer format decodes to an integer of the format's range, which encodes to the pattern. -/
theorem decodeNum_int {v : Nat} (h : v < 2 ^ fmtBits f) : ∃ c, decodeNum f v = intNum c ∧ (intRange f).1 ≤ c ∧ c ≤ (intRange f).2
    ∧ ofSigned (fmtBits f) c = v := by
  cases f <;> cases int
  case int8 =>
    obtain ⟨low, high⟩ := toSigned_range (w := 8) (by decide) v
    exact ⟨toSigned 8 v, rfl, low, Int.le_of_lt_add_one high, ofSigned_toSigned h⟩
  case int32 =>
    obtain ⟨low, high⟩ := toSigned_range (w := 32) (by decide) v
    exact ⟨toSigned 32 v, rfl, low, Int.le_of_lt_add_one high, ofSigned_toSigned h⟩
  case code4 =>
    have small : v < 16 := h
    refine ⟨v, ?_, ?_, ?_, ?_⟩
    · simp [decodeNum, intNum, Nat.mod_eq_of_lt small]
    · exact Int.natCast_nonneg v
    · change (v : Int) ≤ 15
      omega
    · change ((v : Int) % 16).toNat = v
      omega

/-- An integer of the range is rounded and clamped to itself. -/
theorem convertNum_intNum {c : Int} (low : (intRange f).1 ≤ c) (high : c ≤ (intRange f).2) (rm : Rm) (ov : Ov) (draw : Nat) :
    convertNum f rm ov draw (intNum c) = intNum c := by
  have clamped : max (intRange f).1 (min (intRange f).2 c) = c := by omega
  have value := signed_natAbs c
  simp only [convertNum, int, if_true, intNum, roundInt, roundAt, ge_iff_le, le_refl, Int.sub_self, Int.toNat_zero,
    Nat.shiftLeft_zero, Bool.false_eq_true, if_false]
  rw [value, clamped]

end

/-! ### Fields of a floating-point pattern (R36) -/

def expBits (f : Fmt) : Nat := (fmtParts f).1
def fracBits (f : Fmt) : Nat := (fmtParts f).2.1
def bias (f : Fmt) : Nat := (fmtParts f).2.2

/-- The sign bit of a pattern, and the fields of a pattern. -/
def signBit (f : Fmt) (neg : Bool) : Nat := if neg then 2 ^ (expBits f + fracBits f) else 0
def signOf (f : Fmt) (v : Nat) : Bool := bit v (expBits f + fracBits f)
def expOf (f : Fmt) (v : Nat) : Nat := bits v (fracBits f) (expBits f)
def fracOf (f : Fmt) (v : Nat) : Nat := bits v 0 (fracBits f)

/-- The exponent field of infinities and NaNs: E4M3 has but one fraction there, and E2M1 none (R36, R38). -/
def special (f : Fmt) (v : Nat) : Bool :=
  expOf f v == 2 ^ expBits f - 1 && f != .e2m1 && !(f == .e4m3 && fracOf f v != 2 ^ fracBits f - 1)

/-- The weight of the last place that a format keeps of m × 2^e. -/
def lastPlace (f : Fmt) (m : Nat) (e : Int) : Int := max ((topBit m : Int) + e - fracBits f) (minQ f)

/-- The exponent and fraction fields of m × 2^e. -/
def magBits (f : Fmt) (m : Nat) (e : Int) : Nat :=
  if m < 2 ^ fracBits f then m else (e + fracBits f + bias f).toNat * 2 ^ fracBits f + (m - 2 ^ fracBits f)

theorem minQ_eq (f : Fmt) : minQ f = 1 - (bias f : Int) - fracBits f := rfl

theorem fracOf_lt (f : Fmt) (v : Nat) : fracOf f v < 2 ^ fracBits f := Nat.mod_lt _ (Nat.two_pow_pos _)

theorem expOf_lt (f : Fmt) (v : Nat) : expOf f v < 2 ^ expBits f := Nat.mod_lt _ (Nat.two_pow_pos _)

/-- A pattern is its fields, each in its place. -/
theorem pattern_eq_fields {f : Fmt} {v : Nat} (h : v < 2 ^ (expBits f + fracBits f + 1)) :
    v = signBit f (signOf f v) + expOf f v * 2 ^ fracBits f + fracOf f v := by
  have low : v % 2 ^ (expBits f + fracBits f) = fracOf f v + 2 ^ fracBits f * expOf f v := by
    rw [Nat.add_comm, Nat.pow_add, Nat.mod_mul, expOf, fracOf, bits, bits, Nat.shiftRight_zero, Nat.shiftRight_eq_div_pow]
  have top : v / 2 ^ (expBits f + fracBits f) < 2 := Nat.div_lt_of_lt_mul (by rwa [← Nat.pow_succ])
  have sign : signBit f (signOf f v) = 2 ^ (expBits f + fracBits f) * (v / 2 ^ (expBits f + fracBits f)) := by
    unfold signBit signOf bit bits
    rw [Nat.shiftRight_eq_div_pow]
    interval_cases v / 2 ^ (expBits f + fracBits f) <;> simp
  have whole := Nat.div_add_mod v (2 ^ (expBits f + fracBits f))
  rw [sign, Nat.mul_comm (expOf f v)]
  omega

section
variable {f : Fmt} (float : fmtIsInt f = false)
include float

theorem fmtBits_eq : fmtBits f = expBits f + fracBits f + 1 := by
  cases f <;> cases float <;> rfl

theorem decodeNum_float (v : Nat) : decodeNum f v =
    if expOf f v == 0 then .fin (signOf f v) (fracOf f v) (minQ f)
    else if special f v then (if f != .e4m3 && fracOf f v == 0 then .inf (signOf f v) else .nan)
    else .fin (signOf f v) (2 ^ fracBits f + fracOf f v) ((expOf f v : Int) - bias f - fracBits f) := by
  cases f <;> cases float <;> rfl

theorem encodeNum_inf (neg : Bool) : encodeNum f (.inf neg) = signBit f neg + (2 ^ expBits f - 1) * 2 ^ fracBits f := by
  cases f <;> cases float <;> rfl

/-- A finite value is shifted to its last place, and its fields put in theirs. -/
theorem encodeNum_fin (neg : Bool) (m : Nat) (e : Int) : encodeNum f (.fin neg m e) =
    if m == 0 then signBit f neg
    else
      let q := lastPlace f m e
      let n := if e ≥ q then m <<< (e - q).toNat else m >>> (q - e).toNat
      if n < 2 ^ fracBits f then signBit f neg + n
      else signBit f neg + (q + fracBits f + bias f).toNat * 2 ^ fracBits f + (n - 2 ^ fracBits f) := by
  cases f <;> cases float <;> rfl

end

/-! ### Magnitudes in the form in which a format holds them -/

/-- m × 2^e has its last place at e: the format's least weight, or the one at which the top bit of m is the hidden bit. It is not
above the largest finite magnitude. -/
structure InPlace (f : Fmt) (m : Nat) (e : Int) : Prop where
  fits : m < 2 ^ (fracBits f + 1)
  least : minQ f ≤ e
  hidden : e = minQ f ∨ 2 ^ fracBits f ≤ m
  inRange : magGt m e (maxFin f).1 (maxFin f).2 = false

theorem InPlace.lastPlace_eq {f : Fmt} {m : Nat} {e : Int} (h : InPlace f m e) (nonzero : m ≠ 0) : lastPlace f m e = e := by
  obtain ⟨fits, least, hidden, -⟩ := h
  have top : topBit m < fracBits f + 1 := (Nat.log2_lt nonzero).2 fits
  have below : (topBit m : Int) + e - fracBits f ≤ e := by omega
  unfold lastPlace
  rcases hidden with rfl | hidden
  · exact max_eq_right below
  · have full : fracBits f ≤ topBit m := (Nat.le_log2 nonzero).2 hidden
    omega

/-- A magnitude at or below the largest exponent, within the largest fraction there and within twice it below, is not above. -/
theorem magGt_false {m M : Nat} {e E : Int} (h : e = E ∧ m ≤ M ∨ e < E ∧ m ≤ 2 * M) : magGt m e M E = false := by
  have reaches : m ≤ M <<< (E - e).toNat := by
    rw [Nat.shiftLeft_eq]
    rcases h with ⟨rfl, h⟩ | ⟨lt, h⟩
    · simpa using h
    · have double : 2 ^ 1 ≤ 2 ^ (E - e).toNat := Nat.pow_le_pow_right (by decide) (by omega)
      calc m ≤ 2 ^ 1 * M := by omega
        _ ≤ 2 ^ (E - e).toNat * M := Nat.mul_le_mul_right _ double
        _ = M * 2 ^ (E - e).toNat := Nat.mul_comm ..
  have order : e ≤ E := by omega
  simp [magGt, magGe, order, reaches]

section
variable {f : Fmt} (float : fmtIsInt f = false)
include float

/-- The largest finite magnitude lies above the subnormals, and twice its fraction reaches past every fraction. -/
theorem maxFin_reaches : 2 ^ (fracBits f + 1) ≤ 2 * (maxFin f).1 ∧ minQ f < (maxFin f).2 := by
  cases f <;> cases float <;> decide

/-- A pattern that is neither infinite nor NaN has an exponent below the largest, or the largest and no larger fraction: linear
arithmetic on the fields, once for each row of Table 3 of chapter 02. -/
theorem usual_le_maxFin {v : Nat} (usual : special f v = false) :
    (expOf f v : Int) - bias f - fracBits f < (maxFin f).2
    ∨ (expOf f v : Int) - bias f - fracBits f = (maxFin f).2 ∧ 2 ^ fracBits f + fracOf f v ≤ (maxFin f).1 := by
  have exp_lt := expOf_lt f v
  have frac_lt := fracOf_lt f v
  cases f <;> cases float <;> simp [special, expBits, fracBits, bias, fmtParts, maxFin] at * <;> omega

theorem inPlace_subnormal {m : Nat} (h : m < 2 ^ fracBits f) : InPlace f m (minQ f) := by
  obtain ⟨fraction, exponent⟩ := maxFin_reaches float
  have fits : m < 2 ^ (fracBits f + 1) := h.trans (Nat.pow_lt_pow_right (by decide) (Nat.lt_succ_self _))
  exact ⟨fits, le_refl _, .inl rfl, magGt_false (.inr ⟨exponent, by omega⟩)⟩

theorem inPlace_normal {v : Nat} (exp : expOf f v ≠ 0) (usual : special f v = false) :
    InPlace f (2 ^ fracBits f + fracOf f v) ((expOf f v : Int) - bias f - fracBits f) := by
  obtain ⟨fraction, -⟩ := maxFin_reaches float
  have fits : 2 ^ fracBits f + fracOf f v < 2 ^ (fracBits f + 1) := by
    rw [Nat.pow_succ]
    have := fracOf_lt f v
    omega
  refine ⟨fits, by rw [minQ_eq]; omega, .inr (Nat.le_add_right ..), magGt_false ?_⟩
  rcases usual_le_maxFin float usual with below | ⟨largest, within⟩
  · exact .inr ⟨below, by omega⟩
  · exact .inl ⟨largest, within⟩

/-- A magnitude in place is encoded as it stands. -/
theorem encodeNum_inPlace {m : Nat} {e : Int} (h : InPlace f m e) (neg : Bool) :
    encodeNum f (.fin neg m e) = signBit f neg + magBits f m e := by
  rw [encodeNum_fin float]
  by_cases zero : m = 0
  · simp [zero, magBits]
  · simp only [beq_iff_eq, zero, if_false, h.lastPlace_eq zero, ge_iff_le, le_refl, if_true, Int.sub_self, Int.toNat_zero,
      Nat.shiftLeft_zero, magBits]
    split
    · rfl
    · exact Nat.add_assoc ..

theorem encodeNum_zero (neg : Bool) (e : Int) : encodeNum f (.fin neg 0 e) = signBit f neg := encodeNum_fin float neg 0 e

omit float in
/-- A nonzero magnitude in place is rounded to itself, in every rounding mode. -/
theorem roundFloat_inPlace {m : Nat} {e : Int} (h : InPlace f m e) (nonzero : m ≠ 0) (rm : Rm) (ov : Ov) (draw : Nat) (neg : Bool) :
    roundFloat f rm ov draw ⟨neg, m, e, false⟩ = .fin neg m e := by
  have place : max ((topBit m : Int) + e - (fmtParts f).2.1) (minQ f) = e := h.lastPlace_eq nonzero
  simp [roundFloat, roundAt, nonzero, place, h.inRange]

/-- A conversion leaves the pattern of a finite value in place as it is: a zero keeps its sign, every other magnitude its fields. -/
theorem encodeNum_convertNum_inPlace {m : Nat} {e : Int} (h : InPlace f m e) (rm : Rm) (ov : Ov) (draw : Nat) (neg : Bool) :
    encodeNum f (convertNum f rm ov draw (.fin neg m e)) = encodeNum f (.fin neg m e) := by
  have rounded : convertNum f rm ov draw (.fin neg m e) = roundFloat f rm ov draw ⟨neg, m, e, false⟩ := by simp [convertNum, float]
  rw [rounded]
  by_cases zero : m = 0
  · subst zero
    rw [encodeNum_zero float]
    exact encodeNum_zero float neg 0
  · rw [roundFloat_inPlace h zero]

/-- A pattern that is no NaN decodes to an infinity, or to a magnitude in place; its fields are those of the value. -/
theorem decodeNum_cases {v : Nat} (h : v < 2 ^ fmtBits f) (number : decodeNum f v ≠ .nan) :
    (∃ neg, decodeNum f v = .inf neg ∧ v = signBit f neg + (2 ^ expBits f - 1) * 2 ^ fracBits f)
    ∨ ∃ neg m e, decodeNum f v = .fin neg m e ∧ InPlace f m e ∧ v = signBit f neg + magBits f m e := by
  have fields := pattern_eq_fields (f := f) (v := v) (fmtBits_eq float ▸ h)
  have frac := fracOf_lt f v
  rw [decodeNum_float float] at number ⊢
  by_cases exp : expOf f v = 0
  · right
    refine ⟨_, _, _, if_pos (by simpa using exp), inPlace_subnormal float frac, ?_⟩
    rw [magBits, if_pos frac]
    simpa [exp] using fields
  · simp only [beq_iff_eq, exp, if_false] at number ⊢
    by_cases top : special f v = true
    · simp only [top, if_true] at number ⊢
      split at number
      · next inf =>
        left
        refine ⟨_, if_pos inf, ?_⟩
        simp only [special, Bool.and_eq_true, beq_iff_eq] at top inf
        rw [← top.1.1]
        simpa [inf.2] using fields
      · exact absurd rfl number
    · right
      have usual : special f v = false := by simpa using top
      refine ⟨_, _, _, if_neg top, inPlace_normal float exp usual, ?_⟩
      have exponent : ((expOf f v : Int) - bias f - fracBits f + fracBits f + bias f).toNat = expOf f v := by omega
      rw [magBits, if_neg (by omega), exponent, Nat.add_sub_cancel_left, ← Nat.add_assoc]
      exact fields

end

/-! ### The statement -/

/-- Settles O60: an integer pattern is the two's complement of its value, which lies in the format's range; a floating-point pattern
is an infinity, or a magnitude whose last place is where the format keeps it, so that encoding shifts nothing and rounding drops
nothing. -/
theorem formatsDecodeAndEncodeAgree : Obligations.FormatsDecodeAndEncodeAgree := by
  unfold Obligations.FormatsDecodeAndEncodeAgree
  intro f v pattern number
  cases kind : fmtIsInt f with
  | true =>
    obtain ⟨c, value, low, high, back⟩ := decodeNum_int kind pattern
    have encoded : encodeNum f (intNum c) = v := (encodeNum_intNum kind c).trans back
    rw [value]
    exact ⟨encoded, fun rm ov draw _ => by rw [convertNum_intNum kind low high, encoded]⟩
  | false =>
    rcases decodeNum_cases kind pattern number with ⟨neg, value, back⟩ | ⟨neg, m, e, value, inPlace, back⟩
    · rw [value]
      exact ⟨(encodeNum_inf kind neg).trans back.symm, fun _ _ _ finite => absurd rfl (finite neg)⟩
    · have encoded : encodeNum f (.fin neg m e) = v := (encodeNum_inPlace kind inPlace neg).trans back.symm
      rw [value]
      exact ⟨encoded, fun rm ov draw _ => (encodeNum_convertNum_inPlace kind inPlace rm ov draw neg).trans encoded⟩

end Sys2Proof.Proofs.NumberFormats
end

section
/-! SUPPORT. What storing at a virtual address, writing a chain's credits and reading the elements of its tensors can do: they leave
the arrays, the engines, the transform engines and the waiting commands as they were. -/

namespace Sys2Proof.Proofs.ChainAccess

open Sys2Proof.Machine Sys2Proof.Machine.UnitsKept

/-! ### Threads of states -/

/-- What an answer's state keeps, for the state that a match of the answer names. -/
theorem ofEq {α : Type} {s s' : State} {r : α × State} {x : α} (h : UnitsKept s r.2) (e : r = (x, s')) : UnitsKept s s' := by
  subst e; exact h

/-- A fold that carries a state beside what it gathers. -/
theorem foldl_carried {α β : Type} (state : α → State) {f : α → β → α} (h : ∀ a b, UnitsKept (state a) (state (f a b))) :
    ∀ (l : List β) (a : α), UnitsKept (state a) (state (l.foldl f a))
  | [], _ => rfl
  | b :: l, a => (h a b).trans (foldl_carried state h l (f a b))

/-! ### The units of the state -/

theorem array_onEngine (s : State) (e a : Nat) (f : Engine → Engine) : (s.onEngine e f).array a = s.array a := rfl
theorem engine_onArray (s : State) (a e : Nat) (f : Machine.Array → Machine.Array) : (s.onArray a f).engine e = s.engine e := rfl
theorem array_countUnits (s : State) (e units a : Nat) : (countUnits e units s).array a = s.array a := rfl
theorem array_setChain (s : State) (n a : Nat) (c : ChainRun) : (setChain n c s).array a = s.array a := rfl

theorem countUnits_otherEngines (e units : Nat) (s : State) : Safety.OtherEngines e s (countUnits e units s) :=
  fun _ other => State.engine_onEngine_other _ _ other

/-! ### Stores -/

theorem poolStore_kept (agent pa : Nat) (b : List (Byte × Bool)) (s : State) : UnitsKept s (poolStore agent pa b s) := by
  unfold poolStore
  split
  · exact ofEvent (poolWrite_only ..)
  · exact foldl (fun s (p : Nat × List Byte × Bool) => ofEvent (poolWrite_only .once agent p.1 p.2.1 p.2.2 s)) _ s

theorem performHere_put_kept (src off n : Nat) (data : List (Byte × Bool)) (s : State) :
    UnitsKept s (performHere src .put off n data s).2 := by
  unfold performHere
  split
  · exact rfl
  · extract_lets pa
    split
    · exact rfl
    · exact poolStore_kept ..

theorem vaWriteOp_kept (k : Keep) (agent : Nat) (o : Owner) (op va : Nat) (bytes : List Byte) (ep : Bool) (s : State) :
    UnitsKept s (vaWriteOp k agent o op va bytes ep s).2 := by
  have placed := place_kept agent .write va s
  unfold vaWriteOp
  generalize place agent .write va s = r at placed ⊢
  obtain ⟨p, s1⟩ := r
  cases p with
  | pool pa u => exact placed.trans (ofEvent (poolWrite_only ..))
  | host hio =>
    simp only
    split
    · exact placed.trans ((ofEvent (postWrite_only ..)).trans (ofEvent (hotPump_only _)))
    · split
      · exact placed
      · split
        · exact placed
        · exact placed.trans (blockedWait_kept ..)
  | fabric node off =>
    simp only
    generalize TxPkt.mk .. = t
    have sent := originate_kept t s1
    generalize originate t s1 = r at sent ⊢
    obtain ⟨r, s2⟩ := r
    cases r with
    | loopback =>
      have here := performHere_put_kept node off bytes.length (allWith ep bytes) s2
      simp only
      generalize performHere node .put off bytes.length (allWith ep bytes) s2 = q at here ⊢
      obtain ⟨q, s3⟩ := q
      cases q with
      | ok b => exact placed.trans (sent.trans here)
      | error c => exact placed.trans (sent.trans (here.trans (windowFault_kept ..)))
    | _ => exact placed.trans sent
  | fault st c => exact placed
  | held => exact placed

theorem vaWrites_kept (k : Keep) (agent : Nat) (o : Owner) (op : Nat) :
    ∀ (ps : List (Nat × List Byte × Bool)) (s : State), UnitsKept s (vaWrites k agent o op ps s).2
  | [], _ => rfl
  | (va, bytes, ep) :: ps, s => by
    have one := vaWriteOp_kept k agent o op va bytes ep s
    simp only [vaWrites]
    split
    · next e => exact (ofEq one e).trans (vaWrites_kept k agent o op ps _)
    · next e => exact ofEq one e

theorem vaStore_kept (k : Keep) (agent : Nat) (o : Owner) (va : Nat) (b : List (Byte × Bool)) (s : State) :
    UnitsKept s (vaStore k agent o va b s).2 := vaWrites_kept ..

theorem noteWaits_kept (s : State) : UnitsKept s (noteWaits s) := by
  unfold noteWaits
  split
  · exact rfl
  · extract_lets t
    have cleared : UnitsKept s t := rfl
    split
    · exact cleared
    · exact cleared.trans (foldl (f := fun s n => event 0x22 0 0 n s) (fun s n => ofEvent (event_only 0x22 0 0 n s)) _ t)

/-- A state before an attempt that waits keeps its units with what the attempt asked for. -/
theorem keepAsked_kept (s s1 : State) : UnitsKept s (keepAsked s s1) :=
  UnitsKept.trans (t := sentOnly s s1) rfl <|
    (foldl (f := fun s (r : HostRead) => hotHost r.hio r.len s) (fun s r => ofEvent (hotHost_only r.hio r.len s)) _ _).trans <|
      (ofEvent (hotPump_only _)).trans (noteWaits_kept _)

/-! ### The chain of a ring -/

theorem chainOf_setChain (n : Nat) (c : ChainRun) (s : State) : chainOf (setChain n c s) n = some c := by
  simp [chainOf, setChain]

/-- A change of a ring's chain changes that ring alone. -/
theorem setChain_ringOnly (n : Nat) (c : ChainRun) (s : State) :
    Claims.RingOnly s (setChain n c s) n { s.ring n with op := some (.chain c) } :=
  ⟨rfl, fun _ other => State.ring_onRing_other _ _ other, State.ring_onRing_same ..⟩

theorem setChain_op (n : Nat) (c : ChainRun) (s : State) : ((setChain n c s).ring n).op = some (.chain c) := by
  rw [(setChain_ringOnly n c s).2.2]

/-- An array's chain is the admitted one of the ring that the array runs. -/
theorem arrayChain_spec {s : State} {a n : Nat} {c : ChainRun} (h : arrayChain s a = some (n, c)) :
    chainOf s n = some c ∧ c.admitted = true := by
  unfold arrayChain at h
  split at h
  · split at h
    · split at h
      · next found admitted =>
        obtain ⟨rfl, rfl⟩ := h
        exact ⟨found, admitted⟩
      · cases h
    · cases h
  · cases h

/-- A stop at a tile before those that a stop names already takes effect. -/
theorem stopChain_before {s : State} {n tile : Nat} {c : ChainRun} (h : chainOf s n = some c) (before : tile < stopAt c) (r : Res) :
    stopChain n r tile s = setChain n { c with stop := some { r with progress := tile } } s := by
  simp only [stopChain, h, if_pos before]

theorem setChain_kept (n : Nat) (c : ChainRun) (s : State) : UnitsKept s (setChain n c s) := rfl

theorem stopChain_kept (n : Nat) (r : Res) (tile : Nat) (s : State) : UnitsKept s (stopChain n r tile s) := by
  unfold stopChain
  split
  · split
    · exact setChain_kept ..
    · split
      · exact setChain_kept ..
      · exact rfl
  · exact rfl

theorem writeCredits_kept (n : Nat) (c : ChainRun) : ∀ (l : List (Nat × Nat × Nat)) (s : State), UnitsKept s (writeCredits n c l s)
  | [], _ => setChain_kept ..
  | (j, buf, v) :: rest, s => by
    unfold writeCredits
    extract_lets off va
    split
    · next e => exact (ofEq (vaStore_kept ..) e).trans ((stopChain_kept ..).trans (writeCredits_kept n c rest _))
    · exact (keepAsked_kept ..).trans (setChain_kept ..)
    · next e => exact (ofEq (vaStore_kept ..) e).trans (writeCredits_kept n c rest _)

theorem flushCredits_kept (n : Nat) (s : State) : UnitsKept s (flushCredits n s) := by
  unfold flushCredits
  split
  · split
    · exact rfl
    · exact writeCredits_kept ..
  · exact rfl

theorem flushCredits_none {s : State} {n : Nat} {c : ChainRun} (h : chainOf s n = some c) (written : c.credits = []) :
    flushCredits n s = s := by
  simp [flushCredits, h, written]

theorem publish_kept (n : Nat) (c : ChainRun) (j buf pass : Nat) (s : State) : UnitsKept s (publish n c j buf pass s) := by
  unfold publish
  split
  · exact rfl
  · split
    · exact (setChain_kept ..).trans (flushCredits_kept ..)
    · exact rfl

/-! ### Elements of tensors -/

theorem readRaw_kept (w : Who) (d : TDesc) (idx : List Nat) (s : State) : UnitsKept s (readRaw w d idx s).2 := by
  unfold readRaw
  extract_lets e
  simp only
  split
  · exact rfl
  · split <;> next r => exact ofEq (vaRead_kept ..) r

theorem readScale_kept (w : Who) (d : TDesc) (idx : List Nat) (s : State) : UnitsKept s (readScale w d idx s).2 := by
  unfold readScale
  extract_lets a
  split
  · exact rfl
  · split <;> next r => exact ofEq (vaRead_kept ..) r

theorem readNum_kept (w : Who) (d : TDesc) (idx : List Nat) (s : State) : UnitsKept s (readNum w d idx s).2 := by
  unfold readNum
  split
  · next r =>
    have raw := ofEq (readRaw_kept ..) r
    split
    · exact raw
    · split
      · exact raw
      · split
        · next q =>
          have scale := raw.trans (ofEq (readScale_kept ..) q)
          split <;> exact scale
        · exact raw.trans (readScale_kept ..)
  · exact readRaw_kept ..

theorem readPadded_kept (w : Who) (d : TDesc) (coord : List Nat) (s : State) : UnitsKept s (readPadded w d coord s).2 := by
  unfold readPadded
  split
  · exact rfl
  · exact rfl
  · exact readNum_kept ..

theorem readElem_kept (w : Who) (t : TDesc) (coord : List Nat) (role srole : Nat) (s : State) :
    UnitsKept s (readElem w t coord role srole s).2 := by
  unfold readElem
  split <;> next r => exact ofEq (readPadded_kept ..) r

theorem readOpnd_kept (w : Who) (c : ChainRun) (slot : Nat) (coord : List Nat) (s : State) :
    UnitsKept s (readOpnd w c slot coord s).2 := readElem_kept ..

/-! ### Staging -/

theorem prologue_kept (w : Who) (c : ChainRun) (luts : Sparse (List Machine.Num)) (b : Bool) (k x : Nat) :
    ∀ (ps : List ProOp) (i : Nat) (v : Machine.Num) (s : State), UnitsKept s (prologue w c luts b k x ps i v s).2
  | [], _, _, _ => rfl
  | p :: ps, i, v, s => by
    have go := prologue_kept w c luts b k x ps (i + 1)
    unfold prologue
    split
    · exact go v s
    · extract_lets g zp
      split
      · exact go _ s
      · split
        · next zero =>
          have first := ofEq (readOpnd_kept ..) zero
          split
          · next scale => exact first.trans ((ofEq (readOpnd_kept ..) scale).trans (go _ _))
          · exact first.trans (readOpnd_kept ..)
        · exact readOpnd_kept ..
      · split
        · next read => exact (ofEq (readOpnd_kept ..) read).trans (go _ _)
        · exact readOpnd_kept ..
      · exact go _ s

theorem operandElem_kept (w : Who) (c : ChainRun) (ar : Machine.Array) (b : Bool) (p k x : Nat) (s : State) :
    UnitsKept s (operandElem w c ar b p k x s).2 := by
  unfold operandElem
  extract_lets kk n t base
  have based : UnitsKept s base.2 := by
    unfold base
    split
    · exact rfl
    · split
      · exact readElem_kept ..
      · exact rfl
  clear_value base
  obtain ⟨e, s1⟩ := base
  cases e with
  | num v => exact based.trans (prologue_kept ..)
  | fault f =>
    simp only
    split
    · exact based
    · split <;> next q => exact based.trans (ofEq (prologue_kept ..) q)
  | wait => exact based

theorem readTables_kept (w : Who) (c : ChainRun) (b : Bool) :
    ∀ (ps : List (Nat × ProOp)) (st : Stage) (m : Sparse (List Machine.Num)) (s : State), UnitsKept s (readTables w c b ps st m s).2
  | [], _, _, _ => rfl
  | (i, p) :: ps, st, m, s => by
    unfold readTables
    split
    · exact readTables_kept w c b ps st m s
    · generalize List.range 16 = qs
      refine UnitsKept.trans ?_ (readTables_kept w c b ps _ _ _)
      refine foldl_carried (fun acc : List Machine.Num × Stage × State => acc.2.2) (fun acc q => ?_) qs ([], st, s)
      split <;> next e => exact ofEq (readOpnd_kept ..) e

theorem stageStep_kept (w : Who) (c : ChainRun) (ar : Machine.Array) (b : Bool) (p k : Nat) :
    ∀ (xs : List Nat) (f : Option Flt) (wt : Bool) (s : State), UnitsKept s (stageStep w c ar b p k xs f wt s).2
  | [], _, _, _ => rfl
  | x :: xs, _, _, s => (operandElem_kept w c ar b p k x s).trans (stageStep_kept w c ar b p k xs _ _ _)

theorem stageSlice_kept (w : Who) (c : ChainRun) (ar : Machine.Array) (b : Bool) (p : Nat) (xs : List Nat) :
    ∀ (ks : List Nat) (st : Stage) (s : State), UnitsKept s (stageSlice w c ar b p xs ks st s).2
  | [], _, _ => rfl
  | k :: ks, st, s => (stageStep_kept w c ar b p k xs st.fault st.waits s).trans (stageSlice_kept w c ar b p xs ks _ _)

theorem stageOperand_kept (w : Who) (c : ChainRun) (ar : Machine.Array) (b : Bool) (t : Nat) (st : Stage) (s : State) :
    UnitsKept s (stageOperand w c ar b t st s).2 := by
  unfold stageOperand
  split
  · exact rfl
  · refine UnitsKept.trans ?_ (stageSlice_kept ..)
    split
    · exact readTables_kept ..
    · exact rfl

theorem stagePass_kept (w : Who) (c : ChainRun) (ar : Machine.Array) (t : Nat) (s : State) :
    UnitsKept s (stagePass w c ar t s).2.2.2 := (stageOperand_kept ..).trans (stageOperand_kept ..)

end Sys2Proof.Proofs.ChainAccess
end

section
/-! SUPPORT. What the beats, the passes and the slices of an array leave in it (chapter 03): each cause of an empty beat by its own
equation, the start of a pass from its staging, the end of a pass through what leaves it, and the statement on them. -/

namespace Sys2Proof.Proofs.ArrayPasses

open Sys2Proof.Machine Sys2Proof.Safety Sys2Proof.Claims Sys2Proof.Proofs.ChainAccess

/-! ### Beats -/

/-- An empty beat counted as arrival wait, and one counted as epilogue wait (Table 8 of chapter 03). -/
def arrivalBeat (ar : Machine.Array) : Machine.Array := { ar with ctr := { ar.ctr with arrival := advance ar.ctr.arrival 1 } }
def epilogueBeat (ar : Machine.Array) : Machine.Array := { ar with ctr := { ar.ctr with epilogue := advance ar.ctr.epilogue 1 } }

section
variable {s : State} {c : ChainRun} {j : Nat} {ar : Machine.Array}

theorem emptyBeat_stalled (run : ar.running = true) (stalls : 0 < ar.stall) : emptyBeat s c j ar = { ar with stall := ar.stall - 1 } := by
  simp [emptyBeat, run, stalls]

theorem emptyBeat_drainWait (run : ar.running = true) (free : ar.stall = 0) (bins : (laccOf (fmtOf c).1 (fmtOf c).2).1 = 18)
    (full : memoryFull c ar = true) (draining : drains c ar = true) :
    emptyBeat s c j ar = { ar with ctr := { ar.ctr with drain := advance ar.ctr.drain 1 } } := by
  simp [emptyBeat, run, free, bins, full, draining]

theorem emptyBeat_running (run : ar.running = true) (free : ar.stall = 0) (drained : drains c ar = false) :
    emptyBeat s c j ar = if commitHeld s c then arrivalBeat ar else epilogueBeat ar := by
  simp [emptyBeat, run, free, drained, arrivalBeat, epilogueBeat]

theorem emptyBeat_partials (idle : ar.running = false) (waits : waitsPartials s c j ar = true) : emptyBeat s c j ar = arrivalBeat ar := by
  simp [emptyBeat, idle, waits, arrivalBeat]

theorem emptyBeat_finish (idle : ar.running = false) (partials : waitsPartials s c j ar = false) (finish : finishes c j = true)
    (free : commitHeld s c = false) : emptyBeat s c j ar = epilogueBeat ar := by
  simp [emptyBeat, idle, partials, finish, free, epilogueBeat]

theorem emptyBeat_slices (idle : ar.running = false) (partials : waitsPartials s c j ar = false) (finish : finishes c j = false)
    (next : (nextTile c j ar).isSome = true) (slices : arrived c ar = false ∨ ar.staging = true) :
    emptyBeat s c j ar = arrivalBeat ar := by
  have awaited : (!arrived c ar || ar.staging) = true := by simpa using slices
  simp [emptyBeat, idle, partials, finish, next, awaited, arrivalBeat]

theorem emptyBeat_noTile (idle : ar.running = false) (partials : waitsPartials s c j ar = false) (finish : finishes c j = false)
    (next : (nextTile c j ar).isSome = false) (line : ar.drainable = []) (ready : ∀ r ∈ c.ready, arrayOf c r.1 ≠ j) :
    emptyBeat s c j ar = ar := by
  have none : (c.ready.any fun x => arrayOf c x.1 == j) = false := by simpa using fun a b h => ready (a, b) h
  simp [emptyBeat, idle, partials, finish, next, line, none]

theorem emptyBeat_drained : (emptyBeat s c j ar).drained = ar.drained := by
  simp only [emptyBeat]
  repeat' split
  all_goals rfl

/-- A product beat has a window that moves, which stalls the array for two beats, or it has none (R68). -/
theorem productBeat_moves :
    ((productBeat c ar).stall = 0 ∧ (productBeat c ar).ctr.range = ar.ctr.range)
      ∨ ((productBeat c ar).stall = 2 ∧ (productBeat c ar).ctr.range = advance ar.ctr.range 1) := by
  simp only [productBeat]
  split
  · exact .inr ⟨rfl, rfl⟩
  · exact .inl ⟨rfl, rfl⟩

/-- The array's cells have a beat of the pass to perform. -/
def Busy (c : ChainRun) (ar : Machine.Array) : Prop :=
  ar.running = true ∧ ar.stall = 0 ∧ ar.beat < passBeats (fmtOf c).1 (passDepth c ar.pass)

theorem beatArray_drained : (beatArray s c j ar).drained = if drains c ar then ar.drained + 1 else ar.drained := by
  simp only [beatArray]
  split
  · rfl
  · split
    · rfl
    · exact emptyBeat_drained

theorem beatArray_busy (busy : Busy c ar) : { beatArray s c j ar with drained := ar.drained } = productBeat c ar := by
  obtain ⟨run, free, more⟩ := busy
  simp only [beatArray, run, free, more, decide_true, beq_self_eq_true, Bool.and_true, if_true]
  split <;> rfl

theorem beatArray_empty (idle : ¬ Busy c ar) : { beatArray s c j ar with drained := ar.drained } = emptyBeat s c j ar := by
  have empty : (ar.running && ar.stall == 0 && decide (ar.beat < passBeats (fmtOf c).1 (passDepth c ar.pass))) = false := by
    simpa [Busy] using idle
  have drained := emptyBeat_drained (s := s) (c := c) (j := j) (ar := ar)
  simp only [beatArray, empty, Bool.false_eq_true, if_false]
  split <;> simp [← drained]

theorem idle_of_notRunning (idle : ar.running = false) : ¬ Busy c ar := fun h => by simp [Busy, idle] at h
theorem idle_of_stalled (stalls : 0 < ar.stall) : ¬ Busy c ar := fun ⟨_, free, _⟩ => by omega
theorem idle_of_ended (ended : passBeats (fmtOf c).1 (passDepth c ar.pass) ≤ ar.beat) : ¬ Busy c ar := fun ⟨_, _, more⟩ => by omega

end

/-- The turn of an engine that passes with a beat, or none: the engine's own counts alone differ. -/
structure Turned (a : Nat) (s u : State) : Prop where
  frame : { u with engines := s.engines } = s
  others : OtherEngines a s u
  own : u.engine a = { s.engine a with ctr := (u.engine a).ctr, cleanTurns := (u.engine a).cleanTurns }

theorem engineTurn_turned (a : Nat) (s : State) : Turned a s (engineTurn a s) where
  frame := rfl
  others _ other := State.engine_onEngine_other _ _ other
  own := by simp [engineTurn]

theorem Turned.same (a : Nat) (s : State) : Turned a s s := ⟨rfl, fun _ _ => rfl, rfl⟩

/-- A beat of an array on which P tells the array after it, but for the drain's beats (R57, R75). -/
def BeatsAs (s : State) (a : Nat) (c : ChainRun) (P : Machine.Array → Prop) : Prop :=
  ∃ t, exec (.arrayBeat a) s = .next t ∧ { t with arrays := s.arrays, engines := s.engines } = s ∧ OtherArrays a s t
    ∧ OtherEngines a s t
    ∧ t.engine a = { s.engine a with ctr := (t.engine a).ctr, cleanTurns := (t.engine a).cleanTurns }
    ∧ (t.array a).drained = (if drains c (s.array a) then (s.array a).drained + 1 else (s.array a).drained)
    ∧ P { t.array a with drained := (s.array a).drained }

/-- With no credit to write, a beat turns the engine and gives the array its beat. -/
theorem beatEffect_turned {s : State} {a n : Nat} {c : ChainRun} (h : arrayChain s a = some (n, c)) (product : c.d.product = true)
    (written : c.credits = []) :
    ∃ u, Turned a s u ∧ beatEffect a s = u.onArray a (beatArray s c (arrayIndex c a)) := by
  generalize turned : (if decide (a < 544) && dieOn s (a / 136 + 1) then engineTurn a s else s) = u
  have turn : Turned a s u := by
    rw [← turned]
    split
    · exact engineTurn_turned a s
    · exact Turned.same a s
  refine ⟨u, turn, ?_⟩
  obtain ⟨chain, -⟩ := arrayChain_spec h
  have only : u = { s with engines := u.engines } := by rw [← turn.frame]
  have sees : arrayChain u a = some (n, c) := by rw [only]; exact h
  have flushed : flushCredits n u = u := flushCredits_none (by rw [only]; exact chain) written
  have beat : beatArray u c (arrayIndex c a) = beatArray s c (arrayIndex c a) := by rw [only]; rfl
  simp only [beatEffect, turned, sees, product, flushed, beat, Bool.not_true, Bool.false_eq_true, if_false]

theorem beatsAs {s : State} {a n : Nat} {c : ChainRun} (h : arrayChain s a = some (n, c)) (product : c.d.product = true)
    (written : c.credits = []) {P : Machine.Array → Prop}
    (left : P { beatArray s c (arrayIndex c a) (s.array a) with drained := (s.array a).drained }) : BeatsAs s a c P := by
  obtain ⟨u, turn, effect⟩ := beatEffect_turned h product written
  have here : u.array a = s.array a := by rw [← turn.frame]; rfl
  have after : ((u.onArray a (beatArray s c (arrayIndex c a))).array a) = beatArray s c (arrayIndex c a) (s.array a) := by
    rw [State.array_onArray_same, here]
  refine ⟨_, congrArg Host.Outcome.next effect, ?_, fun k other => ?_, turn.others, turn.own, ?_, ?_⟩
  · exact Eq.trans (by rw [← turn.frame]; rfl) turn.frame
  · rw [State.array_onArray_other _ _ other, ← turn.frame]; rfl
  · rw [after, beatArray_drained]
  · rw [after]; exact left

/-! ### Passes -/

/-- The array at the first beat of a pass of tile k, with the operands that staging gave (R72, R86). -/
def passBegun (c : ChainRun) (k : Nat) (staged ar : Machine.Array) : Machine.Array :=
  let fresh : TileRun := { tile := k, accs := List.replicate ((rowsOf c k).length * (colsOf c k).length) {} }
  { ar with
    running := true, beat := 0, stall := 0, staging := false, luts := staged.luts, stagedA := staged.stagedA, stagedB := staged.stagedB
    tiles := if ar.pass = 0 then (if ar.turn = 0 then [fresh] else ar.tiles ++ [fresh]) else ar.tiles }

theorem startPass_staged {s s1 : State} {n a k : Nat} {c : ChainRun} {x : Machine.Array}
    (staged : stagePass (chainWho n a) c (s.array a) k s = (x, none, false, s1))
    (later : (s.array a).pass = 0 →
      (laterFault (chainWho n a) c (s.array a) k ((List.range (passCount c)).drop 1) s1).1 = (none, false)) :
    startPass n a c k s = (countUnits a (prologueUnits c (s.array a) k) s1).onArray a (passBegun c k x) := by
  have clear : (if ((s.array a).pass = 0 && !false && (none : Option Flt).isNone) = true then
      laterFault (chainWho n a) c (s.array a) k ((List.range (passCount c)).drop 1) s1 else ((none, false), s1)).1 = (none, false) := by
    split
    · next first => exact later (by simpa using first)
    · rfl
  simp only [startPass, staged]
  generalize (if ((s.array a).pass = 0 && !false && (none : Option Flt).isNone) = true then _ else _) = q at clear ⊢
  obtain ⟨q, s2⟩ := q
  subst clear
  rfl

/-- A pass starts on an idle array whose tile is free to run, its slices there (R72, R102, R112). -/
theorem passStartEffect_starts {s : State} {a n k : Nat} {c : ChainRun} (h : arrayChain s a = some (n, c)) (product : c.d.product = true)
    (idle : (s.array a).running = false) (tile : tileAt c (arrayIndex c a) (posOf (s.array a)) = some k) (before : k < stopAt c)
    (slices : arrived c (s.array a) = true) (band : bandFree c k = true)
    (partials : waitsPartials s c (arrayIndex c a) (s.array a) = false) : passStartEffect a s = startPass n a c k s := by
  simp [passStartEffect, h, tile, product, idle, before, slices, band, partials]

theorem passStart_starts {s s1 : State} {a n k : Nat} {c : ChainRun} {x : Machine.Array} (h : arrayChain s a = some (n, c))
    (product : c.d.product = true) (idle : (s.array a).running = false)
    (tile : tileAt c (arrayIndex c a) (posOf (s.array a)) = some k) (before : k < stopAt c) (slices : arrived c (s.array a) = true)
    (band : bandFree c k = true) (partials : waitsPartials s c (arrayIndex c a) (s.array a) = false)
    (staged : stagePass (chainWho n a) c (s.array a) k s = (x, none, false, s1))
    (later : (s.array a).pass = 0 →
      (laterFault (chainWho n a) c (s.array a) k ((List.range (passCount c)).drop 1) s1).1 = (none, false)) :
    ∃ t, exec (.passStart a) s = .next t ∧ { t with arrays := s1.arrays, engines := s1.engines } = s1 ∧ OtherArrays a s1 t
      ∧ OtherEngines a s1 t ∧ t.array a = passBegun c k x (s.array a) := by
  have here : s1.array a = s.array a := by
    have kept := stagePass_kept (chainWho n a) c (s.array a) k s
    rw [staged] at kept
    rw [State.array, State.array, kept.arrays]
  refine ⟨_, congrArg Host.Outcome.next ((passStartEffect_starts h product idle tile before slices band partials).trans
    (startPass_staged staged later)), rfl, fun _ other => ?_, fun _ other => ?_, ?_⟩
  · exact State.array_onArray_other _ _ other
  · exact countUnits_otherEngines _ _ _ _ other
  · rw [State.array_onArray_same]
    exact congrArg (passBegun c k x) here

/-- What the array holds once it has left a pass: it is idle at its next position, and the counts of the pass's buffer are 0
(R97, R109). -/
structure PassLeft (c : ChainRun) (j : Nat) (ar x : Machine.Array) : Prop where
  idle : x.running = false
  beat : x.beat = 0
  passNo : x.passNo = ar.passNo + 1
  pos : posOf x = (posNext c j (posOf ar)).getD (ar.group + 1, 0, 0)
  line : x.drainable = ar.drainable
  countA : tget 0 x.counts (bufferOf c ar.passNo * 2) = 0
  countB : tget 0 x.counts (bufferOf c ar.passNo * 2 + 1) = 0

theorem tget_tdel_same (t : Sparse Nat) (n : Nat) : tget 0 (tdel t n) n = 0 := by
  simp [tget, tfind_tdel_same]

theorem tget_tdel_other (t : Sparse Nat) {n m : Nat} (h : m ≠ n) : tget 0 (tdel t n) m = tget 0 t m := by
  simp [tget, tfind_tdel_other t h]

theorem resetBuffer_array (a : Nat) (c : ChainRun) (buf pass : Nat) (s : State) :
    (resetBuffer a c buf pass s).array a
      = { s.array a with counts := tdel (tdel (s.array a).counts (buf * 2)) (buf * 2 + 1) } := by
  simp only [resetBuffer, List.foldl, State.array_onArray_same]
  split <;> split <;> rfl

theorem leavePass_left (n a : Nat) (c : ChainRun) (tiles : List TileRun) (s : State) :
    PassLeft c (arrayIndex c a) (s.array a) ((leavePass n a c tiles s).array a) := by
  unfold leavePass
  extract_lets ar j buf step opens next s1 s2
  have published : (publish n c j buf (opens.getD (2 ^ 64 - 1)) s2).array a = s2.array a := by
    rw [State.array, State.array, (publish_kept ..).arrays]
  have left : s2.array a = _ := State.array_onArray_same ..
  rw [published, left, resetBuffer_array]
  exact {
    idle := rfl, beat := rfl, passNo := rfl, pos := rfl, line := rfl
    countA := (tget_tdel_other _ (by omega)).trans (tget_tdel_same ..), countB := tget_tdel_same .. }

/-- After its last pass a tile before the stop joins the line of those that drain (R75, R116). -/
def lineAfter (c : ChainRun) (ar : Machine.Array) : List TileRun :=
  let run := nth { tile := 0 } ar.tiles ar.turn
  if ar.pass + 1 = passCount c ∧ run.tile < stopAt c then ar.drainable ++ [mergeTile { run with passes := run.passes + 1 }]
  else ar.drainable

theorem endPass_left (n a : Nat) (c : ChainRun) (s : State) :
    PassLeft c (arrayIndex c a) { s.array a with drainable := lineAfter c (s.array a) } ((endPass n a c s).array a) := by
  unfold endPass
  extract_lets ar run merged s1
  have lined : s1.array a = { s.array a with drainable := lineAfter c (s.array a) } := by
    by_cases last : (s.array a).pass + 1 = passCount c ∧ (nth { tile := 0 } (s.array a).tiles (s.array a).turn).tile < stopAt c
    · have taken : (ar.pass + 1 == passCount c && decide (merged.tile < stopAt c)) = true := by
        simp only [Bool.and_eq_true, beq_iff_eq, decide_eq_true_eq]
        exact last
      simp only [s1, if_pos taken, State.array_onArray_same, lineAfter, if_pos last]
      rfl
    · have passed : ¬ (ar.pass + 1 == passCount c && decide (merged.tile < stopAt c)) = true := by
        simp only [Bool.and_eq_true, beq_iff_eq, decide_eq_true_eq]
        exact last
      simp only [s1, if_neg passed, lineAfter, if_neg last]
  rw [← lined]
  exact leavePass_left ..

theorem passEndEffect_ends {s : State} {a n : Nat} {c : ChainRun} (h : arrayChain s a = some (n, c)) (run : (s.array a).running = true)
    (free : (s.array a).stall = 0) (ended : (s.array a).beat = passBeats (fmtOf c).1 (passDepth c (s.array a).pass))
    (room : memoryFull c (s.array a) = false) : passEndEffect a s = endPass n a c s := by
  simp [passEndEffect, h, run, free, ended, room]

/-! ### Slices -/

/-- Bytes landed over a place are marked where they are poisoned, and no longer where they are not (R76). -/
theorem mem_landedBad (bad : List Nat) (land : Nat) (x : List (Byte × Bool)) {i : Nat} {y : Byte × Bool} (h : x[i]? = some y) :
    land + i ∈ (bad.filter fun k => decide (k < land) || decide (land + x.length ≤ k))
      ++ ((x.zip (span land x.length)).filter (·.1.2)).map (·.2) ↔ y.2 = true := by
  obtain ⟨inside, rfl⟩ := List.getElem?_eq_some_iff.1 h
  have old : land + i ∉ bad.filter fun k => decide (k < land) || decide (land + x.length ≤ k) := by
    simp; omega
  rw [List.mem_append, or_iff_right old]
  simp only [List.mem_map, List.mem_filter]
  constructor
  · rintro ⟨p, ⟨landed, marked⟩, at_⟩
    obtain ⟨k, inZip, rfl⟩ := List.mem_iff_getElem.1 landed
    have same : k = i := by simpa [span] using at_
    subst same
    simpa using marked
  · intro marked
    have inZip : i < (x.zip (span land x.length)).length := by simpa [span] using inside
    exact ⟨_, ⟨List.getElem_mem inZip, by simpa using marked⟩, by simp [span]⟩

theorem sliceArriveEffect_lands {s s1 : State} {a n m k : Nat} {c : ChainRun} {b : Bool} {count : Nat} {pos : Nat × Nat × Nat}
    {e : SliceEntry} {d : TDesc} {x : List (Byte × Bool)} (h : arrayChain s a = some (n, c)) (written : c.credits = [])
    (operand : (if b then c.b else c.a) = some d) (wants : wantsSlice c (arrayIndex c a) (s.array a) b = some (m, pos, e))
    (tile : tileAt c (arrayIndex c a) pos = some k)
    (read : vaRead .once a (.ring n) .read
      ((sliceSource c e b k pos.2.1 + tget 0 (s.array a).counts (bufferOf c m * 2 + one b)) % 2 ^ 64)
      (min count (sliceBytes c b - tget 0 (s.array a).counts (bufferOf c m * 2 + one b))) s = (.data x, s1)) :
    sliceArriveEffect a b count s = landSlice c a b m (tget 0 (s.array a).counts (bufferOf c m * 2 + one b)) e x s1 := by
  have flushed := flushCredits_none (arrayChain_spec h).1 written
  have none : firstCredits c = false := by simp [firstCredits, written]
  simp only [sliceArriveEffect, h, flushed, none, wants, tile, operand, read, Bool.false_eq_true, if_false]

/-- What a landing leaves in the array. -/
theorem landSlice_array (c : ChainRun) (a : Nat) (b : Bool) (m off : Nat) (e : SliceEntry) (x : List (Byte × Bool)) (s : State) :
    (landSlice c a b m off e x s).array a = { s.array a with
      counts := tput 0 (s.array a).counts (bufferOf c m * 2 + one b) (tget 0 (s.array a).counts (bufferOf c m * 2 + one b) + x.length)
      landed := memWrite (s.array a).landed (landedKey (bufferOf c m) b off) (plain x)
      landedBad := ((s.array a).landedBad.filter fun k =>
          decide (k < landedKey (bufferOf c m) b off) || decide (landedKey (bufferOf c m) b off + x.length ≤ k))
        ++ ((x.zip (span (landedKey (bufferOf c m) b off) x.length)).filter (·.1.2)).map (·.2) } := by
  simp only [landSlice, landBytes, array_onEngine, State.array_onArray_same]

/-- A landing changes one array and one engine alone. -/
theorem landSlice_others (c : ChainRun) (a : Nat) (b : Bool) (m off : Nat) (e : SliceEntry) (x : List (Byte × Bool)) (s : State) :
    OtherArrays a s (landSlice c a b m off e x s) ∧ OtherEngines a s (landSlice c a b m off e x s)
      ∧ (landSlice c a b m off e x s).pool = s.pool := by
  refine ⟨fun k other => ?_, fun k other => State.engine_onEngine_other _ _ other, rfl⟩
  simp only [landSlice, landBytes, array_onEngine, State.array_onArray_other _ _ other]

theorem landSlice_counter (c : ChainRun) (a : Nat) (b : Bool) (m off : Nat) (e : SliceEntry) (x : List (Byte × Bool)) (s : State) :
    tget 0 ((landSlice c a b m off e x s).engine a).counters e.counter
      = tget 0 (s.engine a).counters e.counter + BitVec.ofNat 32 x.length := by
  simp only [landSlice, landBytes, State.engine_onEngine_same, tget_tput_same, engine_onArray]

theorem arrivalTimeoutEffect_stops {s : State} {a n : Nat} {c : ChainRun} (h : arrayChain s a = some (n, c))
    (idle : (s.array a).running = false) (next : (nextTile c (arrayIndex c a) (s.array a)).isSome = true)
    (slices : arrived c (s.array a) = false ∨ (s.array a).staging = true) (before : c.committed < stopAt c) :
    arrivalTimeoutEffect a s = setChain n { c with stop := some { status := 0x51, progress := c.committed } } s := by
  have awaited : (!arrived c (s.array a) || (s.array a).staging) = true := by simpa using slices
  simp only [arrivalTimeoutEffect, h, idle, next, awaited, Bool.not_false, Bool.and_true, if_true]
  exact stopChain_before (arrayChain_spec h).1 before _

/-! ### The statement -/

/-- Settles O29: a beat's effect is that of the array alone, by the cases of its cells; a pass starts with what staging gave, which
leaves the arrays as they were, and ends in the array that leaving it gives; a landing and a stop by their equations. -/
theorem arraysRunTheirPasses : Obligations.ArraysRunTheirPasses := by
  unfold Obligations.ArraysRunTheirPasses
  intro s a n c h product ar j f beats Beat
  refine ⟨fun written => ?_, ?_, ?_, ?_, ?_⟩
  · have beat {P : Machine.Array → Prop} (left : P { beatArray s c j ar with drained := ar.drained }) : Beat P :=
      beatsAs h product written left
    clear_value Beat
    have empties {y : Machine.Array} (idle : ¬ Busy c ar) (left : emptyBeat s c j ar = y) : Beat fun x => x = y :=
      beat (P := fun x => x = y) ((beatArray_empty idle).trans left)
    refine ⟨fun run free more => ?_, fun run stalls => ?_, fun run free ended bins full draining => ?_,
      fun run free ended drained held => ?_, fun run free ended drained held => ?_, fun idle partials finish held => ?_, fun idle waits => ?_,
      fun idle partials finish next line ready => ?_⟩
    · refine beat ?_
      rw [beatArray_busy ⟨run, free, more⟩]
      exact ⟨rfl, rfl, run, rfl, rfl, productBeat_moves⟩
    · exact empties (idle_of_stalled stalls) (emptyBeat_stalled run stalls)
    · exact empties (idle_of_ended ended) (emptyBeat_drainWait run free bins full draining)
    · exact empties (idle_of_ended ended) ((emptyBeat_running run free drained).trans (if_neg (by simp [held])))
    · exact empties (idle_of_ended ended) ((emptyBeat_running run free drained).trans (if_pos held))
    · exact empties (idle_of_notRunning idle) (emptyBeat_finish idle partials finish held)
    · refine empties (idle_of_notRunning idle) ?_
      cases partials : waitsPartials s c j ar with
      | true => exact emptyBeat_partials idle partials
      | false =>
        obtain ⟨finish, next, slices⟩ := waits.resolve_left (by simp [partials])
        exact emptyBeat_slices idle partials finish next slices
    · exact empties (idle_of_notRunning idle) (emptyBeat_noTile idle partials finish next line ready)
  · intro k x s1 idle tile before slices band partials staged later
    obtain ⟨t, step, frame, arrays, engines, begun⟩ :=
      passStart_starts h product idle tile before slices band partials staged later
    refine ⟨t, step, frame, arrays, engines, ?_⟩
    rw [begun]
    exact ⟨rfl, rfl, rfl, rfl, rfl, fun first lead => (if_pos first).trans (if_pos lead)⟩
  · intro run free ended room tile
    have left := endPass_left n a c s
    refine ⟨_, congrArg Host.Outcome.next (passEndEffect_ends h run free ended room), left.idle, left.beat, left.passNo, left.pos,
      fun last before => ?_, fun more => ?_, left.countA, left.countB⟩
    · exact ⟨_, left.line.trans (if_pos ⟨last, before⟩), rfl⟩
    · exact left.line.trans (if_neg fun last => more last.1)
  · intro b count m k pos e x s1 written operand wants tile key off size va land read length here
    obtain ⟨d, operand⟩ := Option.isSome_iff_exists.1 operand
    have others := landSlice_others c a b m off e x s1
    refine ⟨_, congrArg Host.Outcome.next (sliceArriveEffect_lands h written operand wants tile read), ?_⟩
    rw [landSlice_array, landSlice_counter, here, length]
    refine ⟨tget_tput_same .., rfl, fun i y landed => ?_, rfl, others⟩
    rw [← length]
    exact mem_landedBad _ _ _ landed
  · intro idle next slices before
    exact ⟨_, congrArg Host.Outcome.next (arrivalTimeoutEffect_stops h idle next slices before), setChain_ringOnly ..⟩

end Sys2Proof.Proofs.ArrayPasses
end

section
/-! SUPPORT. How tiles drain, commit and end their bands (chapters 03 and 04): what a drain leaves in the chain and in its array, how
the writes of a commit end, and from both the statement on them. -/

namespace Sys2Proof.Proofs.TileCommits

open Sys2Proof.Machine Sys2Proof.Claims Sys2Proof.Proofs.ChainAccess

/-! ### Drains -/

/-- The chain once a tile's accumulators, its partials merged, have become W values (R75, R78, R112). -/
def chainDrained (c : ChainRun) (r : TileRun) : ChainRun :=
  let part := tget [] c.rx r.tile
  let accs := if part = [] then r.accs else (r.accs.zip part).map fun p => mergeLacc p.1 p.2
  { c with
    rx := if c.d.partialMode = 1 then tput [] c.rx r.tile accs else tdel c.rx r.tile
    ready := tput [] c.ready r.tile (accs.map fun x =>
      statusNum (chainRm c.d) x.status x.sum (laccOf (fmtOf c).1 (fmtOf c).2).2.1) }

theorem drainTile_chain (n a : Nat) (c : ChainRun) (r : TileRun) (s : State) :
    ((drainTile n a c r s).ring n).op = some (.chain (chainDrained c r)) := by
  refine (setChain_op n _ s).trans ?_
  simp only [chainDrained, List.isEmpty_iff, beq_iff_eq]
  rfl

theorem drainTile_array (n a : Nat) (c : ChainRun) (r : TileRun) (s : State) :
    ((drainTile n a c r s).array a).drainable = (s.array a).drainable.drop 1 ∧ ((drainTile n a c r s).array a).drained = 0
      ∧ ((drainTile n a c r s).array a).ctr.tiles = advance (s.array a).ctr.tiles 1 ∧ OtherArrays a s (drainTile n a c r s) := by
  refine ⟨?_, ?_, ?_, fun k other => State.array_onArray_other _ _ other⟩ <;>
    simp only [drainTile, State.array_onArray_same, array_countUnits, array_setChain]

theorem drains_over {c : ChainRun} {ar : Machine.Array} {r : TileRun} {rest : List TileRun} (line : ar.drainable = r :: rest)
    (beats : drainBeats c r.tile ≤ ar.drained) : drains c ar = false := by
  simp [drains, line, beats]

theorem drainEffect_drains {s : State} {a n : Nat} {c : ChainRun} {r : TileRun} {rest : List TileRun}
    (h : arrayChain s a = some (n, c)) (product : c.d.product = true) (line : (s.array a).drainable = r :: rest)
    (partials : partialsIn c r.tile = true) (beats : drainBeats c r.tile ≤ (s.array a).drained) (later : c.committed ≤ r.tile)
    (fresh : tfind c.ready r.tile = none) : drainEffect a s = drainTile n a c r s := by
  have first : drainedBefore c r.tile = false := by simp [drainedBefore, later, fresh]
  simp only [drainEffect, h, product, line, partials, drains_over line beats, first, Bool.not_true, Bool.or_self,
    Bool.false_eq_true, if_true, if_false]

theorem drainEffect_streams {s : State} {a n k : Nat} {c : ChainRun} (h : arrayChain s a = some (n, c)) (product : c.d.product = false)
    (tile : tileAt c (arrayIndex c a) ((s.array a).group, 0, 0) = some k) (before : k < stopAt c) (band : bandFree c k = true) :
    drainEffect a s = streamTile n a c k s := by
  simp [drainEffect, h, product, tile, before, band]

/-- A tile of an epilogue-only chain has entered W: the chain holds its values, and its array alone has gone on (R107). -/
def Streamed (n a k : Nat) (c : ChainRun) (ys : List Machine.Num) (u t : State) : Prop :=
  (t.ring n).op = some (.chain { c with ready := tput [] c.ready k ys }) ∧ t.pool = u.pool ∧ OtherArrays a u t

theorem streamed_next {n a k : Nat} {c : ChainRun} {ys : List Machine.Num} (u : State) (units : Nat) (f : Machine.Array → Machine.Array) :
    Streamed n a k c ys u ((countUnits a units (setChain n { c with ready := tput [] c.ready k ys } u)).onArray a f) :=
  ⟨setChain_op .., rfl, fun _ other => State.array_onArray_other _ _ other⟩

section
variable {s s1 s2 : State} {n a k : Nat} {c : ChainRun} {ys zs : List Machine.Num}

theorem streamTile_plain (read : streamRead (chainWho n a) c (tileOutputs c k) s = ((ys, none, false), s1)) (whole : completes c = false) :
    Streamed n a k c ys s1 (streamTile n a c k s) := by
  simp only [streamTile, read, whole, Bool.false_and, Bool.false_eq_true, if_false]
  exact streamed_next ..

theorem streamTile_completes (read : streamRead (chainWho n a) c (tileOutputs c k) s = ((ys, none, false), s1)) (part : completes c = true)
    (ends : tileEpilogue (chainWho n a) c ((tileOutputs c k).zip ys) s1 = ((zs, none, false), s2)) :
    Streamed n a k c zs s2 (streamTile n a c k s) := by
  simp only [streamTile, read, part, Option.isNone_none, Bool.not_false, Bool.and_self, if_true, ends, Bool.false_eq_true, if_false]
  exact streamed_next ..

end

/-! ### The writes of a commit -/

theorem chainBecomes_setChain {i : Instr} {s u : State} {n : Nat} {c : ChainRun} (h : exec i s = .next (setChain n c u)) :
    ChainBecomes i s u n c := ⟨_, h, setChain_op .., rfl⟩

/-- The drained values but those of the tiles that go. -/
def readyWithout (c : ChainRun) (gone : List Nat) : Sparse (List Machine.Num) := c.ready.filter fun p => !gone.contains p.1

section
variable {s u : State} {n k : Nat} {t : TDesc} {c : ChainRun}

theorem runCommit_done (writes : runWrites (writeWho n c t) t (c.stats.getD {}) c.todo 0 s = (.done k, u)) :
    runCommit n t c s = setChain n { c with
      ready := readyAfter c, committed := c.committed + c.todoTiles, bytes := c.bytes + k * tbits t
      todo := [], todoTiles := 0, todoDone := 0 } u := by
  simp only [runCommit, writes, settleCommit]

theorem runCommit_wait {rest : List CWrite} (writes : runWrites (writeWho n c t) t (c.stats.getD {}) c.todo 0 s = (.wait k rest, u)) :
    runCommit n t c s = setChain n { c with bytes := c.bytes + k * tbits t, todo := rest, todoDone := c.todoDone + k } u := by
  simp only [runCommit, writes, settleCommit]

/-- Without a hold the tile in commit is not committed where a write of it faults, and the chain stops there (R247). -/
theorem runCommit_fault {f : Flt} (writes : runWrites (writeWho n c t) t (c.stats.getD {}) c.todo 0 s = (.fault k f, u))
    (rows : usesHold c.d = false) (before : c.committed < stopAt c) :
    ∃ v, runCommit n t c s = setChain n { c with
      bytes := c.bytes + k * tbits t, todo := [], todoTiles := 0, todoDone := 0
      stop := some { fltRes f with progress := c.committed } } v ∧ v.pool = u.pool := by
  simp only [runCommit, writes, settleCommit, rows, Bool.false_eq_true, if_false, Nat.add_zero]
  exact ⟨_, stopChain_before (chainOf_setChain n _ u) (by exact before) _, rfl⟩

/-! The same of a commit that begins, with its first write. -/

variable {tiles : Nat} {l : List CWrite}

theorem beginCommit_done (free : c.todoTiles = 0) (writes : runWrites (writeWho n c t) t (c.stats.getD {}) l 0 s = (.done k, u)) :
    beginCommit n t c tiles l s = setChain n { c with
      ready := readyAfter { c with todoTiles := tiles }, committed := c.committed + tiles, bytes := c.bytes + k * tbits t
      todo := [], todoDone := 0 } u := by
  refine (runCommit_done (c := { c with todo := l, todoTiles := tiles, todoDone := 0 }) writes).trans ?_
  rw [free]
  rfl

theorem beginCommit_wait {rest : List CWrite} (writes : runWrites (writeWho n c t) t (c.stats.getD {}) l 0 s = (.wait k rest, u)) :
    beginCommit n t c tiles l s = setChain n { c with
      bytes := c.bytes + k * tbits t, todo := rest, todoTiles := tiles, todoDone := k } u := by
  refine (runCommit_wait (c := { c with todo := l, todoTiles := tiles, todoDone := 0 }) writes).trans ?_
  simp only [Nat.zero_add]

theorem beginCommit_fault {f : Flt} (free : c.todoTiles = 0)
    (writes : runWrites (writeWho n c t) t (c.stats.getD {}) l 0 s = (.fault k f, u)) (rows : usesHold c.d = false)
    (before : c.committed < stopAt c) :
    ∃ v, beginCommit n t c tiles l s = setChain n { c with
      bytes := c.bytes + k * tbits t, todo := [], todoDone := 0, stop := some { fltRes f with progress := c.committed } } v
      ∧ v.pool = u.pool := by
  rw [free]
  exact runCommit_fault (c := { c with todo := l, todoTiles := tiles, todoDone := 0 }) writes rows before

end

theorem readyAfter_tiles {c : ChainRun} (whole : completes c = false) : readyAfter c = readyWithout c (span c.committed c.todoTiles) := by
  simp [readyAfter, readyWithout, whole]

theorem readyAfter_strip {c : ChainRun} (part : completes c = true) :
    readyAfter c = readyWithout c (if (c.committed + 1) % gridCols c = 0 then stripOf c c.committed else []) := by
  simp [readyAfter, readyWithout, part]

/-! ### Tiles -/

section
variable {s s1 : State} {n : Nat} {c : ChainRun} {t : TDesc} (h : chainOf s n = some c) (admitted : c.admitted = true)
  (rows : usesHold c.d = false) (before : c.committed < stopAt c)
include h admitted rows before

/-- The next tile has drained and no write of a commit waits: its epilogue runs (R115). -/
theorem commitEffect_with {ys : List Machine.Num} (whole : completes c = false) (free : c.todoTiles = 0)
    (gathers : c.plan = none ∨ c.plan.isSome = true ∧ c.d.partialMode = 2) (ready : tfind c.ready c.committed = some ys) :
    commitEffect n s = commitWith n c ys s := by
  have own : tget [] c.ready c.committed = ys := by simp [tget, ready]
  simp only [commitEffect, h, admitted, rows, before, ready, free, own]
  rcases gathers with alone | ⟨planned, gather⟩
  · simp [alone, whole]
  · obtain ⟨p, plan⟩ := Option.isSome_iff_exists.1 planned
    simp [plan, commitPartial, gather]

/-- A commit whose writes had to wait goes on with them (R115). -/
theorem commitEffect_goesOn (target : c.c = some t) (waits : c.todoTiles = 1) (ready : (tfind c.ready c.committed).isSome = true) :
    commitEffect n s = runCommit n t c s := by
  have drained : (tfind c.ready c.committed).isNone = false := by rwa [← Option.not_isSome, Bool.not_eq_false']
  simp [commitEffect, h, admitted, rows, before, drained, waits, target]

/-- A completion chain commits a tile once its strip has drained (R106). -/
theorem commitEffect_completes (target : c.c = some t) (part : completes c = true) (free : c.todoTiles = 0) (alone : c.plan = none)
    (strip : ∀ x ∈ stripOf c c.committed, (tfind c.ready x).isSome = true) (ready : (tfind c.ready c.committed).isSome = true) :
    commitEffect n s = commitCompletion n c t s s := by
  have drained : (tfind c.ready c.committed).isNone = false := by rwa [← Option.not_isSome, Bool.not_eq_false']
  have all : ((if rowSoftmax c.d then stripOf c c.committed else (stripOf c c.committed).filter fun x => decide (x < stopAt c)).all
      fun x => (tfind c.ready x).isSome) = true := by
    split
    · exact List.all_eq_true.2 strip
    · exact List.all_eq_true.2 fun x inside => strip x (List.mem_of_mem_filter inside)
  simp only [commitEffect, h, admitted, rows, before, drained, free, alone, part, target, all]
  rfl

end

section
variable {s s1 : State} {n : Nat} {c : ChainRun} {t : TDesc}

theorem commitWith_plain {ys zs : List Machine.Num} (target : c.c = some t)
    (ends : tileEpilogue (chainWho n (tileArray c c.committed)) c ((tileOutputs c c.committed).zip ys) s = ((zs, none, false), s1)) :
    commitWith n c ys s = beginCommit n t { c with rows := (commitWrites c t zs).2 } 1 (commitWrites c t zs).1 s1 := by
  unfold commitWith
  split
  · next missing => simp [target] at missing
  · next t' found =>
    obtain rfl : t' = t := Option.some.inj (found.symm.trans target)
    rw [ends]
    rfl

theorem commitCompletion_begins {vals : List Machine.Num}
    (read : readStats (chainWho n (tileArray c c.committed)) c (if rowSoftmax c.d then 0 else 4) (rowsOf c c.committed) s
      = ((vals, none, false), s1)) :
    commitCompletion n c t s s = beginCommit n t c 1 (completionWrites c t vals) s1 := by
  simp only [commitCompletion, read]
  rfl

end

/-! ### Bands -/

theorem bandEffect_begins {s s1 : State} {n rg : Nat} {c : ChainRun} {t : TDesc} {vals : Sparse (List Machine.Num)}
    (h : chainOf s n = some c) (admitted : c.admitted = true) (target : c.c = some t) (rows : usesHold c.d = true)
    (free : c.todoTiles = 0) (mode : c.d.partialMode ≠ 3) {per : Nat} (band : per = blockRows c * gridCols c) {tiles : List Nat}
    (named : tiles = span c.committed (min (per - c.committed % per) (tileCount c - c.committed))) (tiled : tiles ≠ [])
    (group : c.committed / per % (c.d.arrays / c.d.rowGroup) = rg)
    (drained : ∀ x ∈ tiles, (tfind c.ready x).isSome = true ∧ x < stopAt c)
    (ends : bandEpilogue n c tiles s = ((vals, none, false), s1)) :
    bandEffect n rg s = beginCommit n t c tiles.length (bandWrites c t tiles vals) (countFinish c tiles s1) := by
  have all : (tiles.all fun x => (tfind c.ready x).isSome && decide (x < stopAt c)) = true := by simpa using drained
  have present : tiles.isEmpty = false := by simpa using tiled
  have sums : bandSums s c tiles = some c := by simp [bandSums, mode]
  simp only [bandEffect, h, ← band, ← named, admitted, rows, present, group, all, target, free, sums, ends]
  simp

/-! ### The statement -/

/-- Settles O30: a drain by what it leaves in the chain and in the array; a commit begins with the writes that its epilogue gives, and
is committed, stops or waits as they end. -/
theorem tilesDrainAndCommitInOrder : Obligations.TilesDrainAndCommitInOrder := by
  unfold Obligations.TilesDrainAndCommitInOrder
  refine ⟨fun s a n c h => ⟨?_, ?_⟩, ?_⟩
  · intro r rest product line partials beats later fresh
    obtain ⟨gone, drained, tiles, others⟩ := drainTile_array n a c r s
    rw [line] at gone
    exact ⟨_, congrArg Host.Outcome.next (drainEffect_drains h product line partials beats later fresh), drainTile_chain .., gone,
      drained, tiles, others⟩
  · intro k ys s1 product tile before band read
    have step : exec (.tileDrain a) s = .next (streamTile n a c k s) :=
      congrArg Host.Outcome.next (drainEffect_streams h product tile before band)
    refine ⟨fun whole => ⟨_, step, streamTile_plain read (by simp [completes, whole])⟩, fun zs s2 part ends => ⟨_, step, ?_⟩⟩
    exact streamTile_completes read (by simp [completes, part, product]) ends
  · intro s s1 s2 n c t h admitted target w tile who st left
    refine ⟨?_, ?_, ?_, ?_⟩
    · intro ys zs rows whole free gathers before ready ends cw
      have begins := (commitEffect_with h admitted rows before whole free gathers ready).trans (commitWith_plain target ends)
      refine ⟨fun k writes => ?_, fun k f writes => ?_, fun k rest writes => ?_⟩
      · have ended := begins.trans (beginCommit_done (c := { c with rows := cw.2 }) free writes)
        rw [readyAfter_tiles (by exact whole)] at ended
        exact chainBecomes_setChain (congrArg Host.Outcome.next ended)
      · obtain ⟨v, ended, pool⟩ := beginCommit_fault (c := { c with rows := cw.2 }) free writes rows before
        exact ⟨_, congrArg Host.Outcome.next (begins.trans ended), setChain_op .., pool⟩
      · exact chainBecomes_setChain (congrArg Host.Outcome.next (begins.trans (beginCommit_wait writes)))
    · intro k rows whole waits before ready writes
      have ended := (commitEffect_goesOn h admitted rows before target waits ready).trans (runCommit_done writes)
      rw [readyAfter_tiles whole, waits] at ended
      exact chainBecomes_setChain (congrArg Host.Outcome.next ended)
    · intro vals k rows alone part free before strip ready read writes
      have ended := ((commitEffect_completes h admitted rows before target part free alone strip ready).trans
        (commitCompletion_begins read)).trans (beginCommit_done free writes)
      rw [readyAfter_strip (by exact part)] at ended
      exact chainBecomes_setChain (congrArg Host.Outcome.next ended)
    · intro rg k vals rows whole free mode per tiles tiled group drained ends writes
      have ended := (bandEffect_begins h admitted target rows free mode rfl rfl tiled group drained ends).trans
        (beginCommit_done free writes)
      rw [readyAfter_tiles (by exact whole)] at ended
      exact chainBecomes_setChain (congrArg Host.Outcome.next ended)

end Sys2Proof.Proofs.TileCommits
end

section
/-! SUPPORT. What a chunk of partials and the values of a W tree leave in their chain (chapter 04), how far a turn of a transform takes
it (chapter 05), and the statement on them. -/

namespace Sys2Proof.Proofs.PartialsAndTransforms

open Sys2Proof.Machine Sys2Proof.Claims Sys2Proof.Proofs.ChainAccess

/-! ### Chunks of exact partials (R113) -/

section
variable {c : ChainRun} {tile row x i : Nat} {l old : List Lacc}

/-- Place, in row-major order over a tile's outputs, of the first output of a row that a chunk holds. -/
def chunkStart (c : ChainRun) (tile row x : Nat) : Nat := (row - (rowsOf c tile).headD 0) * (colsOf c tile).length + x

theorem mergeRow_getElem (inside : i < old.length) : (mergeRow c tile row x l old)[i]? = some (
    if chunkStart c tile row x ≤ i ∧ i < (row - (rowsOf c tile).headD 0) * (colsOf c tile).length + (colsOf c tile).length
      ∧ i - chunkStart c tile row x < l.length then mergeLacc (nth {} old i) (nth {} l (i - chunkStart c tile row x))
    else nth {} old i) := by
  simp [mergeRow, inside, chunkStart]

/-- An output of the chunk that lies in the tile is merged with what has come of it. -/
theorem mergeRow_merged {y o : Lacc} (sent : l[i]? = some y) (inRow : x + i < (colsOf c tile).length)
    (held : old[chunkStart c tile row x + i]? = some o) :
    (mergeRow c tile row x l old)[chunkStart c tile row x + i]? = some (mergeLacc o y) := by
  obtain ⟨inside, -⟩ := List.getElem?_eq_some_iff.1 held
  obtain ⟨short, -⟩ := List.getElem?_eq_some_iff.1 sent
  rw [mergeRow_getElem inside, if_pos ⟨by omega, by unfold chunkStart; omega, by omega⟩, Nat.add_sub_cancel_left]
  simp [nth, sent, held]

/-- Outputs outside the chunk stay as they were. -/
theorem mergeRow_kept (outside : i < chunkStart c tile row x ∨ chunkStart c tile row x + l.length ≤ i) :
    (mergeRow c tile row x l old)[i]? = old[i]? := by
  by_cases inside : i < old.length
  · rw [mergeRow_getElem inside, if_neg (by omega)]
    simp [nth, inside]
  · rw [List.getElem?_eq_none (by simpa [mergeRow] using inside), List.getElem?_eq_none (by simpa using inside)]

end

/-- What has come of a tile's outputs, nothing yet of each at first. -/
def partialsOf (c : ChainRun) (tile : Nat) : List Lacc :=
  if (tget [] c.rx tile).isEmpty then List.replicate (tileOutputs c tile).length {} else tget [] c.rx tile

/-- The tile that a sender's chunk k belongs to. -/
def chunkTile (c : ChainRun) (k : Nat) : Nat :=
  (chunkPlace c k).1 / tileRows c * gridCols c + (chunkPlace c k).2 / tileCols c

/-- The chain with a sender's next chunk taken: counted, and merged where its row lies in the tensor. -/
def chunkTaken (c : ChainRun) (sender : Nat) (l : List Lacc) : ChainRun :=
  let k := tget 0 c.rxChunks sender
  let got := { c with rxChunks := tput 0 c.rxChunks sender (k + 1) }
  if c.d.m ≤ (chunkPlace c k).1 then got
  else { got with
    rx := tput [] c.rx (chunkTile c k)
      (mergeRow c (chunkTile c k) (chunkPlace c k).1 ((chunkPlace c k).2 % tileCols c) l (partialsOf c (chunkTile c k))) }

section
variable {c : ChainRun} {sender : Nat} {l : List Lacc}

theorem chunkTaken_counts (c : ChainRun) (sender : Nat) (l : List Lacc) :
    tget 0 (chunkTaken c sender l).rxChunks sender = tget 0 c.rxChunks sender + 1 := by
  simp only [chunkTaken]
  split <;> simp only [tget_tput_same]

theorem chunkTaken_past (past : c.d.m ≤ (chunkPlace c (tget 0 c.rxChunks sender)).1) : (chunkTaken c sender l).rx = c.rx := by
  simp only [chunkTaken, if_pos past]

theorem chunkTaken_merged (inside : (chunkPlace c (tget 0 c.rxChunks sender)).1 < c.d.m) :
    let k := tget 0 c.rxChunks sender
    tget [] (chunkTaken c sender l).rx (chunkTile c k)
      = mergeRow c (chunkTile c k) (chunkPlace c k).1 ((chunkPlace c k).2 % tileCols c) l (partialsOf c (chunkTile c k)) := by
  simp only [chunkTaken, if_neg (Nat.not_le.2 inside), tget_tput_same]

theorem chunkTaken_progress (c : ChainRun) (sender : Nat) (l : List Lacc) :
    (chunkTaken c sender l).committed = c.committed ∧ (chunkTaken c sender l).stop = c.stop := by
  unfold chunkTaken
  extract_lets k got
  split <;> exact ⟨rfl, rfl⟩

end

section
variable {s : State} {n sender : Nat} {c : ChainRun} {chunk : List Byte} (h : chainOf s n = some c) (admitted : c.admitted = true)
  (gathers : c.d.partialMode = 2)
  (expected : tget 0 c.rxChunks sender < gridRows { c with d := { c.d with holdRows := 0 } } * gridCols c * chunksPerTile c)
include h admitted gathers expected

theorem chunkEffect_takes {l : List Lacc}
    (parsed : parseChunk (laccOf (fmtOf c).1 (fmtOf c).2).1 (chunkOutputs c) chunk = some l) :
    chunkEffect n sender chunk s = setChain n (chunkTaken c sender l) s := by
  have taken : (!c.admitted || c.d.partialMode != 2) = false := by simp [admitted, gathers]
  simp only [chunkEffect, h, taken, decide_eq_false (Nat.not_le.2 expected), parsed, Bool.false_eq_true, if_false]
  exact (apply_ite (fun c => setChain n c s) _ _ _).symm

theorem chunkEffect_breaks (parsed : parseChunk (laccOf (fmtOf c).1 (fmtOf c).2).1 (chunkOutputs c) chunk = none)
    (before : chunkTile c (tget 0 c.rxChunks sender) < stopAt c) :
    chunkEffect n sender chunk s
      = setChain n { c with stop := some { status := 0x13, progress := chunkTile c (tget 0 c.rxChunks sender) } } s := by
  refine Eq.trans ?_ (stopChain_before h before { status := 0x13 })
  have taken : (!c.admitted || c.d.partialMode != 2) = false := by simp [admitted, gathers]
  simp only [chunkEffect, h, taken, decide_eq_false (Nat.not_le.2 expected), parsed, Bool.false_eq_true, if_false]
  rfl

end

/-! ### Values of a W tree (R114) -/

/-- The level of a position of the tree is the one at whose distance it lies. -/
theorem find_level {levels : List Nat} {pos l : Nat} (listed : l ∈ levels) :
    (levels.find? fun k => pos + 2 ^ k == pos + 2 ^ l) = some l := by
  cases found : levels.find? fun k => pos + 2 ^ k == pos + 2 ^ l with
  | none => simpa using List.find?_eq_none.1 found l listed
  | some k => simpa using List.find?_some found

theorem treeEffect_keeps {s : State} {n tile l : Nat} {c : ChainRun} {p : Plan} (values : List (BitVec 80)) (h : chainOf s n = some c)
    (admitted : c.admitted = true) (climbs : c.d.partialMode = 3) (plan : c.plan = some p) (inGrid : tile < tileCount c)
    (level : l ∈ treeLevels p.nodes.length (planPos s p)) :
    treeEffect n (planPos s p + 2 ^ l) tile values s
      = setChain n { c with tree := tput [] c.tree (tile * 16 + l) (values.map fun v => decodeNum .w v.toNat) } s := by
  have taken : (!c.admitted || c.d.partialMode != 3 || decide (tileCount c ≤ tile)) = false := by simp [admitted, climbs, inGrid]
  simp only [treeEffect, h, plan, find_level level, taken, Bool.false_eq_true, if_false]

/-! ### The read-ahead buffer of a transform (R131) -/

theorem transformOf_setTransform (n : Nat) (x : TransformRun) (s : State) : transformOf (setTransform n x s) n = some x := by
  simp [transformOf, setTransform]

/-- The second transform differs from the first in its buffer alone. -/
def BufOnly (x y : TransformRun) : Prop := y = { x with buf := y.buf }

namespace BufOnly

theorem same {x : TransformRun} : BufOnly x x := rfl
theorem of (x : TransformRun) (buf : Sparse (List (Byte × Bool))) : BufOnly x { x with buf := buf } := rfl
theorem trans {x y z : TransformRun} (h : BufOnly x y) (k : BufOnly y z) : BufOnly x z := by
  rw [BufOnly, h] at k; exact k

variable {x y : TransformRun} (h : BufOnly x y)
include h

theorem done : y.done = x.done := by rw [h]
theorem written : y.written = x.written := by rw [h]
theorem dst : y.dst = x.dst := by rw [h]
theorem restored : { y with buf := x.buf } = x := by rw [h]

end BufOnly

theorem fetchSectors_buf (w : Who) : ∀ (ks : List Nat) (x : TransformRun) (left : Nat) (s : State),
    BufOnly x (fetchSectors w ks x left s).2.1
  | [], _, _, _ => .same
  | k :: ks, x, left, s => by
    unfold fetchSectors
    split
    · exact fetchSectors_buf w ks x left s
    · split
      · exact .same
      · split
        · exact (BufOnly.of ..).trans (fetchSectors_buf w ks _ _ _)
        · exact .same
        · exact .same

/-- What a transform's own answer holds, for the names that a match gives its parts. -/
theorem bufOf {α : Type} {x y : TransformRun} {r : α × TransformRun × Nat × State} {g : α} {left : Nat} {s : State}
    (h : BufOnly x r.2.1) (e : r = (g, y, left, s)) : BufOnly x y := by
  subst e; exact h

theorem readSource_buf (w : Who) (x : TransformRun) (idx : List Nat) (left : Nat) (s : State) :
    BufOnly x (readSource w x idx left s).2.1 := by
  unfold readSource
  split
  · exact .same
  · exact .same
  · extract_lets elem flt
    split
    split
    · exact .same
    · split
      · next e => exact bufOf (fetchSectors_buf ..) e
      · next e => exact bufOf (fetchSectors_buf ..) e
      · next e => exact bufOf (fetchSectors_buf ..) e
      · next e =>
        have fetched := bufOf (fetchSectors_buf ..) e
        extract_lets b v sa
        split
        · exact fetched
        · split
          · exact fetched
          · split
            · exact fetched
            · split
              · exact fetched
              · split <;> next q => exact fetched.trans (bufOf (fetchSectors_buf ..) q)

theorem readBlock_buf (w : Who) : ∀ (l : List (List Nat)) (x : TransformRun) (left : Nat) (s : State),
    BufOnly x (readBlock w l x left s).2.1
  | [], _, _, _ => .same
  | i :: l, x, left, s => by
    unfold readBlock
    split
    · next e => exact (bufOf (readSource_buf ..) e).trans (readBlock_buf w l _ _ _)
    · next e => exact bufOf (readSource_buf ..) e

theorem readCells_buf (w : Who) : ∀ (l : List (List Nat)) (x : TransformRun) (left : Nat) (s : State),
    BufOnly x (readCells w l x left s).2.1
  | [], _, _, _ => .same
  | i :: l, x, left, s => by
    unfold readCells
    split
    · next e => exact (bufOf (readSource_buf ..) e).trans (readCells_buf w l _ _ _)
    · next e => exact bufOf (readSource_buf ..) e

/-! ### The copy (R133-R135) -/

/-- The second transform differs from the first in what it has read ahead and in the blocks in progress alone. -/
def WorkKept (x y : TransformRun) : Prop := y = { x with buf := y.buf, row := y.row, blocks := y.blocks }

namespace WorkKept

theorem same {x : TransformRun} : WorkKept x x := rfl
theorem trans {x y z : TransformRun} (h : WorkKept x y) (k : WorkKept y z) : WorkKept x z := by
  rw [WorkKept, h] at k; exact k
theorem ofBuf {x y : TransformRun} (h : BufOnly x y) : WorkKept x y := by rw [WorkKept, h]
theorem ofBlocks (x : TransformRun) (blocks : Sparse (List Nat)) : WorkKept x { x with blocks := blocks } := rfl

end WorkKept

/-- The transform with one more element of the destination written. -/
def oneWritten (x : TransformRun) : TransformRun := { x with done := x.done + 1, written := x.written + 1 }

theorem WorkKept.oneWritten {x y : TransformRun} (h : WorkKept x y) : WorkKept (oneWritten x) (oneWritten y) := by
  rw [WorkKept, h]; rfl

/-- How the turn of an element leaves the transform: one element further where it was written, and where it was before otherwise. -/
def Turned (r : XEnd) (x y : TransformRun) : Prop :=
  match r with
  | .done => WorkKept (oneWritten x) y
  | _ => WorkKept x y

theorem Turned.of_kept {r : XEnd} {x y z : TransformRun} (h : WorkKept x y) (k : Turned r y z) : Turned r x z := by
  cases r with
  | done => exact h.oneWritten.trans k
  | _ => exact h.trans k

theorem Turned.kept {r : XEnd} {x y z : TransformRun} (h : Turned r x y) (k : WorkKept y z) : Turned r x z := by
  cases r <;> exact WorkKept.trans h k

theorem enterRow_kept (x : TransformRun) (e : Nat) : WorkKept x (enterRow x e) := by
  unfold enterRow
  extract_lets idx
  split
  · exact .same
  · split <;> exact rfl

theorem enterRow_dst (x : TransformRun) (e : Nat) : (enterRow x e).dst = x.dst := by rw [enterRow_kept x e]

theorem leaveBlock_kept (x : TransformRun) (key at_ n : Nat) : WorkKept x (leaveBlock x key at_ n) := by
  unfold leaveBlock
  split <;> exact rfl

theorem readAhead_kept (w : Who) : ∀ (f e : Nat) (x : TransformRun) (left : Nat) (s : State),
    WorkKept x (readAhead w f e x left s).1
  | 0, _, _, _, _ => .same
  | f + 1, e, x, left, s => by
    unfold readAhead
    extract_lets idx
    split
    · exact .same
    · split
      · next q => exact (WorkKept.ofBuf (bufOf (fetchSectors_buf ..) q)).trans (readAhead_kept w f _ _ _ _)
      · next q => exact .ofBuf (bufOf (fetchSectors_buf ..) q)
      · next q => exact .ofBuf (bufOf (fetchSectors_buf ..) q)

theorem writeElem_turned (w : Who) (x : TransformRun) (idx : List Nat) (e v : Nat) (s : State) :
    Turned (writeElem w x idx e v s).1 x (writeElem w x idx e v s).2.1 := by
  unfold writeElem
  split <;> exact WorkKept.same

theorem writeBegin_turned (w : Who) (x : TransformRun) (idx : List Nat) (e scale v : Nat) (s : State) :
    Turned (writeBegin w x idx e scale v s).1 x (writeBegin w x idx e scale v s).2.1 := by
  unfold writeBegin
  split
  · exact WorkKept.same
  · exact WorkKept.same
  · next s1 _ =>
    have after := writeElem_turned w x idx e v s1
    have before := writeElem_turned w x idx e v s
    split
    · next q => rw [q] at after; exact after
    · next q => rw [q] at after; exact after
    · split
      · next q => rw [q] at before; exact before
      · exact WorkKept.same

theorem sourceEnd_ne_done (g : XGot) : sourceEnd g ≠ .done := by
  cases g <;> simp [sourceEnd]

theorem Turned.source {x y : TransformRun} (g : XGot) (h : WorkKept x y) : Turned (sourceEnd g) x y := by
  cases g <;> exact h

/-- The names that a match gives the parts of a turn. -/
theorem Turned.ofEq {α : Type} {x y : TransformRun} {p : XEnd × TransformRun × α} {r : XEnd} {u : α} (h : Turned p.1 x p.2.1)
    (e : p = (r, y, u)) : Turned r x y := by
  subst e; exact h

theorem copyElem_turned (w : Who) (x : TransformRun) (left : Nat) (s : State) :
    Turned (copyElem w x left s).1 x (copyElem w x left s).2.1 := by
  unfold copyElem
  extract_lets e idx y key blk at_
  have entered : WorkKept x y := enterRow_kept x e
  clear_value y
  split
  · split
    · next q => exact Turned.of_kept (entered.trans (.ofBuf (bufOf (readSource_buf ..) q))) (writeElem_turned ..)
    · next q => exact Turned.of_kept (entered.trans (.ofBuf (bufOf (readSource_buf ..) q))) (writeElem_turned ..)
    · next q => exact Turned.source _ (entered.trans (.ofBuf (bufOf (readSource_buf ..) q)))
  · split
    · split
      · next q => exact (Turned.of_kept entered ((writeElem_turned ..).ofEq q)).kept (leaveBlock_kept ..)
      · next q => exact Turned.of_kept entered ((writeElem_turned ..).ofEq q)
    · split
      · next q => exact Turned.source _ (entered.trans (.ofBuf (bufOf (readBlock_buf ..) q)))
      · next q =>
        have gathered := entered.trans (.ofBuf (bufOf (readBlock_buf ..) q))
        extract_lets draws quant
        split
        · next p => exact (Turned.of_kept (gathered.trans (.ofBlocks ..)) ((writeBegin_turned ..).ofEq p)).kept (leaveBlock_kept ..)
        · next r _ _ undone p =>
          cases r with
          | done => exact absurd rfl undone
          | _ => exact gathered

/-- A copy has gone on by at most k elements within its destination, and each element written counts (R131, R135). -/
structure Advanced (k : Nat) (x y : TransformRun) : Prop where
  low : x.done ≤ y.done
  high : y.done ≤ x.done + k
  inside : y.done ≤ tcount x.dst
  account : y.written + x.done = x.written + y.done

theorem Advanced.of_kept {k : Nat} {x y : TransformRun} (h : WorkKept x y) (inside : x.done ≤ tcount x.dst) : Advanced k x y := by
  rw [h]
  exact ⟨le_rfl, Nat.le_add_right .., inside, rfl⟩

theorem Advanced.step {k : Nat} {x y z : TransformRun} (h : WorkKept (oneWritten x) y) (more : Advanced k y z) : Advanced (k + 1) x z := by
  obtain ⟨low, high, inside, account⟩ := more
  rw [h] at low high inside account
  simp only [oneWritten] at low high inside account
  exact ⟨by omega, by omega, inside, by omega⟩

theorem Advanced.stopped {k : Nat} {x y : TransformRun} (h : Advanced k x y) (r : Res) : Advanced k x { y with stop := some r } :=
  ⟨h.low, h.high, h.inside, h.account⟩

/-- With its elements spent a turn reads ahead. -/
theorem copyElems_spent (n : Nat) (w : Who) (left : Nat) (x : TransformRun) (s : State) :
    transformOf (copyElems n w 0 left x s) n = some (readAhead w (tcount x.dst - x.done) x.done x left s).1 := by
  unfold copyElems
  exact transformOf_setTransform ..

theorem copyElems_advances (n : Nat) (w : Who) : ∀ (k left : Nat) (x : TransformRun) (s : State), x.done ≤ tcount x.dst →
    ∃ y, transformOf (copyElems n w k left x s) n = some y ∧ Advanced k x y
  | 0, _, _, _, inside => ⟨_, copyElems_spent .., .of_kept (readAhead_kept ..) inside⟩
  | k + 1, left, x, s, inside => by
    unfold copyElems
    split
    · exact ⟨_, transformOf_setTransform .., .of_kept .same inside⟩
    · next going =>
      split
      · exact ⟨_, copyElems_spent .., .of_kept (readAhead_kept ..) inside⟩
      · have turned := copyElem_turned w x left s
        split
        · next z left' u q =>
          have written : WorkKept (oneWritten x) z := turned.ofEq q
          have within : x.done + 1 ≤ tcount x.dst := Nat.not_le.1 fun full => going (.inl full)
          obtain ⟨y, here, more⟩ := copyElems_advances n w k left' z u (by rw [written]; exact within)
          exact ⟨y, here, more.step written⟩
        · next q => exact ⟨_, transformOf_setTransform .., (Advanced.of_kept (turned.ofEq q) inside).stopped _⟩
        · next r y _ _ undone _ q =>
          have kept : WorkKept x y := by
            have after := turned.ofEq q
            cases r with
            | done => exact absurd rfl undone
            | _ => exact after
          exact ⟨_, transformOf_setTransform .., .of_kept kept inside⟩

theorem writeElem_done {w : Who} {x : TransformRun} {idx : List Nat} {v : Nat} {s u : State} (e : Nat)
    (put : writeRaw w x.dst idx v s = (.done, u)) : writeElem w x idx e v s = (.done, oneWritten x, u) := by
  simp only [writeElem, put]
  rfl

/-- An element whose destination has no scales goes from its source to its place (R134). -/
theorem copyElem_plain {w : Who} {x y : TransformRun} {s s1 s2 : State} {left left' : Nat} {v : XGot} (plain : x.dst.scaleFmt = .none)
    (read : readSource w (enterRow x x.done) (unlinear (ownExts x.dst) x.done) left s = (v, y, left', s1))
    (found : (∃ k, v = .bits k) ∨ ∃ k, v = .num k)
    (put : writeRaw w y.dst (unlinear (ownExts x.dst) x.done) (convertOut y x.done v) s1 = (.done, s2)) :
    copyElem w x left s = (.done, oneWritten y, left', s2) := by
  have scaleless : ((enterRow x x.done).dst.scaleFmt == .none) = true := by rw [enterRow_dst, plain]; rfl
  simp only [copyElem, scaleless, if_true, read]
  rcases found with ⟨k, rfl⟩ | ⟨k, rfl⟩ <;> simp only [writeElem_done _ put]

/-- The last element ends the turn: nothing is left to read ahead. -/
theorem copyElems_last {n : Nat} {w : Who} {x z : TransformRun} {s s2 : State} {left left' k : Nat} (positive : 0 < k)
    (going : x.done < tcount x.dst) (unstopped : x.stop = none) (answered : putsPending w s = false)
    (turn : copyElem w x left s = (.done, z, left', s2)) (full : z.done = tcount z.dst) :
    copyElems n w k left x s = setTransform n z s2 := by
  obtain ⟨k, rfl⟩ := Nat.exists_eq_succ_of_ne_zero positive.ne'
  have more : ¬ (x.done ≥ tcount x.dst ∨ x.stop.isSome = true) := by simp [unstopped, going]
  simp only [copyElems, if_neg more, answered, turn, Bool.false_eq_true, if_false]
  cases k with
  | zero => simp only [copyElems, full, Nat.sub_self, readAhead]
  | succ k => simp only [copyElems, full, ge_iff_le, le_refl, true_or, if_true]

/-! ### In place (R137) -/

theorem beginPair_dst {w : Who} {x y : TransformRun} {left left' : Nat} {s s1 : State}
    (begun : beginPair w x left s = (.done, y, left', s1)) : y.dst = x.dst := by
  unfold beginPair at begun
  split at begun
  · obtain ⟨-, rfl, -⟩ := begun
    rfl
  · split at begun
    · next q =>
      obtain ⟨-, rfl, -⟩ := begun
      exact (bufOf (readCells_buf ..) q).dst
    · exact absurd (congrArg Prod.fst begun) (sourceEnd_ne_done _)

theorem aheadPair_buf (w : Who) (x : TransformRun) (left : Nat) (s : State) : BufOnly x (aheadPair w x left s).1 := by
  unfold aheadPair
  extract_lets p
  split
  · exact .same
  · exact readCells_buf ..

theorem aheadPair_spent (w : Who) (x : TransformRun) (s : State) : aheadPair w x 0 s = (x, s) := by
  simp [aheadPair]

theorem aheadPair_stopped {x : TransformRun} (stopped : x.stop.isSome = true) (w : Who) (left : Nat) (s : State) :
    aheadPair w x left s = (x, s) := by
  simp [aheadPair, stopped]

section
variable {n left : Nat} {w : Who} {x y : TransformRun} {s s1 s2 : State}

/-- A pair without work to do is read whole, and its elements are then to be written. -/
theorem beginPair_reads {l : List (List Nat × Nat)} (fresh : x.todo = [])
    (read : readCells w (pairCells x x.done) x 2 s = ((l, none), y, left, s1)) :
    beginPair w x 2 s = (.done, { y with todo := l, buf := [] }, left, s1) := by
  simp [beginPair, fresh, read]

theorem transposeTurn_full (begun : beginPair (transformWho n x) x 2 s = (.full, y, left, s1)) :
    transposeTurn n x s = setTransform n y s1 := by
  simp only [transposeTurn, begun]

/-- A pair that has been read is written, and the next one read ahead with what reads are left. -/
theorem transposeTurn_writes (begun : beginPair (transformWho n x) x 2 s = (.done, y, left, s1)) {z : TransformRun}
    (put : putPair (transformWho n x) (max 1 (1024 / tbits x.dst)) y s1 = (z, s2)) :
    transposeTurn n x s
      = setTransform n (aheadPair (transformWho n x) z left s2).1 (aheadPair (transformWho n x) z left s2).2 := by
  simp only [transposeTurn, begun, beginPair_dst begun, put]

/-- The pair in progress once k of its elements are written and those of the list are still to go. -/
def pairWritten (y : TransformRun) (k : Nat) (todo : List (List Nat × Nat)) : TransformRun :=
  { y with done := y.done + (if todo = [] then 1 else 0), written := y.written + k, todo := todo }

theorem putPair_written {m k : Nat} {rest : List (List Nat × Nat)} (wrote : writePair w y (y.todo.take m) 0 s1 = ((k, none, rest), s2)) :
    putPair w m y s1 = (pairWritten y k (rest ++ y.todo.drop m), s2) := by
  simp only [putPair, wrote, pairWritten, one, List.isEmpty_iff]

theorem putPair_stops {m k : Nat} {r : Res} {rest : List (List Nat × Nat)}
    (wrote : writePair w y (y.todo.take m) 0 s1 = ((k, some r, rest), s2)) :
    putPair w m y s1 = ({ y with written := y.written + k, todo := [], stop := some r }, s2) := by
  simp only [putPair, wrote]

end

/-! ### A turn of an engine (R131) -/

section
variable {s : State} {n : Nat} {x : TransformRun} (h : transformOf s n = some x) (admitted : x.admitted = true) (unstopped : x.stop = none)
include h admitted unstopped

theorem transformTurn_copies (apart : x.inPlace = false) :
    exec (.transformTurn n) s = .next (copyElems n (transformWho n x) (max 1 (1024 / tbits x.dst)) 2 x s) := by
  simp [exec, execTransformTurn, transformEffect, h, admitted, unstopped, apart]

theorem transformTurn_transposes (inPlace : x.inPlace = true) (more : x.done < pairCount x) :
    exec (.transformTurn n) s = .next (transposeTurn n x s) := by
  simp [exec, execTransformTurn, transformEffect, h, admitted, unstopped, inPlace, more]

end

/-! ### The statement -/

/-- Settles O31: a chunk and the values of a level by their equations, with what the merge of a row does to each output; a copy by
induction over the elements of the turn; a transpose by the ends of its pair's writes, whose reading ahead changes the buffer alone. -/
theorem partialsAndTransformsAdvance : Obligations.PartialsAndTransformsAdvance := by
  unfold Obligations.PartialsAndTransformsAdvance
  constructor
  · refine fun s n c h admitted => ⟨?_, ?_⟩
    · intro sender chunk gathers k p tile nc x0 at_ got expected old
      refine ⟨fun l parsed => ?_, fun broken before => ?_⟩
      · refine ⟨_, chunkTaken c sender l, congrArg Host.Outcome.next (chunkEffect_takes h admitted gathers expected parsed),
          setChain_ringOnly .., chunkTaken_counts .., chunkTaken_past, fun inside => ?_, chunkTaken_progress ..⟩
        have merged : tget [] (chunkTaken c sender l).rx tile = _ := chunkTaken_merged inside
        rw [merged]
        exact ⟨fun i y o => mergeRow_merged, fun i => mergeRow_kept⟩
      · exact ⟨_, congrArg Host.Outcome.next (chunkEffect_breaks h admitted gathers expected broken before), setChain_ringOnly ..⟩
    · rintro p _ tile l values climbs plan inGrid level rfl
      exact ⟨_, congrArg Host.Outcome.next (treeEffect_keeps values h admitted climbs plan inGrid level), setChain_ringOnly ..⟩
  · intro s s1 s2 n x h admitted unstopped w
    refine ⟨?_, ?_, ?_⟩
    · intro apart inside
      have step := transformTurn_copies h admitted unstopped apart
      constructor
      · obtain ⟨y, here, low, high, within, account⟩ := copyElems_advances n w (max 1 (1024 / tbits x.dst)) 2 x s inside
        exact ⟨_, y, step, here, low, high, within, account⟩
      · intro v y left plain answered last idx read found put
        have source : WorkKept x y := (enterRow_kept ..).trans (.ofBuf (bufOf (readSource_buf ..) read))
        have done : y.done = x.done := by rw [source]
        have written : y.written = x.written := by rw [source]
        have full : (oneWritten y).done = tcount (oneWritten y).dst := by rw [source]; exact last
        rw [copyElems_last (by omega) (by omega) unstopped answered (copyElem_plain plain read found put) full] at step
        exact ⟨_, _, step, rfl, transformOf_setTransform .., rfl, congrArg (· + 1) done, congrArg (· + 1) written⟩
    · intro inPlace more y left
      have step := transformTurn_transposes h admitted unstopped inPlace more
      constructor
      · intro begun
        rw [transposeTurn_full begun] at step
        exact ⟨_, step, rfl, transformOf_setTransform ..⟩
      · intro begun size k rest
        constructor
        · intro wrote todo z
          rw [transposeTurn_writes begun (putPair_written wrote)] at step
          refine ⟨_, _, step, transformOf_setTransform .., (aheadPair_buf ..).restored, fun spent => ?_⟩
          subst spent
          rw [aheadPair_spent]
          exact ⟨rfl, rfl⟩
        · intro r wrote
          rw [transposeTurn_writes begun (putPair_stops wrote), aheadPair_stopped rfl] at step
          exact ⟨_, step, rfl, transformOf_setTransform ..⟩
    · intro inPlace more fresh l y left read
      have cells := bufOf (readCells_buf ..) read
      exact ⟨beginPair_reads fresh read, cells.done, cells.written⟩

end Sys2Proof.Proofs.PartialsAndTransforms
end

section
/-! SUPPORT. What placing a record, issuing a write to the host and storing at a virtual address leave of the rings: every ring as
it was. A ring's own counts change where it is signalled alone. -/

namespace Sys2Proof.Proofs.RingsThroughStores

open Sys2Proof.Machine

/-! ### Threads of states -/

theorem foldl_rings {β : Type} {f : State → β → State} (h : ∀ s b, (f s b).rings = s.rings) :
    ∀ (l : List β) (s : State), (l.foldl f s).rings = s.rings
  | [], _ => rfl
  | b :: l, s => (foldl_rings h l (f s b)).trans (h s b)

/-- What an answer's state has of the rings, for the state that a match of the answer names. -/
theorem rings_ofEq {α : Type} {s s' : State} {r : α × State} {x : α} (h : r.2.rings = s.rings) (e : r = (x, s')) :
    s'.rings = s.rings := by
  subst e; exact h

theorem ring_ofRings {s t : State} (h : t.rings = s.rings) (n : Nat) : t.ring n = s.ring n := by simp only [State.ring, h]

theorem rings_ofHome {s t : State} (h : HomeOnly s t) : t.rings = s.rings := by have f := congrArg State.rings h.frame; exact f
theorem rings_ofPool {s t : State} (h : PoolOnly s t) : t.rings = s.rings := by have f := congrArg State.rings h.frame; exact f

/-! ### Records, messages and posted writes -/

@[simp] theorem storePool_rings (k : Keep) (agent pa : Nat) (b : List Byte) (ep : Bool) (s : State) :
    (storePool k agent pa b ep s).rings = s.rings := rings_ofPool (storePool_only ..)

@[simp] theorem hotNote_rings (k : Nat) (s : State) : (hotNote k s).rings = s.rings := by
  unfold hotNote
  split
  · rfl
  · dsimp only
    split
    · split <;> rfl
    · rfl

@[simp] theorem markHost_rings (o : Owner) (s : State) : (markHost o s).rings = s.rings := by unfold markHost; split <;> rfl

@[simp] theorem noteIssued_rings (o : Owner) (hi : Nat) (s : State) : (noteIssued o hi s).rings = s.rings := by
  unfold noteIssued; split <;> rfl

@[simp] theorem hotHost_rings (hio n : Nat) (s : State) : (hotHost hio n s).rings = s.rings := hotNote_rings ..

@[simp] theorem postWrite_rings (o : Owner) (hio : Nat) (b : List Byte) (ep : Bool) (s : State) :
    (postWrite o hio b ep s).rings = s.rings := by
  simp [postWrite]

@[simp] theorem sendVector_rings (v : Nat) (s : State) : (sendVector v s).rings = s.rings := by
  unfold sendVector
  dsimp only
  split
  · rfl
  · exact postWrite_rings ..

@[simp] theorem signalEvents_rings (s : State) : (signalEvents s).rings = s.rings := by
  unfold signalEvents
  split
  · exact sendVector_rings ..
  · rfl

@[simp] theorem evtWrite_rings (o : Onion) (s : State) : (evtWrite o s).rings = s.rings := by
  unfold evtWrite
  extract_lets log2 c a b stored put s1
  have kept : put.rings = s.rings := by
    have inPool : stored.rings = s.rings := storePool_rings ..
    unfold put
    split
    · exact postWrite_rings ..
    · split
      · exact (hotNote_rings ..).trans inPool
      · exact inPool
  split
  · exact (signalEvents_rings s1).trans kept
  · exact kept

@[simp] theorem evtFlush_rings : ∀ (f : Nat) (s : State), (evtFlush f s).rings = s.rings
  | 0, _ => rfl
  | f + 1, s => by
    unfold evtFlush
    split
    · rfl
    · split
      · simp [evtFlush_rings f]
      · split
        · rfl
        · simp [evtFlush_rings f]

@[simp] theorem evtPump_rings (s : State) : (evtPump s).rings = s.rings := evtFlush_rings ..

@[simp] theorem event_rings (cls reason addr param : Nat) (s : State) : (event cls reason addr param s).rings = s.rings := by
  unfold event placeOnion
  split
  · rfl
  · exact evtPump_rings _

@[simp] theorem hotPump_rings (s : State) : (hotPump s).rings = s.rings := by
  unfold hotPump
  split
  · rfl
  · exact evtPump_rings s

@[simp] theorem hotAfter_rings (pa : Nat) (s : State) : (hotAfter pa s).rings = s.rings := by
  unfold hotAfter hotCheckAt
  split
  · simp
  · rfl

@[simp] theorem poolRead_rings (k : Keep) (agent pa n : Nat) (s : State) : (poolRead k agent pa n s).2.rings = s.rings := by
  simp only [poolRead, hotAfter_rings]
  exact rings_ofPool (readPool_only ..)

@[simp] theorem poolWrite_rings (k : Keep) (agent pa : Nat) (b : List Byte) (ep : Bool) (s : State) :
    (poolWrite k agent pa b ep s).rings = s.rings := by
  simp [poolWrite]

/-! ### Translation -/

@[simp] theorem l1Fill_rings (agent : Nat) (e : TlbEntry) (s : State) : (l1Fill agent e s).rings = s.rings := by
  unfold l1Fill; split <;> rfl

@[simp] theorem l2Fill_rings (e : TlbEntry) (s : State) : (l2Fill e s).rings = s.rings := rfl

@[simp] theorem tlbUse_rings (agent va : Nat) (e : TlbEntry) (s : State) : (tlbUse agent va e s).rings = s.rings := by
  unfold tlbUse; split <;> exact l1Fill_rings ..

@[simp] theorem pteRead_rings (pa : Nat) (s : State) : (pteRead pa s).2.rings = s.rings := poolRead_rings ..

theorem walkFrom_rings (acc : Access) (va : Nat) : ∀ (ls : List Nat) (ppn : Nat) (s : State), (walkFrom acc va ls ppn s).2.rings = s.rings
  | [], _, _ => rfl
  | level :: rest, ppn, s => by
    have read := pteRead_rings (ppn * 4096 + bits va (12 + 9 * level) 9 * 8) s
    simp only [walkFrom]
    generalize pteRead (ppn * 4096 + bits va (12 + 9 * level) 9 * 8) s = r at read ⊢
    repeat' split
    all_goals simp only [walkFrom_rings acc va rest, State.onXlt_rings, read]

@[simp] theorem walkFill_rings (agent : Nat) (acc : Access) (va : Nat) (s : State) : (walkFill agent acc va s).2.rings = s.rings := by
  have walked : (walk acc va s).2.rings = s.rings := by
    unfold walk
    split
    · rfl
    · exact walkFrom_rings ..
  unfold walkFill
  generalize walk acc va s = r at walked ⊢
  obtain ⟨⟨r, e⟩, s1⟩ := r
  dsimp only
  split
  · split <;> simpa using walked
  · exact walked

theorem translate_rings (agent : Nat) (acc : Access) (va : Nat) (s : State) : (Machine.translate agent acc va s).2.rings = s.rings := by
  unfold Machine.translate
  split
  · rfl
  · split
    · rfl
    · split
      · split
        · exact walkFill_rings ..
        · dsimp only
          split <;> simp
      · exact walkFill_rings ..

theorem place_rings (agent : Nat) (acc : Access) (va : Nat) (s : State) : (place agent acc va s).2.rings = s.rings := by
  have translated := translate_rings agent acc va s
  unfold place
  generalize Machine.translate agent acc va s = r at translated ⊢
  obtain ⟨r, s1⟩ := r
  cases r with
  | ok pa pbmt n =>
    dsimp only
    split
    · split <;> exact translated
    · exact translated
    · exact translated
  | fault c =>
    dsimp only
    split
    · exact (event_rings ..).trans translated
    · exact translated
  | poison => exact translated
  | held => exact translated

/-! ### Packets -/

theorem dodgemAct_rings (k : Nat) (s : State) : (dodgemAct k s).2.rings = s.rings := by
  unfold dodgemAct
  dsimp only
  split
  · rfl
  · split <;> rfl

theorem leave_rings (m : Sent) (s : State) : (leave m s).rings = s.rings := rfl

theorem leaveAll_rings (ms : List Sent) (s : State) : (leaveAll ms s).rings = s.rings := foldl_rings (fun s m => leave_rings m s) ms s

theorem releaseHeld_rings (p : Nat) (s : State) : (releaseHeld p s).rings = s.rings :=
  foldl_rings (fun s (h : Nat × List Sent) => leaveAll_rings h.2 s) _ _

theorem leaveRelease_rings (ms : List Sent) (s : State) :
    (ms.foldl (fun s m => releaseHeld m.port s) (leaveAll ms s)).rings = s.rings := by
  have released := foldl_rings (f := fun s (m : Sent) => releaseHeld m.port s) (fun s m => releaseHeld_rings m.port s) ms (leaveAll ms s)
  exact released.trans (leaveAll_rings ms s)

theorem frameMode_rings (p : Nat) (s : State) : (frameMode p s).rings = s.rings := by
  unfold frameMode
  split
  · dsimp only
    split
    · exact dodgemAct_rings 0 s
    · exact dodgemAct_rings 0 s
  · rfl

theorem transmit_rings (m : Sent) (req : Bool) (dst : Nat) (s : State) : (transmit m req dst s).rings = s.rings := by
  unfold transmit
  cases dodgemSees s m.port req dst with
  | false =>
    simp only [Bool.false_eq_true, if_false, releaseHeld_rings, leave_rings, frameMode_rings]
  | true =>
    simp only [if_true]
    rcases fired : dodgemAct 1 s with ⟨drop, s1⟩
    have dropped := rings_ofEq (dodgemAct_rings 1 s) fired
    cases drop with
    | true => exact dropped
    | false =>
      simp only [Bool.false_eq_true, if_false]
      have acted : (dodgemAct 4 (dodgemAct 2 (dodgemAct 3 (frameMode m.port s1)).2).2).2.rings = s.rings := by
        simp only [dodgemAct_rings, frameMode_rings, dropped]
      generalize dodgemAct 3 (frameMode m.port s1) = dup at acted ⊢
      generalize dodgemAct 2 dup.2 = bad at acted ⊢
      generalize dodgemAct 4 bad.2 = hold at acted ⊢
      split
      · exact acted
      · exact (leaveRelease_rings ..).trans acted

theorem sendPacket_rings {t : TxPkt} {s s1 : State} (sent : sendPacket t s = some s1) : s1.rings = s.rings := by
  unfold sendPacket at sent
  split at sent
  · cases sent; exact transmit_rings ..
  · cases sent

theorem originate_rings (t : TxPkt) (s : State) : (originate t s).2.rings = s.rings := by
  unfold originate
  split
  · rfl
  · split
    · rfl
    · dsimp only
      split
      · exact event_rings ..
      · next sent =>
        have kept := sendPacket_rings sent
        exact kept

/-! ### Stores -/

theorem poolStore_rings (agent pa : Nat) (b : List (Byte × Bool)) (s : State) : (poolStore agent pa b s).rings = s.rings := by
  unfold poolStore
  split
  · exact poolWrite_rings ..
  · exact foldl_rings (fun s (p : Nat × List Byte × Bool) => poolWrite_rings .once agent p.1 p.2.1 p.2.2 s) _ s

theorem performHere_put_rings (src off n : Nat) (data : List (Byte × Bool)) (s : State) :
    (performHere src .put off n data s).2.rings = s.rings := by
  unfold performHere
  split
  · rfl
  · extract_lets pa
    split
    · rfl
    · exact poolStore_rings ..

theorem windowFault_rings (src off reason : Nat) (s : State) : (windowFault src off reason s).rings = s.rings := by
  unfold windowFault
  dsimp only
  split
  · exact event_rings ..
  · rfl

theorem blockedWait_rings (o : Owner) (s : State) : (blockedWait o s).rings = s.rings := by
  unfold blockedWait
  split
  · dsimp only
    split <;> rfl
  · rfl

theorem vaWriteOp_rings (k : Keep) (agent : Nat) (o : Owner) (op va : Nat) (bytes : List Byte) (ep : Bool) (s : State) :
    (vaWriteOp k agent o op va bytes ep s).2.rings = s.rings := by
  have placed := place_rings agent .write va s
  unfold vaWriteOp
  generalize place agent .write va s = r at placed ⊢
  obtain ⟨p, s1⟩ := r
  cases p with
  | pool pa u => exact (poolWrite_rings ..).trans placed
  | host hio =>
    dsimp only
    split
    · simpa using placed
    · split
      · exact placed
      · split
        · exact placed
        · exact (blockedWait_rings ..).trans placed
  | fabric node off =>
    dsimp only
    generalize TxPkt.mk .. = t
    have sent := (originate_rings t s1).trans placed
    generalize originate t s1 = r at sent ⊢
    obtain ⟨r, s2⟩ := r
    cases r with
    | loopback =>
      have here := (performHere_put_rings node off bytes.length (allWith ep bytes) s2).trans sent
      dsimp only
      generalize performHere node .put off bytes.length (allWith ep bytes) s2 = q at here ⊢
      obtain ⟨q, s3⟩ := q
      cases q with
      | ok b => exact here
      | error c => exact (windowFault_rings ..).trans here
    | _ => exact sent
  | fault st c => exact placed
  | held => exact placed

theorem vaWrites_rings (k : Keep) (agent : Nat) (o : Owner) (op : Nat) :
    ∀ (ps : List (Nat × List Byte × Bool)) (s : State), (vaWrites k agent o op ps s).2.rings = s.rings
  | [], _ => rfl
  | (va, bytes, ep) :: ps, s => by
    have one := vaWriteOp_rings k agent o op va bytes ep s
    simp only [vaWrites]
    split
    · next e => exact (vaWrites_rings k agent o op ps _).trans (rings_ofEq one e)
    · next e => exact rings_ofEq one e

/-- A store at a virtual address leaves every ring as it was. -/
theorem vaStore_rings (k : Keep) (agent : Nat) (o : Owner) (va : Nat) (b : List (Byte × Bool)) (s : State) :
    (vaStore k agent o va b s).2.rings = s.rings := vaWrites_rings ..

theorem noteWaits_rings (s : State) : (noteWaits s).rings = s.rings := by
  unfold noteWaits
  split
  · rfl
  · dsimp only
    split
    · rfl
    · exact foldl_rings (fun s n => event_rings 0x22 0 0 n s) _ _

/-- A state before an attempt that waits keeps its rings with what the attempt asked for. -/
theorem keepAsked_rings (s s1 : State) : (keepAsked s s1).rings = s.rings :=
  (noteWaits_rings _).trans <| (hotPump_rings _).trans <| foldl_rings (fun s (r : HostRead) => hotHost_rings r.hio r.len s) _ _

end Sys2Proof.Proofs.RingsThroughStores
end

section
/-! SUPPORT. How the record of a refused descriptor stops its ring (R117, R320), and the commands that load an operation or take up one
that waits: refused at a misaligned address, and otherwise the operation's admission. -/

namespace Sys2Proof.Proofs.LoadedOperations

open Sys2Proof.Machine Sys2Proof.Claims Sys2Proof.Proofs.RingsThroughStores

/-! ### The record that stops a ring (R320) -/

/-- A message takes of its ring the count of unsignalled records alone. -/
theorem signalRing_ring (n : Nat) (s : State) : ∃ k, (signalRing n s).ring n = { s.ring n with unsignalled := k } := by
  unfold signalRing
  dsimp only
  split
  · exact ⟨0, (ring_ofRings (sendVector_rings ..) n).trans (State.ring_onRing_same ..)⟩
  · exact ⟨_, rfl⟩

/-- Ring q is p with the record w in its state entry, its counts as they were. -/
structure Recorded (w : Rec) (p q : Ring) : Prop where
  last : q.last = w
  completed : q.completed = p.completed
  head : q.head = p.head

theorem Recorded.signalled {w : Rec} {p q : Ring} (h : Recorded w p q) (k : Nat) : Recorded w p { q with unsignalled := k } :=
  ⟨h.last, h.completed, h.head⟩

theorem keepRecord_recorded (n : Nat) (r : Res) (w : Rec) (held : Bool) (s : State) :
    Recorded w (s.ring n) ((keepRecord n r w held s).ring n) := by
  simp only [keepRecord, State.ring_onRing_same]
  exact ⟨rfl, rfl, rfl⟩

theorem writeRecord_recorded (n count : Nat) (r : Res) (tag : Nat) (irq : Bool) (s : State) :
    Recorded (recWords n r tag (ringIndex (s.ring n) count) (phaseOf count (ringLog2 (s.ring n).sq)) s.hTicks.toNat)
      (s.ring n) ((writeRecord n count r tag irq s).ring n) := by
  unfold writeRecord
  extract_lets q w a put kept q1
  split
  · exact keepRecord_recorded n r w true s
  · have rings : put.rings = s.rings := by
      unfold put
      split
      · exact (hotPump_rings _).trans (postWrite_rings ..)
      · exact poolWrite_rings ..
    have entered : Recorded w (s.ring n) (kept.ring n) := by
      have recorded := keepRecord_recorded n r w false put
      rw [ring_ofRings rings n] at recorded
      simp only [kept, State.ring_onRing_same]
      exact recorded.signalled _
    clear_value kept
    split
    · obtain ⟨k, signalled⟩ := signalRing_ring n kept
      rw [signalled]
      exact entered.signalled k
    · exact entered

theorem keepRecord_only (n : Nat) (r : Res) (w : Rec) (held : Bool) (s : State) : EventOnly s (keepRecord n r w held s) :=
  ⟨rfl, id⟩

theorem writeRecord_only (n count : Nat) (r : Res) (tag : Nat) (irq : Bool) (s : State) :
    EventOnly s (writeRecord n count r tag irq s) := by
  unfold writeRecord
  extract_lets q w a put kept q1
  split
  · exact keepRecord_only ..
  · have entered : EventOnly s kept := by
      refine EventOnly.trans ?_ ((keepRecord_only ..).trans (EventOnly.onRing ..))
      exact EventOnly.ite ((postWrite_only ..).trans (hotPump_only _)) (poolWrite_only ..)
    exact EventOnly.ite (entered.trans (signalRing_only ..)) entered

theorem writeRecord_scrubOwed (n count : Nat) (r : Res) (tag : Nat) (irq : Bool) (s : State) :
    (writeRecord n count r tag irq s).link.scrubOwed = s.link.scrubOwed := by
  have kept := congrArg (fun t : State => t.link.scrubOwed) (writeRecord_only n count r tag irq s).frame
  exact kept

theorem clearHost_scrubOwed (n : Nat) (s : State) : (clearHost n s).link.scrubOwed = s.link.scrubOwed := rfl

theorem scrubCheck_unowed {s : State} (unscrubbed : s.link.scrubOwed = false) : scrubCheck s = s := by
  simp [scrubCheck, unscrubbed]

theorem startFetch_stopped {s : State} {n : Nat} (stopped : (s.ring n).state = .stopped) : startFetch n s = s := by
  simp [startFetch, canFetch, stopped]

/-- A status above DEFERRED stops the ring with its record, COMPLETED as it was. -/
theorem finishRing_stops {s : State} {n : Nat} {r : Res} (unscrubbed : s.link.scrubOwed = false) (fails : 1 < r.status) :
    WritesRecord s (finishRing n r s) n r := by
  unfold finishRing
  extract_lets q d written final s1
  have unfinal : ¬ r.status ≤ 1 := by omega
  have ring : s1.ring n = { written.ring n with op := none, desc := none, flr := false, state := .stopped, sdesc := true } := by
    simp [s1, final, unfinal]
  have unowed : s1.link.scrubOwed = false := by
    simp only [s1, State.onRing_link, written, clearHost_scrubOwed, writeRecord_scrubOwed, unscrubbed]
  obtain ⟨last, completed, head⟩ := writeRecord_recorded n q.completed.toNat r (descTag d) (descIrq d) s
  rw [scrubCheck_unowed unowed, startFetch_stopped (congrArg Ring.state ring)]
  unfold WritesRecord
  extract_lets
  rw [ring, if_neg unfinal, if_neg unfinal]
  exact ⟨completed, head, fun _ => ⟨rfl, rfl, rfl, last⟩⟩

/-- Where the record of a ring goes as its operation ends, completing it writes it. -/
theorem complete_goes {s : State} {n : Nat} (goes : RecordGoes s n) (r : Res) : complete n r s = finishRing n r s := by
  obtain ⟨sends, limit, -⟩ := goes
  rcases limit with here | flr | before <;> simp [complete, *]

/-- A descriptor of a kind other than 5 that is refused at load writes a record of its status alone (R117). -/
theorem refuse_writesRecord {s : State} {n status : Nat} (goes : RecordGoes s n) (kind : (s.ring n).kind ≠ 5) (fails : 1 < status) :
    WritesRecord s (refuse n status s) n { status := status } := by
  have res : plainRes n status s = { status := status } := by simp [plainRes, kind]
  rw [refuse, res, complete_goes goes]
  exact finishRing_stops goes.unscrubbed fails

/-! ### Descriptors under a command -/

theorem kind_of_descOf {s : State} {n kind : Nat} {d : List Byte} (h : descOf s n kind = some d) : (s.ring n).kind = kind := by
  unfold descOf at h
  dsimp only at h
  split at h
  · next met =>
    simp only [Bool.and_eq_true, beq_iff_eq] at met
    exact met.1.2
  · cases h

theorem onDesc_accepted {s : State} {n kind : Nat} {d : List Byte} (h : Accepted s n kind d) (run : List Byte → State → State) :
    onDesc n kind run s = run d s := by
  simp [onDesc, h.desc, h.admitted]

theorem loadCheck_fails {n status : Nat} {s : State} : loadCheck n status true s = .error (.done (refuse n status s)) := rfl

theorem loadChain_misaligned {n va : Nat} {s : State} (h : va % 64 ≠ 0) : loadChain n va s = .error (.done (refuse n 0x13 s)) := by
  simp only [loadChain, bne_iff_ne.2 h, loadCheck_fails]
  rfl

theorem loadTransform_misaligned {n va : Nat} {s : State} (h : va % 64 ≠ 0) :
    loadTransform n va s = .error (.done (refuse n 0x13 s)) := by
  simp only [loadTransform, bne_iff_ne.2 h, loadCheck_fails]
  rfl

theorem loadProgram_misaligned {n va : Nat} {s : State} (h : va % 64 ≠ 0) :
    loadProgram n va s = .error (.done (refuse n 0x13 s)) := by
  simp only [loadProgram, bne_iff_ne.2 h, loadCheck_fails]
  rfl

/-- A command that loads an operation of a kind at its descriptor's address and goes on to its admission. -/
structure LoadsBy {α : Type} (i : Instr) (n kind : Nat) (load : Nat → Nat → State → Load (α × State))
    (admission : Nat → α → State → State) : Prop where
  run : ∀ s, exec i s = .next (onDesc n kind (fun d s => runLoad s (load n (descAddrOf d) s) fun x s => admission n x s) s)
  misaligned : ∀ va s, va % 64 ≠ 0 → load n va s = .error (.done (refuse n 0x13 s))

theorem chain_loadsBy (n : Nat) : LoadsBy (.chain n) n 0x01 loadChain admitChain := ⟨fun _ => rfl, fun _ _ => loadChain_misaligned⟩
theorem transform_loadsBy (n : Nat) : LoadsBy (.transform n) n 0x02 loadTransform admitTransform :=
  ⟨fun _ => rfl, fun _ _ => loadTransform_misaligned⟩
theorem program_loadsBy (n : Nat) : LoadsBy (.program n) n 0x03 loadProgram admitProgram :=
  ⟨fun _ => rfl, fun _ _ => loadProgram_misaligned⟩

section
variable {α : Type} {i : Instr} {s s1 : State} {n kind : Nat} {d : List Byte} {load : Nat → Nat → State → Load (α × State)}
  {admission : Nat → α → State → State} (loads : LoadsBy i n kind load admission) (h : Accepted s n kind d)
include loads h

theorem LoadsBy.refuses (other : kind ≠ 5) (misaligned : descAddrOf d % 64 ≠ 0) : Finishes i s n { status := 0x13 } := by
  refine ⟨refuse n 0x13 s, ?_, refuse_writesRecord h.goes (kind_of_descOf h.desc ▸ other) (by decide)⟩
  rw [loads.run, onDesc_accepted h, loads.misaligned _ _ misaligned]
  rfl

theorem LoadsBy.admits {x : α} (loaded : load n (descAddrOf d) s = .ok (x, s1)) : exec i s = .next (admission n x s1) := by
  rw [loads.run, onDesc_accepted h, loaded]
  rfl

end

/-! ### Late admission (R117, R132, R164) -/

section
variable {s : State} {n : Nat} (waits : (s.ring n).state = .waiting) (unpaused : admits s = true)
include waits unpaused

theorem operationAdmit_chain {c : ChainRun} (op : (s.ring n).op = some (.chain c)) (unadmitted : c.admitted = false) :
    exec (.operationAdmit n) s = .next (admitChain n c s) := by
  simp [exec, execOperationAdmit, waits, unpaused, op, unadmitted]

theorem operationAdmit_transform {x : TransformRun} (op : (s.ring n).op = some (.transform x)) (unadmitted : x.admitted = false) :
    exec (.operationAdmit n) s = .next (admitTransform n x s) := by
  simp [exec, execOperationAdmit, waits, unpaused, op, unadmitted]

theorem operationAdmit_program {p : ProgramRun} (op : (s.ring n).op = some (.program p)) (unadmitted : p.admitted = false) :
    exec (.operationAdmit n) s = .next (admitProgram n p s) := by
  simp [exec, execOperationAdmit, waits, unpaused, op, unadmitted]

end

end Sys2Proof.Proofs.LoadedOperations
end

section
/-! SUPPORT. What the admission of a chain, a transform and a program does where their resources are free and where they are not
(R117, R132, R164), and the statement on them. -/

namespace Sys2Proof.Proofs.Admission

open Sys2Proof.Machine Sys2Proof.Claims Sys2Proof.Proofs.ChainAccess Sys2Proof.Proofs.RingsThroughStores Sys2Proof.Proofs.LoadedOperations

/-! ### Resources -/

theorem firstBelow_none {n : Nat} {p : Nat → Bool} (h : ∀ k, ¬ (k < n ∧ p k = true)) : firstBelow n p = none := by
  simpa [firstBelow] using h

theorem firstBelow_some {n k : Nat} {p : Nat → Bool} (inside : k < n) (met : p k = true) (lowest : ∀ m, m < k → p m = false) :
    firstBelow n p = some k := by
  simpa [firstBelow, List.find?_range_eq_some, inside, met] using lowest

/-- A fold establishes a property for each of its elements where its step makes it for its own and keeps it for the others. -/
theorem foldl_establishes {β : Type} {f : State → β → State} {P : β → State → Prop} (makes : ∀ s b, P b (f s b))
    (keeps : ∀ s b x, P x s → P x (f s b)) (l : List β) (s : State) (x : β) (mem : x ∈ l) : P x (l.foldl f s) := by
  induction l generalizing s with
  | nil => cases mem
  | cons b l ih =>
    rcases List.mem_cons.1 mem with rfl | later
    · exact List.foldlRecOn l f (makes s x) fun s kept b _ => keeps s b x kept
    · exact ih _ later

/-- Engine e holds a grant of ring n: a chain's, or a program's. -/
def Granted (n : Nat) (isChain : Bool) (e : Nat) (s : State) : Prop := ∃ g ∈ (s.engine e).grants, g.ring = n ∧ g.isChain = isChain

theorem privEvict_only (p : PrivLine) (s : State) : HomeOnly s (privEvict p s) := by
  unfold privEvict
  extract_lets s1
  have settled : HomeOnly s s1 := HomeOnly.ite (settleAll_only ..) .rfl
  split
  · exact settled.trans ((privLeave_only ..).trans ((wbufDrop_only ..).trans (HomeOnly.onCoh ..)))
  · exact settled

/-- What the grant on an engine changes beside the engine is the home alone. -/
theorem giveGrant_only (e : Nat) (g : Grant) (s : State) :
    HomeOnly (s.onEngine e fun x => { x with grants := x.grants ++ [g] }) (giveGrant e g s) :=
  HomeOnly.foldl (fun s p => privEvict_only p s) _ _

theorem giveGrant_rings (e : Nat) (g : Grant) (s : State) : (giveGrant e g s).rings = s.rings := by
  have kept := rings_ofHome (giveGrant_only e g s)
  exact kept

theorem engine_ofHome {s t : State} (h : HomeOnly s t) (e : Nat) : t.engine e = s.engine e := by
  have f := congrArg (State.engine · e) h.frame; exact f

theorem array_ofHome {s t : State} (h : HomeOnly s t) (a : Nat) : t.array a = s.array a := by
  have f := congrArg (State.array · a) h.frame; exact f

theorem giveGrant_array (e a : Nat) (g : Grant) (s : State) : (giveGrant e g s).array a = s.array a := array_ofHome (giveGrant_only e g s) a

theorem giveGrant_grants (e : Nat) (g : Grant) (s : State) : ((giveGrant e g s).engine e).grants = (s.engine e).grants ++ [g] := by
  rw [engine_ofHome (giveGrant_only e g s), State.engine_onEngine_same]

theorem giveGrant_otherEngine {e k : Nat} (g : Grant) (s : State) (other : k ≠ e) : (giveGrant e g s).engine k = s.engine k := by
  rw [engine_ofHome (giveGrant_only e g s), State.engine_onEngine_other _ _ other]

theorem giveGrant_granted (e : Nat) (g : Grant) (s : State) : Granted g.ring g.isChain e (giveGrant e g s) :=
  ⟨g, by simp [giveGrant_grants], rfl, rfl⟩

theorem giveGrant_keeps {n k : Nat} {isChain : Bool} (e : Nat) (g : Grant) {s : State} (h : Granted n isChain k s) :
    Granted n isChain k (giveGrant e g s) := by
  obtain ⟨held, mem, own⟩ := h
  refine ⟨held, ?_, own⟩
  by_cases same : k = e
  · subst same
    rw [giveGrant_grants]
    exact List.mem_append_left _ mem
  · rwa [giveGrant_otherEngine g s same]

/-! ### An operation that waits, and one that begins -/

theorem onRing_ringOnly (n : Nat) (f : Ring → Ring) (s : State) : RingOnly s (s.onRing n f) n (f (s.ring n)) :=
  ⟨rfl, fun _ other => State.ring_onRing_other _ _ other, State.ring_onRing_same ..⟩

theorem ringOnly_trans {s t u : State} {n : Nat} {p q : Ring} (h : RingOnly s t n p) (k : RingOnly t u n q) : RingOnly s u n q := by
  obtain ⟨frame, others, -⟩ := h
  obtain ⟨frame', others', ring⟩ := k
  have rest : { u with rings := s.rings } = { t with rings := s.rings } := congrArg (fun x : State => { x with rings := s.rings }) frame'
  exact ⟨rest.trans frame, fun m other => (others' m other).trans (others m other), ring⟩

/-- Ring n holds a loaded operation and waits. -/
def awaiting (s : State) (n : Nat) (o : Op) : State :=
  (s.onRing n fun q => { q with op := some o }).onRing n fun q => { q with state := .waiting }

theorem awaiting_ringOnly (n : Nat) (o : Op) (s : State) :
    RingOnly s (awaiting s n o) n { s.ring n with op := some o, state := .waiting } := by
  have loaded := onRing_ringOnly n (fun q => { q with op := some o }) s
  have waits := onRing_ringOnly n (fun q => { q with state := .waiting }) (s.onRing n fun q => { q with op := some o })
  rw [State.ring_onRing_same] at waits
  exact ringOnly_trans loaded waits

/-- Ring n's operation begins now. -/
def begun (s : State) (n : Nat) (o : Op) : State :=
  (s.onRing n fun q => { q with op := some o }).onRing n fun q => { q with state := .running, startTicks := s.hTicks }

/-- A ring whose operation begins now. -/
def begunRing (s : State) (n : Nat) (o : Op) : Ring := { s.ring n with op := some o, state := .running, startTicks := s.hTicks }

theorem begun_ring (n : Nat) (o : Op) (s : State) : (begun s n o).ring n = begunRing s n o := by
  simp only [begun, begunRing, State.ring_onRing_same]

theorem begun_otherRings (n : Nat) (o : Op) (s : State) : OtherRings n s (begun s n o) :=
  fun k other => by simp only [begun, State.ring_onRing_other _ _ other]

theorem waitsAdmission_ofAwaiting {i : Instr} {s s1 : State} {n : Nat} {o : Op} (step : exec i s = .next (awaiting s1 n o)) :
    WaitsAdmission i s s1 n o := ⟨_, step, awaiting_ringOnly ..⟩

/-! ### Transforms (R132, R364) -/

section
variable {s : State} {n k : Nat} {x : TransformRun}

/-- Ring n holds transform engine d. -/
def txTaken (n d : Nat) (s : State) : State := { s with transforms := tput none s.transforms d (some n) }

theorem txTaken_ring (n d m : Nat) (s : State) : (txTaken n d s).ring m = s.ring m := rfl

theorem txTaken_otherRings {d : Nat} {s t : State} (h : OtherRings n s t) : OtherRings n s (txTaken n d t) := h

theorem txTaken_pool (n d : Nat) (s : State) : (txTaken n d s).pool = s.pool := rfl

theorem txTaken_holds (n d : Nat) (s : State) : tget none (txTaken n d s).transforms d = some n := by
  simp only [txTaken, tget_tput_same]

/-- Transform engine k of the die of x is in service and free. -/
def TxFree (s : State) (x : TransformRun) (k : Nat) : Prop :=
  dieOn s (x.die + 1) = true ∧ k < 8 ∧ txWorks s (x.die * 8 + k) = true ∧ tget none s.transforms (x.die * 8 + k) = none

theorem admitTransform_waits (taken : ∀ k, ¬ TxFree s x k) : admitTransform n x s = awaiting s n (.transform x) := by
  have nowhere : (if dieOn s (x.die + 1) then firstBelow 8 fun k =>
      txWorks s (x.die * 8 + k) && (tget none s.transforms (x.die * 8 + k)).isNone else none) = none := by
    split
    · next on => exact firstBelow_none fun k ⟨inside, met⟩ => taken k (by simpa [TxFree, on, inside] using met)
    · rfl
  rw [admitTransform, nowhere]
  rfl

theorem admitTransform_takes (free : TxFree s x k) (lowest : ∀ m, m < k → ¬ TxFree s x m) :
    admitTransform n x s = txTaken n (x.die * 8 + k) (begun s n (.transform { x with admitted := true, engine := k })) := by
  obtain ⟨on, inside, works, unused⟩ := free
  have first : firstBelow 8 (fun k => txWorks s (x.die * 8 + k) && (tget none s.transforms (x.die * 8 + k)).isNone) = some k := by
    refine firstBelow_some inside (by simp [works, unused]) fun m below => ?_
    have busy := lowest m below
    simpa [TxFree, on, show m < 8 by omega, ← Option.isNone_iff_eq_none] using busy
  rw [admitTransform, if_pos on, first]
  rfl

theorem admitTransform_admission {i : Instr} {s0 : State} (step : exec i s0 = .next (admitTransform n x s)) :
    TransformAdmission i s0 s n x := by
  refine ⟨fun taken => ?_, fun k free lowest => ?_⟩
  · exact waitsAdmission_ofAwaiting (step.trans (congrArg _ (admitTransform_waits taken)))
  · have ring := (txTaken_ring n (x.die * 8 + k) n _).trans (begun_ring n (.transform { x with admitted := true, engine := k }) s)
    rw [admitTransform_takes free lowest] at step
    refine ⟨_, step, ?_, ?_, ?_, ?_, ?_, txTaken_otherRings (begun_otherRings n _ s)⟩
    · exact congrArg Ring.op ring
    · exact congrArg Ring.state ring
    · exact congrArg Ring.startTicks ring
    · exact txTaken_holds ..
    · exact txTaken_pool ..

end

/-! ### Programs (R164) -/

section
variable {s : State} {n : Nat} {p : ProgramRun}

/-- The engines that a program is admitted on, where they are as many as it needs. -/
def programEngines (s : State) (n : Nat) (p : ProgramRun) : List Nat := (freeEngines n p s).take p.engines

theorem admitProgram_waits (few : (programEngines s n p).length < p.engines) : admitProgram n p s = awaiting s n (.program p) := if_pos few

theorem admitProgram_takes (enough : (programEngines s n p).length = p.engines) :
    admitProgram n p s = (programEngines s n p).foldl (fun s e => giveGrant e (programGrant n p) s)
      (begun s n (.program { p with admitted := true, used := programEngines s n p })) := if_neg (by unfold programEngines at enough; omega)

theorem admitProgram_admission {i : Instr} {s0 : State} (step : exec i s0 = .next (admitProgram n p s)) :
    ProgramAdmission i s0 s n p := by
  refine ⟨fun few => waitsAdmission_ofAwaiting (step.trans (congrArg _ (admitProgram_waits few))), fun enough => ?_⟩
  have rings := foldl_rings (fun s e => giveGrant_rings e (programGrant n p) s) (programEngines s n p)
    (begun s n (.program { p with admitted := true, used := programEngines s n p }))
  have ring := (ring_ofRings rings n).trans (begun_ring ..)
  refine ⟨_, step.trans (congrArg _ (admitProgram_takes enough)), congrArg Ring.op ring, congrArg Ring.state ring,
    congrArg Ring.startTicks ring, fun k other => (ring_ofRings rings k).trans (begun_otherRings _ _ _ k other), ?_⟩
  exact foldl_establishes (P := Granted n false) (fun s e => giveGrant_granted e (programGrant n p) s)
    (fun s e k => giveGrant_keeps e (programGrant n p)) _ _

end

/-! ### The chain of a ring that takes its arrays (R109) -/

/-- Ring n is q with the chain c, but for the chain's stop and the credits of it that wait. -/
def ChainOn (n : Nat) (q : Ring) (c : ChainRun) (s : State) : Prop :=
  ∃ stop credits, s.ring n = { q with op := some (.chain { c with stop := stop, credits := credits }) }

namespace ChainOn

variable {n : Nat} {q : Ring} {c : ChainRun} {s t : State}

theorem ofRings (h : ChainOn n q c s) (kept : t.rings = s.rings) : ChainOn n q c t := by
  unfold ChainOn
  rwa [ring_ofRings kept]

theorem chainOf (h : ChainOn n q c s) : ∃ stop credits, Machine.chainOf s n = some { c with stop := stop, credits := credits } := by
  obtain ⟨stop, credits, ring⟩ := h
  exact ⟨stop, credits, by simp [Machine.chainOf, ring]⟩

theorem setChain (h : ChainOn n q c s) (stop : Option Res) (credits : List (Nat × Nat × Nat)) :
    ChainOn n q c (setChain n { c with stop := stop, credits := credits } s) := by
  obtain ⟨_, _, ring⟩ := h
  exact ⟨stop, credits, by simp only [Machine.setChain, State.ring_onRing_same, ring]⟩

theorem stopChain (h : ChainOn n q c s) (r : Res) (tile : Nat) : ChainOn n q c (stopChain n r tile s) := by
  obtain ⟨stop, credits, here⟩ := h.chainOf
  simp only [Machine.stopChain, here]
  split
  · exact h.setChain ..
  · split
    · exact h.setChain ..
    · exact h

theorem writeCredits (c0 : ChainRun) :
    ∀ (l : List (Nat × Nat × Nat)) {s : State}, ChainOn n q c s → ChainOn n q c (writeCredits n c0 l s)
  | [], s, h => by
    obtain ⟨stop, credits, here⟩ := h.chainOf
    simp only [Machine.writeCredits, here]
    exact h.setChain ..
  | (j, buf, v) :: rest, s, h => by
    unfold Machine.writeCredits
    dsimp only
    split
    · next e => exact writeCredits c0 rest ((h.ofRings (rings_ofEq (vaStore_rings ..) e)).stopChain ..)
    · next s1 _ =>
      obtain ⟨stop, credits, here⟩ := h.chainOf
      rw [here]
      exact (h.ofRings (keepAsked_rings s s1)).setChain ..
    · next e => exact writeCredits c0 rest (h.ofRings (rings_ofEq (vaStore_rings ..) e))

theorem flushCredits (h : ChainOn n q c s) : ChainOn n q c (flushCredits n s) := by
  unfold Machine.flushCredits
  split
  · split
    · exact h
    · exact h.writeCredits ..
  · exact h

theorem publish (h : ChainOn n q c s) (c0 : ChainRun) (j buf pass : Nat) : ChainOn n q c (publish n c0 j buf pass s) := by
  obtain ⟨stop, credits, here⟩ := h.chainOf
  unfold Machine.publish
  split
  · exact h
  · rw [here]
    exact (h.setChain ..).flushCredits

theorem takeArray (h : ChainOn n q c s) (c0 : ChainRun) (j a : Nat) : ChainOn n q c (takeArray n c0 j a s) := by
  unfold Machine.takeArray
  extract_lets g pos has s1 o0 o1 s2 s3
  have first : ChainOn n q c s3 := (h.ofRings (t := s2) (giveGrant_rings a (chainGrant n c0) s)).publish ..
  split
  · exact first.publish ..
  · exact first

end ChainOn

/-! ### The arrays that a chain takes (R117) -/

/-- Array a runs ring n's chain, on a grant of its engine. -/
def Taken (n a : Nat) (s : State) : Prop := (s.array a).ring = some n ∧ Granted n true a s

section
variable (n : Nat) (c : ChainRun) (j a : Nat) (s : State)

/-- Of the units, an array that is taken changes alone with its engine's grant. -/
theorem takeArray_kept : ∃ f : Machine.Array → Machine.Array, (∀ x, (f x).ring = some n) ∧
    UnitsKept ((giveGrant a (chainGrant n c) s).onArray a f) (takeArray n c j a s) := by
  unfold takeArray
  extract_lets g pos has s1 o0 o1 s2 s3
  refine ⟨_, fun _ => rfl, UnitsKept.trans (t := s3) (publish_kept ..) ?_⟩
  split
  · exact publish_kept ..
  · exact .same

theorem takeArray_engine (k : Nat) : (takeArray n c j a s).engine k = (giveGrant a (chainGrant n c) s).engine k := by
  obtain ⟨f, -, kept⟩ := takeArray_kept n c j a s
  simp only [State.engine, kept.engines, State.onArray_engines]

theorem takeArray_taken : Taken n a (takeArray n c j a s) := by
  obtain ⟨f, ring, kept⟩ := takeArray_kept n c j a s
  have array : (takeArray n c j a s).array a = ((giveGrant a (chainGrant n c) s).onArray a f).array a := by
    simp only [State.array, kept.arrays]
  refine ⟨?_, ?_⟩
  · rw [array, State.array_onArray_same]
    exact ring _
  · rw [Granted, takeArray_engine]
    exact giveGrant_granted a (chainGrant n c) s

theorem takeArray_keeps {b : Nat} (h : Taken n b s) : Taken n b (takeArray n c j a s) := by
  by_cases same : b = a
  · exact same ▸ takeArray_taken n c j a s
  · obtain ⟨f, -, kept⟩ := takeArray_kept n c j a s
    obtain ⟨ring, granted⟩ := h
    have array : (takeArray n c j a s).array b = s.array b := by
      calc (takeArray n c j a s).array b
        _ = ((giveGrant a (chainGrant n c) s).onArray a f).array b := by simp only [State.array, kept.arrays]
        _ = (giveGrant a (chainGrant n c) s).array b := State.array_onArray_other _ f same
        _ = s.array b := giveGrant_array ..
    refine ⟨array ▸ ring, ?_⟩
    rw [Granted, takeArray_engine]
    exact giveGrant_keeps a (chainGrant n c) granted

end

section
variable {s : State} {n : Nat} {c : ChainRun}

/-- The arrays that a chain is admitted on, where they are as many as it needs. -/
def chainArrays (s : State) (n : Nat) (c : ChainRun) : List Nat := (freeArrays n c s).take c.d.arrays

/-- The chain as it is admitted. -/
def admittedChain (s : State) (n : Nat) (c : ChainRun) : ChainRun :=
  { c with admitted := true, arrays := chainArrays s n c, committed := c.first }

theorem admitChain_waits (few : (chainArrays s n c).length < c.d.arrays) : admitChain n c s = awaiting s n (.chain c) := if_pos few

/-- A chain takes its j-th array. -/
def takePlace (n : Nat) (c : ChainRun) (s : State) (j : Nat) : State := takeArray n c j (nth 0 c.arrays j) s

theorem admitChain_takes (enough : (chainArrays s n c).length = c.d.arrays) :
    admitChain n c s =
      (List.range c.d.arrays).foldl (takePlace n (admittedChain s n c)) (begun s n (.chain (admittedChain s n c))) :=
  if_neg (by unfold chainArrays at enough; omega)

/-- Taking arrays changes of the chain's ring its stop and its waiting credits alone. -/
theorem takePlaces_chainOn (l : List Nat) :
    ChainOn n (begunRing s n (.chain c)) c (l.foldl (takePlace n c) (begun s n (.chain c))) :=
  List.foldlRecOn l (takePlace n c) ⟨c.stop, c.credits, begun_ring ..⟩ fun _ h j _ => h.takeArray c j _

theorem takePlaces_taken {a : Nat} (mem : a ∈ c.arrays) (s : State) :
    Taken n a ((List.range c.arrays.length).foldl (takePlace n c) s) := by
  obtain ⟨j, inside, rfl⟩ := List.getElem_of_mem mem
  have place : nth 0 c.arrays j = c.arrays[j] := by simp [nth, inside]
  rw [← place]
  exact foldl_establishes (P := fun j t => Taken n (nth 0 c.arrays j) t) (fun t j => takeArray_taken n c j _ t)
    (fun t j _ => takeArray_keeps n c j _ t) _ s j (List.mem_range.2 inside)

theorem admitChain_admission {i : Instr} {s0 : State} (step : exec i s0 = .next (admitChain n c s)) : ChainAdmission i s0 s n c := by
  refine ⟨fun few => waitsAdmission_ofAwaiting (step.trans (congrArg _ (admitChain_waits few))),
    fun (enough : (chainArrays s n c).length = c.d.arrays) => ?_⟩
  rw [admitChain_takes enough] at step
  obtain ⟨stop, credits, ring⟩ := takePlaces_chainOn (s := s) (n := n) (c := admittedChain s n c) (List.range c.d.arrays)
  refine ⟨_, _, step, congrArg Ring.op ring, rfl, rfl, rfl, congrArg Ring.state ring, congrArg Ring.startTicks ring, fun a mem => ?_⟩
  rw [← enough]
  exact takePlaces_taken (c := admittedChain s n c) mem _

end

/-! ### The statement -/

/-- Settles O28: a misaligned descriptor by the check that its load begins with, an admission by the two branches of its operation's
admission, which the three commands that load and the late one share. -/
theorem operationsAreAdmittedOrWait : Obligations.OperationsAreAdmittedOrWait := by
  unfold Obligations.OperationsAreAdmittedOrWait
  refine fun s n => ⟨fun d h => ⟨?_, ?_⟩, fun d h => ⟨?_, ?_⟩, fun d h => ⟨?_, ?_⟩, fun waits unpaused => ⟨?_, ?_, ?_⟩⟩
  · exact (chain_loadsBy n).refuses h (by decide)
  · exact fun c s1 loaded => admitChain_admission ((chain_loadsBy n).admits h loaded)
  · exact (transform_loadsBy n).refuses h (by decide)
  · exact fun x s1 loaded => admitTransform_admission ((transform_loadsBy n).admits h loaded)
  · exact (program_loadsBy n).refuses h (by decide)
  · exact fun p s1 loaded => admitProgram_admission ((program_loadsBy n).admits h loaded)
  · exact fun c op unadmitted => admitChain_admission (operationAdmit_chain waits unpaused op unadmitted)
  · exact fun x op unadmitted => admitTransform_admission (operationAdmit_transform waits unpaused op unadmitted)
  · exact fun p op unadmitted => admitProgram_admission (operationAdmit_program waits unpaused op unadmitted)

end Sys2Proof.Proofs.Admission
end

section
/-! SUPPORT. How an engine instruction ends (R153, R154): what the end of its issue, a block of its path and a change of its group
leave, and from each the forms `IssuesAs`, `GoesOn` and `WritesRd` of the instruction's effect. -/

namespace Sys2Proof.Proofs.IssueEnds

open Sys2Proof.Machine Sys2Proof.Safety Sys2Proof.Claims Sys2Proof.Proofs.EngineWrites

/-! ### A group changes alone -/

/-- Of the state, a group's slot alone holds something else, beside what the engine counts of its issues. -/
structure LeavesGroup (e slot : Nat) (g : Group) (s t : State) : Prop where
  here : tfind (t.engine e).slots slot = some g
  engines : EnginesOnly s t
  others : OtherEngines e s t
  groups : OtherGroups e slot s t

theorem setSlot_leaves (e slot : Nat) (g : Group) (s : State) : LeavesGroup e slot g s (setSlot e slot g s) where
  here := setSlot_find ..
  engines := setSlot_engines ..
  others := fun _ other => State.engine_onEngine_other _ _ other
  groups := by simp +contextual [OtherGroups, setSlot, tfind_tins_other]

/-- The slot of the group is set on a state in which the engine's counts alone have changed. -/
theorem LeavesGroup.of_setSlot {e slot : Nat} {g : Group} {s u : State} (engines : EnginesOnly s u) (others : OtherEngines e s u)
    (groups : OtherGroups e slot s u) : LeavesGroup e slot g s (setSlot e slot g u) where
  here := setSlot_find ..
  engines := enginesOnly_trans engines (setSlot_engines ..)
  others := fun _ other => (State.engine_onEngine_other _ _ other).trans (others _ other)
  groups := by
    obtain ⟨mode, reason, grants, counters, copies, slots⟩ := groups
    refine ⟨?_, ?_, ?_, ?_, ?_, fun k other => ?_⟩
    all_goals simp [setSlot, *, tfind_tins_other]

theorem LeavesGroup.issuesAs {i : Instr} {s u t : State} {e slot : Nat} {g g' : Group} {P : Group → Prop}
    (h : LeavesGroup e slot g' u t) (exec_eq : exec i s = .next t) (ring : g'.ring = g.ring) (index : g'.index = g.index)
    (holds : P g') : IssuesAs i s u e slot g P :=
  ⟨t, g', exec_eq, h.engines, h.others, h.groups, h.here, ring, index, holds⟩

/-! ### The instruction as it issues -/

section
variable (e slot : Nat) (g : Group) (path : Path) (rest : List Path) (prog : ProgramRun) (w : Nat)

@[simp] theorem cur_e : (cur e slot g path rest prog w).e = e := rfl
@[simp] theorem cur_slot : (cur e slot g path rest prog w).slot = slot := rfl
@[simp] theorem cur_g : (cur e slot g path rest prog w).g = g := rfl
@[simp] theorem cur_path : (cur e slot g path rest prog w).path = path := rfl
@[simp] theorem cur_prog : (cur e slot g path rest prog w).prog = prog := rfl
@[simp] theorem cur_w : (cur e slot g path rest prog w).w = w := rfl

end

/-! ### The end of an issue -/

/-- The group's paths at the end of an issue, before the ring turns: those that have threads, merged where they all join. -/
def endRing (c : Cur) (parts : List Path) : List Path := tryJoin ((parts ++ c.rest).filter fun p => p.lanes != 0)

/-- An issue that leaves a path ends with the group in its slot, its paths turned; a rotation turns them for certain. -/
theorem endIssue_leaves {c : Cur} {parts : List Path} (g : Group) (rotate : Bool) (s : State) (some_left : endRing c parts ≠ []) :
    ∃ away issues, (rotate = true → away = true) ∧
      LeavesGroup c.e c.slot { g with paths := (movePath isReady away (endRing c parts)).1, issues := issues } s
        (endIssue c g parts rotate s) := by
  obtain ⟨q, here⟩ := List.exists_mem_of_ne_nil _ some_left
  unfold endIssue
  dsimp only
  rw [putGroup_find _ _ _ _ (List.ne_nil_of_mem ((mem_movePath _).2 here))]
  refine ⟨rotate || decide (g.issues + 1 ≥ 64), _, fun h => by rw [h]; rfl,
    .of_setSlot (enginesOnly_trans (countSlots_engines c s) (onEngine_engines ..)) (fun j other => ?_) ?_⟩
  · simp [countSlots, State.engine_onEngine_other _ _ other]
  · simp [OtherGroups, countSlots]

/-- A path that blocks stays among the group's paths. -/
theorem blockPath_leaves (c : Cur) (s : State) : ∃ ps issues, (∀ q, q ∈ ps ↔ q ∈ { c.path with st := .asked } :: c.rest) ∧
    LeavesGroup c.e c.slot { c.g with paths := ps, issues := issues } s (blockPath c s) := by
  unfold blockPath
  dsimp only
  refine ⟨_, _, fun q => mem_movePath _, .of_setSlot (onEngine_engines ..) (fun j other => ?_) ?_⟩
  · exact State.engine_onEngine_other _ _ other
  · simp [OtherGroups]

/-- A path that stops at no JOIN stands first of the ring. -/
theorem endRing_notJoin {c : Cur} {p : Path} (threads : p.lanes ≠ 0) (other : p.st ≠ .join) :
    endRing c [p] = p :: c.rest.filter fun q => q.lanes != 0 := by
  rw [endRing, List.singleton_append, List.filter_cons_of_pos (by simpa using threads)]
  exact if_neg (by simp [other])

theorem endRing_goOn {c : Cur} (n : Nat) (threads : c.path.lanes ≠ 0) :
    endRing c [goOn c n] = goOn c n :: c.rest.filter fun q => q.lanes != 0 :=
  endRing_notJoin (p := goOn c n) threads PathState.noConfusion

/-- However the ring turns, the path stands n bytes further and the others are there. -/
theorem pathsOn_turned {c : Cur} {n : Nat} {g' : Group} {away : Bool} (threads : c.path.lanes ≠ 0)
    (paths : g'.paths = (movePath isReady away (endRing c [goOn c n])).1) :
    PathsOn c.path c.rest ((c.path.pc + n) % 2 ^ 64) g' := by
  have mem {q : Path} : q ∈ g'.paths ↔ q ∈ goOn c n :: c.rest.filter fun p => p.lanes != 0 := by
    rw [paths, endRing_goOn n threads]
    exact mem_movePath _
  refine ⟨⟨goOn c n, mem.2 (List.mem_cons_self ..), rfl, rfl, rfl⟩, fun q rest threads => ?_⟩
  exact mem.2 (List.mem_cons_of_mem _ (List.mem_filter.2 ⟨rest, by simpa using threads⟩))

/-- An instruction after which its path goes on n bytes further. -/
theorem endIssue_goOn {c : Cur} (g : Group) (n : Nat) (rotate : Bool) (s : State) (threads : c.path.lanes ≠ 0) :
    ∃ ps issues, PathsOn c.path c.rest ((c.path.pc + n) % 2 ^ 64) { g with paths := ps, issues := issues } ∧
      LeavesGroup c.e c.slot { g with paths := ps, issues := issues } s (endIssue c g [goOn c n] rotate s) := by
  obtain ⟨away, issues, -, leaves⟩ := endIssue_leaves (c := c) (parts := [goOn c n]) g rotate s
    (by rw [endRing_goOn n threads]; exact List.cons_ne_nil _ _)
  exact ⟨_, issues, pathsOn_turned (away := away) threads rfl, leaves⟩

/-! ### Registers -/

section
variable {path : Path} {rd n : Nat} {f : Nat → Nat} {g g' : Group} {order : List Nat}
  (written : g'.regs = (writeLanes rd n f order g).regs) (all : order.Perm (lanesOf path.lanes)) (bound : rd + n ≤ 256)
include written all bound

theorem regRead_written {l : Nat} (active : Active path l) : regRead g' l rd n = f l % 2 ^ (32 * n) :=
  (regRead_congr written ..).trans (regRead_writeLanes_mem f bound g (all.nodup_iff.2 (lanesOf_nodup _))
    (all.mem_iff.2 (mem_lanesOf.2 active)))

theorem otherRegs_written : OtherRegs path rd n g g' := by
  intro l r hr apart
  rw [regRead_congr written]
  refine regRead_writeLanes_apart f g fun j hj => ?_
  by_cases here : l = j
  · subst here
    have := apart (mem_lanesOf.1 (all.mem_iff.1 hj))
    unfold Apart
    omega
  · exact apart_of_lane_ne here (by omega) bound

end

/-! ### The instruction's effect -/

section
variable {i : Instr} {s s1 u : State} {e slot : Nat} {g : Group} {path : Path} {rest : List Path} {prog : ProgramRun} {w op : Nat}
  {run : Cur → State → State} (at_ : AtIssue s s1 e slot g path rest prog w)
  (exec_eq : exec i s = .next (issue op e slot run s)) (hop : wOp w = op)
include at_ exec_eq hop

theorem exec_of_atIssue : exec i s = .next (run (cur e slot g path rest prog w) s1) := by
  rw [exec_eq, issue_of_atIssue run at_ hop]
  rfl

/-- An instruction that ends in a state u with a group that differs from its own in registers and sleep alone. -/
theorem issuesAs_endIssue {parts : List Path} {rotate : Bool} {g1 : Group} {P : Group → Prop}
    (run_eq : run (cur e slot g path rest prog w) s1 = endIssue (cur e slot g path rest prog w) g1 parts rotate u)
    (ring : g1.ring = g.ring) (index : g1.index = g.index) (some_left : endRing (cur e slot g path rest prog w) parts ≠ [])
    (holds : ∀ away issues, (rotate = true → away = true) →
      P { g1 with paths := (movePath isReady away (endRing (cur e slot g path rest prog w) parts)).1, issues := issues }) :
    IssuesAs i s u e slot g P := by
  obtain ⟨away, issues, turns, leaves⟩ := endIssue_leaves g1 rotate u some_left
  refine leaves.issuesAs ?_ ring index (holds away issues turns)
  rw [exec_of_atIssue at_ exec_eq hop, run_eq]

/-- An instruction that ends in a state u with its path n bytes further and the registers of a group. -/
theorem issuesAs_goOn {n : Nat} {rotate : Bool} {g1 : Group} {P : Group → Prop}
    (run_eq : run (cur e slot g path rest prog w) s1 =
      endIssue (cur e slot g path rest prog w) g1 [goOn (cur e slot g path rest prog w) n] rotate u)
    (ring : g1.ring = g.ring) (index : g1.index = g.index)
    (holds : ∀ g', g'.regs = g1.regs → g'.sleeping = g1.sleeping → PathsOn path rest ((path.pc + n) % 2 ^ 64) g' → P g') :
    IssuesAs i s u e slot g P := by
  obtain ⟨ps, issues, on, leaves⟩ := endIssue_goOn (c := cur e slot g path rest prog w) g1 n rotate u at_.runnable.threads
  refine leaves.issuesAs ?_ ring index (holds _ rfl rfl on)
  rw [exec_of_atIssue at_ exec_eq hop, run_eq]

/-- An instruction that writes no register and goes on after its word. -/
theorem issuesAs_endPlain
    (run_eq : run (cur e slot g path rest prog w) s1 = endPlain (cur e slot g path rest prog w) g u) :
    IssuesAs i s u e slot g fun g' => PathsOn path rest ((path.pc + 8) % 2 ^ 64) g' ∧ g'.regs = g.regs :=
  issuesAs_goOn at_ exec_eq hop (g1 := g) run_eq rfl rfl fun _ regs _ on => ⟨on, regs⟩

/-- The same of an instruction that changes its engine before it ends. -/
theorem goesOn_endPlain {P : State → Prop}
    (run_eq : run (cur e slot g path rest prog w) s1 = endPlain (cur e slot g path rest prog w) g u)
    (holds : ∀ t, EnginesOnly u t → OtherEngines e u t → OtherGroups e slot u t → P t) : GoesOn i s e slot g path rest P := by
  obtain ⟨t, g', exec_eq, engines, others, groups, here, ring, index, on, regs⟩ := issuesAs_endPlain at_ exec_eq hop run_eq
  exact ⟨t, g', exec_eq, here, regs, ring, index, on, holds t engines others groups⟩

/-- An instruction that blocks its path on a state u. -/
theorem issuesAs_blockPath (run_eq : run (cur e slot g path rest prog w) s1 = blockPath (cur e slot g path rest prog w) u) :
    IssuesAs i s u e slot g fun g' => g'.regs = g.regs ∧ { path with st := .asked } ∈ g'.paths := by
  obtain ⟨ps, issues, paths, leaves⟩ := blockPath_leaves (cur e slot g path rest prog w) u
  refine leaves.issuesAs ?_ rfl rfl ⟨rfl, (paths _).2 (List.mem_cons_self ..)⟩
  rw [exec_of_atIssue at_ exec_eq hop, run_eq]

/-- An instruction that writes n registers from RD in each lane of its path, in some order, and goes on after its word. -/
theorem writesRd_endIssue {n : Nat} {f : Nat → Nat} {P : Group → Nat → Prop} {order : List Nat} {rotate : Bool}
    (all : order.Perm (lanesOf path.lanes)) (form : (formOf w).map (·.rd) = some n)
    (run_eq : run (cur e slot g path rest prog w) s1 = endIssue (cur e slot g path rest prog w) (writeLanes (wRd w) n f order g)
      [goOn (cur e slot g path rest prog w) 8] rotate u)
    (result : ∀ g' l, Active path l → regRead g' l (wRd w) n = f l % 2 ^ (32 * n) → P g' l) :
    WritesRd i s u e slot g path rest w n P := by
  have bound := rd_bound at_.lawful form
  have frame := writeLanes_frame (wRd w) n f order g
  refine issuesAs_goOn at_ exec_eq hop run_eq (by rw [frame]) (by rw [frame]) fun g' regs sleeping on => ⟨on, ?_, ?_, ?_⟩
  · rw [sleeping, frame]
    exact at_.runnable.awake
  · exact fun l active => result g' l active (regRead_written regs all bound active)
  · exact otherRegs_written regs all bound

/-- As `writesRd_endIssue`, for results of the instruction's type. -/
theorem result_endIssue {f : Nat → Nat} {P : Group → Nat → Prop} {order : List Nat} {rotate : Bool}
    (all : order.Perm (lanesOf path.lanes)) (form : (formOf w).map (·.rd) = some (tyRegs (wTy w)))
    (run_eq : run (cur e slot g path rest prog w) s1 = endIssue (cur e slot g path rest prog w)
      (writeLanes (wRd w) (tyRegs (wTy w)) (fun l => regValue (wTy w) (f l)) order g)
      [goOn (cur e slot g path rest prog w) 8] rotate u)
    (result : ∀ g' l, Active path l → regRead g' l (wRd w) (tyRegs (wTy w)) = regValue (wTy w) (f l) → P g' l) :
    Result i s u e slot g path rest w P :=
  writesRd_endIssue at_ exec_eq hop all form run_eq fun g' l active h =>
    result g' l active (h.trans (Nat.mod_eq_of_lt (regValue_lt ..)))

/-- An instruction that writes n registers from RD in each lane of its path and ends plainly. -/
theorem writesRd_writeLanes {n : Nat} {f : Nat → Nat} {P : Group → Nat → Prop} (form : (formOf w).map (·.rd) = some n)
    (run_eq : run (cur e slot g path rest prog w) s1 =
      endPlain (cur e slot g path rest prog w) (writeLanes (wRd w) n f (lanesOf path.lanes) g) u)
    (result : ∀ g' l, Active path l → regRead g' l (wRd w) n = f l % 2 ^ (32 * n) → P g' l) :
    WritesRd i s u e slot g path rest w n P := writesRd_endIssue at_ exec_eq hop (.refl _) form run_eq result

/-- As `writesRd_writeLanes`, for results of the instruction's type. -/
theorem result_writeLanes {f : Nat → Nat} {P : Group → Nat → Prop} (form : (formOf w).map (·.rd) = some (tyRegs (wTy w)))
    (run_eq : run (cur e slot g path rest prog w) s1 = endPlain (cur e slot g path rest prog w)
      (writeLanes (wRd w) (tyRegs (wTy w)) (fun l => regValue (wTy w) (f l)) (lanesOf path.lanes) g) u)
    (result : ∀ g' l, Active path l → regRead g' l (wRd w) (tyRegs (wTy w)) = regValue (wTy w) (f l) → P g' l) :
    Result i s u e slot g path rest w P := result_endIssue at_ exec_eq hop (.refl _) form run_eq result

end

end Sys2Proof.Proofs.IssueEnds
end

section
/-! SUPPORT. Integer arithmetic of the engine instructions on the operands of a lane as bits of their type (R170, R171), and the
statement on the integer, move, special-register and literal instructions. -/

namespace Sys2Proof.Proofs.IntegerInstructions

open Sys2Proof.Machine Sys2Proof.Safety Sys2Proof.Claims Sys2Proof.Proofs.EngineWrites Sys2Proof.Proofs.IssueEnds

/-! ### Two's complement -/

theorem toSigned_eq_toInt {n : Nat} (x : BitVec n) : toSigned n x.toNat = x.toInt := by
  rw [toSigned, BitVec.toInt_eq_toNat_cond, Nat.mod_eq_of_lt x.isLt]
  cases n with
  | zero =>
    have := x.isLt
    split <;> split <;> omega
  | succ k =>
    rw [Nat.add_sub_cancel, Nat.pow_succ]
    split <;> split <;> omega

theorem ofSigned_lt (n : Nat) (x : Int) : ofSigned n x < 2 ^ n := by
  have := Int.emod_nonneg x (b := (2 ^ n : Nat)) (by have := Nat.two_pow_pos n; omega)
  have := Int.emod_lt_of_pos x (b := (2 ^ n : Nat)) (by have := Nat.two_pow_pos n; omega)
  unfold ofSigned
  omega

theorem ofNat_ofSigned (n : Nat) (x : Int) : BitVec.ofNat n (ofSigned n x) = BitVec.ofInt n x := by
  apply BitVec.eq_of_toNat_eq
  rw [BitVec.toNat_ofNat, Nat.mod_eq_of_lt (ofSigned_lt n x), BitVec.toNat_ofInt]
  rfl

/-! ### The operations (Table 12) -/

section
variable (ty : Nat) (a b : BitVec (tyBits ty))

theorem intOp_add : BitVec.ofNat _ (intOp 0x01 ty a.toNat b.toNat) = a + b := by
  apply BitVec.eq_of_toNat_eq
  simp [intOp]

theorem intOp_sub : BitVec.ofNat _ (intOp 0x02 ty a.toNat b.toNat) = a - b := by
  apply BitVec.eq_of_toNat_eq
  have := b.isLt
  simp only [intOp, BitVec.toNat_ofNat, Nat.mod_mod, BitVec.toNat_sub]
  congr 1
  omega

theorem intOp_mul : BitVec.ofNat _ (intOp 0x03 ty a.toNat b.toNat) = a * b := by
  apply BitVec.eq_of_toNat_eq
  simp [intOp]

theorem intOp_mulh_signed (signed : tySigned ty = true) :
    BitVec.ofNat (tyBits ty) (intOp 0x04 ty a.toNat b.toNat) = BitVec.ofInt _ (a.toInt * b.toInt / 2 ^ tyBits ty) := by
  simp only [intOp, signed, if_true, toSigned_eq_toInt, ofNat_ofSigned]
  norm_cast

theorem intOp_mulh_unsigned (unsigned : ¬ tySigned ty = true) :
    intOp 0x04 ty a.toNat b.toNat = a.toNat * b.toNat / 2 ^ tyBits ty := by
  simp only [intOp, if_neg unsigned]

theorem intOp_and : BitVec.ofNat _ (intOp 0x05 ty a.toNat b.toNat) = a &&& b := by
  simp only [intOp, BitVec.ofNat_and, BitVec.ofNat_toNat, BitVec.setWidth_eq]

theorem intOp_or : BitVec.ofNat _ (intOp 0x06 ty a.toNat b.toNat) = a ||| b := by
  simp only [intOp, BitVec.ofNat_or, BitVec.ofNat_toNat, BitVec.setWidth_eq]

theorem intOp_xor : BitVec.ofNat _ (intOp 0x07 ty a.toNat b.toNat) = a ^^^ b := by
  simp only [intOp, BitVec.ofNat_xor, BitVec.ofNat_toNat, BitVec.setWidth_eq]

theorem intOp_shl : BitVec.ofNat _ (intOp 0x08 ty a.toNat b.toNat) = a <<< (b.toNat % tyBits ty) := by
  apply BitVec.eq_of_toNat_eq
  simp [intOp]

theorem intOp_shr_signed (signed : tySigned ty = true) :
    BitVec.ofNat _ (intOp 0x09 ty a.toNat b.toNat) = a.sshiftRight (b.toNat % tyBits ty) := by
  simp only [intOp, signed, if_true, toSigned_eq_toInt, ofNat_ofSigned, BitVec.sshiftRight, Int.shiftRight_eq_div_pow]

theorem intOp_shr_unsigned (unsigned : ¬ tySigned ty = true) :
    BitVec.ofNat _ (intOp 0x09 ty a.toNat b.toNat) = a >>> (b.toNat % tyBits ty) := by
  apply BitVec.eq_of_toNat_eq
  have small : a.toNat >>> (b.toNat % tyBits ty) < 2 ^ tyBits ty := (Nat.shiftRight_le ..).trans_lt a.isLt
  simp [intOp, unsigned, Nat.mod_eq_of_lt small]

end

/-- The relations of ICMP on the bits of the operands (R171). -/
theorem intRel_iff {ty code : Nat} (known : code ≤ 3) (a b : BitVec (tyBits ty)) : intRel code ty a.toNat b.toNat = true ↔
    let lt := if tySigned ty = true then a.toInt < b.toInt else a.toNat < b.toNat
    (code = 0 ∧ a = b) ∨ (code = 1 ∧ a ≠ b) ∨ (code = 2 ∧ lt) ∨ (code = 3 ∧ (lt ∨ a = b)) := by
  have eq : (a.toNat == b.toNat) = decide (a = b) := by rw [Bool.eq_iff_iff]; simp [BitVec.toNat_inj]
  rw [intRel, eq, toSigned_eq_toInt, toSigned_eq_toInt]
  by_cases signed : tySigned ty = true <;> interval_cases code <;> simp [icmpHolds, signed]

/-! ### Operands -/

theorem tyRead_lt (g : Group) (l ty r : Nat) : tyRead g l ty r < 2 ^ tyBits ty := Nat.mod_lt _ (Nat.two_pow_pos _)

theorem opA_toNat (g : Group) (w l : Nat) : (opA g w l).toNat = tyRead g l (wTy w) (wRa w) :=
  Nat.mod_eq_of_lt (tyRead_lt ..)

/-- The second source of an integer instruction is a number of its type. -/
theorem second_lt {g : Group} {w l : Nat} (int : wTy w ∈ intTys) : second g l w < 2 ^ tyBits (wTy w) := by
  have noFmt : tyFmt (wTy w) = none := by
    simp only [intTys, List.mem_cons, List.not_mem_nil, or_false] at int
    rcases int with h | h | h | h <;> rw [h] <;> rfl
  unfold second immValue
  rw [noFmt]
  split
  · exact ofSigned_lt ..
  · exact tyRead_lt ..

theorem opB_toNat {g : Group} {w l : Nat} (int : wTy w ∈ intTys) : (opB g w l).toNat = second g l w :=
  Nat.mod_eq_of_lt (second_lt int)

/-- An integer result of 32 or 64 bits stands in RD as it is (R170). -/
theorem opRd_of_result {g' : Group} {w l v : Nat} (int : wTy w ∈ intTys)
    (h : regRead g' l (wRd w) (tyRegs (wTy w)) = regValue (wTy w) v) : opRd g' w l = BitVec.ofNat _ v := by
  have wide : ¬ (wTy w = 9 ∨ wTy w = 11) := by
    simp only [intTys, List.mem_cons, List.not_mem_nil, or_false] at int
    omega
  rw [opRd, tyRead, h, regValue, if_neg wide]
  apply BitVec.eq_of_toNat_eq
  simp only [BitVec.toNat_ofNat, Nat.mod_mod]

section
variable {i : Instr} {s s1 : State} {e slot : Nat} {g : Group} {path : Path} {rest : List Path} {prog : ProgramRun} {w op : Nat}
  (at_ : AtIssue s s1 e slot g path rest prog w) (hop : wOp w = op)
include at_ hop

/-- IADD to SHR: the operation on the bits of the operands in every lane. -/
theorem runInt_result {tys : List Nat} {P : Group → Nat → Prop} (exec_eq : exec i s = .next (issue op e slot (runInt op) s))
    (form : (formOf w).map (fun f => (f.tys, f.rd)) = some (tys, tyRegs (wTy w))) (ints : tys ⊆ intTys)
    (result : ∀ g' l, opRd g' w l = BitVec.ofNat _ (intOp op (wTy w) (opA g w l).toNat (opB g w l).toNat) → P g' l) :
    Result i s s1 e slot g path rest w P := by
  obtain ⟨f, known, pair⟩ := Option.map_eq_some_iff.1 form
  obtain ⟨tys_eq, rd_eq⟩ := Prod.mk.injEq .. ▸ pair
  have int : wTy w ∈ intTys := ints (type_of_legal at_.lawful (by rw [known, Option.map_some, tys_eq]))
  refine writesRd_of_eachTyped at_ exec_eq hop (by rw [known, Option.map_some, rd_eq]) rfl fun g' l h => result g' l ?_
  rw [opA_toNat, opB_toNat int]
  exact opRd_of_result int h

end

/-- A register that takes a relation as a number. -/
theorem relation_of_one {v : Nat} {b : Bool} {P : Prop} (h : v = one b % 2 ^ (32 * 1)) (holds : b = true ↔ P) :
    (P → v = 1) ∧ (¬ P → v = 0) := by
  rw [← holds, h]
  cases b <;> decide

/-- An instruction whose form has no immediate has none in a legal word (R174). -/
theorem noImm_of_legal {w regs : Nat} (lawful : legal w regs = true) (form : (formOf w).map (·.imm) = some 0) : wI w = false := by
  obtain ⟨f, known, none⟩ := Option.map_eq_some_iff.1 form
  rw [legal, known] at lawful
  simp only [formLegal, none, Bool.and_eq_true] at lawful
  cases immediate : wI w
  · rfl
  · simp [immediate] at lawful

/-! ### Special registers and literals -/

theorem bits_eq_div (x lo w : Nat) : bits x lo w = x / 2 ^ lo % 2 ^ w := by rw [bits, Nat.shiftRight_eq_div_pow]

theorem ticksOf_lt (s : State) (die : Nat) : s.ticksOf die < 2 ^ 64 := by
  unfold State.ticksOf
  split <;> exact BitVec.isLt _

/-- An instruction that lists the type u32 alone writes one register. -/
theorem tyRegs_of_legal {w regs : Nat} (lawful : legal w regs = true) (form : (formOf w).map (·.tys) = some [0]) :
    tyRegs (wTy w) = 1 := by
  rw [List.mem_singleton.1 (type_of_legal lawful form)]
  rfl

section
variable {s s1 s2 : State} {e slot : Nat} {g : Group} {path : Path} {rest : List Path} {prog : ProgramRun} {w : Nat}

/-- SREG: the value that AUX names in every lane (R171). -/
theorem sreg_result (at_ : AtIssue s s1 e slot g path rest prog w) (hop : wOp w = 0x0D) :
    Result (.sreg e slot) s s1 e slot g path rest w fun g' l =>
      let d := regRead g' l (wRd w) 1
      (wAux w = 0 → d = l) ∧ (wAux w = 1 → d = g.index % 2 ^ 32) ∧ (wAux w = 2 → d = g.index / 2 ^ 32 % 2 ^ 16)
      ∧ (wAux w = 3 → d = e % 136) ∧ (wAux w = 7 → d = prog.args % 2 ^ 32)
      ∧ (wAux w = 8 → d = prog.args / 2 ^ 32 % 2 ^ 32) ∧ (wAux w = 9 → d = prog.grid % 2 ^ 32)
      ∧ (wAux w = 10 → d = prog.grid / 2 ^ 32 % 2 ^ 16) ∧ (wAux w = 11 → rest.length < 32 → d = rest.length + 1)
      ∧ (e < 544 → (wAux w = 4 → d = e / 136 + 1)
        ∧ (wAux w = 5 → d = s1.ticksOf (e / 136 + 1) % 2 ^ 32)
        ∧ (wAux w = 6 → d = s1.ticksOf (e / 136 + 1) / 2 ^ 32)) := by
  rw [Result, tyRegs_of_legal at_.lawful (by simp [formOf, hop])]
  refine writesRd_writeLanes (f := fun l => specialValue (cur e slot g path rest prog w) (wAux w) l s1) at_ rfl hop
    (by simp [formOf, hop]) rfl fun g' l active h => ?_
  have value {k x : Nat} (aux : wAux w = k) (special : specialValue (cur e slot g path rest prog w) k l s1 = x)
      (small : x < 2 ^ 32) : regRead g' l (wRd w) 1 = x := by
    rw [h, aux, special]
    exact Nat.mod_eq_of_lt small
  obtain ⟨lane, -⟩ := active
  have ticks := ticksOf_lt s1 (e / 136 + 1)
  refine ⟨fun aux => value aux rfl (by omega), fun aux => value aux rfl (by omega),
    fun aux => value aux (bits_eq_div ..) (by omega), fun aux => value aux rfl (by omega),
    fun aux => value aux rfl (by omega), fun aux => value aux (bits_eq_div ..) (by omega),
    fun aux => value aux rfl (by omega), fun aux => value aux (bits_eq_div ..) (by omega),
    fun aux few => value aux rfl (by omega), fun known => ⟨fun aux => value aux rfl (by omega),
    fun aux => value aux rfl (by omega),
    fun aux => value aux ((bits_eq_div (s1.ticksOf (e / 136 + 1)) 32 32).trans (by omega)) (by omega)⟩⟩

/-- LIMM whose literal word comes writes it in every lane (R169). -/
theorem runLimm_literal {v : Nat} (literal : Brings (fetchAt s1 e slot path ((path.pc + 8) % 2 ^ 64)) v)
    (after : s2 = (fetchAt s1 e slot path ((path.pc + 8) % 2 ^ 64)).2) :
    runLimm (cur e slot g path rest prog w) s1 = endIssue (cur e slot g path rest prog w)
      (writeLanes (wRd w) 2 (fun _ => v) (lanesOf path.lanes) g) [goOn (cur e slot g path rest prog w) 16] false s2 := by
  obtain ⟨b, data, clean, rfl⟩ := literal
  have read : fetchAt s1 e slot path ((path.pc + 8) % 2 ^ 64) = (.data b, s2) := Prod.ext data after.symm
  unfold fetchAt at read
  simp only [runLimm, cur, read, clean, Bool.false_eq_true, if_false]
  rfl

end

/-! ### The statement -/

/-- Settles O1: an integer instruction by its operation on bits, ICMP by the relation of its AUX, SREG by the value that AUX names,
and LIMM by the read of its literal word. -/
theorem integerAndMoveInstructionsWriteRd : Obligations.IntegerAndMoveInstructionsWriteRd := by
  unfold Obligations.IntegerAndMoveInstructionsWriteRd
  refine ⟨fun s s1 e slot g path rest prog w at_ => ⟨fun hop => ?_, fun hop => ?_, fun hop => ?_, fun hop => ?_, fun hop => ?_,
    fun hop => ?_, fun hop => ?_, fun hop => ?_, fun hop => ?_⟩, fun s s1 e slot g path rest prog w at_ => ⟨fun hop => ?_,
    fun hop => ?_, fun hop => ?_, fun hop => ?_, fun hop => ?_⟩,
    fun s s1 s2 e slot g path rest prog w v at_ hop literal after => ?_⟩
  · exact runInt_result (tys := intTys) at_ hop rfl (by simp [formOf, hop]) (by decide) fun g' l h => h.trans (intOp_add ..)
  · exact runInt_result (tys := intTys) at_ hop rfl (by simp [formOf, hop]) (by decide) fun g' l h => h.trans (intOp_sub ..)
  · exact runInt_result (tys := intTys) at_ hop rfl (by simp [formOf, hop]) (by decide) fun g' l h => h.trans (intOp_mul ..)
  · exact runInt_result (tys := intTys) at_ hop rfl (by simp [formOf, hop]) (by decide) fun g' l h =>
      ⟨fun signed => h.trans (intOp_mulh_signed _ _ _ signed), fun unsigned => h.trans (congrArg _ (intOp_mulh_unsigned _ _ _ unsigned))⟩
  · exact runInt_result (tys := [0, 2]) at_ hop rfl (by simp [formOf, hop]) (by decide) fun g' l h => h.trans (intOp_and ..)
  · exact runInt_result (tys := [0, 2]) at_ hop rfl (by simp [formOf, hop]) (by decide) fun g' l h => h.trans (intOp_or ..)
  · exact runInt_result (tys := [0, 2]) at_ hop rfl (by simp [formOf, hop]) (by decide) fun g' l h => h.trans (intOp_xor ..)
  · exact runInt_result (tys := [0, 2]) at_ hop rfl (by simp [formOf, hop]) (by decide) fun g' l h => h.trans (intOp_shl ..)
  · exact runInt_result (tys := intTys) at_ hop rfl (by simp [formOf, hop]) (by decide) fun g' l h =>
      ⟨fun signed => h.trans (intOp_shr_signed _ _ _ signed), fun unsigned => h.trans (intOp_shr_unsigned _ _ _ unsigned)⟩
  · exact issuesAs_endPlain at_ rfl hop rfl
  · have int : wTy w ∈ intTys := type_of_legal at_.lawful (by simp [formOf, hop])
    have known : wAux w ≤ 3 := of_decide_eq_true (ok_of_legal at_.lawful (by simp [formOf, hop]))
    refine writesRd_of_eachLane at_ rfl hop (by simp [formOf, hop]) rfl fun g' l h => ?_
    change _ = one (intRel (wAux w) (wTy w) (tyRead g l (wTy w) (wRa w)) (second g l w)) % _ at h
    rw [← opA_toNat, ← opB_toNat int] at h
    exact relation_of_one h (intRel_iff known ..)
  · have register : wI w = false := noImm_of_legal at_.lawful (by simp [formOf, hop])
    refine writesRd_of_eachTyped at_ rfl hop (by simp [formOf, hop]) rfl fun g' l h => h.trans (congrArg _ ?_)
    simp only [srcB, srcC, second, register, ne_eq, ite_not, Bool.false_eq_true, if_false]
  · refine writesRd_of_eachTyped at_ rfl hop (by simp [formOf, hop]) rfl fun g' l h => h.trans (congrArg _ ?_)
    cases immediate : wI w <;> simp [srcA, srcB, second, immediate]
  · exact sreg_result at_ hop
  · exact issuesAs_goOn at_ rfl hop (runLimm_literal literal after) (by rw [writeLanes_frame]) (by rw [writeLanes_frame])
      fun g' regs _ on => ⟨on, fun l active => regRead_written regs (.refl _) (rd_bound at_.lawful (by simp [formOf, hop])) active,
        otherRegs_written regs (.refl _) (rd_bound at_.lawful (by simp [formOf, hop]))⟩

end Sys2Proof.Proofs.IntegerInstructions
end

section
/-! SUPPORT. How the paths of a group split, merge and turn (R153, R154): the lanes of each part of a split, the path that a join
leaves and the one that a turn brings first; and the statement on the control instructions. -/

namespace Sys2Proof.Proofs.ControlInstructions

open Sys2Proof.Machine Sys2Proof.Safety Sys2Proof.Claims Sys2Proof.Proofs.EngineWrites Sys2Proof.Proofs.IssueEnds

/-! ### Sets of lanes -/

theorem bit_eq_getLsbD {n : Nat} (x : BitVec n) (i : Nat) : bit x.toNat i = x.getLsbD i := by
  rw [BitVec.getLsbD, Nat.testBit_eq_decide_div_mod_eq, bit, IntegerInstructions.bits_eq_div, beq_eq_decide, Nat.pow_one]

theorem active_iff {p : Path} {l : Nat} : Active p l ↔ p.lanes.getLsbD l = true := by
  rw [Active, bit_eq_getLsbD]
  exact ⟨And.right, fun h => ⟨BitVec.lt_of_getLsbD h, h⟩⟩

theorem getLsbD_noLanes (l : Nat) : (0 : BitVec 32).getLsbD l = false := BitVec.getLsbD_zero

theorem lanes_ne_zero_iff {p : Path} : p.lanes ≠ 0 ↔ ∃ l, Active p l := by
  constructor
  · intro threads
    by_contra none
    refine threads (BitVec.eq_of_getLsbD_eq fun l _ => ?_)
    rw [getLsbD_noLanes, Bool.eq_false_iff]
    exact fun h => none ⟨l, active_iff.2 h⟩
  · rintro ⟨l, active⟩ none
    rw [active_iff, none, getLsbD_noLanes] at active
    cases active

/-- A union of sets has the lanes of each. -/
theorem getLsbD_foldl_or {α : Type} (f : α → BitVec 32) (k : Nat) : ∀ (l : List α) (x : BitVec 32),
    (l.foldl (fun a i => a ||| f i) x).getLsbD k = true ↔ x.getLsbD k = true ∨ ∃ i ∈ l, (f i).getLsbD k = true
  | [], x => by simp
  | i :: l, x => by simp [getLsbD_foldl_or f k l, or_assoc]

theorem getLsbD_laneSet {l : List Nat} {k : Nat} (lane : k < 32) : (laneSet l).getLsbD k = true ↔ k ∈ l := by
  have one (i : Nat) : (BitVec.ofNat 32 (2 ^ i)).getLsbD k = true ↔ k = i := by
    rw [BitVec.getLsbD_ofNat, Nat.testBit_two_pow]
    simp [lane, eq_comm]
  rw [laneSet, getLsbD_foldl_or]
  simp only [one, getLsbD_noLanes, Bool.false_eq_true, false_or, exists_eq_right']

/-! ### The ring of paths -/

/-- A ring in which a path may issue does not join. -/
theorem tryJoin_of_ready {ps : List Path} (h : ∃ q ∈ ps, q.st = .ready) : tryJoin ps = ps := by
  obtain ⟨q, mem, ready⟩ := h
  cases ps with
  | nil => rfl
  | cons p t =>
    refine if_neg fun joins => ?_
    simp only [Bool.and_eq_true, beq_iff_eq, List.all_eq_true] at joins
    rcases List.mem_cons.1 mem with rfl | mem
    · simp [ready] at joins
    · simpa [ready] using joins.2 q mem

section
variable {c : Cur} {parts : List Path} (h : ∃ q ∈ parts ++ c.rest, q.lanes ≠ 0 ∧ q.st = .ready)
include h

theorem mem_endRing {q : Path} : q ∈ endRing c parts ↔ q ∈ parts ++ c.rest ∧ q.lanes ≠ 0 := by
  obtain ⟨p, mem, threads, ready⟩ := h
  rw [endRing, tryJoin_of_ready ⟨p, List.mem_filter.2 ⟨mem, by simpa using threads⟩, ready⟩]
  rw [List.mem_filter, bne_iff_ne]

theorem endRing_ne_nil : endRing c parts ≠ [] := by
  have mem := h
  obtain ⟨p, here, threads, -⟩ := h
  exact List.ne_nil_of_mem ((mem_endRing mem).2 ⟨here, threads⟩)

end

/-- A path that may not stay first gives way to one that may issue. -/
theorem movePath_head {away : Bool} {p : Path} {t : List Path} (gives : away = true ∨ p.st ≠ .ready) (h : ∃ q ∈ t, q.st = .ready) :
    ∃ q ∈ t, q.st = .ready ∧ (movePath isReady away (p :: t)).1.head? = some q := by
  have stays : (isReady p && !away) = false := by
    rcases gives with rfl | waits
    · simp
    · simp [isReady, waits]
  obtain ⟨i, found⟩ : ∃ i, t.findIdx? isReady = some i := by
    rw [← Option.isSome_iff_exists, List.findIdx?_isSome, List.any_eq_true]
    simpa [isReady] using h
  obtain ⟨inside, ready, -⟩ := List.findIdx?_eq_some_iff_getElem.1 found
  refine ⟨t[i], List.getElem_mem _, by simpa [isReady] using ready, ?_⟩
  simp [movePath, stays, found, inside]

theorem movePath_single (ok : Path → Bool) (away : Bool) (p : Path) : (movePath ok away [p]).1 = [p] := by
  simp [movePath]

/-! ### Joins (R153) -/

/-- The ring of a path that stops at a JOIN where another may issue. -/
theorem endRing_single {c : Cur} {p : Path} (threads : p.lanes ≠ 0) (h : ∃ q ∈ c.rest, q.lanes ≠ 0 ∧ q.st = .ready) :
    endRing c [p] = p :: c.rest.filter fun q => q.lanes != 0 := by
  obtain ⟨q, mem, some_lane, ready⟩ := h
  rw [endRing, List.singleton_append, List.filter_cons_of_pos (by simpa using threads)]
  exact tryJoin_of_ready ⟨q, List.mem_cons_of_mem _ (List.mem_filter.2 ⟨mem, by simpa using some_lane⟩), ready⟩

/-- A path that stops, or gives way, leaves one first that may issue. -/
theorem endRing_turns {c : Cur} {p : Path} {away : Bool} (threads : p.lanes ≠ 0) (gives : away = true ∨ p.st ≠ .ready)
    (h : ∃ q ∈ c.rest, q.lanes ≠ 0 ∧ q.st = .ready) :
    ∃ q, (movePath isReady away (endRing c [p])).1.head? = some q ∧ q.st = .ready ∧ q ∈ c.rest := by
  rw [endRing_single threads h]
  obtain ⟨q, mem, some_lane, ready⟩ := h
  have waits : q ∈ c.rest.filter fun q => q.lanes != 0 := List.mem_filter.2 ⟨mem, by simpa using some_lane⟩
  obtain ⟨r, first, issues, head⟩ := movePath_head gives ⟨q, waits, ready⟩
  exact ⟨r, head, issues, (List.mem_filter.1 first).1⟩

/-- Where every path with threads stands at one JOIN, one path goes on with the threads of all. -/
theorem endRing_joins {c : Cur} (threads : c.path.lanes ≠ 0) (h : ∀ q ∈ c.rest, q.lanes ≠ 0 → q.st = .join ∧ q.pc = c.path.pc) :
    ∃ q, endRing c [{ c.path with st := .join }] = [q] ∧ q.pc = (c.path.pc + 8) % 2 ^ 64 ∧ q.st = .ready
      ∧ ∀ l, Active q l ↔ Active c.path l ∨ ∃ p ∈ c.rest, Active p l := by
  have all : ∀ q ∈ c.rest.filter fun q => q.lanes != 0, (q.st == .join && q.pc == c.path.pc) = true := by
    intro q mem
    obtain ⟨mem, some_lane⟩ := List.mem_filter.1 mem
    obtain ⟨st, pc⟩ := h q mem (by simpa using some_lane)
    simp [st, pc]
  rw [endRing, List.singleton_append, List.filter_cons_of_pos (by simpa using threads)]
  refine ⟨_, if_pos (Bool.and_eq_true_iff.2 ⟨rfl, List.all_eq_true.2 all⟩), rfl, rfl, fun l => ?_⟩
  rw [active_iff, getLsbD_foldl_or, getLsbD_noLanes]
  have others : (∃ p ∈ c.rest.filter (fun q => q.lanes != 0), p.lanes.getLsbD l = true) ↔ ∃ p ∈ c.rest, Active p l := by
    constructor
    · rintro ⟨p, mem, lane⟩
      exact ⟨p, (List.mem_filter.1 mem).1, active_iff.2 lane⟩
    · rintro ⟨p, mem, active⟩
      exact ⟨p, List.mem_filter.2 ⟨mem, by simpa using lanes_ne_zero_iff.2 ⟨l, active⟩⟩, active_iff.1 active⟩
  simp only [Bool.false_eq_true, false_or, List.exists_mem_cons_iff, others, active_iff (p := c.path)]

/-! ### The last path leaves (R166) -/

theorem setProgram_program (n : Nat) (p : ProgramRun) (s : State) : programOf (setProgram n p s) n = some p := by
  simp [programOf, setProgram]

theorem putGroup_finished {e slot : Nat} {g : Group} {s : State} {p : ProgramRun} (none_left : g.paths = [])
    (program : programOf s g.ring = some p) : putGroup e slot g s =
      setProgram g.ring { p with live := without p.live g.index, finished := p.finished + 1 }
        (s.onEngine e fun x => { x with slots := tdel x.slots slot }) := by
  have same : programOf (s.onEngine e fun x => { x with slots := tdel x.slots slot }) g.ring = some p := program
  simp only [putGroup, none_left, List.isEmpty_nil, if_true, same]

theorem programOf_congr {s t : State} (h : t.rings = s.rings) (n : Nat) : programOf t n = programOf s n := by
  simp only [programOf, State.ring, h]

/-- An issue that leaves no path frees the group's slot and counts the group as finished. -/
theorem endIssue_finishes {c : Cur} {parts : List Path} {g : Group} {rotate : Bool} {s : State} {p : ProgramRun}
    (none_left : endRing c parts = []) (program : programOf s g.ring = some p) :
    ∃ t, endIssue c g parts rotate s = t ∧ tfind (t.engine c.e).slots c.slot = none ∧ t.pool = s.pool
      ∧ programOf t g.ring = some { p with live := without p.live g.index, finished := p.finished + 1 } := by
  obtain ⟨issues, u, ends, rings, pool⟩ : ∃ issues u, endIssue c g parts rotate s =
      putGroup c.e c.slot { g with paths := [], issues := issues } u ∧ u.rings = s.rings ∧ u.pool = s.pool := by
    unfold endRing at none_left
    unfold endIssue
    rw [none_left]
    exact ⟨_, _, rfl, rfl, rfl⟩
  refine ⟨_, ends.trans (putGroup_finished rfl ((programOf_congr rings _).trans program)), ?_, pool, setProgram_program ..⟩
  exact (congrArg (fun x : Engine => tfind x.slots c.slot) 
    (State.engine_onEngine_same u c.e fun x => { x with slots := tdel x.slots c.slot })).trans (tfind_tdel_same ..)

/-! ### Splits (R153) -/

/-- The part of a path that goes to a target. -/
def partTo (path : Path) (l : List (Nat × Nat)) (t : Nat) : Path :=
  { path with pc := t, lanes := laneSet ((l.filter fun x => x.2 == t).map (·.1)), st := .ready }

theorem partTo_mem_splitBy (path : Path) : ∀ {f : Nat} {l : List (Nat × Nat)} {x : Nat × Nat}, l.length ≤ f → x ∈ l →
    partTo path l x.2 ∈ splitBy path f l
  | 0, [], _, _, mem => by cases mem
  | f + 1, (i, u) :: l, (j, t), fuel, mem => by
    unfold splitBy
    by_cases here : u = t
    · subst here
      refine List.mem_cons.2 (.inl ?_)
      simp [partTo]
    · have rest : (j, t) ∈ l.filter fun x => x.2 != u := by
        rcases List.mem_cons.1 mem with same | mem
        · exact absurd (congrArg Prod.snd same).symm here
        · exact List.mem_filter.2 ⟨mem, by simpa using Ne.symm here⟩
      refine List.mem_cons_of_mem _ ?_
      have part := partTo_mem_splitBy path ((List.length_filter_le ..).trans (Nat.le_of_succ_le_succ fuel)) rest
      have same : ((l.filter fun x => x.2 != u).filter fun x => x.2 == t) = ((i, u) :: l).filter fun x => x.2 == t := by
        rw [List.filter_cons_of_neg (by simpa using here), List.filter_filter]
        refine List.filter_congr fun x _ => ?_
        by_cases x.2 = t <;> simp_all [Ne.symm here]
      rwa [partTo, same] at part

section
variable {path : Path} {dest : Nat → Nat}

/-- The lanes of a path with their targets. -/
def targets (path : Path) (dest : Nat → Nat) : List (Nat × Nat) := (lanesOf path.lanes).map fun i => (i, dest i)

theorem partTo_targets_active {k l : Nat} (active : Active path k) :
    Active (partTo path (targets path dest) (dest l)) k ↔ dest k = dest l := by
  rw [active_iff, partTo, getLsbD_laneSet active.1]
  simp [targets, mem_lanesOf, active]

theorem partTo_targets_mem {l : Nat} (active : Active path l) :
    partTo path (targets path dest) (dest l) ∈ splitBy path 32 (targets path dest) := by
  refine partTo_mem_splitBy path (x := (l, dest l)) ?_ (List.mem_map.2 ⟨l, mem_lanesOf.2 active, rfl⟩)
  rw [targets, List.length_map]
  exact (List.length_filter_le ..).trans (by rw [List.length_range])

end

section
variable {i : Instr} {s s1 : State} {e slot : Nat} {g : Group} {path : Path} {rest : List Path} {prog : ProgramRun} {w op : Nat}
  {run : Cur → State → State} (at_ : AtIssue s s1 e slot g path rest prog w)
  (exec_eq : exec i s = .next (issue op e slot run s)) (hop : wOp w = op)
include at_ exec_eq hop

/-- Threads go to their targets, and those of one target stay together. -/
theorem issuesAs_split {dest : Nat → Nat} (splits : ∃ back, run (cur e slot g path rest prog w) s1 =
      endIssue (cur e slot g path rest prog w) g (splitBy path 32 (targets path dest)) back s1) :
    IssuesAs i s s1 e slot g fun g' => g'.regs = g.regs ∧ (∀ q ∈ rest, q.lanes ≠ 0 → q ∈ g'.paths)
      ∧ ∀ l, Active path l → ∃ q ∈ g'.paths, q.pc = dest l ∧ q.st = .ready ∧ Active q l
        ∧ ∀ k, Active path k → (Active q k ↔ dest k = dest l) := by
  obtain ⟨back, run_eq⟩ := splits
  have part {l : Nat} (active : Active path l) : partTo path (targets path dest) (dest l) ∈ splitBy path 32 (targets path dest)
      ∧ Active (partTo path (targets path dest) (dest l)) l := ⟨partTo_targets_mem active, (partTo_targets_active active).2 rfl⟩
  obtain ⟨l0, active0⟩ := lanes_ne_zero_iff.1 at_.runnable.threads
  have some_ready : ∃ q ∈ splitBy path 32 (targets path dest) ++ (cur e slot g path rest prog w).rest, q.lanes ≠ 0 ∧ q.st = .ready :=
    ⟨_, List.mem_append_left _ (part active0).1, lanes_ne_zero_iff.2 ⟨l0, (part active0).2⟩, rfl⟩
  refine issuesAs_endIssue at_ exec_eq hop run_eq rfl rfl (endRing_ne_nil some_ready)
    fun away issues _ => ⟨rfl, fun q mem threads => ?_, fun l active => ?_⟩
  · exact (mem_movePath _).2 ((mem_endRing some_ready).2 ⟨List.mem_append_right _ mem, threads⟩)
  · refine ⟨_, (mem_movePath _).2 ((mem_endRing some_ready).2 ⟨List.mem_append_left _ (part active).1, ?_⟩), rfl, rfl, (part active).2,
      fun k active => partTo_targets_active active⟩
    exact lanes_ne_zero_iff.2 ⟨l, (part active).2⟩

end

section
variable {e slot : Nat} {g : Group} {path : Path} {rest : List Path} {prog : ProgramRun} {w : Nat} {s : State}

/-- The target of BR, BRZ and BRNZ, and the address after the word. -/
def branchTarget (path : Path) (w : Nat) : Nat := (((path.pc : Int) + 8 * toSigned 16 (wImm w)) % 2 ^ 64).toNat

theorem runBranch_splits {taken : Nat → Bool} {dest : Nat → Nat} (goes : ∀ l, Active path l → dest l =
      if taken (regRead g l (wRa w) 1) then branchTarget path w else (path.pc + 8) % 2 ^ 64) :
    ∃ back, runBranch taken (cur e slot g path rest prog w) s =
      endIssue (cur e slot g path rest prog w) g (splitBy path 32 (targets path dest)) back s := by
  refine ⟨_, congrArg (fun l => endIssue _ g (splitBy path 32 l) _ s) ?_⟩
  rw [List.map_map]
  refine List.map_congr_left fun l mem => ?_
  rw [goes l (mem_lanesOf.1 mem)]
  rfl

theorem runJmp_splits (aligned : ∀ l, Active path l → regRead g l (wRa w) 2 % 8 = 0) :
    ∃ back, runJmp (cur e slot g path rest prog w) s = endIssue (cur e slot g path rest prog w) g
      (splitBy path 32 (targets path fun l => regRead g l (wRa w) 2)) back s := by
  refine ⟨_, (if_neg ?_).trans (congrArg (fun l => endIssue _ g (splitBy path 32 l) _ s) (List.map_map ..))⟩
  simp only [List.any_map, List.any_eq_true, not_exists, not_and]
  intro l mem
  simp [cur, aligned l (mem_lanesOf.1 mem)]

end

section
variable {s s1 : State} {e slot : Nat} {g : Group} {path : Path} {rest : List Path} {prog : ProgramRun} {w : Nat}
  (at_ : AtIssue s s1 e slot g path rest prog w)
include at_

/-- JOIN where every other path with threads stands at it (R153). -/
theorem join_merges (hop : wOp w = 0x14) (joins : ∀ q ∈ rest, q.lanes ≠ 0 → q.st = .join ∧ q.pc = path.pc) :
    IssuesAs (.join e slot) s s1 e slot g fun g' =>
      ∃ q, g'.paths = [q] ∧ q.pc = (path.pc + 8) % 2 ^ 64 ∧ q.st = .ready ∧ g'.regs = g.regs
        ∧ ∀ l, Active q l ↔ Active path l ∨ ∃ p ∈ rest, Active p l := by
  obtain ⟨q, ring, pc, st, lanes⟩ := endRing_joins (c := cur e slot g path rest prog w) at_.runnable.threads joins
  refine issuesAs_endIssue at_ rfl hop (parts := [{ path with st := .join }]) rfl rfl rfl (ring ▸ List.cons_ne_nil _ _)
    fun away issues _ => ⟨q, ?_, pc, st, rfl, lanes⟩
  exact (congrArg (fun r => (movePath isReady away r).1) ring).trans (movePath_single ..)

/-- JOIN where another path may issue (R153). -/
theorem join_stops (hop : wOp w = 0x14) (other : ∃ q ∈ rest, q.lanes ≠ 0 ∧ q.st = .ready) :
    IssuesAs (.join e slot) s s1 e slot g fun g' =>
      g'.regs = g.regs ∧ { path with st := .join } ∈ g'.paths ∧ (∀ q ∈ rest, q.lanes ≠ 0 → q ∈ g'.paths)
      ∧ ∃ q, g'.paths.head? = some q ∧ q.st = .ready ∧ q ∈ rest := by
  have some_ready : ∃ q ∈ [{ path with st := .join }] ++ (cur e slot g path rest prog w).rest, q.lanes ≠ 0 ∧ q.st = .ready := by
    obtain ⟨q, mem, ready⟩ := other
    exact ⟨q, List.mem_append_right _ mem, ready⟩
  refine issuesAs_endIssue at_ rfl hop rfl rfl rfl (endRing_ne_nil some_ready) fun away issues _ => ⟨rfl, ?_, fun q mem threads => ?_, ?_⟩
  · exact (mem_movePath _).2 ((mem_endRing some_ready).2 ⟨List.mem_append_left _ (List.mem_singleton_self _), at_.runnable.threads⟩)
  · exact (mem_movePath _).2 ((mem_endRing some_ready).2 ⟨List.mem_append_right _ mem, threads⟩)
  · exact endRing_turns at_.runnable.threads (.inr PathState.noConfusion) other

/-- SLEEP (R154): the path goes on, behind another that may issue, or the group sleeps. -/
theorem sleep_goesOn (hop : wOp w = 0x15) : IssuesAs (.sleep e slot) s s1 e slot g fun g' =>
    PathsOn path rest ((path.pc + 8) % 2 ^ 64) g' ∧ g'.regs = g.regs
    ∧ ((∀ q ∈ rest, q.st ≠ .ready) → g'.sleeping = min (wImm w) 4096)
    ∧ ((∃ q ∈ rest, q.lanes ≠ 0 ∧ q.st = .ready) → g'.sleeping = 0 ∧ ∃ q ∈ rest, g'.paths.head? = some q) := by
  have threads := at_.runnable.threads
  have some_left : endRing (cur e slot g path rest prog w) [goOn (cur e slot g path rest prog w) 8] ≠ [] := by
    rw [endRing_goOn 8 threads]
    exact List.cons_ne_nil _ _
  cases other : rest.any isReady
  · have alone : ∀ q ∈ rest, q.st ≠ .ready := by simpa [isReady] using other
    refine issuesAs_endIssue (g1 := { g with sleeping := min (wImm w) 4096 }) (parts := [goOn (cur e slot g path rest prog w) 8])
      (rotate := true) at_ rfl hop (by simp [runSleep, cur, other]) rfl rfl some_left
      fun away issues _ => ⟨pathsOn_turned (c := cur e slot g path rest prog w) (away := away) threads rfl, rfl, fun _ => rfl, ?_⟩
    rintro ⟨q, mem, -, ready⟩
    exact absurd ready (alone q mem)
  · obtain ⟨q, mem, ready⟩ : ∃ q ∈ rest, q.st = .ready := by simpa [isReady] using other
    refine issuesAs_endIssue (g1 := g) (parts := [goOn (cur e slot g path rest prog w) 8])
      (rotate := true) at_ rfl hop (by simp [runSleep, cur, other]) rfl rfl some_left
      fun away issues turns => ⟨pathsOn_turned (c := cur e slot g path rest prog w) (away := away) threads rfl, rfl,
      fun none => absurd ready (none q mem),
        fun waits => ⟨at_.runnable.awake, ?_⟩⟩
    obtain ⟨q, head, -, mem⟩ := endRing_turns (c := cur e slot g path rest prog w) (p := goOn (cur e slot g path rest prog w) 8)
      threads (.inl (turns rfl)) waits
    exact ⟨q, mem, head⟩

end

theorem sleepExpire_wakes {s : State} {e slot : Nat} {g : Group} (here : tfind (s.engine e).slots slot = some g)
    (asleep : 0 < g.sleeping) : (match tfind (s.engine e).slots slot with
      | some g => if g.sleeping = 0 then s else setSlot e slot { g with sleeping := 0 } s
      | none => s) = setSlot e slot { g with sleeping := 0 } s := by
  rw [here]
  exact if_neg (by omega)

/-! ### The statement -/

/-- Settles O2: a branch by the split of its path, JOIN by the merge or by the turn of the ring, SLEEP and EXIT by what the end of
their issue leaves, and the end of a sleep by the group that it sets. -/
theorem controlInstructionsMovePaths : Obligations.ControlInstructionsMovePaths := by
  unfold Obligations.ControlInstructionsMovePaths
  refine ⟨fun s s1 e slot g path rest prog w at_ => ⟨fun hop => ?_, fun hop => ?_, fun hop => ?_, fun hop aligned => ?_⟩,
    fun s s1 e slot g path rest prog w at_ hop => ⟨fun joins => ?_, fun other => ?_⟩,
    ⟨fun s s1 e slot g path rest prog w at_ hop => ?_, fun s e slot g here asleep => ?_⟩,
    fun s s1 e slot g path rest prog p1 w at_ hop program => ⟨fun last => ?_, fun other => ?_⟩⟩
  · exact issuesAs_split at_ rfl hop (runBranch_splits fun _ _ => rfl)
  · exact issuesAs_split at_ rfl hop (runBranch_splits fun l _ => by simp only [beq_iff_eq]; rfl)
  · exact issuesAs_split at_ rfl hop (runBranch_splits fun l _ => by simp only [bne_iff_ne]; rfl)
  · exact issuesAs_split at_ rfl hop (runJmp_splits aligned)
  · exact join_merges at_ hop joins
  · exact join_stops at_ hop other
  · exact sleep_goesOn at_ hop
  · exact (setSlot_leaves e slot { g with sleeping := 0 } s).issuesAs (congrArg _ (sleepExpire_wakes here asleep)) rfl rfl rfl
  · have none_left : endRing (cur e slot g path rest prog w) [] = [] := by
      rw [endRing, List.nil_append, List.filter_eq_nil_iff.2 fun q mem => by simpa using last q mem]
      rfl
    obtain ⟨t, ends, slot_eq, pool, finished⟩ := endIssue_finishes (rotate := false) none_left program
    exact ⟨t, (exec_of_atIssue at_ rfl hop).trans (congrArg _ ends), slot_eq, pool, finished⟩
  · have some_ready : ∃ q ∈ [] ++ (cur e slot g path rest prog w).rest, q.lanes ≠ 0 ∧ q.st = .ready := other
    exact issuesAs_endIssue at_ rfl hop (parts := []) rfl rfl rfl (endRing_ne_nil some_ready)
      fun away issues _ => ⟨rfl, fun q => (mem_movePath _).trans (mem_endRing some_ready)⟩

end Sys2Proof.Proofs.ControlInstructions
end

section
/-! SUPPORT. The start of a group and the modes of an engine (R143, R148, R149, R164): the slot that a group takes, and the statement
on them. -/

namespace Sys2Proof.Proofs.GroupStarts

open Sys2Proof.Machine Sys2Proof.Safety Sys2Proof.Proofs.EngineWrites Sys2Proof.Proofs.IssueEnds

/-- An engine with a free slot gives its lowest one. -/
theorem freeSlot_lowest {x : Engine} (h : ∃ k, k < 128 ∧ tfind x.slots k = none) :
    ∃ k, freeSlot x = some k ∧ k < 128 ∧ tfind x.slots k = none ∧ ∀ j, j < k → tfind x.slots j ≠ none := by
  obtain ⟨m, inside, free⟩ := h
  have some_free : (freeSlot x).isSome = true := by
    rw [freeSlot, firstBelow, List.find?_isSome]
    exact ⟨m, List.mem_range.2 inside, by rw [free]; rfl⟩
  obtain ⟨k, found⟩ := Option.isSome_iff_exists.1 some_free
  obtain ⟨free, inside, lowest⟩ := List.find?_range_eq_some.1 found
  refine ⟨k, found, List.mem_range.1 inside, by simpa using free, fun j below none => ?_⟩
  have taken := lowest j below
  rw [none] at taken
  cases taken

theorem regRead_noRegs {g : Group} (h : g.regs = []) (lane m : Nat) : ∀ r, regRead g lane r m = 0 := by
  induction m with
  | zero => exact fun _ => rfl
  | succ m ih => exact fun r => by rw [regRead, ih, h]; rfl

/-- The group that a program starts next (R153). -/
def firstGroup (n : Nat) (p : ProgramRun) : Group := { ring := n, index := p.next, paths := [{ pc := p.entry, lanes := 0xFFFFFFFF }] }

/-- A program with a group to start, on an engine of its own that has room. -/
theorem startGroup_takes {s : State} {n e k : Nat} {p : ProgramRun} (program : programOf s n = some p) (admitted : p.admitted = true)
    (running : p.stop = none) (own : e ∈ p.used) (more : p.next < p.grid)
    (room : ((s.engine e).slots.filter fun x => x.2.ring == n).length < p.groups) (slot : freeSlot (s.engine e) = some k) :
    startGroup n e s = setSlot e k (firstGroup n p) (setProgram n { p with next := p.next + 1, live := p.live ++ [p.next] } s) := by
  have goes : (!p.admitted || p.stop.isSome || !p.used.contains e || decide (p.next ≥ p.grid)
      || decide (residents (s.engine e) n ≥ p.groups)) = false := by
    simp [admitted, running, own, more, residents, room]
  simp only [startGroup, program, goes, slot, Bool.false_eq_true, if_false]
  rfl

/-- Settles O13: a start by the group set in the lowest free slot, an engine's mode by its one change. -/
theorem groupsStartAndEnginesRecover : Obligations.GroupsStartAndEnginesRecover := by
  unfold Obligations.GroupsStartAndEnginesRecover
  refine ⟨fun s n e p program admitted running own more room free => ?_, fun s e => ⟨fun recovering => ?_, fun starting powered => ?_⟩⟩
  · obtain ⟨k, slot, inside, free, lowest⟩ := freeSlot_lowest free
    obtain ⟨here, -, others, -, -, -, -, -, slots⟩ :=
      setSlot_leaves e k (firstGroup n p) (setProgram n { p with next := p.next + 1, live := p.live ++ [p.next] } s)
    refine ⟨_, k, firstGroup n p, congrArg Host.Outcome.next (startGroup_takes program admitted running own more room slot),
      inside, free, lowest, here,
      rfl, rfl, rfl, fun l r m => regRead_noRegs rfl l m r, others, rfl, rfl, ?_, slots⟩
    exact ControlInstructions.setProgram_program ..
  · exact ⟨_, congrArg Host.Outcome.next (if_pos recovering), onEngine_engines .., fun _ other => State.engine_onEngine_other _ _ other,
      State.engine_onEngine_same ..⟩
  · have on : dieOn s (e / 136 + 1) = true := by simpa [dieOn] using powered
    exact ⟨_, congrArg Host.Outcome.next (if_pos (by simp [starting, on])), onEngine_engines ..,
      fun _ other => State.engine_onEngine_other _ _ other,
      State.engine_onEngine_same ..⟩

end Sys2Proof.Proofs.GroupStarts
end

section
/-! SUPPORT. A group that issued last and may not issue a second instruction in the same turn (R146, R147): its command leaves the state
as it is, an illegal word too; and with it the refutation of the statement on illegal words. -/

namespace Sys2Proof.Proofs.IllegalWords

open Sys2Proof.Machine Sys2Proof.Safety Sys2Proof.Claims

/-- A word that may not issue as the second of its turn is not looked at further (R147). -/
theorem issue_of_notSecond {s : State} {e slot : Nat} {g : Group} {path : Path} {rest : List Path} {prog : ProgramRun} {w op : Nat}
    (run : Cur → State → State) (h : Runnable s e slot g path rest prog) (word : Brings (fetchAt s e slot path path.pc) w)
    (turnUsed : maySecond s e slot path w = false) : issue op e slot run s = s := by
  obtain ⟨here, program, running, awake, paths, ready, -, turn, -⟩ := h
  obtain ⟨b, data, clean, rfl⟩ := word
  obtain ⟨s1, read⟩ : ∃ s1, vaRead (engineKeep s e) e (laneOwner e slot (lowest path)) .fetch path.pc 8 s = (.data b, s1) :=
    ⟨_, Prod.ext data rfl⟩
  have some_ready : (path :: rest).any isReady = true := by simp [isReady, ready]
  unfold issue
  simp only [here, program, paths, movePath_ready _ _ ready, some_ready, if_true, running, awake, ready, turn, read, clean, turnUsed]
  simp

/-! ### The counterexample -/

/-- IADD of the type code 15, which no form lists (Table 11 of chapter 06). -/
def illegalIadd : Nat := 0x01F0102030000000

/-- A program of 32 registers with two groups, and the paths of one lane at which they stand. -/
def program : ProgramRun := {
  groups := 2, regs := 32, engines := 1, admitted := true, used := [0]
  entry := 0x4000, grid := 2, next := 2, live := [0, 1] }
def path : Path := { pc := 0x4000, lanes := 1 }
def group (index : Nat) : Group := { ring := 0, index := index, paths := [path] }

/-- An engine in ready-group mode whose slot 0 has issued one instruction of the INT pipe in its turn, the group of slot 1 being ready
too; the word at its path's address is illegal. -/
def turnUsed : State := { State.reset with
  boot := { ready := true, stage := 7, trained := true }
  pwr := { State.reset.pwr with dieOff := [], profile := 2, rung := 0 }
  rings := [(0, { State.reset.ring 0 with state := .running, op := some (.program program) })]
  engines := [(0, {
    mode := 0, slots := [(0, group 0), (1, group 1)]
    last := some { slot := 0, lanes := 1, slots := 1, pipe := 2 }, streak := 1 })]
  xlt := { State.reset.xlt with l1 := [(0, [{ va := 0, log2 := 30, pa := 0, flags := 0xDF, pbmt := 0 }])] }
  pool := { State.reset.pool with mem := memWrite [] 0x4000 (toBytes 8 illegalIadd) } }

theorem turnUsed_runnable : Runnable turnUsed 0 0 (group 0) path [] program where
  here := rfl
  program := rfl
  running := rfl
  awake := rfl
  paths := rfl
  ready := rfl
  threads := by decide
  turn := by decide +kernel
  clean := rfl

/-- A fetch that brings a word, by what it answers. -/
theorem brings_of_eq {r : Got × State} {w : Nat} {b : List (Byte × Bool)} (data : r.1 = .data b) (clean : anyPoison b = false)
    (word : ofBytes (plain b) = w) : Brings r w := ⟨b, data, clean, word⟩

theorem turnUsed_brings : Brings (fetchAt turnUsed 0 0 path 0x4000) illegalIadd :=
  brings_of_eq (b := (toBytes 8 illegalIadd).map (·, false)) (by decide +kernel) (by decide +kernel) (by decide +kernel)

theorem turnUsed_program : programOf (fetchAt turnUsed 0 0 path 0x4000).2 0 = some program := by decide +kernel

/-- The command that would issue the word leaves the state as it is. -/
theorem turnUsed_waits : exec (.iadd 0 0) turnUsed = .next turnUsed :=
  congrArg Host.Outcome.next (issue_of_notSecond (runInt 0x01) turnUsed_runnable turnUsed_brings (by decide +kernel))

/-- Refutes O12: an illegal word does not stop its program at once where its group may not issue a second instruction in the turn.
In ready-group mode the group that issued last runs first, another group being ready; its illegal IADD would take the pipe of the
instruction that it issued in this turn, so the command leaves the state as it is and the program runs on. -/
theorem not_illegalInstructionsStopTheProgram : ¬ Obligations.IllegalInstructionsStopTheProgram := by
  unfold Obligations.IllegalInstructionsStopTheProgram
  rintro ⟨stops, -⟩
  obtain ⟨stop, -⟩ := stops turnUsed 0 0 (group 0) path [] program program illegalIadd turnUsed_runnable turnUsed_brings (by decide)
    turnUsed_program rfl
  have same := Host.Outcome.next.inj (turnUsed_waits.symm.trans (stop (0x01, .iadd 0 0) (by simp [opcodes]) (by decide)))
  have stopped := congrArg (programOf · 0) same
  have running : programOf turnUsed 0 = some program := turnUsed_runnable.program
  rw [show (group 0).ring = 0 from rfl, ControlInstructions.setProgram_program, running] at stopped
  cases stopped

end Sys2Proof.Proofs.IllegalWords
end

section
/-! SUPPORT. Counters, waits and fences of the engines (R158, R159, R217): what a release at fabric scope waits for, which paths the end
of a wait frees, and the statement on them. -/

namespace Sys2Proof.Proofs.CountersAndWaits

open Sys2Proof.Machine Sys2Proof.Safety Sys2Proof.Claims Sys2Proof.Proofs.EngineWrites Sys2Proof.Proofs.IssueEnds
open Sys2Proof.Proofs.ControlInstructions

/-! ### Stops (R166) -/

/-- A running program stops with a result. -/
theorem stopProgram_stops {s : State} {n : Nat} {p : ProgramRun} (program : programOf s n = some p) (running : p.stop = none) (r : Res) :
    programOf (stopProgram n r s) n = some { p with stop := some r } := by
  simp only [stopProgram, program, running, Option.isNone_none, if_true]
  exact setProgram_program ..

/-! ### Releases (R217) -/

section
variable {c : Cur} {s : State} {k : Cur → State → State}

theorem fabricPending_iff : fabricPending c s = true ↔
    ∃ t ∈ s.fab.tx, ∃ k, t.owner = .engine c.e k ∧ k / 32 = c.slot ∧ Active c.path (k % 32) := by
  have lane (k : Nat) : k % 32 < 32 := Nat.mod_lt _ (by decide)
  simp only [fabricPending, List.any_eq_true]
  refine exists_congr fun t => and_congr_right fun _ => ?_
  cases t.owner <;> simp [Active, lane, and_assoc]

/-- Nothing at fabric scope is to be waited for. -/
theorem afterRelease_goes (h : wSc c.w ≠ 3 ∨ wSpace c.w ≠ 0 ∨ bit (wOrd c.w) 1 = false ∨ fabricPending c s = false) :
    afterRelease c k s = k c s := by
  refine if_neg ?_
  rcases h with h | h | h | h <;> simp [h]

theorem afterRelease_waits (scope : wSc c.w = 3) (space : wSpace c.w = 0) (release : bit (wOrd c.w) 1 = true)
    (pending : fabricPending c s = true) : afterRelease c k s = blockPath c s :=
  if_pos (by simp [scope, space, release, pending])

end

/-! ### Waits (R158) -/

theorem waitOver_iff {x target : BitVec 32} : waitOver x target = true ↔ (x - target).toNat < 2 ^ 31 := decide_eq_true_iff

/-- The end of a wait frees the paths whose counters have reached their targets, and no other. -/
theorem releaseWaits_frees {s : State} {e slot : Nat} {g : Group} {p : Path} {k : Nat} {v : BitVec 32}
    (here : tfind (s.engine e).slots slot = some g) (mem : p ∈ g.paths) (waits : p.st = .counter k v)
    (reaches : (tget 0 (s.engine e).counters k - v).toNat < 2 ^ 31) :
    ∃ ps, releaseWaits e slot s = setSlot e slot { g with paths := ps } s ∧ { p with st := .ready } ∈ ps
      ∧ ∀ q ∈ g.paths, (∀ j x, q.st ≠ .counter j x) → q ∈ ps := by
  have reached : waitOver (counterOf s e k) v = true := waitOver_iff.2 reaches
  unfold releaseWaits
  rw [here]
  refine ⟨_, if_neg fun same => ?_, List.mem_map.2 ⟨p, mem, ?_⟩, fun q here other => List.mem_map.2 ⟨q, here, ?_⟩⟩
  · have fixed := List.map_inj_left.1 (same.trans (List.map_id _).symm) p mem
    simp only [waits, reached, if_true, id_eq] at fixed
    rw [← fixed] at waits
    cases waits
  · simp only [waits, reached, if_true]
  · cases st : q.st with
    | counter j x => exact absurd st (other j x)
    | _ => rfl

/-- The wait of a group that is not over in time is the one that stops its program (R159). -/
theorem execWaitTimeout_stops {s : State} {e slot : Nat} {g : Group} {p : Path} {k : Nat} {v : BitVec 32}
    (here : tfind (s.engine e).slots slot = some g) (mem : p ∈ g.paths) (waits : p.st = .counter k v)
    (late : 2 ^ 31 ≤ (tget 0 (s.engine e).counters k - v).toNat)
    (one : ∀ q ∈ g.paths, q.lanes = p.lanes ∨ ∀ j x, q.st ≠ .counter j x) :
    execWaitTimeout e slot s = .next (stopProgram g.ring { status := 0x51, element := g.index * 32 + lowest p } s) := by
  have waiting : waitOver (counterOf s e k) v = false := Bool.eq_false_iff.2 fun h => absurd (waitOver_iff.1 h) (Nat.not_lt.2 late)
  unfold execWaitTimeout
  rw [here]
  dsimp only
  split
  · next q found =>
    have lanes : q.lanes = p.lanes := by
      refine (one q (List.mem_of_find?_eq_some found)).resolve_right fun other => ?_
      have counts := List.find?_some found
      cases st : q.st with
      | counter j x => exact other j x st
      | _ => simp [st] at counts
    rw [lowest, lanes]
    rfl
  · next none_found => simpa [waits, waiting] using List.find?_eq_none.1 none_found p mem

/-! ### The statement -/

section
variable {s s1 : State} {e slot : Nat} {g : Group} {path : Path} {rest : List Path} {prog : ProgramRun} {w : Nat}
  (at_ : AtIssue s s1 e slot g path rest prog w)
include at_

theorem rdcnt_result (hop : wOp w = 0x57) : Result (.rdcnt e slot) s s1 e slot g path rest w fun g' l =>
    regRead g' l (wRd w) 1 = (tget 0 (s1.engine e).counters (wFmt w)).toNat := by
  rw [Result, IntegerInstructions.tyRegs_of_legal at_.lawful (by simp [formOf, hop])]
  refine writesRd_of_eachLane at_ rfl hop (by simp [formOf, hop]) rfl fun g' l h => h.trans ?_
  exact Nat.mod_eq_of_lt (BitVec.isLt _)

theorem setcnt_goesOn (hop : wOp w = 0x58) (reserved : bit prog.counters (wFmt w) = true) :
    GoesOn (.setcnt e slot) s e slot g path rest fun t => EnginesOnly s1 t ∧ OtherEngines e s1 t
      ∧ tget 0 (t.engine e).counters (wFmt w) = BitVec.ofNat 32 (regRead g (lowest path) (wRa w) 1)
      ∧ ∀ j, j ≠ wFmt w → tget 0 (t.engine e).counters j = tget 0 (s1.engine e).counters j := by
  refine goesOn_endPlain (u := s1.onEngine e fun x => { x with
    counters := tput 0 x.counters (wFmt w) (BitVec.ofNat 32 (regRead g (lowest path) (wRa w) 1)) }) at_ rfl hop
    (if_pos reserved) fun t engines others groups => ?_
  obtain ⟨-, -, -, counters, -⟩ := groups
  refine ⟨enginesOnly_trans (onEngine_engines ..) engines, fun k other => (others k other).trans
    (State.engine_onEngine_other _ _ other), ?_,
    fun j other => ?_⟩
  · rw [counters, State.engine_onEngine_same]
    exact tget_tput_same ..
  · rw [counters, State.engine_onEngine_same]
    exact tget_tput_other _ _ _ other

theorem setcnt_stops (hop : wOp w = 0x58) (unreserved : bit prog.counters (wFmt w) = false) (program : programOf s1 g.ring = some prog) :
    Stops (.setcnt e slot) s g.ring
      { status := 0x31, role := 11, reason := 0xF, element := g.index * 32 + lowest path, address := path.pc } := by
  have stops : runSetcnt (cur e slot g path rest prog w) s1 = stopLane (cur e slot g path rest prog w) (lowest path) 0x31 0xF path.pc s1 :=
    if_neg (by simp [hasCounter, cur, unreserved])
  exact ⟨_, _, (exec_of_atIssue at_ rfl hop).trans (congrArg Host.Outcome.next stops),
    stopProgram_stops program at_.runnable.running _, rfl⟩

theorem wait_goesOn (hop : wOp w = 0x59) (reached : (tget 0 (s1.engine e).counters (wFmt w)
      - BitVec.ofNat 32 (regRead g (lowest path) (wRa w) 1)).toNat < 2 ^ 31) :
    IssuesAs (.wait e slot) s s1 e slot g fun g' => PathsOn path rest ((path.pc + 8) % 2 ^ 64) g' ∧ g'.regs = g.regs := by
  refine issuesAs_endPlain at_ rfl hop (congrArg (fun p => endIssue _ g [p] false s1) (if_pos ?_))
  exact waitOver_iff.2 reached

theorem wait_blocks (hop : wOp w = 0x59) (short : 2 ^ 31 ≤ (tget 0 (s1.engine e).counters (wFmt w)
      - BitVec.ofNat 32 (regRead g (lowest path) (wRa w) 1)).toNat) :
    IssuesAs (.wait e slot) s s1 e slot g fun g' => g'.regs = g.regs ∧ { path with
      pc := (path.pc + 8) % 2 ^ 64
      st := .counter (wFmt w) (BitVec.ofNat 32 (regRead g (lowest path) (wRa w) 1))
      tstore := none } ∈ g'.paths := by
  have ring := endRing_notJoin (c := cur e slot g path rest prog w) (p := { path with
    pc := (path.pc + 8) % 2 ^ 64
    st := .counter (wFmt w) (BitVec.ofNat 32 (regRead g (lowest path) (wRa w) 1))
    tstore := none }) at_.runnable.threads PathState.noConfusion
  refine issuesAs_endIssue at_ rfl hop (congrArg (fun p => endIssue _ g [p] false s1) (if_neg ?_)) rfl rfl (ring ▸ List.cons_ne_nil _ _)
    fun away issues _ => ⟨rfl, (mem_movePath _).2 (ring ▸ List.mem_cons_self ..)⟩
  exact fun h => absurd (waitOver_iff.1 h) (Nat.not_lt.2 short)

theorem fence_scope (hop : wOp w = 0x5A) : wSpace w = 0 ∧ bit (wOrd w) 1 = true := by
  have codes : (wAux w == 0 && wOrd w == 3) = true := ok_of_legal at_.lawful (by simp [formOf, hop])
  simp only [Bool.and_eq_true, beq_iff_eq] at codes
  obtain ⟨aux, order⟩ := codes
  refine ⟨?_, by rw [order]; decide⟩
  unfold wAux wSpace bits at *
  omega

end

/-- Settles O11: RDCNT, SETCNT and WAIT by what they do to their counter or path (log entry 40: the register is that of the lowest active
lane), the end of a wait by the paths that it frees, its timeout by the stop of the program (R171, R173), FENCE by its release. -/
theorem countersWaitsAndFences : Obligations.CountersWaitsAndFences := by
  unfold Obligations.CountersWaitsAndFences
  refine ⟨fun s s1 e slot g path rest prog w at_ => ⟨rdcnt_result at_, setcnt_goesOn at_, setcnt_stops at_, wait_goesOn at_,
    wait_blocks at_⟩, fun s e slot g p k v here mem waits => ⟨fun reaches => ?_, fun prog late one program running => ?_⟩,
    fun s s1 e slot g path rest prog w at_ hop => ⟨fun free => ?_, fun scope mine => ?_⟩⟩
  · obtain ⟨ps, frees, freed, others⟩ := releaseWaits_frees here mem waits reaches
    exact (setSlot_leaves e slot { g with paths := ps } s).issuesAs (congrArg Host.Outcome.next frees) rfl rfl ⟨rfl, freed, others⟩
  · exact ⟨_, _, execWaitTimeout_stops here mem waits late one, stopProgram_stops program running _, rfl⟩
  · refine issuesAs_endPlain at_ rfl hop (afterRelease_goes ?_)
    rcases free with scope | free
    · exact .inl scope
    · exact .inr (.inr (.inr (Bool.eq_false_iff.2 fun pending => free (fabricPending_iff.1 pending))))
  · obtain ⟨space, release⟩ := fence_scope at_ hop
    exact issuesAs_blockPath at_ rfl hop (afterRelease_waits scope space release (fabricPending_iff.2 mine))

end Sys2Proof.Proofs.CountersAndWaits
end

section
/-! SUPPORT. Scratch and staging of a program (R144, R145, R173): the grant that an engine holds for it, and what the bytes of a space and
their poison are after a store. -/

namespace Sys2Proof.Proofs.GrantSpaces

open Sys2Proof.Machine Sys2Proof.Safety Sys2Proof.Claims Sys2Proof.Proofs.EngineWrites

/-! ### The grant of a program -/

theorem grantOf_ring {x : Engine} {n : Nat} {gr : Grant} (h : grantOf x n = some gr) : gr.ring = n := by
  simpa using List.find?_some h

/-- A ring's grant after each grant of it has been changed, its ring kept. -/
theorem find?_ring_map {f : Grant → Grant} {n : Nat} {gr : Grant} {l : List Grant} (kept : ∀ x, (f x).ring = x.ring)
    (h : l.find? (fun g => g.ring == n) = some gr) : (l.map f).find? (fun g => g.ring == n) = some (f gr) := by
  have same : (fun g : Grant => g.ring == n) ∘ f = fun g => g.ring == n := funext fun x => by simp [kept]
  rw [List.find?_map, same, h]
  rfl

theorem grantOf_setGrant {x : Engine} {n : Nat} {gr gr' : Grant} (h : grantOf x n = some gr) (ring : gr'.ring = n) :
    grantOf (setGrant gr' x) n = some gr' := by
  have changed := find?_ring_map (f := fun y => if y.ring = gr'.ring then gr' else y) (fun y => by split <;> simp_all) h
  rw [if_pos ((grantOf_ring h).trans ring.symm)] at changed
  exact changed

/-! ### Sets of numbers -/

theorem mem_setAdd {a n : Nat} : ∀ {l : List Nat}, a ∈ setAdd l n ↔ a = n ∨ a ∈ l
  | [] => by simp [setAdd]
  | k :: l => by
    unfold setAdd
    split
    · next same => subst same; simp
    · split
      · simp
      · rw [List.mem_cons, mem_setAdd, List.mem_cons]
        tauto

theorem mem_without {a n : Nat} {l : List Nat} : a ∈ without l n ↔ a ∈ l ∧ a ≠ n := by
  simp [without]

/-- The marks of n numbers from a base are set or taken one by one; the others stay. -/
theorem mem_foldl_marks (base : Nat) (bad : Nat → Bool) (l : List Nat) (a : Nat) : ∀ n,
    a ∈ (List.range n).foldl (fun l i => if bad i then setAdd l (base + i) else without l (base + i)) l ↔
      if base ≤ a ∧ a < base + n then bad (a - base) = true else a ∈ l
  | 0 => by
    rw [if_neg (by omega)]
    rfl
  | n + 1 => by
    have step := mem_foldl_marks base bad l a n
    rw [List.range_succ, List.foldl_append, List.foldl_cons, List.foldl_nil]
    by_cases here : a = base + n
    · subst here
      have inside : base ≤ base + n ∧ base + n < base + (n + 1) := by omega
      rw [if_pos inside, Nat.add_sub_cancel_left]
      split <;> simp [mem_setAdd, mem_without, *]
    · have same : (base ≤ a ∧ a < base + (n + 1)) ↔ base ≤ a ∧ a < base + n := by omega
      simp only [same]
      rw [← step]
      split <;> simp [mem_setAdd, mem_without, here]

/-! ### A store in a space -/

section
variable (sp off : Nat) (b : List (Byte × Bool)) (g : Grant)

@[simp] theorem spaceWrite_ring : (spaceWrite sp off b g).ring = g.ring := by
  unfold spaceWrite
  dsimp only
  split <;> rfl

@[simp] theorem spaceSize_spaceWrite : spaceSize (spaceWrite sp off b g) sp = spaceSize g sp := by
  unfold spaceWrite spaceSize
  dsimp only
  split <;> rfl

theorem spaceMem_spaceWrite : spaceMem (spaceWrite sp off b g) sp = memWrite (spaceMem g sp) off (b.map (·.1)) := by
  unfold spaceWrite spaceMem
  dsimp only
  split <;> rfl

theorem memByte_spaceWrite (a : Nat) : memByte (spaceMem (spaceWrite sp off b g) sp) a =
    if off ≤ a ∧ a < off + b.length then (nth (0, false) b (a - off)).1 else memByte (spaceMem g sp) a := by
  rw [spaceMem_spaceWrite, memByte_memWrite, List.length_map]
  split
  · next inside =>
    have short : a - off < b.length := by omega
    simp [nth, short]
  · rfl

theorem mem_spacePoison_spaceWrite (a : Nat) : a ∈ spacePoison (spaceWrite sp off b g) sp ↔
    if off ≤ a ∧ a < off + b.length then (nth (0, false) b (a - off)).2 = true else a ∈ spacePoison g sp := by
  rw [← mem_foldl_marks off (fun i => (nth (0, false) b i).2)]
  unfold spaceWrite spacePoison
  dsimp only
  split <;> rfl

end

/-! ### Reaches of a space -/

/-- An aligned access of n bytes at an offset lies in a space of the grant. -/
def Inside (gr : Grant) (sp : Nat) (off : Int) (n : Nat) : Prop :=
  off % (n : Int) = 0 ∧ 0 ≤ off ∧ off + (n : Int) ≤ (spaceSize gr sp : Nat)

theorem inside_of_reaches {gr : Grant} {sp n : Nat} {off : Int} (reach : Reaches gr sp off n n) : Inside gr sp off n := by
  obtain ⟨aligned, low, high, -⟩ := reach
  exact ⟨aligned, low, high⟩

theorem inside_spaceWrite {gr : Grant} {sp n at_ : Nat} {off : Int} (b : List (Byte × Bool)) (h : Inside gr sp off n) :
    Inside (spaceWrite sp at_ b gr) sp off n := by
  rw [Inside, spaceSize_spaceWrite]
  exact h

/-- An access of a lane inside its space is not refused (R173). -/
theorem badAccess_inside {c : Cur} {i n : Nat} {s : State} {gr : Grant} (grant : curGrant c s = some gr)
    (inside : Inside gr (wSpace c.w) (laneAddr c i) n) : badAccess c i n n s = false := by
  obtain ⟨aligned, low, high⟩ := inside
  simp [badAccess, aligned, grant, inSpace, low, high]

/-- No byte of an access that reaches its place is poisoned. -/
theorem clean_reaches {gr : Grant} {sp n : Nat} {off : Int} (reach : Reaches gr sp off n n) :
    (span off.toNat n).any (spacePoison gr sp).contains = false := by
  obtain ⟨-, low, -, clean⟩ := reach
  simp only [List.any_eq_false, span, List.mem_map, List.mem_range, List.contains_iff_mem]
  rintro _ ⟨k, below, rfl⟩ bad
  have := clean _ bad
  omega

theorem laneAddr_space {e slot : Nat} {g : Group} {path : Path} {rest : List Path} {prog : ProgramRun} {w : Nat} (space : wSpace w ≠ 0)
    (l : Nat) : laneAddr (cur e slot g path rest prog w) l = spaceAddr g w l := if_neg space

theorem laneAddr_memory {e slot : Nat} {g : Group} {path : Path} {rest : List Path} {prog : ProgramRun} {w : Nat} (space : wSpace w = 0)
    (l : Nat) : laneAddr (cur e slot g path rest prog w) l = (memAddr g w l : Int) := if_pos space

/-- As `badAccess_inside`, by the lane's offset in the space. -/
theorem badAccess_space {e slot : Nat} {g : Group} {path : Path} {rest : List Path} {prog : ProgramRun} {w l n : Nat}
    {s : State} {gr : Grant}
    (space : wSpace w ≠ 0) (grant : grantOf (s.engine e) g.ring = some gr) (inside : Inside gr (wSpace w) (spaceAddr g w l) n) :
    badAccess (cur e slot g path rest prog w) l n n s = false := by
  have held : curGrant (cur e slot g path rest prog w) s = some gr := grant
  rw [← laneAddr_space (e := e) (slot := slot) (path := path) (rest := rest) (prog := prog) space] at inside
  exact badAccess_inside held inside

end Sys2Proof.Proofs.GrantSpaces
end

section
/-! SUPPORT. Loads and stores of the engines (R170, R173): what the lanes of a load read one after another, what the lanes of a store leave
in a space of the grant, and the statement on them. -/

namespace Sys2Proof.Proofs.LoadsAndStores

open Sys2Proof.Machine Sys2Proof.Safety Sys2Proof.Claims Sys2Proof.Proofs.EngineWrites Sys2Proof.Proofs.IssueEnds
open Sys2Proof.Proofs.GrantSpaces Sys2Proof.Proofs.CountersAndWaits

/-! ### Lanes in turn -/

theorem runLanes_value {f : Nat → State → LaneEnd × State} {i v : Nat} {is : List Nat} {vs : List (Nat × Nat)} {s s1 t : State}
    (first : f i s = (.value v, s1)) (others : runLanes f is s1 = ((vs, none), t)) :
    runLanes f (i :: is) s = (((i, v) :: vs, none), t) := by
  rw [runLanes, first]
  simp only [others]

/-- Lanes that each end with a value and leave the state as it is. -/
theorem runLanes_still {f : Nat → State → LaneEnd × State} {val : Nat → Nat} {s : State} : ∀ {is : List Nat},
    (∀ i ∈ is, f i s = (.value (val i), s)) → runLanes f is s = ((is.map fun i => (i, val i), none), s)
  | [], _ => rfl
  | i :: _, h => runLanes_value (h i (List.mem_cons_self ..)) (runLanes_still fun j hj => h j (List.mem_cons_of_mem _ hj))

section
variable {e slot : Nat} {g : Group} {path : Path} {rest : List Path} {prog : ProgramRun} {w : Nat}

theorem badAccess_memory {i n : Nat} {s : State} (space : wSpace w = 0) (aligned : memAddr g w i % n = 0) :
    badAccess (cur e slot g path rest prog w) i n n s = false := by
  rw [badAccess, laneAddr_memory space]
  have zero : (memAddr g w i : Int) % (n : Int) = 0 := by exact_mod_cast aligned
  simp [zero, cur, space]

/-! ### Loads -/

/-- The lanes' values are written to RD in the instruction's type. -/
theorem writeBack_values (val : Nat → Nat) (lanes : List Nat) (s : State) :
    writeBack (cur e slot g path rest prog w) (lanes.map fun l => (l, val l)) s = endPlain (cur e slot g path rest prog w)
      (writeLanes (wRd w) (tyRegs (wTy w)) (fun l => regValue (wTy w) (val l)) lanes g) s := by
  rw [writeBack, List.foldl_map]
  rfl

/-- A load of a lane that reaches its place in scratch or staging. -/
theorem loadLane_space {l : Nat} {s : State} {gr : Grant} (space : wSpace w ≠ 0) (grant : grantOf (s.engine e) g.ring = some gr)
    (reach : Reaches gr (wSpace w) (spaceAddr g w l) (tyBits (wTy w) / 8) (tyBits (wTy w) / 8)) :
    loadLane (cur e slot g path rest prog w) l s =
      (.value (ofBytes (memRead (spaceMem gr (wSpace w)) (spaceAddr g w l).toNat (tyBits (wTy w) / 8))), s) := by
  have held : curGrant (cur e slot g path rest prog w) s = some gr := grant
  have allowed := badAccess_space (slot := slot) (path := path) (rest := rest) (prog := prog) space grant (inside_of_reaches reach)
  have unmarked := clean_reaches reach
  simp [loadLane, tyBytes, allowed, space, held, laneAddr_space space, unmarked]

/-- A load of a lane in memory that brings its bytes. -/
theorem loadLane_memory {l : Nat} {s s1 : State} {b : List (Byte × Bool)} (space : wSpace w = 0)
    (aligned : memAddr g w l % (tyBits (wTy w) / 8) = 0)
    (read : vaRead (engineKeep s e) e (laneOwner e slot l) .read (memAddr g w l) (tyBits (wTy w) / 8) s = (.data b, s1))
    (clean : anyPoison b = false) :
    loadLane (cur e slot g path rest prog w) l s = (.value (ofBytes (plain b)), s1) := by
  have allowed := badAccess_memory (e := e) (slot := slot) (path := path) (rest := rest) (prog := prog) (s := s) space aligned
  simp [loadLane, tyBytes, allowed, space, laneAddr_memory space, read, clean]

theorem runLanes_load {val : Nat → Nat} {lanes : List Nat} {s t : State} (space : wSpace w = 0)
    (loads : LanesLoad e slot (tyBits (wTy w) / 8) (memAddr g w) val lanes s t)
    (aligned : ∀ l ∈ lanes, memAddr g w l % (tyBits (wTy w) / 8) = 0) :
    runLanes (loadLane (cur e slot g path rest prog w)) lanes s = ((lanes.map fun l => (l, val l), none), t) := by
  induction loads with
  | nil s => rfl
  | cons l ls b s s1 s2 read clean value others ih =>
    rw [List.map_cons, ← value]
    exact runLanes_value (loadLane_memory space (aligned l (List.mem_cons_self ..)) read clean)
      (ih fun k mem => aligned k (List.mem_cons_of_mem _ mem))

section
variable {s s1 u : State} (at_ : AtIssue s s1 e slot g path rest prog w) (hop : wOp w = 0x50)
include at_ hop

/-- A load whose lanes all bring a value. -/
theorem ld_result {val : Nat → Nat} (free : wSc w ≠ 3 ∨ wSpace w ≠ 0 ∨ bit (wOrd w) 1 = false)
    (loads : runLanes (loadLane (cur e slot g path rest prog w)) (lanesOf path.lanes) s1 =
      (((lanesOf path.lanes).map fun l => (l, val l), none), u)) :
    Result (.ld e slot) s u e slot g path rest w fun g' l =>
      regRead g' l (wRd w) (tyRegs (wTy w)) = regValue (wTy w) (val l) := by
  refine result_writeLanes at_ rfl hop (by simp [formOf, hop]) ((afterRelease_goes ?_).trans ?_) fun g' l _ h => h
  · rcases free with h | h | h <;> simp [h]
  · rw [cur_path, loads]
    exact writeBack_values ..

end

/-! ### Stores -/

/-- The bytes that a lane stores. -/
def laneBytes (g : Group) (w l : Nat) : List (Byte × Bool) :=
  (toBytes (tyBits (wTy w) / 8) (tyRead g l (wTy w) (wRd w))).map (·, false)

/-- A grant after the stores of lanes in its space, one after another. -/
def storeAll (g : Group) (w : Nat) (lanes : List Nat) (gr : Grant) : Grant :=
  lanes.foldl (fun gr l => spaceWrite (wSpace w) (spaceAddr g w l).toNat (laneBytes g w l) gr) gr

theorem storeLane_space {l : Nat} {s : State} {gr : Grant} (space : wSpace w ≠ 0) (grant : grantOf (s.engine e) g.ring = some gr)
    (inside : Inside gr (wSpace w) (spaceAddr g w l) (tyBits (wTy w) / 8)) :
    storeLane (cur e slot g path rest prog w) l s =
      (.value 0, putGrant e (spaceWrite (wSpace w) (spaceAddr g w l).toNat (laneBytes g w l) gr) s) := by
  have held : curGrant (cur e slot g path rest prog w) s = some gr := grant
  have allowed := badAccess_space (slot := slot) (path := path) (rest := rest) (prog := prog) space grant inside
  simp [storeLane, tyBytes, allowed, space, held, laneAddr_space space, laneBytes]

theorem storeLane_memory {l : Nat} {s s1 : State} (space : wSpace w = 0) (aligned : memAddr g w l % (tyBits (wTy w) / 8) = 0)
    (write : vaWrite (engineKeep s e) e (laneOwner e slot l) (memAddr g w l)
      (toBytes (tyBits (wTy w) / 8) (tyRead g l (wTy w) (wRd w))) false s = (.done, s1)) :
    storeLane (cur e slot g path rest prog w) l s = (.value 0, s1) := by
  have allowed := badAccess_memory (e := e) (slot := slot) (path := path) (rest := rest) (prog := prog) (s := s) space aligned
  simp [storeLane, tyBytes, allowed, space, laneAddr_memory space, write]

theorem runLanes_store {lanes : List Nat} {s t : State} (space : wSpace w = 0)
    (stores : LanesStore e slot (tyBits (wTy w) / 8) (memAddr g w) (fun l => tyRead g l (wTy w) (wRd w)) lanes s t)
    (aligned : ∀ l ∈ lanes, memAddr g w l % (tyBits (wTy w) / 8) = 0) :
    runLanes (storeLane (cur e slot g path rest prog w)) lanes s = ((lanes.map fun l => (l, 0), none), t) := by
  induction stores with
  | nil s => rfl
  | cons l ls s s1 s2 write others ih =>
    exact runLanes_value (storeLane_memory space (aligned l (List.mem_cons_self ..)) write)
      (ih fun k mem => aligned k (List.mem_cons_of_mem _ mem))

/-- The stores of lanes in a space change the program's grant alone. -/
theorem runLanes_storeSpace (space : wSpace w ≠ 0) : ∀ {lanes : List Nat} {s : State} {gr : Grant},
    grantOf (s.engine e) g.ring = some gr → (∀ l ∈ lanes, Inside gr (wSpace w) (spaceAddr g w l) (tyBits (wTy w) / 8)) →
    ∃ u, runLanes (storeLane (cur e slot g path rest prog w)) lanes s = ((lanes.map fun l => (l, 0), none), u)
      ∧ EnginesOnly s u ∧ OtherEngines e s u ∧ grantOf (u.engine e) g.ring = some (storeAll g w lanes gr)
  | [], s, gr, grant, _ => ⟨s, rfl, rfl, fun _ _ => rfl, grant⟩
  | l :: lanes, s, gr, grant, inside => by
    have first := storeLane_space (slot := slot) (path := path) (rest := rest) (prog := prog) space grant (inside l (List.mem_cons_self ..))
    generalize stored : spaceWrite (wSpace w) (spaceAddr g w l).toNat (laneBytes g w l) gr = gr1 at first
    have ring : gr1.ring = g.ring := by rw [← stored, spaceWrite_ring, grantOf_ring grant]
    have held : grantOf ((putGrant e gr1 s).engine e) g.ring = some gr1 := by
      rw [putGrant, State.engine_onEngine_same]
      exact grantOf_setGrant grant ring
    obtain ⟨u, others, engines, rest_same, final⟩ := runLanes_storeSpace space (lanes := lanes) held fun k mem => by
      rw [← stored]
      exact inside_spaceWrite _ (inside k (List.mem_cons_of_mem _ mem))
    refine ⟨u, runLanes_value first others, enginesOnly_trans (onEngine_engines ..) engines,
      fun k other => (rest_same k other).trans (State.engine_onEngine_other _ _ other), ?_⟩
    rw [final, storeAll, storeAll, List.foldl_cons, stored]

/-- A store whose lanes have all ended goes on. -/
theorem runSt_ends {vs : List (Nat × Nat)} {s u : State}
    (stores : runLanes (storeLane (cur e slot g path rest prog w)) (lanesOf path.lanes) s = ((vs, none), u)) :
    runSt (cur e slot g path rest prog w) s = endPlain (cur e slot g path rest prog w) g u := by
  simp only [runSt, cur_path, stores, cur_g]

/-- A store whose lanes are all performed in memory. -/
theorem st_issuesAs {s s1 u : State} (at_ : AtIssue s s1 e slot g path rest prog w) (hop : wOp w = 0x51) {vs : List (Nat × Nat)}
    (free : wSc w ≠ 3 ∨ wSpace w ≠ 0 ∨ bit (wOrd w) 1 = false)
    (stores : runLanes (storeLane (cur e slot g path rest prog w)) (lanesOf path.lanes) s1 = ((vs, none), u)) :
    IssuesAs (.st e slot) s u e slot g fun g' => PathsOn path rest ((path.pc + 8) % 2 ^ 64) g' ∧ g'.regs = g.regs := by
  refine issuesAs_endPlain at_ rfl hop ((afterRelease_goes ?_).trans (runSt_ends stores))
  rcases free with h | h | h <;> simp [h]

/-! ### The bytes that stores leave (R173) -/

/-- A lane stores to a byte of its space. -/
def StoresTo (g : Group) (w l a : Nat) : Prop := (spaceAddr g w l).toNat ≤ a ∧ a < (spaceAddr g w l).toNat + tyBits (wTy w) / 8

theorem toBytes_length : ∀ (n v : Nat), (toBytes n v).length = n
  | 0, _ => rfl
  | n + 1, v => by rw [toBytes, List.length_cons, toBytes_length n]

theorem laneBytes_length (l : Nat) : (laneBytes g w l).length = tyBits (wTy w) / 8 := by
  rw [laneBytes, List.length_map, toBytes_length]

theorem memByte_storeAll_outside {a : Nat} : ∀ {lanes : List Nat} {gr : Grant}, (∀ l ∈ lanes, ¬ StoresTo g w l a) →
    memByte (spaceMem (storeAll g w lanes gr) (wSpace w)) a = memByte (spaceMem gr (wSpace w)) a
  | [], _, _ => rfl
  | l :: lanes, gr, apart => by
    rw [storeAll, List.foldl_cons]
    refine (memByte_storeAll_outside fun k mem => apart k (List.mem_cons_of_mem _ mem)).trans ?_
    rw [memByte_spaceWrite, laneBytes_length]
    exact if_neg (apart l (List.mem_cons_self ..))

/-- Of the lanes that store to a byte, the highest is the last. -/
theorem memByte_storeAll_highest {a l : Nat} : ∀ {lanes : List Nat} {gr : Grant}, lanes.Pairwise (· < ·) → l ∈ lanes →
    StoresTo g w l a → (∀ k ∈ lanes, l < k → ¬ StoresTo g w k a) →
    memByte (spaceMem (storeAll g w lanes gr) (wSpace w)) a =
      nth 0 (toBytes (tyBits (wTy w) / 8) (tyRead g l (wTy w) (wRd w))) (a - (spaceAddr g w l).toNat)
  | j :: lanes, gr, rising, mem, here, highest => by
    obtain ⟨above, rising⟩ := List.pairwise_cons.1 rising
    rw [storeAll, List.foldl_cons]
    by_cases same : l = j
    · subst same
      refine (memByte_storeAll_outside fun k mem => highest k (List.mem_cons_of_mem _ mem) (above k mem)).trans ?_
      have covers := here
      rw [StoresTo, ← laneBytes_length (g := g) (w := w) l] at covers
      rw [memByte_spaceWrite, if_pos covers]
      have short : a - (spaceAddr g w l).toNat < (laneBytes g w l).length := by omega
      rw [laneBytes, List.length_map] at short
      simp [nth, laneBytes, short]
    · exact memByte_storeAll_highest rising ((List.mem_cons.1 mem).resolve_left same) here
        fun k mem => highest k (List.mem_cons_of_mem _ mem)

theorem lanesOf_rising (l : BitVec 32) : (lanesOf l).Pairwise (· < ·) := List.pairwise_lt_range.filter _

end

/-- Settles O7: a load by the lanes that bring its values, in a space or one after another in memory; a store in a space by the bytes that
its lanes leave, and one in memory by the lanes performed in turn. -/
theorem loadsAndStoresMoveTheirBytes : Obligations.LoadsAndStoresMoveTheirBytes := by
  unfold Obligations.LoadsAndStoresMoveTheirBytes
  refine ⟨fun s s1 e slot g path rest prog w at_ hop => ⟨fun gr space grant reach => ?_, fun s2 val space free aligned loads => ?_⟩,
    fun s s1 e slot g path rest prog w at_ hop => ⟨fun gr space grant reach => ?_, fun s2 space free aligned stores => ?_⟩⟩
  · exact ld_result at_ hop (.inr (.inl space)) (runLanes_still fun l mem => loadLane_space space grant (reach l (mem_lanesOf.1 mem)))
  · refine ld_result at_ hop (free.imp_right .inr) (runLanes_load space loads fun l mem => aligned l (mem_lanesOf.1 mem))
  · have inside : ∀ l ∈ lanesOf path.lanes, Inside gr (wSpace w) (spaceAddr g w l) (tyBits (wTy w) / 8) := fun l mem => by
      obtain ⟨aligned, low, high, -⟩ := reach l (mem_lanesOf.1 mem)
      exact ⟨aligned, low, high⟩
    obtain ⟨u, stores, engines, others, stored⟩ := runLanes_storeSpace (slot := slot) (path := path) (rest := rest) (prog := prog)
      space grant inside
    refine goesOn_endPlain at_ rfl hop ((afterRelease_goes (.inr (.inl space))).trans
      (runSt_ends stores)) fun t engines2 others2 groups => ?_
    obtain ⟨-, -, grants, -⟩ := groups
    refine ⟨enginesOnly_trans engines engines2, fun k other => (others2 k other).trans (others k other),
      storeAll g w (lanesOf path.lanes) gr,
      (congrArg (List.find? _) grants).trans stored, fun l a active low high highest => ?_, fun a apart => ?_⟩
    · exact memByte_storeAll_highest (lanesOf_rising _) (mem_lanesOf.2 active) ⟨low, high⟩ fun k mem => highest k (mem_lanesOf.1 mem)
    · exact memByte_storeAll_outside fun l mem => apart l (mem_lanesOf.1 mem)
  · have ended := runLanes_store (path := path) (rest := rest) (prog := prog) space stores fun l mem => aligned l (mem_lanesOf.1 mem)
    exact st_issuesAs at_ hop (free.imp_right .inr) ended

end Sys2Proof.Proofs.LoadsAndStores
end

section
/-! SUPPORT. Atomics of the engines in scratch and staging (R160, R161): the lanes of one address in turn, the addresses one after
another, and the statement on them. -/

namespace Sys2Proof.Proofs.SpaceAtomics

open Sys2Proof.Machine Sys2Proof.Safety Sys2Proof.Claims Sys2Proof.Proofs.EngineWrites Sys2Proof.Proofs.IssueEnds
open Sys2Proof.Proofs.GrantSpaces Sys2Proof.Proofs.CountersAndWaits Sys2Proof.Proofs.LoadsAndStores

/-! ### Bytes -/

theorem ofBytes_toBytes : ∀ n x : Nat, ofBytes (toBytes n x) = x % 2 ^ (8 * n)
  | 0, x => by simp [toBytes, ofBytes, Nat.mod_one]
  | n + 1, x => by
    rw [toBytes, ofBytes, ofBytes_toBytes n, BitVec.toNat_ofNat, Nat.mul_succ, Nat.pow_add, Nat.mul_comm (2 ^ (8 * n))]
    exact (Nat.mod_mul).symm

theorem memRead_congr {m m' : List Host.Cell} {a n : Nat} (same : ∀ b, a ≤ b → b < a + n → memByte m b = memByte m' b) :
    memRead m a n = memRead m' a n := by
  refine List.map_congr_left fun b mem => ?_
  simp only [span, List.mem_map, List.mem_range] at mem
  obtain ⟨k, below, rfl⟩ := mem
  exact same _ (by omega) (by omega)

/-- Two aligned accesses of a size at different addresses have no byte in common. -/
theorem aligned_apart {a b n : Nat} (ha : a % n = 0) (hb : b % n = 0) (other : a ≠ b) : a + n ≤ b ∨ b + n ≤ a := by
  obtain ⟨i, rfl⟩ := Nat.dvd_of_mod_eq_zero ha
  obtain ⟨j, rfl⟩ := Nat.dvd_of_mod_eq_zero hb
  rcases Nat.lt_trichotomy i j with less | same | less
  · exact .inl (Nat.mul_le_mul_left n less)
  · exact absurd (congrArg _ same) other
  · exact .inr (Nat.mul_le_mul_left n less)

theorem lanesOf_length (l : BitVec 32) : (lanesOf l).length ≤ 33 := (List.length_filter_le _ _).trans (by simp)

/-! ### The lanes of one address (R161) -/

/-- What the atomics of lanes leave, one after another. -/
def turns (r : Nat → AtomReq) (lanes : List Nat) (x : Nat) : Nat := lanes.foldl (fun y l => atomNew (r l) y) x

/-- The lanes that name an address. -/
def mates (addr : Nat → Nat) (lanes : List Nat) (a : Nat) : List Nat := lanes.filter fun l => addr l == a

theorem atomsBelow_eq {r : Nat → AtomReq} {off : Nat → Int} {lanes : List Nat} {a : Int} (bound x : Nat)
    (low : ∀ l ∈ lanes, 0 ≤ off l) (start : 0 ≤ a) : atomsBelow r off lanes a bound x =
      turns r ((mates (fun l => (off l).toNat) lanes a.toNat).filter fun l => decide (l < bound)) x := by
  rw [atomsBelow, mates, List.filter_filter, turns]
  congr 1
  refine List.filter_congr fun l mem => ?_
  have start_l := low l mem
  have same : decide (off l = a) = decide ((off l).toNat = a.toNat) := decide_eq_decide.2 (by omega)
  rw [same, beq_eq_decide, Bool.and_comm]

/-- Each lane of a chain gets what the lower lanes leave. -/
theorem atomChain_turns (r : Nat → AtomReq) : ∀ {lanes : List Nat} (x : Nat), lanes.Pairwise (· < ·) →
    atomChain (lanes.map fun k => (k, r k)) x =
      (lanes.map fun k => (k, turns r (lanes.filter fun l => decide (l < k)) x), turns r lanes x)
  | [], _, _ => rfl
  | j :: lanes, x, rising => by
    obtain ⟨above, rising⟩ := List.pairwise_cons.1 rising
    have none_below : (j :: lanes).filter (fun l => decide (l < j)) = [] := by
      refine List.filter_eq_nil_iff.2 fun l mem less => ?_
      rcases List.mem_cons.1 mem with rfl | mem
      · simp at less
      · exact absurd (above l mem) (Nat.lt_asymm (of_decide_eq_true less))
    have others : ∀ k ∈ lanes, (j :: lanes).filter (fun l => decide (l < k)) = j :: lanes.filter fun l => decide (l < k) :=
      fun k mem => List.filter_cons_of_pos (decide_eq_true (above k mem))
    rw [List.map_cons, atomChain, atomChain_turns r _ rising, List.map_cons, none_below]
    refine Prod.ext (congrArg (_ :: ·) (List.map_congr_left fun k mem => ?_)) rfl
    rw [others k mem]
    rfl

section
variable {e slot : Nat} {g : Group} {path : Path} {rest : List Path} {prog : ProgramRun} {w : Nat}

/-- The atomic of a lane, from the word and the lane's registers. -/
def laneReq (g : Group) (w l : Nat) : AtomReq :=
  { kind := atomKindOf (wAux w % 16) (wTy w), size := tyBits (wTy w) / 8, operand := second g l w, compare := tyRead g l (wTy w) (wRc w) }

/-- The value at an address of the instruction's space. -/
def held (gr : Grant) (w a : Nat) : Nat := ofBytes (memRead (spaceMem gr (wSpace w)) a (tyBits (wTy w) / 8))

/-- A grant after the atomics of lanes at an address. -/
def afterAtoms (g : Group) (w a : Nat) (lanes : List Nat) (gr : Grant) : Grant :=
  spaceWrite (wSpace w) a ((toBytes (tyBits (wTy w) / 8) (turns (laneReq g w) lanes (held gr w a))).map (·, false)) gr

/-- A place of the instruction's space that its lanes may change: aligned, in the space, with no poisoned byte (R173). -/
abbrev Place (gr : Grant) (w a : Nat) : Prop := Reaches gr (wSpace w) (a : Int) (tyBits (wTy w) / 8) (tyBits (wTy w) / 8)

theorem place_aligned {gr : Grant} {a : Nat} (h : Place gr w a) : a % (tyBits (wTy w) / 8) = 0 := by
  exact_mod_cast h.1

theorem afterAtoms_length (x : Nat) :
    ((toBytes (tyBits (wTy w) / 8) x).map fun b : Byte => (b, false)).length = tyBits (wTy w) / 8 := by
  rw [List.length_map, toBytes_length]

theorem place_afterAtoms {gr : Grant} {a b : Nat} (lanes : List Nat) (h : Place gr w b) : Place (afterAtoms g w a lanes gr) w b := by
  obtain ⟨aligned, low, high, clean⟩ := h
  refine ⟨aligned, low, by rwa [afterAtoms, spaceSize_spaceWrite], fun k bad => ?_⟩
  rw [afterAtoms, mem_spacePoison_spaceWrite] at bad
  split at bad
  · next inside =>
    rw [afterAtoms_length] at inside
    have short : k - a < tyBits (wTy w) / 8 := by omega
    simp [nth, toBytes_length, short] at bad
  · exact clean k bad

theorem memByte_afterAtoms_apart {gr : Grant} {a b : Nat} (lanes : List Nat) (apart : b < a ∨ a + tyBits (wTy w) / 8 ≤ b) :
    memByte (spaceMem (afterAtoms g w a lanes gr) (wSpace w)) b = memByte (spaceMem gr (wSpace w)) b := by
  rw [afterAtoms, memByte_spaceWrite, afterAtoms_length, if_neg (by omega)]

theorem held_afterAtoms_same {gr : Grant} {a : Nat} (lanes : List Nat) :
    held (afterAtoms g w a lanes gr) w a = turns (laneReq g w) lanes (held gr w a) % 2 ^ (8 * (tyBits (wTy w) / 8)) := by
  have read (x : Nat) : memRead (spaceMem (spaceWrite (wSpace w) a ((toBytes (tyBits (wTy w) / 8) x).map (·, false)) gr) (wSpace w)) a
      (tyBits (wTy w) / 8) = toBytes (tyBits (wTy w) / 8) x := by
    have back := memRead_memWrite (spaceMem gr (wSpace w)) a (toBytes (tyBits (wTy w) / 8) x)
    rw [toBytes_length] at back
    rw [spaceMem_spaceWrite, List.map_map]
    exact (congrArg (fun l => memRead (memWrite _ a l) a _) (List.map_id _)).trans back
  rw [held, afterAtoms, read, ofBytes_toBytes]

theorem held_congr {gr gr' : Grant} {a : Nat} (same : ∀ b, a ≤ b → b < a + tyBits (wTy w) / 8 →
    memByte (spaceMem gr (wSpace w)) b = memByte (spaceMem gr' (wSpace w)) b) : held gr w a = held gr' w a :=
  congrArg ofBytes (memRead_congr same)

theorem held_afterAtoms_other {gr : Grant} {a b : Nat} (lanes : List Nat) (ha : Place gr w a) (hb : Place gr w b) (other : a ≠ b) :
    held (afterAtoms g w a lanes gr) w b = held gr w b := by
  have apart := aligned_apart (place_aligned ha) (place_aligned hb) other
  exact held_congr fun k low high => memByte_afterAtoms_apart lanes (by omega)

/-- The lanes of one address together. -/
theorem atomSpace_turns {a : Nat} {lanes : List Nat} {s : State} {gr : Grant} (notExact : wAux w % 16 ≠ 11)
    (grant : grantOf (s.engine e) g.ring = some gr) (place : Place gr w a) (rising : lanes.Pairwise (· < ·)) :
    ∃ u, atomSpace (cur e slot g path rest prog w) a
        (lanes.map fun k => (k, laneAtom (cur e slot g path rest prog w) k)) s =
          ((lanes.map fun k => (k, turns (laneReq g w) (lanes.filter fun l => decide (l < k)) (held gr w a)), none), u)
      ∧ EnginesOnly s u ∧ OtherEngines e s u ∧ grantOf (u.engine e) g.ring = some (afterAtoms g w a lanes gr) := by
  have have_grant : curGrant (cur e slot g path rest prog w) s = some gr := grant
  have clean := clean_reaches place
  have ring : (afterAtoms g w a lanes gr).ring = g.ring := by rw [afterAtoms, spaceWrite_ring, grantOf_ring grant]
  have size : atomSize (cur e slot g path rest prog w) = tyBits (wTy w) / 8 := if_neg notExact
  have chain := atomChain_turns (laneReq g w) (held gr w a) rising
  refine ⟨(putGrant e (afterAtoms g w a lanes gr) s).onEngine e fun x =>
    { x with ctr := { x.ctr with atomics := advance x.ctr.atomics 1 } }, ?_, ?_, fun k other => ?_, ?_⟩
  · unfold atomSpace
    simp only [have_grant, cur_w, size, notExact, if_false]
    rw [Int.toNat_natCast] at clean
    rw [clean]
    have same : (fun k => (k, laneAtom (cur e slot g path rest prog w) k)) = fun k => (k, laneReq g w k) := rfl
    rw [same]
    unfold held at chain
    simp only [chain]
    rfl
  · exact enginesOnly_trans (onEngine_engines ..) (onEngine_engines ..)
  · exact (State.engine_onEngine_other _ _ other).trans (State.engine_onEngine_other _ _ other)
  · rw [State.engine_onEngine_same, putGrant, State.engine_onEngine_same]
    exact grantOf_setGrant grant ring

/-! ### The addresses one after another (R160) -/

/-- The lanes that name another address. -/
def strangers (addr : Nat → Nat) (lanes : List Nat) (a : Nat) : List Nat := lanes.filter fun l => addr l != a

theorem pairs_mates (addr : Nat → Nat) (lanes : List Nat) (a : Nat) :
    ((lanes.map fun l => (l, addr l)).filter fun x => x.2 == a).map (·.1) = mates addr lanes a := by
  rw [List.filter_map, List.map_map]
  exact List.map_id _

theorem pairs_strangers (addr : Nat → Nat) (lanes : List Nat) (a : Nat) :
    (lanes.map fun l => (l, addr l)).filter (fun x => x.2 != a) = (strangers addr lanes a).map fun l => (l, addr l) := by
  rw [List.filter_map]
  rfl

theorem mates_cons (addr : Nat → Nat) (i : Nat) (lanes : List Nat) :
    mates addr (i :: lanes) (addr i) = i :: mates addr lanes (addr i) := List.filter_cons_of_pos (beq_self_eq_true _)

theorem strangers_cons (addr : Nat → Nat) (i : Nat) (lanes : List Nat) :
    strangers addr (i :: lanes) (addr i) = strangers addr lanes (addr i) := List.filter_cons_of_neg (by simp)

theorem mem_mates {addr : Nat → Nat} {lanes : List Nat} {a l : Nat} : l ∈ mates addr lanes a ↔ l ∈ lanes ∧ addr l = a := by
  simp [mates]

theorem mem_strangers {addr : Nat → Nat} {lanes : List Nat} {a l : Nat} : l ∈ strangers addr lanes a ↔ l ∈ lanes ∧ addr l ≠ a := by
  simp [strangers]

theorem mates_rising {addr : Nat → Nat} {lanes : List Nat} (a : Nat) (rising : lanes.Pairwise (· < ·)) :
    (mates addr lanes a).Pairwise (· < ·) := rising.filter _

theorem strangers_rising {addr : Nat → Nat} {lanes : List Nat} (a : Nat) (rising : lanes.Pairwise (· < ·)) :
    (strangers addr lanes a).Pairwise (· < ·) := rising.filter _

theorem mates_perm (addr : Nat → Nat) (lanes : List Nat) (a : Nat) : (mates addr lanes a ++ strangers addr lanes a).Perm lanes :=
  List.filter_append_perm _ _

/-- The lanes of one address do not matter to those of another. -/
theorem mates_strangers {addr : Nat → Nat} {lanes : List Nat} {a b : Nat} (other : b ≠ a) :
    mates addr (strangers addr lanes a) b = mates addr lanes b := by
  rw [mates, strangers, List.filter_filter]
  refine List.filter_congr fun l _ => ?_
  by_cases here : addr l = b
  · simp [here, other]
  · simp [here]

/-- What a lane gets: the value that the lower lanes of its address leave. -/
def answer (g : Group) (w : Nat) (addr : Nat → Nat) (lanes : List Nat) (gr : Grant) (k : Nat) : Nat :=
  turns (laneReq g w) ((mates addr lanes (addr k)).filter fun l => decide (l < k)) (held gr w (addr k))

/-- Each lane has its answer, in some order. -/
def Answers (g : Group) (w : Nat) (addr : Nat → Nat) (lanes : List Nat) (gr : Grant) (vs : List (Nat × Nat)) : Prop :=
  ∃ order : List Nat, order.Perm lanes ∧ vs = order.map fun k => (k, answer g w addr lanes gr k)

/-- Each address holds what all its lanes leave, every other byte of the space what it held. -/
def Left (g : Group) (w : Nat) (addr : Nat → Nat) (lanes : List Nat) (gr gr' : Grant) : Prop :=
  (∀ l ∈ lanes, held gr' w (addr l) =
    turns (laneReq g w) (mates addr lanes (addr l)) (held gr w (addr l)) % 2 ^ (8 * (tyBits (wTy w) / 8)))
  ∧ ∀ b, (∀ l ∈ lanes, b < addr l ∨ addr l + tyBits (wTy w) / 8 ≤ b) →
      memByte (spaceMem gr' (wSpace w)) b = memByte (spaceMem gr (wSpace w)) b

section
variable {addr : Nat → Nat} {lanes : List Nat} {gr gr' : Grant} {a i : Nat} {vs : List (Nat × Nat)}
  (places : ∀ l ∈ lanes, Place gr w (addr l)) (first : i ∈ lanes) (names : addr i = a)
include places first names

theorem answers_append (others : Answers g w addr (strangers addr lanes a) (afterAtoms g w a (mates addr lanes a) gr) vs) :
    Answers g w addr lanes gr (((mates addr lanes a).map fun k =>
      (k, turns (laneReq g w) ((mates addr lanes a).filter fun l => decide (l < k)) (held gr w a))) ++ vs) := by
  obtain ⟨order, perm, rfl⟩ := others
  refine ⟨mates addr lanes a ++ order, (perm.append_left _).trans (mates_perm ..), ?_⟩
  rw [List.map_append]
  congr 1
  · refine List.map_congr_left fun k mem => ?_
    obtain ⟨-, rfl⟩ := mem_mates.1 mem
    rfl
  · refine List.map_congr_left fun k mem => ?_
    obtain ⟨here, other⟩ := mem_strangers.1 (perm.mem_iff.1 mem)
    have place := names ▸ places i first
    rw [answer, answer, mates_strangers other, held_afterAtoms_other _ place (places k here) (Ne.symm other)]

theorem left_append (others : Left g w addr (strangers addr lanes a) (afterAtoms g w a (mates addr lanes a) gr) gr') :
    Left g w addr lanes gr gr' := by
  obtain ⟨values, outside⟩ := others
  have place := names ▸ places i first
  refine ⟨fun l mem => ?_, fun b apart => ?_⟩
  · by_cases here : addr l = a
    · subst here
      rw [← held_afterAtoms_same]
      refine held_congr fun b low high => outside b fun k mem => ?_
      obtain ⟨mem, other⟩ := mem_strangers.1 mem
      have := aligned_apart (place_aligned (places k mem)) (place_aligned place) other
      omega
    · rw [values l (mem_strangers.2 ⟨mem, here⟩), mates_strangers here, held_afterAtoms_other _ place (places l mem) (Ne.symm here)]
  · rw [outside b fun k mem => apart k (mem_strangers.1 mem).1]
    exact memByte_afterAtoms_apart _ (names ▸ apart i first)

end

/-- The atomics of lanes in a space: their answers, and the program's grant as they leave it. -/
theorem atomAll_answers (space : wSpace w ≠ 0) (notExact : wAux w % 16 ≠ 11) (addr : Nat → Nat) : ∀ (f : Nat) {lanes : List Nat}
    {s : State} {gr : Grant}, lanes.length ≤ f → lanes.Pairwise (· < ·) → grantOf (s.engine e) g.ring = some gr →
    (∀ l ∈ lanes, Place gr w (addr l)) →
    ∃ vs u gr', atomAll (cur e slot g path rest prog w) f (lanes.map fun l => (l, addr l)) s = ((vs, none), u)
      ∧ Answers g w addr lanes gr vs ∧ EnginesOnly s u ∧ OtherEngines e s u ∧ grantOf (u.engine e) g.ring = some gr'
      ∧ Left g w addr lanes gr gr'
  | 0, lanes, s, gr, short, _, grant, _ => by
    obtain rfl := List.eq_nil_of_length_eq_zero (Nat.le_zero.1 short)
    exact ⟨[], s, gr, rfl, ⟨[], .refl _, rfl⟩, rfl, fun _ _ => rfl, grant, by simp [Left]⟩
  | f + 1, [], s, gr, _, _, grant, _ => ⟨[], s, gr, rfl, ⟨[], .refl _, rfl⟩, rfl, fun _ _ => rfl, grant, by simp [Left]⟩
  | f + 1, i :: lanes, s, gr, short, rising, grant, places => by
    have first : i ∈ i :: lanes := List.mem_cons_self ..
    obtain ⟨u, here, engines, others, after⟩ := atomSpace_turns (slot := slot) (path := path) (rest := rest) (prog := prog) notExact
      grant (places i first) (mates_rising (addr := addr) (addr i) rising)
    have shorter : (strangers addr (i :: lanes) (addr i)).length ≤ f := by
      rw [strangers_cons]
      exact (List.length_filter_le _ _).trans (Nat.le_of_succ_le_succ short)
    obtain ⟨vs, u', gr', there, answers, engines', others', final, left⟩ := atomAll_answers space notExact addr f shorter
      (strangers_rising _ rising) after fun l mem => place_afterAtoms _ (places l (mem_strangers.1 mem).1)
    refine ⟨_, u', gr', ?_, answers_append places first rfl answers, enginesOnly_trans engines engines',
      fun k other => (others' k other).trans (others k other), final, left_append places first rfl left⟩
    rw [List.map_cons, atomAll]
    simp only [pairs_mates, pairs_strangers, cur_w, space, if_false]
    rw [← mates_cons, ← strangers_cons, here]
    simp only [there]

/-- ATOM in a space: every lane has its answer in RD, and the path goes on. -/
theorem runAtom_ends {addr : Nat → Nat} {s u : State} {gr : Grant} {vs : List (Nat × Nat)} (notExact : wAux w % 16 ≠ 11)
    (space : wSpace w ≠ 0) (grant : grantOf (s.engine e) g.ring = some gr) (addrs : ∀ l ∈ lanesOf path.lanes, spaceAddr g w l = addr l)
    (places : ∀ l ∈ lanesOf path.lanes, Place gr w (addr l))
    (all : atomAll (cur e slot g path rest prog w) 33 ((lanesOf path.lanes).map fun l => (l, addr l)) s = ((vs, none), u))
    (answers : Answers g w addr (lanesOf path.lanes) gr vs) :
    ∃ order rotate, order.Perm (lanesOf path.lanes) ∧ runAtom (cur e slot g path rest prog w) s =
      endIssue (cur e slot g path rest prog w) (writeLanes (wRd w) (tyRegs (wTy w))
        (fun l => regValue (wTy w) (answer g w addr (lanesOf path.lanes) gr l)) order g)
        [goOn (cur e slot g path rest prog w) 8] rotate u := by
  obtain ⟨order, perm, rfl⟩ := answers
  have pairs : ((lanesOf path.lanes).map fun l => (l, (laneAddr (cur e slot g path rest prog w) l).toNat)) =
      (lanesOf path.lanes).map fun l => (l, addr l) := List.map_congr_left fun l mem => by
    rw [laneAddr_space space, addrs l mem, Int.toNat_natCast]
  have size : atomSize (cur e slot g path rest prog w) = tyBits (wTy w) / 8 := if_neg notExact
  have allowed : (lanesOf path.lanes).find? (fun i => badAccess (cur e slot g path rest prog w) i (tyBits (wTy w) / 8)
      (tyBits (wTy w) / 8) s) = none := by
    refine List.find?_eq_none.2 fun l mem => ?_
    have inside := inside_of_reaches (places l mem)
    rw [← addrs l mem] at inside
    rw [badAccess_space space grant inside]
    exact Bool.false_ne_true
  refine ⟨order, wAux w % 16 == 7 && (order.map fun k => (k, answer g w addr (lanesOf path.lanes) gr k)).any fun v =>
    v.2 != srcC (cur e slot g path rest prog w) v.1, perm, ?_⟩
  unfold runAtom
  simp only [cur_path, size, allowed, pairs, all, endLanes, cur_w, beq_false_of_ne notExact, cur_g, Bool.false_eq_true, if_false,
    List.foldl_map]
  rfl

end

/-- Settles O8, by the addresses that the lanes name, one after another, and at each the chain of its lanes. -/
theorem atomicsRunInLaneOrder : Obligations.AtomicsRunInLaneOrder := by
  unfold Obligations.AtomicsRunInLaneOrder
  intro s s1 e slot g path rest prog w gr at_ hop space notExact grant n sp reach lanes req old
  have addrs : ∀ l ∈ lanes, spaceAddr g w l = ((spaceAddr g w l).toNat : Int) := fun l mem =>
    (Int.toNat_of_nonneg (reach l (mem_lanesOf.1 mem)).2.1).symm
  have low : ∀ l ∈ lanes, 0 ≤ spaceAddr g w l := fun l mem => (reach l (mem_lanesOf.1 mem)).2.1
  have places : ∀ l ∈ lanes, Place gr w (spaceAddr g w l).toNat := fun l mem => by
    rw [Place, ← addrs l mem]
    exact reach l (mem_lanesOf.1 mem)
  obtain ⟨vs, u, gr', all, answers, engines, others, final, values, outside⟩ := atomAll_answers (slot := slot) (path := path)
    (rest := rest) (prog := prog) space notExact (fun l => (spaceAddr g w l).toNat) 33
    (lanesOf_length path.lanes) (lanesOf_rising path.lanes) grant places
  obtain ⟨order, rotate, perm, ends⟩ := runAtom_ends notExact space grant addrs places all answers
  obtain ⟨t, g', exec_eq, engines', others', groups, here, -, -, on, -, returned, kept⟩ := result_endIssue (i := .atom e slot) at_ rfl hop
    perm (by simp [formOf, hop, notExact]) ((afterRelease_goes (.inr (.inl space))).trans ends) fun _ _ _ value => value
  obtain ⟨-, -, grants, -⟩ := groups
  refine ⟨t, g', gr', exec_eq, enginesOnly_trans engines engines', fun k other => (others' k other).trans (others k other), here, on,
    fun l active => ?_, kept, (congrArg (List.find? _) grants).trans final, fun l active => ?_,
    fun a apart => outside a fun l mem => ?_⟩
  · rw [returned l active]
    exact congrArg (regValue _) (atomsBelow_eq l _ low (low l (mem_lanesOf.2 active))).symm
  · have below_all : (mates (fun l => (spaceAddr g w l).toNat) lanes (spaceAddr g w l).toNat).filter (fun k => decide (k < 32)) =
        mates (fun l => (spaceAddr g w l).toNat) lanes (spaceAddr g w l).toNat := by
      refine List.filter_eq_self.2 fun k mem => decide_eq_true ?_
      exact (mem_lanesOf.1 (mem_mates.1 mem).1).1
    refine (values l (mem_lanesOf.2 active)).trans (congrArg (· % _) ?_)
    rw [atomsBelow_eq 32 _ low (low l (mem_lanesOf.2 active)), below_all]
    rfl
  · have side := apart l (mem_lanesOf.1 mem)
    have start := low l mem
    change a < (spaceAddr g w l).toNat ∨ (spaceAddr g w l).toNat + n ≤ a
    omega

end Sys2Proof.Proofs.SpaceAtomics
end

section
/-! SUPPORT. Copies of the engines (R157-R159): how one is queued, the box that a tensor's descriptor gives, what the arrival of a copy's
bytes changes, and the statement on them. -/

namespace Sys2Proof.Proofs.EngineCopies

open Sys2Proof.Machine Sys2Proof.Machine.UnitsKept Sys2Proof.Safety Sys2Proof.Claims Sys2Proof.Proofs.EngineWrites
open Sys2Proof.Proofs.IssueEnds Sys2Proof.Proofs.GrantSpaces Sys2Proof.Proofs.ChainAccess

theorem inSpace_of_le {gr : Grant} {sp off n : Nat} (h : off + n ≤ spaceSize gr sp) : inSpace gr sp (off : Int) n = true := by
  simp only [inSpace, Bool.and_eq_true, decide_eq_true_eq]
  omega

/-! ### Engines under reads -/

theorem engine_of_kept {s t : State} (h : UnitsKept s t) (k : Nat) : t.engine k = s.engine k := by
  rw [State.engine, h.engines]
  rfl

section
variable {s s1 : State} {e slot : Nat} {g : Group} {path : Path} {rest : List Path} {prog : ProgramRun} {w : Nat}

theorem fetch_kept (at_ : AtIssue s s1 e slot g path rest prog w) : UnitsKept s s1 := by
  rw [at_.fetched]
  exact vaRead_kept ..

/-! ### A copy is queued (R157) -/

/-- The copy that an instruction queues. -/
def newCopy (g : Group) (path : Path) (w va len : Nat) (box : Option CopyBox) (id : Nat) (epoch : BitVec 32) : CopyRun :=
  { id := id, ring := g.ring, element := g.index * 32 + lowest path, toStaging := wSpace w == 2
    dst := regRead g (lowest path) (wRb w) 1, counter := wFmt w, va := va, len := len, box := box, epoch := epoch }

/-- An engine with a copy queued, if it has bytes. -/
def withCopy (e : Nat) (r : CopyRun) (s : State) : State :=
  if r.len = 0 then s else s.onEngine e fun x => { x with copies := x.copies ++ [r], nextCopy := x.nextCopy + 1 }

theorem startCopy_queues {gr : Grant} {va len : Nat} {box : Option CopyBox} (grant : grantOf (s.engine e) g.ring = some gr)
    (fits : regRead g (lowest path) (wRb w) 1 + len ≤ spaceSize gr (wSpace w)) (reserved : bit prog.counters (wFmt w) = true)
    (room : (s.engine e).copies.length < 64) : startCopy (cur e slot g path rest prog w) va len box s =
      endPlain (cur e slot g path rest prog w) g (withCopy e (newCopy g path w va len box (s.engine e).nextCopy s.xlt.epoch) s) := by
  have held : curGrant (cur e slot g path rest prog w) s = some gr := grant
  have inside := inSpace_of_le fits
  have counter : hasCounter (cur e slot g path rest prog w) (wFmt w) = true := reserved
  simp only [startCopy, cur_path, cur_w, cur_g, cur_e, held, inside, counter, Bool.not_true, Bool.or_self, Bool.false_eq_true,
    if_false]
  exact if_neg (Nat.not_le.2 room)

theorem withCopy_engines (r : CopyRun) : EnginesOnly s (withCopy e r s) := by
  unfold withCopy
  split
  · rfl
  · exact onEngine_engines ..

theorem withCopy_others (r : CopyRun) : OtherEngines e s (withCopy e r s) := fun k other => by
  unfold withCopy
  split
  · rfl
  · exact State.engine_onEngine_other _ _ other

theorem withCopy_copies (r : CopyRun) :
    ((withCopy e r s).engine e).copies = (s.engine e).copies ++ if r.len = 0 then [] else [r] := by
  unfold withCopy
  split <;> simp

theorem withCopy_counters (r : CopyRun) : ((withCopy e r s).engine e).counters = (s.engine e).counters := by
  unfold withCopy
  split <;> simp

theorem withCopy_grants (r : CopyRun) : ((withCopy e r s).engine e).grants = (s.engine e).grants := by
  unfold withCopy
  split <;> simp

section
variable {i : Instr} {op : Nat} {run : Cur → State → State} (at_ : AtIssue s s1 e slot g path rest prog w)
  (exec_eq : exec i s = .next (issue op e slot run s)) (hop : wOp w = op)
include at_ exec_eq hop

/-- An instruction that queues a copy on a state u after its reads. -/
theorem queues_goesOn {u : State} {gr : Grant} {va len : Nat} {box : Option CopyBox} {P : State → Prop} (kept : UnitsKept s u)
    (grant : grantOf (s.engine e) g.ring = some gr)
    (fits : regRead g (lowest path) (wRb w) 1 + len ≤ spaceSize gr (wSpace w)) (reserved : bit prog.counters (wFmt w) = true)
    (room : (s.engine e).copies.length < 64)
    (run_eq : run (cur e slot g path rest prog w) s1 = startCopy (cur e slot g path rest prog w) va len box u)
    (holds : ∀ t, EnginesOnly u t → OtherEngines e s t →
      (t.engine e).copies = (s.engine e).copies ++ (if len = 0 then [] else [newCopy g path w va len box
      (s.engine e).nextCopy u.xlt.epoch]) →
      (t.engine e).counters = (s.engine e).counters → (t.engine e).grants = (s.engine e).grants → P t) :
    GoesOn i s e slot g path rest P := by
  have same := engine_of_kept kept
  rw [← same e] at grant room
  refine goesOn_endPlain at_ exec_eq hop (run_eq.trans (startCopy_queues grant fits reserved room)) fun t engines others groups => ?_
  obtain ⟨-, -, grants, counters, copies, -⟩ := groups
  refine holds t (enginesOnly_trans (withCopy_engines _) engines) (fun k other => ?_) ?_ ?_ ?_
  · rw [others k other, withCopy_others _ k other, same]
  · rw [copies, withCopy_copies, same e]
    rfl
  · rw [counters, withCopy_counters, same]
  · rw [grants, withCopy_grants, same]

end

/-! ### The box of a tensor (R157, R159) -/

/-- A descriptor that is read well formed gives the box. -/
theorem withBox_reads {b : List (Byte × Bool)} {k : CopyBox → State → State} (aligned : regRead g (lowest path) (wRa w) 2 % 64 = 0)
    (read : (vaRead .once e (laneOwner e slot (lowest path)) .read (regRead g (lowest path) (wRa w) 2) 128 s).1 = .data b)
    (clean : anyPoison b = false) (formed : tensorBad (parseTensor (regRead g (lowest path) (wRa w) 2) (plain b)) = false)
    (format : tensorFmtBad (parseTensor (regRead g (lowest path) (wRa w) 2) (plain b)) = false) :
    withBox (cur e slot g path rest prog w) k s =
      k (boxOf (cur e slot g path rest prog w) (parseTensor (regRead g (lowest path) (wRa w) 2) (plain b)))
        (vaRead .once e (laneOwner e slot (lowest path)) .read (regRead g (lowest path) (wRa w) 2) 128 s).2 := by
  generalize got : vaRead .once e (laneOwner e slot (lowest path)) .read (regRead g (lowest path) (wRa w) 2) 128 s = r at read
  obtain ⟨_, s2⟩ := r
  cases read
  simp [withBox, aligned, got, clean, formed, format]

/-- A TSTORE whose elements are all stored. -/
theorem runTstore_ends {box : CopyBox} {gr : Grant} {v : Nat} (grant : grantOf (s.engine e) g.ring = some gr)
    (fits : regRead g (lowest path) (wRb w) 1 + boxBytes box ≤ spaceSize gr (wSpace w))
    (clean : ∀ a ∈ spacePoison gr (wSpace w),
      a < regRead g (lowest path) (wRb w) 1 ∨ regRead g (lowest path) (wRb w) 1 + boxBytes box ≤ a)
    (stored : (boxStore (cur e slot g path rest prog w) box (memRead (spaceMem gr (wSpace w)) (regRead g (lowest path) (wRb w) 1)
      (boxBytes box)) (boxCount box) 0 s).1.1 = .value v) :
    runTstore (cur e slot g path rest prog w) 0 box s = endPlain (cur e slot g path rest prog w) g
      (boxStore (cur e slot g path rest prog w) box (memRead (spaceMem gr (wSpace w)) (regRead g (lowest path) (wRb w) 1)
        (boxBytes box)) (boxCount box) 0 s).2 := by
  have held : curGrant (cur e slot g path rest prog w) s = some gr := grant
  have inside := inSpace_of_le fits
  have unmarked : (spacePoison gr (wSpace w)).any (fun a => decide (regRead g (lowest path) (wRb w) 1 ≤ a) &&
      decide (a < regRead g (lowest path) (wRb w) 1 + boxBytes box)) = false := by
    refine List.any_eq_false.2 fun a bad => ?_
    have := clean a bad
    simp only [Bool.and_eq_true, decide_eq_true_eq]
    omega
  generalize got : boxStore (cur e slot g path rest prog w) box (memRead (spaceMem gr (wSpace w)) (regRead g (lowest path) (wRb w) 1)
      (boxBytes box)) (boxCount box) 0 s = r at stored
  obtain ⟨⟨_, n⟩, u⟩ := r
  cases stored
  simp only [runTstore, cur_path, cur_w, cur_g, held, inside, Bool.not_true, Bool.false_eq_true, if_false, Nat.sub_zero, got]
  exact if_neg (Bool.eq_false_iff.1 unmarked)

end

/-! ### The bytes of a copy land (R157, R158) -/

theorem boxElem_kept (e : Nat) (r : CopyRun) (b : CopyBox) (k : Nat) (s : State) : UnitsKept s (boxElem e r b k s).2 := by
  unfold boxElem
  split
  · rfl
  · rfl
  · split
    · rfl
    · exact readRaw_kept ..

theorem boxRead_kept (e : Nat) (r : CopyRun) (b : CopyBox) : ∀ (f k : Nat) (s : State), UnitsKept s (boxRead e r b f k s).2
  | 0, _, _ => rfl
  | f + 1, k, s => by
    have one (k : Nat) (s : State) : UnitsKept s (if k < boxCount b then boxElem e r b k s else (.raw 0 false, s)).2 := by
      split
      · exact boxElem_kept ..
      · rfl
    unfold boxRead
    extract_lets w one'
    split
    · next h1 =>
      have first := ofEq (one k s) h1
      split
      · split
        · next h2 =>
          have second := first.trans (ofEq (one (k + 1) _) h2)
          split
          · next h3 => exact second.trans (ofEq (boxRead_kept e r b f (k + 2) _) h3)
          · exact second.trans (boxRead_kept e r b f (k + 2) _)
        · next h2 => exact first.trans (ofEq (one (k + 1) _) h2)
        · next h2 => exact first.trans (ofEq (one (k + 1) _) h2)
      · split
        · next h3 => exact first.trans (ofEq (boxRead_kept e r b f (k + 1) _) h3)
        · exact first.trans (boxRead_kept e r b f (k + 1) _)
    · next h1 => exact ofEq (one k s) h1
    · next h1 => exact ofEq (one k s) h1

/-- What the engine holds when bytes of a copy have landed: the grant's bytes, and of the copy how many have. -/
def landing (r : CopyRun) (b : List (Byte × Bool)) (x : Engine) : Engine :=
  { x with
    grants := x.grants.map fun g => if g.ring = r.ring then spaceWrite (if r.toStaging then 2 else 1) (r.dst + r.done) b g else g
    copies := if r.done + b.length ≥ r.len then x.copies.filter fun q => q.id != r.id
      else x.copies.map fun q => if q.id = r.id then { q with done := q.done + b.length } else q }

/-- The state when bytes of a copy have landed: a copy that is done makes room, and the counter advances. -/
def landed (e : Nat) (r : CopyRun) (b : List (Byte × Bool)) (s : State) : State :=
  bumpCounter e r.counter b.length
    (if r.done + b.length ≥ r.len then wakeEngine e (s.onEngine e (landing r b)) else s.onEngine e (landing r b))

section
variable {s u : State} {e id bytes : Nat} {r : CopyRun} {b : List (Byte × Bool)}
  (found : (s.engine e).copies.find? (fun r => r.id == id) = some r) (some_bytes : 0 < bytes)
include found some_bytes

theorem copyLand_range (range : r.box = none)
    (got : copyRange e r (min (max 1 (bytes / 1 * 1)) (r.len - r.done)) s = (.data b, u)) :
    copyLand e id bytes s = landed e r b u := by
  obtain rfl : r.id = id := by simpa using List.find?_some found
  simp only [copyLand, found, range, if_neg (Nat.ne_of_gt some_bytes), got]
  rfl

theorem copyLand_box {box : CopyBox} (boxed : r.box = some box)
    (got : boxRead e r box (min (max (elemLen box.d) (bytes / elemLen box.d * elemLen box.d)) (r.len - r.done) / elemLen box.d)
      (r.done * 8 / tbits box.d) s = (.data b, u)) :
    copyLand e id bytes s = landed e r b u := by
  obtain rfl : r.id = id := by simpa using List.find?_some found
  simp only [copyLand, found, boxed, if_neg (Nat.ne_of_gt some_bytes), got]
  rfl

end

/-- Of the state, an engine alone is another. -/
structure EngineBecomes (e : Nat) (x : Engine) (s t : State) : Prop where
  here : t.engine e = x
  engines : EnginesOnly s t
  others : OtherEngines e s t

theorem onEngine_becomes (e : Nat) (f : Engine → Engine) (s : State) : EngineBecomes e (f (s.engine e)) s (s.onEngine e f) where
  here := State.engine_onEngine_same ..
  engines := onEngine_engines ..
  others := fun _ other => State.engine_onEngine_other _ _ other

theorem EngineBecomes.trans {e : Nat} {x y : Engine} {s t u : State} (h : EngineBecomes e x s t) (k : EngineBecomes e y t u) :
    EngineBecomes e y s u where
  here := k.here
  engines := enginesOnly_trans h.engines k.engines
  others := fun j other => (k.others j other).trans (h.others j other)

/-- Waking an engine changes its groups alone. -/
theorem wakeEngine_becomes (e : Nat) (s : State) :
    ∃ slots, EngineBecomes e { s.engine e with slots := slots } s (wakeEngine e s) := by
  unfold wakeEngine
  split
  · exact ⟨_, State.engine_onEngine_same .., onEngine_engines .., fun _ other => State.engine_onEngine_other _ _ other⟩
  · exact ⟨(s.engine e).slots, rfl, rfl, fun _ _ => rfl⟩

/-- Beside the landing and the counter, the arrival changes the engine's groups alone. -/
theorem landed_becomes (e : Nat) (r : CopyRun) (b : List (Byte × Bool)) (s : State) :
    ∃ slots, EngineBecomes e { landing r b (s.engine e) with
      counters := tput 0 (s.engine e).counters r.counter (tget 0 (s.engine e).counters r.counter + BitVec.ofNat 32 b.length)
      slots := slots } s (landed e r b s) := by
  have land := onEngine_becomes e (landing r b) s
  have bump (u : State) := onEngine_becomes e (fun x =>
    { x with
      counters := tput 0 x.counters r.counter (tget 0 x.counters r.counter + BitVec.ofNat 32 b.length)
      slots := x.slots.map fun p => (p.1, if ((x.grants.filter fun g => bit g.counters r.counter).map (·.ring)).contains p.2.ring
        then { p.2 with sleeping := 0 } else p.2) }) u
  unfold landed
  split
  · obtain ⟨slots, woken⟩ := wakeEngine_becomes e (s.onEngine e (landing r b))
    have all := (land.trans woken).trans (bump _)
    rw [woken.here, land.here] at all
    exact ⟨_, all⟩
  · have all := land.trans (bump _)
    rw [land.here] at all
    exact ⟨_, all⟩

theorem landing_grantOf {r : CopyRun} {b : List (Byte × Bool)} {x : Engine} {gr : Grant} (grant : grantOf x r.ring = some gr) :
    grantOf (landing r b x) r.ring = some (spaceWrite (if r.toStaging then 2 else 1) (r.dst + r.done) b gr) := by
  have wrote := find?_ring_map (f := fun g => if g.ring = r.ring then spaceWrite (if r.toStaging then 2 else 1) (r.dst + r.done) b g else g)
    (fun x => by split <;> simp) grant
  rw [if_pos (grantOf_ring grant)] at wrote
  exact wrote

/-- A copy of which bytes are still to come goes on from those that have landed. -/
theorem landing_find {r : CopyRun} {b : List (Byte × Bool)} {x : Engine} (found : x.copies.find? (fun q => q.id == r.id) = some r)
    (more : r.done + b.length < r.len) :
    (landing r b x).copies.find? (fun q => q.id == r.id) = some { r with done := r.done + b.length } := by
  have same : (fun q : CopyRun => q.id == r.id) ∘ (fun q => if q.id = r.id then { q with done := q.done + b.length } else q) =
      fun q => q.id == r.id := funext fun q => by
    simp only [Function.comp_apply]
    split <;> rfl
  simp only [landing, if_neg (Nat.not_le.2 more)]
  rw [List.find?_map, same, found]
  simp

theorem landing_gone {r : CopyRun} {b : List (Byte × Bool)} {x : Engine} (all : r.done + b.length = r.len) :
    ∀ q ∈ (landing r b x).copies, q.id ≠ r.id := by
  simp [landing, all]

/-- Settles O10: COPY and TCOPY by the copy that they queue, TSTORE by its stores, and the arrival of a copy's bytes by its landing. -/
theorem copiesQueueLandAndCount : Obligations.CopiesQueueLandAndCount := by
  unfold Obligations.CopiesQueueLandAndCount
  refine ⟨fun s s1 e slot g path rest prog w gr at_ hop grant => ?_, fun s s1 e slot g path rest prog w gr b at_ grant => ?_,
    fun s e id bytes r gr b found counter some_bytes => ?_⟩
  · intro i off len fits reserved room
    refine queues_goesOn at_ rfl hop (fetch_kept at_) grant fits reserved room rfl fun t engines others copies counters grants =>
      ⟨engines, others, fun some_bytes => ?_, fun none => ?_, counters, grants⟩
    · rw [copies, if_neg (Nat.ne_of_gt some_bytes)]
      rfl
    · rw [copies, if_pos none, List.append_nil]
  · intro i va off d reg box read s2 store aligned data clean formed format fresh fits
    have kept : UnitsKept s s2 := (fetch_kept at_).trans (vaRead_kept ..)
    refine ⟨fun hop reserved room => ?_, fun hop unmarked stored => ?_⟩
    · exact queues_goesOn at_ rfl hop kept grant fits reserved room (withBox_reads aligned data clean formed format)
        fun t engines others copies _ _ => ⟨engines, others, copies⟩
    · obtain ⟨v, stored⟩ := stored
      rw [← engine_of_kept kept] at grant
      refine issuesAs_endPlain at_ rfl hop ?_
      simp only [cur_path, fresh]
      exact (withBox_reads aligned data clean formed format).trans (runTstore_ends grant fits unmarked stored)
  · intro unit n read m data some_landed bound grant sp
    have same : r.id = id := by simpa using List.find?_some found
    subst same
    have got : read = (.data b, read.2) := Prod.ext data rfl
    have lands : copyLand e r.id bytes s = landed e r b read.2 ∧ UnitsKept s read.2 := by
      cases boxed : r.box with
      | none =>
        have ranged : read = copyRange e r (min (max 1 (bytes / 1 * 1)) (r.len - r.done)) s := by
          simp only [read, n, unit, boxed]
          rfl
        exact ⟨copyLand_range found some_bytes boxed (ranged ▸ got), ranged ▸ vaRead_kept ..⟩
      | some box =>
        have dense : read = boxRead e r box (min (max (elemLen box.d) (bytes / elemLen box.d * elemLen box.d)) (r.len - r.done)
            / elemLen box.d) (r.done * 8 / tbits box.d) s := by
          simp only [read, n, unit, boxed]
        exact ⟨copyLand_box found some_bytes boxed (dense ▸ got), dense ▸ boxRead_kept ..⟩
    obtain ⟨arrives, kept⟩ := lands
    rw [← engine_of_kept kept] at found grant
    obtain ⟨slots, here, engines, others⟩ := landed_becomes e r b read.2
    refine ⟨_, spaceWrite sp (r.dst + r.done) b gr, congrArg Host.Outcome.next arrives, engines, fun k other => ?_, ?_,
      fun k other => ?_, ?_, fun k below => ?_,
      fun a apart => ?_, fun all => ?_, fun more => ?_⟩
    · rw [others k other, engine_of_kept kept]
    · rw [here, ← engine_of_kept kept]
      exact tget_tput_same ..
    · rw [here, ← engine_of_kept kept]
      exact tget_tput_other _ _ _ other
    · rw [here]
      exact landing_grantOf grant
    · rw [memByte_spaceWrite, mem_spacePoison_spaceWrite, if_pos (by omega), if_pos (by omega), Nat.add_sub_cancel_left]
      exact ⟨rfl, .rfl⟩
    · rw [memByte_spaceWrite, mem_spacePoison_spaceWrite, if_neg (by omega), if_neg (by omega)]
      exact ⟨rfl, .rfl⟩
    · rw [here]
      exact landing_gone all
    · rw [here]
      exact landing_find found more

end Sys2Proof.Proofs.EngineCopies
end

section
/-! SUPPORT. Core loads (R200): a state whose victim cache holds a line of more than 128 bytes, and what a load of the next line
reads there. -/

namespace Sys2Proof.Proofs.CoreLoads

open Sys2Proof.Machine Sys2Proof.Safety Sys2Proof.Claims

/-- A dirty entry of line 0 whose data has 192 bytes: its write-back reaches 64 bytes past the line. -/
def longEntry : ScLine := { line := 0, valid1 := true, dirty1 := true, data := List.replicate 192 1 }

/-- The set of the system cache for line 1 is full, and so is the victim cache of the slice of the entries there: the fill of line 1
moves one of them to the victim cache, which writes a long entry back to memory. -/
def longVictim : State := {
  pwr := { rung := 0, dieOff := [] }
  coh := {
    sc := (List.range 16).map fun w => (scBase 1 + w, { line := 3 })
    victim := [(sliceOf 3, List.replicate 256 longEntry)] } }

/-- A load of one byte in machine mode, without PMP entries. -/
def byteLoad : CoreAcc := { size := 1 }

theorem longVictim_victim (i : Nat) : tget [] longVictim.coh.victim i = if sliceOf 3 = i then List.replicate 256 longEntry else [] := by
  simp only [longVictim, tget, tfind]
  split <;> rfl

theorem longVictim_idle : IdleLine (coreRuns 0 byteLoad.env longVictim) 1 where
  free := by decide
  unqueued := by decide
  room := by decide +kernel
  shared := by decide +kernel
  backed := by decide +kernel
  unheld := by decide +kernel
  quiet := by decide
  whole := by decide +kernel
  placed := by
    intro i l held line
    have victims : tget [] (coreRuns 0 byteLoad.env longVictim).coh.victim i
        = if sliceOf 3 = i then List.replicate 256 longEntry else [] := longVictim_victim i
    rw [victims] at held
    split at held
    · cases List.eq_of_mem_replicate held
      cases line
    · cases held

/-- The byte that the load gives: the first of those written past line 0. -/
theorem longVictim_result : ∃ t, exec (.coreLoad 0 128 byteLoad) longVictim = .next t ∧ (t.core 0).result = 1 :=
  ⟨_, rfl, by decide +kernel⟩

/-- Refutes O18: a load of a line that no cache holds need not give the bytes of the line's image at its start. The fill of the line
displaces an entry of the victim cache, whose write-back stores all the data that the entry keeps; an entry of 192 bytes, which the
statement allows for another line, changes the memory of the line that is about to be read. -/
theorem not_coreLoadsAndStoresMoveTheirBytes : ¬ Obligations.CoreLoadsAndStoresMoveTheirBytes := by
  unfold Obligations.CoreLoadsAndStoresMoveTheirBytes
  rintro ⟨loads, -⟩
  obtain ⟨-, runs⟩ := loads longVictim 0 128 byteLoad (by decide)
  obtain ⟨-, -, unheld, -⟩ := runs (by decide) (by decide)
  obtain ⟨t, load, image, -⟩ := unheld (by decide) rfl (.inl (by decide)) (by decide) (by decide) longVictim_idle
    (fun w waits => nomatch waits) (by decide) (by decide) (by decide) (by decide +kernel) (by decide +kernel)
  obtain ⟨u, load', result⟩ := longVictim_result
  have same : t = u := Host.Outcome.next.inj (load.symm.trans load')
  have zero : (t.core 0).result = 0 := image.trans (by decide +kernel)
  rw [same, result] at zero
  cases zero

end Sys2Proof.Proofs.CoreLoads
end

section
/-! SUPPORT. Records while the event ring can take none (R334): the module holds them, and nothing else of the state changes. -/

namespace Sys2Proof.Proofs.HeldRecords

open Sys2Proof.Machine Sys2Proof.Safety Sys2Proof.Claims

theorem evtCanTake_of_off {s : State} (off : flag s.evt.cfg 0 = false) : evtCanTake s = false := by
  simp [evtCanTake, off]

theorem evtPump_of_canTake {s : State} (stays : evtCanTake s = false) : evtPump s = s := by
  simp [evtPump, evtFlush, stays]

theorem hotPump_of_canTake {s : State} (stays : evtCanTake s = false) : hotPump s = s := by
  simp [hotPump, evtPump_of_canTake stays]

theorem hotPump_of_held {s : State} (none_held : s.evt.held = []) : hotPump s = s := by
  simp [hotPump, none_held]

/-- The event ring's state with a record held or counted as lost. -/
def holding (o : Onion) (s : State) : EventRing :=
  if s.evt.held.length ≥ 256 then { s.evt with lost := s.evt.lost + 1, lostSince := s.evt.lostSince + 1 }
  else { s.evt with held := s.evt.held ++ [{ o with ticks := s.hTicks.toNat }] }

/-- While the ring is off, placing a record changes what the module holds and counts alone. -/
theorem placeOnion_of_off (o : Onion) {s : State} (off : flag s.evt.cfg 0 = false) :
    placeOnion o s = { s with evt := holding o s } := by
  unfold placeOnion holding
  split
  · rfl
  · exact evtPump_of_canTake (evtCanTake_of_off off)

theorem holding_held {o : Onion} {s : State} (room : s.evt.held.length < 256) :
    (holding o s).held = s.evt.held ++ [{ o with ticks := s.hTicks.toNat }] := by
  rw [holding, if_neg (by omega)]

@[simp] theorem holding_cfg (o : Onion) (s : State) : (holding o s).cfg = s.evt.cfg := by
  unfold holding
  split <;> rfl

theorem event_of_off (cls reason addr param : Nat) {s : State} (off : flag s.evt.cfg 0 = false) :
    event cls reason addr param s
      = { s with evt := holding { cls := cls, reason := reason, addr := addr, param := param } s } :=
  placeOnion_of_off _ off

theorem event_notes (cls reason addr param : Nat) (s : State) : Notes cls reason addr param s (event cls reason addr param s) := by
  intro off room
  rw [event_of_off _ _ _ _ off]
  exact holding_held room

theorem eventUnit_of_off (cls reason addr param die domain kind unit detail count : Nat) {s : State}
    (off : flag s.evt.cfg 0 = false) :
    ∃ e, eventUnit cls reason addr param die domain kind unit detail count s = { s with evt := e } :=
  ⟨_, placeOnion_of_off _ off⟩

theorem eventUnit_notes (cls reason addr param die domain kind unit detail count : Nat) (s : State) :
    NotesUnit cls reason addr die kind unit s (eventUnit cls reason addr param die domain kind unit detail count s) := by
  intro off room
  exact ⟨_, (congrArg (fun t : State => t.evt.held) (placeOnion_of_off _ off)).trans (holding_held room), rfl, rfl, rfl, rfl, rfl, rfl, rfl⟩

end Sys2Proof.Proofs.HeldRecords
end

section
/-! SUPPORT. What ECC finds in a sector (R191, R192), the fill of a sector that returns (R184), and the timers of the hot-page
counters (R248). -/

namespace Sys2Proof.Proofs.MemoryErrors

open Sys2Proof.Machine Sys2Proof.Safety Sys2Proof.Claims Sys2Proof.Proofs.HeldRecords

/-! ### What ECC finds -/

/-- Wrong symbols that the code of the memory of a sector corrects. -/
def correctable (sec : Nat) : Nat := if inTier2 (sec * 64) then 2 else 8

theorem eccCorrects_tier (sec : Nat) : eccCorrects (if inTier2 (sec * 64) then .lpddr else .hbm) = correctable sec := by
  unfold correctable
  split <;> rfl

theorem eccFinds_uncorrectable {m : EccMem} {wrong : Nat} (more : eccCorrects m < wrong) : eccFinds m wrong = .uncorrectable := by
  rw [eccFinds, if_neg (by omega), if_neg (by omega)]

theorem eccFinds_correctable {m : EccMem} {wrong : Nat} (fewer : wrong ≤ eccCorrects m) : eccFinds m wrong ≠ .uncorrectable := by
  rw [eccFinds, if_pos fewer]
  split <;> decide

theorem memoryFinds_uncorrectable {s : State} {sec wrong : Nat} (more : correctable sec < wrong)
    (backed : poolBacked (sec * 64) = true) (sound : sec ∉ s.pool.poison) : memoryFinds sec wrong s = memoryBad sec s := by
  have clean : dramPoison s sec = false := by simpa [dramPoison] using sound
  rw [← eccCorrects_tier] at more
  simp [memoryFinds, eccFinds_uncorrectable more, backed, clean]

theorem memoryFinds_correctable {sec wrong : Nat} (fewer : wrong ≤ correctable sec) (s : State) : memoryFinds sec wrong s = s := by
  unfold memoryFinds
  split
  · exact absurd ‹_› (eccFinds_correctable ((eccCorrects_tier sec).symm ▸ fewer))
  · rfl

theorem memoryBad_notes (sec : Nat) (s : State) :
    NotesUnit 0x10 (if inTier2 (sec * 64) then 2 else 1) (sec * 64) (memoryUnit s (sec * 64)).1 (memoryUnit s (sec * 64)).2.1
      (memoryUnit s (sec * 64)).2.2 s (memoryBad sec s) :=
  eventUnit_notes _ _ _ _ _ _ _ _ _ _ (s.onPool fun p => { p with poison := setAdd p.poison sec })

theorem memoryBad_of_off {s : State} (sec : Nat) (off : flag s.evt.cfg 0 = false) :
    ∃ e, memoryBad sec s = { (s.onPool fun p => { p with poison := setAdd p.poison sec }) with evt := e } :=
  eventUnit_of_off _ _ _ _ _ _ _ _ _ _ (s := s.onPool fun p => { p with poison := setAdd p.poison sec }) off

/-- With the event ring off an uncorrectable error poisons its sector and changes no byte of memory. -/
theorem memoryBad_poisons {s : State} (sec : Nat) (off : flag s.evt.cfg 0 = false) :
    sec ∈ (memoryBad sec s).pool.poison ∧ SameMem s (memoryBad sec s) := by
  obtain ⟨e, placed⟩ := memoryBad_of_off sec off
  rw [placed]
  exact ⟨GrantSpaces.mem_setAdd.2 (.inl rfl), fun _ => rfl⟩

theorem memoryBad_coh {s : State} (sec : Nat) (off : flag s.evt.cfg 0 = false) : (memoryBad sec s).coh = s.coh := by
  obtain ⟨e, placed⟩ := memoryBad_of_off sec off
  rw [placed]
  rfl

/-- A state in which a sector that returns has filled its line, where that stands in the system cache. -/
def sectorFilled (sec : Nat) (s : State) : State :=
  match scFind s (sec / 2) with
  | some k => scFillSector k (sec % 2) s
  | none => s

theorem exec_memoryReadReturn (sec wrong : Nat) (s : State) :
    exec (.memoryReadReturn sec wrong) s = .next (sectorFilled sec (memoryFinds sec wrong s)) := rfl

theorem sectorFilled_of_absent {s : State} {sec : Nat} (absent : scFind s (sec / 2) = none) : sectorFilled sec s = s := by
  simp [sectorFilled, absent]

/-- Where the line of a sector stands nowhere in the system cache, its read leaves the record of the error alone. -/
theorem sectorFilled_memoryBad {s : State} {sec : Nat} (absent : scFind s (sec / 2) = none) (off : flag s.evt.cfg 0 = false) :
    sectorFilled sec (memoryBad sec s) = memoryBad sec s := by
  refine sectorFilled_of_absent ?_
  simpa only [scFind, memoryBad_coh sec off] using absent

theorem exec_patrolScrub {s : State} {sec wrong : Nat}
    (scrubbed : flag s.pool.scrub (if inTier2 (sec * 64) then 1 else 0) = true) :
    exec (.patrolScrub sec wrong) s = .next (memoryFinds sec wrong s) :=
  congrArg Host.Outcome.next (if_pos scrubbed)

/-- A line whose first sector has been filled from memory. -/
def firstFilled (s : State) (l : ScLine) : ScLine := { l with
  data := patch l.data 0 (memRead s.pool.mem (l.line * 128 + 0 * 64) 64), valid0 := true, dirty0 := false
  poison0 := dramPoison s (2 * l.line + 0) }

theorem sectorFilled_first {s : State} {sec k : Nat} {l : ScLine} (found : scFind s (sec / 2) = some k) (first : sec % 2 = 0)
    (here : tfind s.coh.sc k = some l) (invalid : l.valid0 = false) : sectorFilled sec s = scSet k (firstFilled s l) s := by
  simp only [sectorFilled, found, first, scFillSector, here, invalid]
  rfl

theorem firstFilled_data (s : State) (l : ScLine) : (firstFilled s l).data.take 64 = memRead s.pool.mem (l.line * 128) 64 := by
  have whole : (memRead s.pool.mem (l.line * 128) 64).length = 64 := by simp [memRead, span]
  simp only [firstFilled, patch, Nat.zero_mul, Nat.add_zero, List.take_zero, List.nil_append]
  exact List.take_left' whole

/-! ### Hot-page counters -/

theorem tfind_map {α β : Type} (f : α → β) (n : Nat) : ∀ t : Sparse α, tfind (t.map fun p => (p.1, f p.2)) n = (tfind t n).map f
  | [] => rfl
  | (k, v) :: t => by
    simp only [List.map_cons, tfind]
    split
    · rfl
    · exact tfind_map f n t

theorem tfind_map_of_found {α β : Type} (f : α → β) {t : Sparse α} {n : Nat} {v : α} (found : tfind t n = some v) :
    tfind (t.map fun p => (p.1, f p.2)) n = some (f v) := by
  rw [tfind_map, found]
  rfl

theorem hotNote_of_count {s : State} {k : Nat} (below : ∀ h, tfind s.xlt.hot k = some h → h.count ≤ hotThreshold s.xlt h.cls) :
    hotNote k s = s := by
  unfold hotNote
  split
  · rfl
  · exact if_neg fun passed => Nat.not_le.2 passed.2.1 (below _ ‹_›)

/-- Where no count has passed its threshold and no held record can be written, the check of the counters changes nothing. -/
theorem hotCheck_of_counts {s : State} (stays : s.evt.held = [] ∨ evtCanTake s = false)
    (below : ∀ k h, tfind s.xlt.hot k = some h → h.count ≤ hotThreshold s.xlt h.cls) : hotCheck s = s := by
  refine List.foldl_fixed' (fun p => ?_) _
  rw [hotCheckAt, hotNote_of_count (below p.1)]
  exact stays.elim hotPump_of_held hotPump_of_canTake

/-- A counter with its count halved. -/
def halve (h : HotCtr) : HotCtr := { h with count := h.count / 2 }

theorem exec_hotpageDecay {s : State} (decays : field s.xlt.hotpage 48 8 ≠ 0) :
    exec .hotpageDecay s = .next (s.onXlt fun x => { x with hot := x.hot.map fun h => (h.1, halve h.2) }) :=
  congrArg Host.Outcome.next (if_neg decays)

/-- A counter, able to place records again where it is of the region. -/
def unmute (region : Nat) (h : HotCtr) : HotCtr := if h.region = region then { h with muted := false } else h

theorem hotpageMuteExpire_unmutes {s : State} {region : Nat} (stays : s.evt.held = [] ∨ evtCanTake s = false)
    (below : ∀ k h, tfind s.xlt.hot k = some h → h.count ≤ hotThreshold s.xlt h.cls) :
    exec (.hotpageMuteExpire region) s
      = .next (s.onXlt fun x => { x with hot := x.hot.map fun h => (h.1, unmute region h.2) }) := by
  refine congrArg Host.Outcome.next (hotCheck_of_counts stays fun k h found => ?_)
  obtain ⟨g, before, rfl⟩ := Option.map_eq_some_iff.1 ((tfind_map (unmute region) k _).symm.trans found)
  have same : (unmute region g).count = g.count ∧ (unmute region g).cls = g.cls := by
    unfold unmute
    split <;> exact ⟨rfl, rfl⟩
  rw [same.1, same.2]
  exact below k g before

/-! ### The statement -/

/-- Settles O21: an uncorrectable error by what ECC finds and by the record while the event ring is off, a sector that returns by the
fill of its line; the counters by their equations, no count having passed its threshold. -/
theorem memoryErrorsAndHotPageTimers : Obligations.MemoryErrorsAndHotPageTimers := by
  unfold Obligations.MemoryErrorsAndHotPageTimers
  refine ⟨fun s sec wrong => ⟨fun more backed sound => ?_, fun fewer => ?_, fun k l fewer found here line first invalid => ?_⟩,
    fun s k region h found => ⟨fun decays => ?_, fun still => congrArg Host.Outcome.next (if_pos still), fun same stays below => ?_⟩⟩
  · have bad := memoryFinds_uncorrectable more backed sound
    refine ⟨fun scrubbed => ⟨memoryBad sec s, bad ▸ exec_patrolScrub scrubbed, memoryBad_notes sec s, memoryBad_poisons sec⟩,
      fun absent => ⟨sectorFilled sec (memoryBad sec s), bad ▸ exec_memoryReadReturn sec wrong s, fun off room => ?_, fun off => ?_⟩⟩
    · rw [sectorFilled_memoryBad absent off]
      exact memoryBad_notes sec s off room
    · rw [sectorFilled_memoryBad absent off]
      exact memoryBad_poisons sec off
  · simp [exec, execPatrolScrub, memoryFinds_correctable (show wrong ≤ correctable sec from fewer)]
  · refine ⟨_, firstFilled s l, exec_memoryReadReturn sec wrong s, ?_⟩
    rw [memoryFinds_correctable (show wrong ≤ correctable sec from fewer), sectorFilled_first found first here invalid]
    have place : l.line * 128 = sec * 64 := by omega
    have number : 2 * l.line + 0 = sec := by omega
    exact ⟨rfl, tfind_tins_same .., rfl, place ▸ firstFilled_data s l, congrArg s.pool.poison.contains number⟩
  · exact ⟨_, exec_hotpageDecay decays, tfind_map_of_found halve found, rfl, rfl⟩
  · refine ⟨_, hotpageMuteExpire_unmutes stays below, ?_, rfl, rfl⟩
    exact (tfind_map_of_found (unmute region) found).trans (congrArg some (if_pos same))

end Sys2Proof.Proofs.MemoryErrors
end

section
/-! SUPPORT. Accesses of the host: how one of device virtual memory ends (R193, R236, R239), and what an access to BAR0 reads and
writes (R287, R413, R438 to R440). -/

namespace Sys2Proof.Proofs.HostAccesses

open Sys2Proof.Machine Sys2Proof.Safety Sys2Proof.Claims Sys2Proof.Proofs.HeldRecords

/-! ### Device virtual memory -/

theorem wakeUp_atRung0 (w : Wake) {s : State} (awake : s.pwr.rung = 0) : wakeUp w s = s := by
  simp [wakeUp, awake]

/-- A read of one page, translated. -/
theorem hostRead_page {s s1 s2 : State} {v n pa : Nat} {k : Keep} {x : List (Byte × Bool)}
    (place : hostPlaces .read (hostPieces4k v n) s = (.ok [(pa, n, k)], s1)) (read : poolRead k agentPcie pa n s1 = (x, s2)) :
    hostRead v n s = giveAnswer (.data (plain x) (anyPoison x)) s2 := by
  simp [hostRead, place, read]

theorem hostRead_fault {s s1 : State} {v n a c : Nat} (place : hostPlaces .read (hostPieces4k v n) s = (.fault a c, s1)) :
    hostRead v n s = giveAnswer .unsupported (bar2Fault a c s1) := by
  simp [hostRead, place]

/-- A write of one page, translated. -/
theorem hostWrite_page {s s1 : State} {v pa : Nat} {b : List Byte} {k : Keep} (ep : Bool)
    (place : hostPlaces .write (hostPieces4k v b.length) s = (.ok [(pa, b.length, k)], s1)) :
    hostWrite v b ep s = giveAnswer .none (poolWrite k agentPcie pa b ep s1) := by
  simp [hostWrite, place]

theorem hostWrite_fault {s s1 : State} {v a c : Nat} {b : List Byte} (ep : Bool)
    (place : hostPlaces .write (hostPieces4k v b.length) s = (.fault a c, s1)) :
    hostWrite v b ep s = giveAnswer .discarded (bar2Fault a c s1) := by
  simp [hostWrite, place]

/-- A read of device virtual memory, or zeros where the aperture is closed. -/
def apertureRead (v n : Nat) (s : State) : State :=
  if bar2Closed s then giveAnswer (.data (List.replicate n 0) false) s else hostRead v n s

theorem exec_bar2Read {s : State} {v n : Nat} (awake : s.pwr.rung = 0) (reach : bar2Reach s v n = true) :
    exec (.bar2Read v n) s = .next (apertureRead v n s) := by
  simp [exec, execBar2Read, apertureRead, reach, wakeUp_atRung0 _ awake]

theorem exec_bar2Write {s : State} {v : Nat} {b : List Byte} {ep : Bool} (awake : s.pwr.rung = 0)
    (reach : bar2Reach s v b.length = true) : exec (.bar2Write v b ep) s = .next (downWrite v b ep s) := by
  simp [exec, execBar2Write, downWrite, reach, wakeUp_atRung0 _ awake]

theorem exec_downstreamRead {s : State} (v n : Nat) (root : s.endpoint = false) (up : s.link.up = true) :
    exec (.inboundDownstreamRequest (.read v n)) s = .next (apertureRead v n s) := by
  simp [exec, execInboundDownstreamRequest, apertureRead, root, up]

theorem exec_downstreamWrite {s : State} {v : Nat} (b : List Byte) (ep : Bool) (root : s.endpoint = false) (up : s.link.up = true)
    (memory : msiHit s v = false) : exec (.inboundDownstreamRequest (.write v b ep)) s = .next (downWrite v b ep s) := by
  simp [exec, execInboundDownstreamRequest, root, up, memory]

/-- What an instruction that reads device virtual memory does: the bytes, zeros or a fault. -/
theorem apertureRead_answers {i : Instr} {s : State} {v n : Nat} (s1 : State) (runs : exec i s = .next (apertureRead v n s)) :
    (bar2Closed s = true → LinkBecomes i s { s.link with answer := .data (List.replicate n 0) false })
    ∧ (bar2Closed s = false →
      (∀ pa k x s2, hostPlaces .read (hostPieces4k v n) s = (.ok [(pa, n, k)], s1) → poolRead k agentPcie pa n s1 = (x, s2) →
        ∃ t, exec i s = .next t ∧ t.link = { s2.link with answer := .data (plain x) (anyPoison x) } ∧ t.pool = s2.pool)
      ∧ ∀ a c, hostPlaces .read (hostPieces4k v n) s = (.fault a c, s1) →
        ∃ t, exec i s = .next t ∧ t.link.answer = .unsupported ∧ Notes 0x21 c a 0 s1 t) := by
  unfold apertureRead at runs
  refine ⟨fun closed => ?_, fun isOpen => ?_⟩
  · exact runs.trans (congrArg Host.Outcome.next (if_pos closed))
  rw [if_neg (by simp [isOpen])] at runs
  refine ⟨fun pa k x s2 place read => ⟨_, runs, ?_⟩, fun a c place => ⟨_, runs, ?_⟩⟩
  · rw [hostRead_page place read]
    exact ⟨rfl, rfl⟩
  · rw [hostRead_fault place]
    exact ⟨rfl, event_notes 0x21 c a 0 s1⟩

/-- What an instruction that writes device virtual memory does: the store of the bytes, nothing, or a fault. -/
theorem downWrite_answers {i : Instr} {s : State} {v : Nat} {b : List Byte} {ep : Bool} (s1 : State)
    (runs : exec i s = .next (downWrite v b ep s)) :
    (bar2Closed s = true → LinkBecomes i s { s.link with answer := .discarded })
    ∧ (bar2Closed s = false →
      (∀ pa k, hostPlaces .write (hostPieces4k v b.length) s = (.ok [(pa, b.length, k)], s1) →
        ∃ t, exec i s = .next t ∧ t.link.answer = .none ∧ t.pool = (poolWrite k agentPcie pa b ep s1).pool
          ∧ t.coh = (poolWrite k agentPcie pa b ep s1).coh)
      ∧ ∀ a c, hostPlaces .write (hostPieces4k v b.length) s = (.fault a c, s1) →
        ∃ t, exec i s = .next t ∧ t.link.answer = .discarded ∧ Notes 0x21 c a 0 s1 t
          ∧ (flag s1.evt.cfg 0 = false → t.pool = s1.pool ∧ t.coh = s1.coh)) := by
  unfold downWrite at runs
  refine ⟨fun closed => ?_, fun isOpen => ?_⟩
  · exact runs.trans (congrArg Host.Outcome.next (if_pos closed))
  rw [if_neg (by simp [isOpen])] at runs
  refine ⟨fun pa k place => ⟨_, runs, ?_⟩, fun a c place => ⟨_, runs, ?_⟩⟩
  · rw [hostWrite_page ep place]
    exact ⟨rfl, rfl, rfl⟩
  · rw [hostWrite_fault ep place]
    refine ⟨rfl, event_notes 0x21 c a 0 s1, fun off => ?_⟩
    rw [bar2Fault, event_of_off _ _ _ _ off]
    exact ⟨rfl, rfl⟩

/-! ### BAR0 -/

/-- The value that a read of a register of BAR0 takes its part from: 0 on a page that is not served. -/
def servedValue (s : State) (off : Nat) : Nat := if pageServed s off then (mapRead s .host (off / 8 * 8)).toNat else 0

/-- The part of a register's value. -/
def partValue (p : Part) (w : Nat) : Nat := match p with | .whole => w | .low => w % 2 ^ 32 | .high => w / 2 ^ 32

section
variable {s : State} {off size : Nat} (inside : off < 0x4000000) (reach : bar0Reach s .host = true)
include inside reach

theorem exec_bar0Read_register {p : Part} (part : partOf off size = some p) : exec (.bar0Read .host off size) s
    = .next (giveAnswer (.data (toBytes size (partValue p (servedValue s off))) false) s) := by
  simp only [exec, execBar0Read, reach, Nat.not_le.2 inside, bar0Load, part]
  rfl

theorem exec_bar0Read_refused (part : partOf off size = none) : exec (.bar0Read .host off size) s
    = .next (giveAnswer .unsupported (event 0x20 1 off size s)) := by
  simp only [exec, execBar0Read, reach, Nat.not_le.2 inside, bar0Load, part]
  rfl

theorem exec_registerWrite_served {p : Part} (val : Word) (part : partOf off size = some p) (served : pageServed s off = true) :
    exec (.registerWrite .host off size val) s = .next (giveAnswer .none (mapWrite .host (off / 8 * 8) p val s)) := by
  simp only [exec, execRegisterWrite, reach, Nat.not_le.2 inside, bar0Store, part, served]
  rfl

theorem exec_registerWrite_unserved {p : Part} (val : Word) (part : partOf off size = some p) (unserved : pageServed s off = false) :
    exec (.registerWrite .host off size val) s = .next (giveAnswer .none s) := by
  simp only [exec, execRegisterWrite, reach, Nat.not_le.2 inside, bar0Store, part, unserved]
  rfl

theorem exec_registerWrite_refused (val : Word) (part : partOf off size = none) :
    exec (.registerWrite .host off size val) s = .next (giveAnswer .discarded (event 0x20 2 off size s)) := by
  simp only [exec, execRegisterWrite, reach, Nat.not_le.2 inside, bar0Store, part]
  rfl

end

/-! ### Registers of the map -/

/-- The pages from 16 MiB on have no register that reads (Table 1 of chapter 18). -/
theorem mapRead_beyond (s : State) (src : Port) {off : Nat} (beyond : 0x1000000 ≤ off) : mapRead s src off = 0 := by
  unfold mapRead
  split
  case h_9 => rw [if_neg (by omega), if_neg (by omega), if_neg (by omega)]
  all_goals omega

theorem mapWrite_beyond (s : State) (src : Port) (p : Part) (val : Word) {off : Nat} (beyond : 0x1000000 ≤ off) :
    mapWrite src off p val s = s := by
  unfold mapWrite
  split
  case h_9 => rw [if_neg (by omega), if_neg (by omega)]
  all_goals omega

theorem regIndex_of_lt {base stride count k : Nat} (pos : 0 < stride) (below : k < count) :
    regIndex base stride count (base + stride * k) = some k := by
  have inside : base + stride * k < base + stride * count := by
    have := Nat.mul_lt_mul_of_pos_left below pos
    omega
  simp [regIndex, Nat.mul_div_cancel_left _ pos, inside]

/-- RING_SQ of a ring (Table 1 of chapter 12). -/
theorem mapRead_ringSq (s : State) (src : Port) {n : Nat} (ring : n < 1024) : mapRead s src (0x400000 + 32 * n) = (s.ring n).sq := by
  have page : (0x400000 + 32 * n) / 0x100000 = 4 := by omega
  have index : regIndex 0x400000 8 4096 (0x400000 + 32 * n) = some (4 * n) := by
    rw [show 32 * n = 8 * (4 * n) by omega]
    exact regIndex_of_lt (by decide) (by omega)
  have first : 4 * n % 4 = 0 ∧ 4 * n / 4 = n := by omega
  unfold mapRead
  rw [page]
  show ringsRead s _ = _
  unfold ringsRead
  split
  case h_5 => simp only [index, first]
  all_goals omega

theorem mapWrite_rootLocked (s : State) (src : Port) (p : Part) (val : Word) (locked : s.locked = true) :
    mapWrite src 0x200000 p val s = s := by
  have unchanged : rootWrite p val s = s := if_pos locked
  exact unchanged

/-- Settles O40: each access by its own equation, its outcomes by those of the translation and by the record that a refused access
places; the registers by the map. -/
theorem hostAndRegisterAccessesFollowTheMap : Obligations.HostAndRegisterAccessesFollowTheMap := by
  unfold Obligations.HostAndRegisterAccessesFollowTheMap
  refine ⟨fun s s1 v n b ep awake length => ?_, fun s off size val inside live up => ?_⟩
  · subst length
    exact ⟨fun reach => ⟨apertureRead_answers s1 (exec_bar2Read awake reach), downWrite_answers s1 (exec_bar2Write awake reach)⟩,
      fun root up => ⟨apertureRead_answers s1 (exec_downstreamRead v b.length root up),
        fun memory => downWrite_answers s1 (exec_downstreamWrite b ep root up memory)⟩⟩
  · have reach : bar0Reach s .host = true := by simp [bar0Reach, live, up]
    refine ⟨fun p part => ?_, fun part => ?_, fun beyond => ⟨mapRead_beyond s .host beyond, fun p => mapWrite_beyond s .host p val beyond⟩,
      rfl, fun p => rfl, rfl, fun locked p => mapWrite_rootLocked s .host p val locked, fun n ring => mapRead_ringSq s .host ring⟩
    · exact ⟨exec_bar0Read_register inside reach part,
        fun served => ⟨_, exec_registerWrite_served inside reach val part served, rfl⟩,
        exec_registerWrite_unserved inside reach val part⟩
    · exact ⟨⟨_, exec_bar0Read_refused inside reach part, rfl, event_notes 0x20 1 off size s⟩,
        ⟨_, exec_registerWrite_refused inside reach val part, rfl, event_notes 0x20 2 off size s⟩⟩

end Sys2Proof.Proofs.HostAccesses
end

section
/-! SUPPORT. What reading at a virtual address leaves of the rings, and the record that ends an operation well (R319, R320). -/

namespace Sys2Proof.Proofs.RingsThroughReads

open Sys2Proof.Machine Sys2Proof.Claims Sys2Proof.Proofs.RingsThroughStores Sys2Proof.Proofs.LoadedOperations

/-! ### Reads -/

theorem performHere_get_rings (src off n : Nat) (data : List (Byte × Bool)) (s : State) :
    (performHere src .get off n data s).2.rings = s.rings := by
  unfold performHere
  split
  · rfl
  · extract_lets pa
    split
    · rfl
    · exact poolRead_rings ..

theorem takeArrived_rings {o : Owner} {pa n va : Nat} {ask : State → Got × State} {s : State}
    (asks : (ask s).2.rings = s.rings) : (takeArrived o pa n va ask s).2.rings = s.rings := by
  unfold takeArrived
  split
  · dsimp only
    split <;> rfl
  · exact asks

theorem hostAsk_rings (o : Owner) (hio n va : Nat) (s : State) : (hostAsk o hio n va s).rings = s.rings := by
  unfold hostAsk
  split
  · rfl
  · split
    · exact blockedWait_rings ..
    · exact markHost_rings ..

theorem readPiece_rings (k : Keep) (agent : Nat) (o : Owner) (acc : Access) (op va n : Nat) (s : State) :
    (readPiece k agent o acc op va n s).2.rings = s.rings := by
  have placed := place_rings agent acc va s
  unfold readPiece
  generalize place agent acc va s = r at placed ⊢
  obtain ⟨p, s1⟩ := r
  cases p with
  | pool pa u => exact (poolRead_rings ..).trans placed
  | host hio =>
    refine (takeArrived_rings ?_).trans placed
    split
    · rfl
    · split
      · rfl
      · exact hostAsk_rings ..
  | fabric node off =>
    refine (takeArrived_rings ?_).trans placed
    dsimp only
    split
    · rfl
    · generalize TxPkt.mk .. = t
      have sent := originate_rings t s1
      generalize originate t s1 = r at sent ⊢
      obtain ⟨r, s2⟩ := r
      cases r with
      | loopback =>
        have here := (performHere_get_rings node off n [] s2).trans sent
        dsimp only
        generalize performHere node .get off n [] s2 = q at here ⊢
        obtain ⟨q, s3⟩ := q
        cases q with
        | ok b => exact here
        | error c => exact (windowFault_rings ..).trans here
      | _ => exact sent
  | fault st c => exact placed
  | held => exact placed

/-- A read that gives its bytes leaves every ring as it was. -/
theorem readPieces_rings (k : Keep) (agent : Nat) (o : Owner) (acc : Access) (op : Nat) :
    ∀ (ps : List (Nat × Nat)) (s : State), (readPieces k agent o acc op ps s).2.rings = s.rings
  | [], _ => rfl
  | (va, n) :: ps, s => by
    have piece := readPiece_rings k agent o acc op va n s
    simp only [readPieces]
    generalize readPiece k agent o acc op va n s = r at piece ⊢
    obtain ⟨r, s1⟩ := r
    have rest := (readPieces_rings k agent o acc op ps s1).trans piece
    cases r with
    | data b =>
      dsimp only
      generalize readPieces k agent o acc op ps s1 = q at rest ⊢
      obtain ⟨q, s2⟩ := q
      cases q with
      | wait => rfl
      | _ => exact rest
    | wait =>
      dsimp only
      generalize readPieces k agent o acc op ps s1 = q at rest ⊢
      obtain ⟨q, s2⟩ := q
      cases q with
      | fault st c a => exact rest
      | _ => exact piece
    | fault st c a => exact piece

theorem readStruct_rings (ring va n : Nat) (s : State) : (readStruct ring va n s).2.rings = s.rings := readPieces_rings ..

/-! ### The record of an operation that is done (R319) -/

/-- The record of a count enters ring n's entry; of the rest of the ring, its count of unsignalled records may change. -/
theorem writeRecord_ring (n count : Nat) (r : Res) (tag : Nat) (irq : Bool) (s : State) : ∃ w held k,
    (writeRecord n count r tag irq s).ring n = { (keepRecord n r w held s).ring n with unsignalled := k } := by
  unfold writeRecord
  extract_lets q w a put kept q1
  split
  · exact ⟨w, true, _, rfl⟩
  · have rings : put.rings = s.rings := by
      unfold put
      split
      · exact (hotPump_rings _).trans (postWrite_rings ..)
      · exact poolWrite_rings ..
    have entered : ∃ k, kept.ring n = { (keepRecord n r w false s).ring n with unsignalled := k } := by
      refine ⟨((keepRecord n r w false put).ring n).unsignalled + 1, ?_⟩
      simp only [kept, keepRecord, State.ring_onRing_same, ring_ofRings rings n]
    clear_value kept
    obtain ⟨k, entered⟩ := entered
    split
    · obtain ⟨m, signalled⟩ := signalRing_ring n kept
      exact ⟨w, false, m, by rw [signalled, entered]⟩
    · exact ⟨w, false, k, entered⟩

theorem writeRecord_stateTail (n count : Nat) (r : Res) (tag : Nat) (irq : Bool) (s : State) :
    ((writeRecord n count r tag irq s).ring n).state = (s.ring n).state
    ∧ ((writeRecord n count r tag irq s).ring n).tail = (s.ring n).tail := by
  obtain ⟨w, held, k, ring⟩ := writeRecord_ring n count r tag irq s
  simp only [ring, keepRecord, State.ring_onRing_same, and_self]

/-! ### A fetch leaves the counts -/

/-- Ring n counts as before what it has submitted and what it has completed. -/
def CountsKept (n : Nat) (s t : State) : Prop := (t.ring n).completed = (s.ring n).completed ∧ (t.ring n).head = (s.ring n).head

theorem CountsKept.trans {n : Nat} {s t u : State} (h : CountsKept n s t) (k : CountsKept n t u) : CountsKept n s u :=
  ⟨k.1.trans h.1, k.2.trans h.2⟩

theorem CountsKept.ofRings {n : Nat} {s t : State} (h : t.rings = s.rings) : CountsKept n s t := by
  simp only [CountsKept, ring_ofRings h n, and_self]

/-- An update of ring n that changes neither count. -/
theorem CountsKept.onRing {n : Nat} {s : State} {f : Ring → Ring} (completed : (f (s.ring n)).completed = (s.ring n).completed)
    (head : (f (s.ring n)).head = (s.ring n).head) : CountsKept n s (s.onRing n f) := by
  simp only [CountsKept, State.ring_onRing_same]
  exact ⟨completed, head⟩

theorem cancelFetch_counts (n : Nat) (s : State) : CountsKept n s (cancelFetch n s) :=
  .trans (.ofRings (t := s.onLink _) rfl) (.onRing rfl rfl)

theorem stopRing_counts (n : Nat) (sdesc : Bool) (s : State) : CountsKept n s (stopRing n sdesc s) :=
  .trans (.trans (cancelFetch_counts n s) (.ofRings (t := clearHost n (cancelFetch n s)) rfl)) (.onRing rfl rfl)

theorem bmeWait_rings (n : Nat) (s : State) : (bmeWait n s).rings = s.rings := by
  unfold bmeWait
  dsimp only
  split
  · rfl
  · split
    · rfl
    · exact event_rings ..

theorem writeRecord_counts (n count : Nat) (r : Res) (tag : Nat) (irq : Bool) (s : State) :
    CountsKept n s (writeRecord n count r tag irq s) := by
  obtain ⟨-, completed, head⟩ := writeRecord_recorded n count r tag irq s
  exact ⟨completed, head⟩

theorem failFetch_counts (n : Nat) (r : Res) (s : State) : CountsKept n s (failFetch n r s) := by
  unfold failFetch
  extract_lets s1
  refine CountsKept.trans (t := s1) (cancelFetch_counts n s) ?_
  split
  · exact .trans (.onRing rfl rfl) (.ofRings (bmeWait_rings ..))
  · split
    · exact .trans (.ofRings (bmeWait_rings n s1)) ((writeRecord_counts ..).trans (stopRing_counts ..))
    · exact (writeRecord_counts ..).trans (stopRing_counts ..)

theorem countAsked_rings (s0 s : State) : (countAsked s0 s).rings = s.rings :=
  (noteWaits_rings _).trans <| (hotPump_rings _).trans <| foldl_rings (fun s (r : HostRead) => hotHost_rings r.hio r.len s) _ _

theorem issueRead_counts (n : Nat) (s : State) : CountsKept n s (issueRead n s) := by
  unfold issueRead
  dsimp only
  split
  · exact .onRing rfl rfl
  · split
    · exact failFetch_counts ..
    · split
      · exact .trans (.ofRings (bmeWait_rings n s)) (failFetch_counts ..)
      · split
        · exact .trans (.onRing rfl rfl) (.ofRings (bmeWait_rings ..))
        · split
          · exact .onRing rfl rfl
          · exact .trans (.ofRings ((countAsked_rings ..).trans (hostAsk_rings ..))) (.onRing rfl rfl)

theorem startFetch_counts (n : Nat) (s : State) : CountsKept n s (startFetch n s) := by
  unfold startFetch
  split
  · exact .trans (.onRing rfl rfl) (issueRead_counts ..)
  · exact ⟨rfl, rfl⟩

theorem startFetch_empty {n : Nat} {s : State} (empty : (s.ring n).head = (s.ring n).tail) : startFetch n s = s := by
  simp [startFetch, canFetch, empty]

/-- A record of DONE or DEFERRED counts its descriptor; the ring goes on, or is idle where nothing further has been submitted. -/
theorem finishRing_done {s : State} {n : Nat} {r : Res} (unscrubbed : s.link.scrubOwed = false) (done : r.status ≤ 1)
    (running : (s.ring n).state ≠ .aborting) : WritesRecord s (finishRing n r s) n r := by
  unfold finishRing
  extract_lets q d written final s1
  obtain ⟨state, tail⟩ := writeRecord_stateTail n q.completed.toNat r (descTag d) (descIrq d) s
  obtain ⟨last, completed, head⟩ := writeRecord_recorded n q.completed.toNat r (descTag d) (descIrq d) s
  have ring : s1.ring n = { written.ring n with
      op := none, desc := none, flr := false, completed := (written.ring n).completed + 1, state := .idle, sdesc := false } := by
    have goes : (written.ring n).state ≠ .aborting := fun h => running (state.symm.trans h)
    simp [s1, final, done, goes]
  have unowed : s1.link.scrubOwed = false := by
    simp only [s1, State.onRing_link, written, clearHost_scrubOwed, writeRecord_scrubOwed, unscrubbed]
  rw [scrubCheck_unowed unowed]
  unfold WritesRecord
  extract_lets
  rw [if_pos done, if_pos done]
  obtain ⟨fetched, headed⟩ := startFetch_counts n s1
  rw [ring] at fetched headed
  refine ⟨fetched.trans (congrArg (· + 1) completed), headed.trans head, fun empty => ?_⟩
  have none_left : (s1.ring n).head = (s1.ring n).tail := by
    rw [ring]
    exact head.trans (empty.trans tail.symm)
  rw [startFetch_empty none_left, ring]
  exact ⟨rfl, rfl, rfl, last⟩

/-- Where the record of a ring that is not aborting goes, completing its operation writes it. -/
theorem complete_writesRecord {s : State} {n : Nat} {r : Res} (running : (s.ring n).state ≠ .aborting) (goes : RecordGoes s n) :
    WritesRecord s (complete n r s) n r := by
  rw [complete_goes goes]
  rcases Nat.lt_or_ge 1 r.status with fails | done
  · exact finishRing_stops goes.unscrubbed fails
  · exact finishRing_done goes.unscrubbed done running

end Sys2Proof.Proofs.RingsThroughReads
end

section
/-! SUPPORT. Maintenance of lines (R186 to R190): what the invalidation of a line leaves of its copies, and the end of a maintenance
operation of a ring. -/

namespace Sys2Proof.Proofs.Maintenance

open Sys2Proof.Machine Sys2Proof.Claims Sys2Proof.Proofs.RingsThroughStores Sys2Proof.Proofs.LoadedOperations
open Sys2Proof.Proofs.RingsThroughReads

/-! ### The cores' L1 caches -/

/-- No core's L1 cache holds a line. -/
def OutsideL1 (line : Nat) (s : State) : Prop := ∀ c ∈ s.coh.cores, line ∉ c.2.l1d ∧ ∀ x ∈ c.2.l1i, x.line ≠ line

theorem mem_of_tfind {α : Type} {n : Nat} {v : α} : ∀ {t : Sparse α}, tfind t n = some v → (n, v) ∈ t
  | (k, w) :: t, found => by
    unfold tfind at found
    split at found
    · next same =>
      cases found
      cases same
      exact List.mem_cons_self
    · exact List.mem_cons_of_mem _ (mem_of_tfind found)

theorem mem_tput {α : Type} [DecidableEq α] {d : α} {t : Sparse α} {n : Nat} {v : α} {p : Nat × α} (mem : p ∈ tput d t n v) :
    p = (n, v) ∨ p ∈ t := by
  unfold tput at mem
  split at mem
  · rw [tdel_eq_filter] at mem
    exact .inr (List.mem_of_mem_filter mem)
  · exact mem_tins t n v p mem

theorem OutsideL1.core {line : Nat} {s : State} (h : OutsideL1 line s) (k : Nat) :
    line ∉ (s.core k).l1d ∧ ∀ x ∈ (s.core k).l1i, x.line ≠ line := by
  unfold State.core tget
  cases found : tfind s.coh.cores k with
  | none => exact ⟨List.not_mem_nil, fun x mem => absurd mem List.not_mem_nil⟩
  | some c => exact h _ (mem_of_tfind found)

theorem OutsideL1.onCore {line : Nat} {s : State} {k : Nat} {f : Core → Core} (h : OutsideL1 line s)
    (data : (f (s.core k)).l1d ⊆ (s.core k).l1d) (fetch : (f (s.core k)).l1i = (s.core k).l1i) : OutsideL1 line (s.onCore k f) := by
  intro c mem
  rcases mem_tput mem with rfl | before
  · exact ⟨fun held => (h.core k).1 (data held), fun x held => (h.core k).2 x (fetch ▸ held)⟩
  · exact h c before

theorem OutsideL1.loseReservation {line : Nat} {s : State} (h : OutsideL1 line s) (cache l : Nat) :
    OutsideL1 line (loseReservation cache l s) := by
  unfold Machine.loseReservation
  split
  · extract_lets c s1
    have erased : OutsideL1 line s1 := by
      unfold s1
      split
      · exact h.onCore List.erase_subset rfl
      · exact h
    split
    · exact erased.onCore (List.Subset.refl _) rfl
    · exact erased
  · exact h

theorem coreCachesKeep_outsideL1 (line : Nat) (s : State) : OutsideL1 line (coreCachesKeep (· != line) s) := by
  intro c mem
  obtain ⟨c', -, rfl⟩ := List.mem_map.1 mem
  exact ⟨fun held => by simpa using (List.mem_filter.1 held).2, fun x held => by simpa using (List.mem_filter.1 held).2⟩

/-! ### The invalidation of a line (R187, R188) -/

/-- The second state differs from the first in the cores alone. -/
def CoresOnly (s t : State) : Prop := { t with coh := { t.coh with cores := s.coh.cores } } = s

theorem CoresOnly.trans {s t u : State} (h : CoresOnly s t) (k : CoresOnly t u) : CoresOnly s u := by
  have f := congrArg (fun x : State => { x with coh := { x.coh with cores := s.coh.cores } }) k
  exact f.trans h

theorem CoresOnly.fields {s t : State} (h : CoresOnly s t) :
    t.pool = s.pool ∧ t.coh.priv = s.coh.priv ∧ t.coh.wbuf = s.coh.wbuf ∧ t.coh.dir = s.coh.dir := by
  unfold CoresOnly at h
  rw [← h]
  exact ⟨rfl, rfl, rfl, rfl⟩

theorem CoresOnly.onCore (s : State) (k : Nat) (f : Core → Core) : CoresOnly s (s.onCore k f) := rfl

theorem loseReservation_coresOnly (cache line : Nat) (s : State) : CoresOnly s (loseReservation cache line s) := by
  unfold loseReservation
  split
  · extract_lets c s1
    have erased : CoresOnly s s1 := by
      unfold s1
      split
      · exact .onCore ..
      · rfl
    split
    · exact erased.trans (.onCore ..)
    · exact erased
  · rfl

/-- The reservations of every cache that holds a line are lost, and the cores' L1 caches drop it. -/
def coresLeave (line : Nat) (s : State) : State :=
  let s := coreCachesKeep (· != line) s
  (s.coh.priv.filter fun p => p.line == line).foldl (fun s p => loseReservation p.cache line s) s

theorem coresLeave_only (line : Nat) (s : State) : CoresOnly s (coresLeave line s) :=
  CoresOnly.trans (t := coreCachesKeep (· != line) s) rfl
    (List.foldlRecOn (motive := CoresOnly (coreCachesKeep (· != line) s)) _ _ rfl fun u kept p _ =>
      kept.trans (loseReservation_coresOnly p.cache line u))

theorem coresLeave_outsideL1 (line : Nat) (s : State) : OutsideL1 line (coresLeave line s) :=
  List.foldlRecOn (motive := OutsideL1 line) _ _ (coreCachesKeep_outsideL1 line s) fun _ kept p _ => kept.loseReservation p.cache line

/-- The place that the directory finds is one of the sixteen of the line's set, and lists the line. -/
theorem dirFind_place {s : State} {line k : Nat} (found : dirFind s line = some k) :
    ∃ i d, i < 16 ∧ k = dirBase line + i ∧ tfind s.coh.dir k = some d ∧ d.line = line := by
  obtain ⟨i, first, rfl⟩ := Option.map_eq_some_iff.1 found
  have listed := List.find?_some first
  have inside := List.mem_of_find?_eq_some first
  split at listed
  · next d here => exact ⟨i, d, List.mem_range.1 inside, rfl, here, eq_of_beq listed⟩
  · cases listed

theorem dirEntry_of_unlisted {s : State} {line : Nat}
    (unlisted : ∀ i d, i < 16 → tfind s.coh.dir (dirBase line + i) = some d → d.line ≠ line) : dirEntry s line = none := by
  have nowhere : dirFind s line = none := by
    refine Option.map_eq_none_iff.2 (List.find?_eq_none.2 fun i inside listed => ?_)
    split at listed
    · next d here => exact unlisted i d (List.mem_range.1 inside) here (eq_of_beq listed)
    · cases listed
  simp [dirEntry, nowhere]

/-- An entry without holders leaves the directory alone where its line stands nowhere, and else takes the line's place out. -/
theorem dirClear_eq (line : Nat) (s : State) : dirClear line s = match dirFind s line with
    | some k => s.onCoh fun c => { c with dir := tdel c.dir k }
    | none => s := by
  unfold dirClear dirSet
  split <;> simp [*]

/-- A line's directory entry goes from the one place where it stands. -/
theorem dirEntry_dirClear {s : State} {line : Nat} (once : OnceInDir s line) : dirEntry (dirClear line s) line = none := by
  rw [dirClear_eq]
  split
  · next k found =>
    obtain ⟨i, d, inside, rfl, here, line_d⟩ := dirFind_place found
    refine dirEntry_of_unlisted fun j e below there line_e => ?_
    rcases eq_or_ne j i with rfl | apart
    · exact absurd ((tfind_tdel_same ..).symm.trans there) nofun
    · exact apart (once j i below inside e d ((tfind_tdel_other _ (by omega)).symm.trans there) line_e here line_d)
  · next nowhere => simp [dirEntry, nowhere]

/-- The directory alone differs. -/
theorem dirClear_coh (line : Nat) (s : State) : ∃ d, dirClear line s = s.onCoh fun c => { c with dir := d } := by
  rw [dirClear_eq]
  split
  · exact ⟨_, rfl⟩
  · exact ⟨s.coh.dir, rfl⟩

/-- The system cache alone differs. -/
theorem scDrop_coh (line : Nat) (s : State) : ∃ sc v, scDrop line s = s.onCoh fun c => { c with sc := sc, victim := v } := by
  unfold scDrop
  split
  · exact ⟨_, _, rfl⟩
  · exact ⟨s.coh.sc, _, rfl⟩

/-- No private cache and no write-back buffer holds a line. -/
def privLeave (line : Nat) (s : State) : State := s.onCoh fun c => { c with
  priv := c.priv.filter fun p => p.line != line
  wbuf := c.wbuf.filter fun p => p.line != line
  wbAcks := c.wbAcks.filter fun a => a.2 != line }

theorem lineInvalidate_eq (line : Nat) (s : State) :
    lineInvalidate line s = scDrop line (dirClear line (privLeave line (coresLeave line s))) := by
  simp only [lineInvalidate, privLeave, coresLeave]

/-- What the invalidation of a line leaves: its copies are gone, and all else of the coherent caches is as before. -/
structure Invalidated (line : Nat) (s t : State) : Prop where
  pool : t.pool = s.pool
  priv : t.coh.priv = s.coh.priv.filter fun p => p.line != line
  wbuf : t.coh.wbuf = s.coh.wbuf.filter fun p => p.line != line
  unlisted : OnceInDir s line → dirEntry t line = none
  cores : OutsideL1 line t

theorem lineInvalidate_invalidated (line : Nat) (s : State) : Invalidated line s (lineInvalidate line s) := by
  obtain ⟨pool, priv, wbuf, dir⟩ := (coresLeave_only line s).fields
  obtain ⟨d, cleared⟩ := dirClear_coh line (privLeave line (coresLeave line s))
  obtain ⟨sc, v, dropped⟩ := scDrop_coh line (dirClear line (privLeave line (coresLeave line s)))
  rw [lineInvalidate_eq, dropped]
  refine ⟨?_, ?_, ?_, fun once => ?_, ?_⟩
  · rw [cleared]
    simp only [privLeave, State.onCoh_pool, pool]
  · rw [cleared]
    simp only [privLeave, State.onCoh_coh, priv]
  · rw [cleared]
    simp only [privLeave, State.onCoh_coh, wbuf]
  · refine dirEntry_dirClear (s := privLeave line (coresLeave line s)) ?_
    simpa only [OnceInDir, privLeave, State.onCoh_coh, dir] using once
  · rw [cleared]
    simpa only [OutsideL1, privLeave, State.onCoh_coh] using coresLeave_outsideL1 line s

/-! ### Rings while lines are maintained -/

theorem lineClean_only (line : Nat) (s : State) : HomeOnly s (lineClean line s) := by
  unfold lineClean
  refine HomeOnly.trans ?_ (scClean_only ..)
  split
  · extract_lets written taken clean
    have writes : HomeOnly s written := (dramWrite_only ..).trans (dramWrite_only ..)
    have takes : HomeOnly written taken := .ite (scTake_only ..) .rfl
    exact (writes.trans takes).trans (.onCoh ..)
  · exact .rfl

theorem lineInvalidate_only (line : Nat) (s : State) : HomeOnly s (lineInvalidate line s) := by
  unfold lineInvalidate
  have lose : ∀ (l : List PrivLine) (u : State), HomeOnly u (l.foldl (fun s p => loseReservation p.cache line s) u) :=
    HomeOnly.foldl fun s p => loseReservation_only p.cache line s
  exact (HomeOnly.onCoh ..).trans ((lose _ _).trans ((HomeOnly.onCoh ..).trans ((dirClear_only ..).trans (scDrop_only ..))))

theorem lineMaint_only (m : Maint) (line : Nat) (s : State) : HomeOnly s (lineMaint m line s) := by
  unfold lineMaint
  extract_lets s1
  have settled : HomeOnly s s1 := .ite (settleAll_only ..) .rfl
  cases m with
  | clean => exact settled.trans (lineClean_only ..)
  | invalidate => exact settled.trans (lineInvalidate_only ..)
  | both => exact settled.trans ((lineClean_only ..).trans (lineInvalidate_only ..))

theorem lineMaints_rings (m : Maint) (lines : List Nat) (s : State) : (lines.foldl (fun u l => lineMaint m l u) s).rings = s.rings :=
  foldl_rings (fun u l => rings_ofHome (lineMaint_only m l u)) lines s

theorem maintBytes_rings (m : Maint) (pa n : Nat) (s : State) : (maintBytes m pa n s).rings = s.rings :=
  foldl_rings (fun u _ => rings_ofHome (lineMaint_only _ _ u)) _ s

theorem maintRange_rings (m : Maint) : ∀ (fuel va n : Nat) (s : State), (maintRange m fuel va n s).2.rings = s.rings
  | 0, _, _, _ => rfl
  | fuel + 1, va, n, s => by
    have translated := translate_rings agentHub .read va s
    simp only [maintRange]
    generalize translate agentHub .read va s = r at translated ⊢
    obtain ⟨r, s1⟩ := r
    split
    · rfl
    · cases r with
      | ok pa pbmt log2 =>
        refine (maintRange_rings m fuel _ _ _).trans (Eq.trans ?_ translated)
        split
        · exact maintBytes_rings ..
        · rfl
      | fault c =>
        dsimp only
        split
        · next here => cases here
        · exact (maintRange_rings m fuel _ _ _).trans translated
        · exact translated
        · next here => cases here
        · next here => cases here
      | poison => exact translated
      | held => exact translated

/-! ### A maintenance operation of a ring -/

theorem onDesc_admitted {s : State} {n kind : Nat} {d : List Byte} (desc : descOf s n kind = some d) (admitted : admits s = true)
    (run : List Byte → State → State) : onDesc n kind run s = run d s := by
  simp [onDesc, desc, admitted]

/-- The ring of a maintenance operation runs from its start. -/
def maintBegins (n : Nat) (s : State) : State := s.onRing n fun q => { q with state := .running, startTicks := s.hTicks }

theorem maintDesc_misaligned {s : State} {n : Nat} {m : Maint} {d : List Byte} (h : Accepted s n 0x04 d)
    (misaligned : descAddrOf d % 64 ≠ 0) : maintDesc m n s = refuse n 0x13 s := by
  rw [maintDesc, onDesc_accepted h]
  exact if_pos (bne_iff_ne.2 misaligned)

theorem maintDesc_read {s s1 : State} {n : Nat} {x : List Byte} {m : Maint} (admitted : admits s = true)
    (reads : ReadsStructure s s1 n 0x04 x) : maintDesc m n s = if maintBad x then refuse n 0x13 s1
    else if bits (descWord x 0 8) 16 2 = maintOp m then maintRun n m x (maintBegins n s1) else s1 := by
  obtain ⟨d, b, desc, aligned, read, sound, plain⟩ := reads.ok
  rw [maintDesc, onDesc_admitted desc admitted]
  simp only [aligned, withStruct, read, sound, plain]
  rfl

theorem read_ring {s s1 : State} {n : Nat} {x : List Byte} (reads : ReadsStructure s s1 n 0x04 x) : s1.ring n = s.ring n := by
  obtain ⟨d, b, desc, aligned, read, -⟩ := reads.ok
  exact ring_ofRings (rings_ofEq (readStruct_rings ..) read) n

theorem read_kind {s s1 : State} {n : Nat} {x : List Byte} (reads : ReadsStructure s s1 n 0x04 x) : (s1.ring n).kind = 0x04 := by
  obtain ⟨d, b, desc, -⟩ := reads.ok
  rw [read_ring reads]
  exact kind_of_descOf desc

/-- From a state with the rings of the operation's start, the ring's record is written. -/
theorem maintenance_writes {s t : State} {n : Nat} (kept : t.rings = (maintBegins n s).rings) (r : Res) (goes : RecordGoes t n) :
    WritesRecord t (complete n r t) n r := by
  refine complete_writesRecord ?_ goes
  rw [ring_ofRings kept n, maintBegins, State.ring_onRing_same]
  nofun

section
variable {s : State} {n : Nat} {m : Maint} {x : List Byte}

theorem maintRun_range {e : RangeEnd} {t : State} (mode : bits (descWord x 0 8) 18 2 = 0)
    (ended : maintRange m (descWord x 0x10 8 / 4096 + 2) (descWord x 8 8) (descWord x 0x10 8) s = (e, t)) :
    maintRun n m x s = match e with
      | .done => complete n { progress := descWord x 0x10 8 } t
      | .fault st c va => complete n { status := st, progress := va - descWord x 8 8, role := 14, reason := c
                                       element := va - descWord x 8 8, address := va } t
      | .wait => keepAsked s t := by
  simp only [maintRun, mode, ended]
  cases e <;> rfl

/-- The lines that a set/way operation names, each once. -/
def namedLines (x : List Byte) (s : State) : List Nat :=
  (setWayLines s (bits (descWord x 0 8) 23 1 == 1) (bits (descWord x 0x18 8) 32 16) (bits (descWord x 0x18 8) 20 12)
    (bits (descWord x 0x18 8) 8 12) (bits (descWord x 0x18 8) 0 6)).eraseDups

theorem maintRun_setWay (mode : bits (descWord x 0 8) 18 2 = 1) :
    maintRun n m x s = complete n {} ((namedLines x s).foldl (fun u l => lineMaint m l u) s) := by
  simp only [maintRun, mode, namedLines]

theorem maintRun_whole (mode : bits (descWord x 0 8) 18 2 = 2) :
    maintRun n m x s = complete n {} ((heldLines s).foldl (fun u l => lineMaint m l u) s) := by
  simp only [maintRun, mode]

end

theorem lineMaint_invalidate {u : State} {l : Nat} (free : txnOf u l = none) (unqueued : lineQueued u l = false) :
    lineMaint .invalidate l u = lineInvalidate l u := by
  simp [lineMaint, free, unqueued]

/-- Settles O32: a refused descriptor and each end of an operation by the record that its ring writes, the rings being as they were at
its start; the invalidation of a line by what it leaves of each kind of copy. -/
theorem maintenanceActsOnItsLines : Obligations.MaintenanceActsOnItsLines := by
  unfold Obligations.MaintenanceActsOnItsLines
  refine ⟨fun s s1 n x m i command => ?_, fun u l free unqueued => ?_⟩
  · have runs : exec i s = .next (maintDesc m n s) := by
      rcases command with ⟨rfl, rfl⟩ | ⟨rfl, rfl⟩ | ⟨rfl, rfl⟩ <;> rfl
    refine ⟨fun d accepted misaligned => ⟨_, runs, ?_⟩, fun admitted reads => ⟨fun bad goes => ⟨_, runs, ?_⟩, fun good op => ?_⟩⟩
    · rw [maintDesc_misaligned accepted misaligned]
      exact refuse_writesRecord accepted.goes (by rw [kind_of_descOf accepted.desc]; decide) (by decide)
    · rw [maintDesc_read admitted reads, if_pos bad]
      exact refuse_writesRecord goes (by rw [read_kind reads]; decide) (by decide)
    · rw [maintDesc_read admitted reads, if_neg (by simp [good]), if_pos op] at runs
      refine ⟨fun mode s3 => ⟨fun ended goes => ⟨_, runs, ?_⟩, fun st c v ended goes => ⟨_, runs, ?_⟩⟩,
        fun mode goes => ⟨_, runs, ?_⟩, fun mode goes => ⟨_, runs, ?_⟩⟩
      · rw [maintRun_range (s := maintBegins n s1) mode ended]
        exact maintenance_writes (rings_ofEq (maintRange_rings ..) ended) _ goes
      · rw [maintRun_range (s := maintBegins n s1) mode ended]
        exact maintenance_writes (rings_ofEq (maintRange_rings ..) ended) _ goes
      · rw [maintRun_setWay mode]
        exact maintenance_writes (lineMaints_rings ..) _ goes
      · rw [maintRun_whole mode]
        exact maintenance_writes (lineMaints_rings ..) _ goes
  · rw [lineMaint_invalidate free unqueued]
    obtain ⟨pool, priv, wbuf, unlisted, cores⟩ := lineInvalidate_invalidated l u
    refine ⟨pool, fun q held => ?_, fun q held => ?_, unlisted, fun q held other => ?_, cores⟩
    · rw [priv] at held
      exact bne_iff_ne.1 (List.mem_filter.1 held).2
    · rw [wbuf] at held
      exact bne_iff_ne.1 (List.mem_filter.1 held).2
    · rw [priv]
      exact List.mem_filter.2 ⟨held, bne_iff_ne.2 other⟩

end Sys2Proof.Proofs.Maintenance
end

section
/-! SUPPORT. What the home, a record and the reasons of the power domains leave of the cores: all but their reservations and what their
L1 data caches hold. -/

namespace Sys2Proof.Proofs.CoresThroughHome

open Sys2Proof.Machine

/-- Every core without what a snoop may take of it: its reservation with the delay after its LR, and the lines of its L1 data cache. -/
@[irreducible] def lasting (s : State) (k : Nat) : Core := { s.core k with reservation := none, lrDelay := false, l1d := [] }

theorem lasting_core {s t : State} (same : lasting t = lasting s) (k : Nat) :
    (t.core k).cycle = (s.core k).cycle ∧ (t.core k).instret = (s.core k).instret := by
  have cores := congrFun same k
  unfold lasting at cores
  have cycle := congrArg Core.cycle cores
  have instret := congrArg Core.instret cores
  exact ⟨cycle, instret⟩

theorem lasting_ofCores {s t : State} (same : t.coh.cores = s.coh.cores) : lasting t = lasting s := by
  funext k
  simp only [lasting, State.core, same]

/-- An update of a core that its reservation and its L1 data cache alone see. -/
theorem lasting_onCore {s : State} {k : Nat} {f : Core → Core}
    (same : { f (s.core k) with reservation := none, lrDelay := false, l1d := [] }
      = { s.core k with reservation := none, lrDelay := false, l1d := [] }) : lasting (s.onCore k f) = lasting s := by
  funext j
  unfold lasting
  rcases eq_or_ne j k with rfl | other
  · rw [State.core_onCore_same, same]
  · rw [State.core_onCore_other _ _ other]

@[simp] theorem lasting_ite {s t : State} {c : Prop} [Decidable c] :
    lasting (if c then s else t) = if c then lasting s else lasting t := apply_ite ..

theorem lasting_foldl {β : Type} {f : State → β → State} (h : ∀ s b, lasting (f s b) = lasting s) :
    ∀ (l : List β) (s : State), lasting (l.foldl f s) = lasting s
  | [], _ => rfl
  | b :: l, s => (lasting_foldl h l (f s b)).trans (h s b)

/-! ### Memory and the system cache -/

@[simp] theorem lasting_onCoh {s : State} {f : Coh → Coh} (same : (f s.coh).cores = s.coh.cores) : lasting (s.onCoh f) = lasting s :=
  lasting_ofCores same

@[simp] theorem lasting_onSlice (i : Nat) (f : SliceCtr → SliceCtr) (s : State) : lasting (s.onSlice i f) = lasting s := lasting_ofCores rfl
@[simp] theorem lasting_dramWrite (sec : Nat) (b : List Byte) (ep : Bool) (s : State) : lasting (dramWrite sec b ep s) = lasting s :=
  lasting_ofCores rfl

@[simp] theorem lasting_scSet (k : Nat) (l : ScLine) (s : State) : lasting (scSet k l s) = lasting s := lasting_ofCores rfl
@[simp] theorem lasting_scTouch (k : Nat) (s : State) : lasting (scTouch k s) = lasting s := lasting_ofCores rfl
@[simp] theorem lasting_victimDrop (line : Nat) (s : State) : lasting (victimDrop line s) = lasting s := lasting_ofCores rfl
@[simp] theorem lasting_privDrop (cache line : Nat) (s : State) : lasting (privDrop cache line s) = lasting s := lasting_ofCores rfl
@[simp] theorem lasting_privSet (p : PrivLine) (s : State) : lasting (privSet p s) = lasting s := lasting_ofCores rfl
@[simp] theorem lasting_wbufDrop (cache line : Nat) (s : State) : lasting (wbufDrop cache line s) = lasting s := lasting_ofCores rfl
@[simp] theorem lasting_dirTouch (k : Nat) (s : State) : lasting (dirTouch k s) = lasting s := lasting_ofCores rfl
@[simp] theorem lasting_txnSet (t : Txn) (s : State) : lasting (txnSet t s) = lasting s := lasting_ofCores rfl
@[simp] theorem lasting_txnDrop (line : Nat) (s : State) : lasting (txnDrop line s) = lasting s := lasting_ofCores rfl
@[simp] theorem lasting_dramLineWrite (p : PrivLine) (s : State) : lasting (dramLineWrite p s) = lasting s := lasting_ofCores rfl

@[simp] theorem lasting_scWriteBack (l : ScLine) (s : State) : lasting (scWriteBack l s) = lasting s := by
  simp [scWriteBack]

@[simp] theorem lasting_victimPush (l : ScLine) (s : State) : lasting (victimPush l s) = lasting s := by
  unfold victimPush
  dsimp only
  split <;> simp

@[simp] theorem lasting_scFreeWay (line : Nat) (s : State) : lasting (scFreeWay line s).2 = lasting s := by
  unfold scFreeWay
  split
  · rfl
  · dsimp only
    split <;> simp

@[simp] theorem lasting_scAlloc (line : Nat) (s : State) : lasting (scAlloc line s).2 = lasting s := by
  unfold scAlloc
  split <;> simp

@[simp] theorem lasting_scFillSector (k sec : Nat) (s : State) : lasting (scFillSector k sec s) = lasting s := by
  unfold scFillSector
  split <;> simp

@[simp] theorem lasting_scFill (line : Nat) (need0 need1 : Bool) (s : State) : lasting (scFill line need0 need1 s) = lasting s := by
  simp [scFill]

@[simp] theorem lasting_scWrite (line off : Nat) (b : List Byte) (ep : Bool) (s : State) : lasting (scWrite line off b ep s) = lasting s := by
  unfold scWrite
  dsimp only
  split <;> simp

@[simp] theorem lasting_scTake (line : Nat) (d : List Byte) (p0 p1 : Bool) (s : State) : lasting (scTake line d p0 p1 s) = lasting s := by
  simp [scTake]

@[simp] theorem lasting_scClean (line : Nat) (s : State) : lasting (scClean line s) = lasting s := by
  unfold scClean
  split <;> split <;> simp

@[simp] theorem lasting_scDrop (line : Nat) (s : State) : lasting (scDrop line s) = lasting s := by
  unfold scDrop
  split <;> simp

@[simp] theorem lasting_loseReservation (cache line : Nat) (s : State) : lasting (loseReservation cache line s) = lasting s := by
  have unreserved (k : Nat) (u : State) : lasting (u.onCore k fun c => { c with reservation := none, lrDelay := false }) = lasting u :=
    lasting_onCore rfl
  have erased (k : Nat) (u : State) : lasting (u.onCore k fun c => { c with l1d := c.l1d.erase line }) = lasting u := lasting_onCore rfl
  unfold loseReservation
  split <;> simp [unreserved, erased]

/-! ### Messages in the switch -/

@[simp] theorem lasting_switchIn (input output cls lane : Nat) (data : Bool) (s : State) :
    lasting (switchIn input output cls lane data s) = lasting s := lasting_ofCores rfl

@[simp] theorem lasting_fromAgent (agent line cls : Nat) (data : Bool) (s : State) : lasting (fromAgent agent line cls data s) = lasting s := by
  unfold fromAgent
  split <;> simp

@[simp] theorem lasting_toAgent (agent line cls : Nat) (data : Bool) (s : State) : lasting (toAgent agent line cls data s) = lasting s := by
  unfold toAgent
  split <;> simp

@[simp] theorem lasting_betweenAgents (a b line cls : Nat) (data : Bool) (s : State) :
    lasting (betweenAgents a b line cls data s) = lasting s := by
  unfold betweenAgents
  split <;> simp

@[simp] theorem lasting_recallCopies (d : DirEntry) (s : State) : lasting (recallCopies d s) = lasting s :=
  lasting_foldl (fun s c => by simp) _ s

@[simp] theorem lasting_sendResponse (r : SnoopResp) (s : State) : lasting (sendResponse r s) = lasting s := by
  unfold sendResponse
  split
  · simp
  · dsimp only
    split <;> simp

@[simp] theorem lasting_sendGrant (t : Txn) (s : State) : lasting (sendGrant t s) = lasting s := by
  unfold sendGrant
  split <;> simp

@[simp] theorem lasting_sendRequest (req : HomeReq) (agent line : Nat) (s : State) : lasting (sendRequest req agent line s) = lasting s := by
  unfold sendRequest
  split <;> simp

/-! ### Lines leave their holders -/

@[simp] theorem lasting_reservationsLost (line : Nat) (l : List Nat) (s : State) :
    lasting (l.foldl (fun s c => loseReservation c line s) s) = lasting s := lasting_foldl (fun s c => lasting_loseReservation c line s) l s

@[simp] theorem lasting_backInvalidate (d : DirEntry) (s : State) : lasting (backInvalidate d s) = lasting s := by
  unfold backInvalidate
  dsimp only
  split <;> simp

@[simp] theorem lasting_dirFreeWay (line : Nat) (s : State) : lasting (dirFreeWay line s).2 = lasting s := by
  unfold dirFreeWay
  split
  · rfl
  · dsimp only
    split <;> simp

@[simp] theorem lasting_dirSet (d : DirEntry) (s : State) : lasting (dirSet d s) = lasting s := by
  unfold dirSet
  dsimp only
  split <;> simp

@[simp] theorem lasting_dirClear (line : Nat) (s : State) : lasting (dirClear line s) = lasting s := lasting_dirSet ..

@[simp] theorem lasting_dieClean (line : Nat) (s : State) : lasting (dieClean line s) = lasting s := by
  unfold dieClean
  split <;> simp

/-- A line's dirty copy comes to the home, where there is one. -/
theorem lasting_dirtyTaken (line : Nat) (c : Option PrivLine) (s : State) : lasting (match c with
    | some p => scTake line p.data p.poison0 p.poison1 s
    | none => s) = lasting s := by
  cases c <;> simp

@[simp] theorem lasting_homeClean (line : Nat) (s : State) : lasting (homeClean line s) = lasting s := by
  unfold homeClean
  extract_lets s1 s2 s3
  have recalled : lasting s1 = lasting s := by
    unfold s1
    split <;> simp
  have taken : lasting s2 = lasting s1 := lasting_dirtyTaken ..
  simp [s3, taken, recalled]

@[simp] theorem lasting_homeAtom (addr : Nat) (r : AtomReq) (s : State) : lasting (homeAtom addr r s).2 = lasting s := by
  simp [homeAtom]

@[simp] theorem lasting_homeFinish (t : Txn) (s : State) : lasting (homeFinish t s) = lasting s := by
  unfold homeFinish
  dsimp only
  split <;> simp

/-! ### Snoops and responses -/

@[simp] theorem lasting_snoopAnswer (n : Snoop) (s : State) : lasting (snoopAnswer n s) = lasting s := by
  unfold snoopAnswer
  dsimp only
  split
  · split <;> simp
  · split <;> simp

@[simp] theorem lasting_homeResponse (r : SnoopResp) (s : State) : lasting (homeResponse r s) = lasting s := by
  unfold homeResponse
  dsimp only
  split <;> simp

/-! ### Lines that leave and come -/

@[simp] theorem lasting_homeWb (agent line : Nat) (s : State) : lasting (homeWb agent line s) = lasting s := by
  unfold homeWb
  dsimp only
  split
  · split <;> simp
  · simp

@[simp] theorem lasting_homeEv (agent line : Nat) (s : State) : lasting (homeEv agent line s) = lasting s := by
  unfold homeEv
  split <;> simp

@[simp] theorem lasting_homeNotice (wb : Bool) (agent line : Nat) (s : State) : lasting (homeNotice wb agent line s) = lasting s := by
  simp [homeNotice]

@[simp] theorem lasting_privLeave (p : PrivLine) (s : State) : lasting (privLeave p s) = lasting s := by
  unfold privLeave
  dsimp only
  split
  · simp
  · split <;> simp

@[simp] theorem lasting_privFill (p : PrivLine) (s : State) : lasting (privFill p s) = lasting s := by
  unfold privFill
  split
  · simp
  · split <;> simp

@[simp] theorem lasting_requesterReceive (t : Txn) (s : State) : lasting (requesterReceive t s) = lasting s := by
  unfold requesterReceive
  extract_lets take s1
  have takes (st : LineState) : lasting (take st s) = lasting s := by simp [take]
  have received : lasting s1 = lasting s := by
    unfold s1
    split
    · split <;> simp [takes]
    · exact takes _
    · split <;> simp
    · rfl
  rw [lasting_txnSet]
  split <;> simp [received]

@[simp] theorem lasting_answerSnoops (line : Nat) (s : State) : lasting (answerSnoops line s) = lasting s :=
  lasting_foldl (fun s n => lasting_snoopAnswer n s) _ s

@[simp] theorem lasting_takeResponses (line : Nat) (s : State) : lasting (takeResponses line s) = lasting s :=
  lasting_foldl (fun s r => lasting_homeResponse r s) _ s

@[simp] theorem lasting_drainLine (line : Nat) (s : State) : lasting (drainLine line s) = lasting s := by
  unfold drainLine
  split
  · rfl
  · dsimp only
    split <;> simp

/-! ### Loans -/

@[simp] theorem lasting_loanEnd (g : Nat) (s : State) : lasting (loanEnd g s) = lasting s := by
  have recalled := lasting_foldl (f := fun s l => homeClean l (drainLine l s)) (fun s l => by simp) (granuleLines g) s
  simp [loanEnd, recalled]

@[simp] theorem lasting_roomForLoan (d : Nat) (s : State) : lasting (roomForLoan d s) = lasting s := by
  unfold roomForLoan
  split <;> simp

@[simp] theorem lasting_dieRecall (d line : Nat) (s : State) : lasting (dieRecall d line s) = lasting s := by
  unfold dieRecall
  extract_lets s1 mine s2 s3
  have taken : lasting s2 = lasting s := by
    unfold s2
    split <;> simp [s1]
  split <;> simp [s3, taken]

@[simp] theorem lasting_lend (d line : Nat) (s : State) : lasting (lend d line s) = lasting s := by
  have recalls := lasting_foldl (f := fun s l => if homeHeld s l then dieRecall d l s else dieClean l s) (fun s l => by simp)
    (granuleLines (granuleOf line))
  simp [lend, recalls]

@[simp] theorem lasting_loanFor (agent line : Nat) (s : State) : lasting (loanFor agent line s) = lasting s := by
  unfold loanFor
  split <;> simp

/-! ### Requests -/

@[simp] theorem lasting_homeAccept (req : HomeReq) (agent line : Nat) (ep : Bool) (s : State) :
    lasting (homeAccept req agent line ep s) = lasting s := by
  have sent := lasting_foldl (f := fun s (p : Nat × SnoopKind) => toAgent p.1 line 2 false s) (fun s p => by simp)
  unfold homeAccept
  split <;> simp [sent]

@[simp] theorem lasting_unblock : ∀ (n : Nat) (s : State), lasting (unblock n s) = lasting s
  | 0, _ => rfl
  | n + 1, s => by
    unfold unblock
    split <;> simp [lasting_unblock n]

@[simp] theorem lasting_homeAck (line : Nat) (s : State) : lasting (homeAck line s) = lasting s := by
  simp [homeAck]

@[simp] theorem lasting_endTxn (line : Nat) (s : State) : lasting (endTxn line s) = lasting s := by
  unfold endTxn
  dsimp only
  split <;> simp

@[simp] theorem lasting_endOldest (slice : Nat) (s : State) : lasting (endOldest slice s) = lasting s := by
  unfold endOldest
  split <;> simp

@[simp] theorem lasting_settle (line : Nat) : ∀ (n : Nat) (s : State), lasting (settle line n s) = lasting s
  | 0, _ => rfl
  | n + 1, s => by simp [settle, lasting_settle line n]

@[simp] theorem lasting_makeRoom (slice : Nat) : ∀ (n : Nat) (s : State), lasting (makeRoom slice n s) = lasting s
  | 0, _ => rfl
  | n + 1, s => by simp [makeRoom, lasting_makeRoom slice n]

@[simp] theorem lasting_homeRun (req : HomeReq) (agent line : Nat) (ep : Bool) (s : State) :
    lasting (homeRun req agent line ep s) = lasting s := by
  simp [homeRun, homeRoom, homeWait, settleAll]

/-! ### Stores without a copy -/

@[simp] theorem lasting_dramPatch (line off : Nat) (b : List Byte) (ep : Bool) (s : State) :
    lasting (dramPatch line off b ep s) = lasting s := by
  simp [dramPatch]

@[simp] theorem lasting_storeLine_once (agent line off : Nat) (b : List Byte) (ep : Bool) (s : State) :
    lasting (storeLine .once agent line off b ep s) = lasting s := by
  simp [storeLine]

@[simp] theorem lasting_hotPool (pa n : Nat) (s : State) : lasting (hotPool pa n s) = lasting s := by
  unfold hotPool
  split
  · exact lasting_ofCores rfl
  · rfl

@[simp] theorem lasting_writePool_once (agent : Nat) : ∀ (ps : List (Nat × Nat)) (b : List Byte) (ep : Bool) (s : State),
    lasting (writePool .once agent ps b ep s) = lasting s
  | [], _, _, _ => rfl
  | _ :: ps, _, _, _ => by simp [writePool, lasting_writePool_once agent ps]

@[simp] theorem lasting_storePool_once (agent pa : Nat) (b : List Byte) (ep : Bool) (s : State) :
    lasting (storePool .once agent pa b ep s) = lasting s := lasting_writePool_once ..

/-! ### Records -/

@[simp] theorem lasting_onEvt (s : State) (f : EventRing → EventRing) : lasting (s.onEvt f) = lasting s := lasting_ofCores rfl
@[simp] theorem lasting_onLink (s : State) (f : Link → Link) : lasting (s.onLink f) = lasting s := lasting_ofCores rfl
@[simp] theorem lasting_onXlt (s : State) (f : Xlt → Xlt) : lasting (s.onXlt f) = lasting s := lasting_ofCores rfl

@[simp] theorem lasting_hotNote (k : Nat) (s : State) : lasting (hotNote k s) = lasting s := by
  unfold hotNote
  split
  · rfl
  · dsimp only
    split
    · split <;> simp
    · rfl

@[simp] theorem lasting_markHost (o : Owner) (s : State) : lasting (markHost o s) = lasting s := by
  unfold markHost
  split <;> simp

@[simp] theorem lasting_noteIssued (o : Owner) (hi : Nat) (s : State) : lasting (noteIssued o hi s) = lasting s := by
  unfold noteIssued
  split <;> simp

@[simp] theorem lasting_postWrite (o : Owner) (hio : Nat) (b : List Byte) (ep : Bool) (s : State) :
    lasting (postWrite o hio b ep s) = lasting s := by
  simp [postWrite, hotHost, hotBump]

@[simp] theorem lasting_signalEvents (s : State) : lasting (signalEvents s) = lasting s := by
  simp [signalEvents, sendVector]

@[simp] theorem lasting_evtWrite (o : Onion) (s : State) : lasting (evtWrite o s) = lasting s := by
  simp [evtWrite]

@[simp] theorem lasting_evtFlush : ∀ (f : Nat) (s : State), lasting (evtFlush f s) = lasting s
  | 0, _ => rfl
  | f + 1, s => by
    unfold evtFlush
    split
    · rfl
    · split
      · simp [lasting_evtFlush f]
      · split <;> simp [lasting_evtFlush f]

@[simp] theorem lasting_event (cls reason addr param : Nat) (s : State) : lasting (event cls reason addr param s) = lasting s := by
  simp [event, placeOnion, evtPump]

/-! ### The reasons of the power domains -/

@[simp] theorem lasting_onPwr (s : State) (f : Power → Power) : lasting (s.onPwr f) = lasting s := lasting_ofCores rfl
@[simp] theorem lasting_onDomain (s : State) (d : Nat) (f : Domain → Domain) : lasting (s.onDomain d f) = lasting s := lasting_ofCores rfl

@[simp] theorem lasting_rateCheck (stuck : Bool) (d : Nat) (s : State) : lasting (rateCheck stuck d s) = lasting s := by
  unfold rateCheck
  split <;> simp

@[simp] theorem lasting_reasonsUpdate (s : State) : lasting (reasonsUpdate s) = lasting s := by
  unfold reasonsUpdate
  extract_lets old stuck s1 new count s2
  have formed : lasting s1 = lasting s := lasting_foldl (fun _ _ => by simp) allDomains s
  have checked : lasting ((List.range 32).foldl (fun s d => rateCheck stuck d s) s2) = lasting s2 := lasting_foldl (fun _ _ => by simp) _ s2
  simp only [checked, s2, lasting_onPwr, formed]

/-- The instruction that wakes the module from rung 1 leaves of every core all but what a snoop may take of it. -/
theorem lasting_stir (s : State) : lasting (stir s) = lasting s := by
  simp [stir]

end Sys2Proof.Proofs.CoresThroughHome
end

section
/-! SUPPORT. An instruction of a core from its issue to its retirement (R195, R196, R216), and what the core's maintenance of a block,
FENCE and WFI leave. -/

namespace Sys2Proof.Proofs.CoreInstructions

open Sys2Proof.Machine Sys2Proof.Safety Sys2Proof.Claims Sys2Proof.Proofs.Maintenance Sys2Proof.Proofs.CoresThroughHome

/-! ### Issue and retirement -/

/-- A FENCE of the core waits for its stores to the fabric. -/
def fenceWaits (s : State) (k : Nat) : Bool := (s.core k).waitsFence && coreStores s k

/-- The core's instruction is over, retired or not, and a FENCE before it that waited still waits. -/
def issueEnds (k : Nat) (waits : Bool) (s : State) : State :=
  if waits then (coreRetires k s).onCore k fun c => { c with waitsFence := true } else coreRetires k s

theorem coreIssue_runs {s : State} {k : Nat} {after : FenceSets → Bool} (ready : CoreReady s k after) (env : CoreEnv) (f : State → State) :
    coreIssue k env after f s = .next (issueEnds k (fenceWaits s k) (f (coreRuns k env s))) := by
  simp [coreIssue, ready.1, ready.2, issueEnds, fenceWaits]

/-- A core whose instruction retires, where it neither waits nor has taken an exception. -/
def retire (c : Core) : Core := if coreStays c || c.exception.isSome then c else { c with instret := advance c.instret 1 }

/-- A core as its instruction leaves it at its end. -/
def retired (waits : Bool) (c : Core) : Core := if waits then { retire c with waitsFence := true } else retire c

theorem issueEnds_core (k : Nat) (waits : Bool) (s : State) : (issueEnds k waits s).core k = retired waits (s.core k) := by
  cases waits <;> simp [issueEnds, coreRetires, retired, retire]

/-- The end of an instruction changes of its core the count of retired instructions and the wait of a FENCE alone. -/
theorem retired_fields (waits : Bool) (c : Core) : (retired waits c).exception = c.exception ∧ (retired waits c).wfi = c.wfi
    ∧ (retired waits c).cycle = c.cycle ∧ (retired waits c).l1i = c.l1i ∧ (retired waits c).fence = c.fence := by
  have retires : (retire c).exception = c.exception ∧ (retire c).wfi = c.wfi ∧ (retire c).cycle = c.cycle ∧ (retire c).l1i = c.l1i
      ∧ (retire c).fence = c.fence := by
    unfold retire
    split <;> exact ⟨rfl, rfl, rfl, rfl, rfl⟩
  cases waits <;> exact retires

theorem retired_waitsFence (c : Core) : (retired false c).waitsFence = c.waitsFence := by
  simp only [retired, retire]
  split
  · contradiction
  · split <;> rfl

/-- An instruction without exception or wait is counted as retired. -/
theorem retired_instret {c : Core} (waits : Bool) (goes : coreStays c = false) (unexcepted : c.exception = none) :
    (retired waits c).instret = c.instret + 1 := by
  cases waits <;> simp [retired, retire, goes, unexcepted, advance]

theorem issueEnds_other {k j : Nat} (waits : Bool) (s : State) (other : j ≠ k) : (issueEnds k waits s).core j = s.core j := by
  cases waits <;> simp [issueEnds, coreRetires, State.core_onCore_other _ _ other]

theorem fab_ofCores {s t : State} (h : CoresOnly s t) : t.fab = s.fab := by have f := congrArg State.fab h; exact f
theorem rings_ofCores {s t : State} (h : CoresOnly s t) : t.rings = s.rings := by have f := congrArg State.rings h; exact f
theorem engines_ofCores {s t : State} (h : CoresOnly s t) : t.engines = s.engines := by have f := congrArg State.engines h; exact f

theorem issueEnds_only (k : Nat) (waits : Bool) (s : State) : CoresOnly s (issueEnds k waits s) := by
  unfold issueEnds coreRetires
  split
  · exact (CoresOnly.onCore ..).trans (.onCore ..)
  · exact .onCore ..

theorem coreStores_iff {s : State} {k : Nat} : coreStores s k = true ↔ ∃ x ∈ s.fab.tx, x.owner = .core k ∧ x.kind ≠ .get := by
  simp [coreStores]

/-! ### Maintenance of a block (R186, R187, R190) -/

/-- A private copy as a clean of its line leaves it. -/
def cleaned (line : Nat) (p : PrivLine) : PrivLine := if p.line = line ∧ p.st = .m then { p with st := .e } else p

theorem cleaned_clean {line : Nat} {p : PrivLine} (same : (cleaned line p).line = line) : (cleaned line p).st ≠ .m := by
  unfold cleaned at same ⊢
  split
  · nofun
  · next other =>
    rw [if_neg other] at same
    exact fun dirty => other ⟨same, dirty⟩

/-- The state with a dirty copy in memory and the line's private copies clean. -/
def writtenBack (line : Nat) (p : PrivLine) (s : State) : State :=
  (dramWrite (2 * line + 1) (p.data.drop 64) p.poison1 (dramWrite (2 * line) (p.data.take 64) p.poison0 s)).onCoh fun c =>
    { c with priv := c.priv.map (cleaned line) }

theorem scClean_uncached {s : State} {line : Nat} (uncached : scCopy s line = none) : scClean line s = s := by
  unfold scCopy at uncached
  unfold scClean
  split at uncached <;> simp [*]

theorem lineClean_dirty {s : State} {line : Nat} {p : PrivLine} (dirty : dirtyCopy s line = some p) (uncached : scCopy s line = none) :
    lineClean line s = writtenBack line p s := by
  have still (u : State) (sc : u.coh.sc = s.coh.sc) (victim : u.coh.victim = s.coh.victim) : scCopy u line = none := by
    simpa only [scCopy, scFind, victimFind, sc, victim] using uncached
  have gone : scCopy (dramWrite (2 * line + 1) (p.data.drop 64) p.poison1 (dramWrite (2 * line) (p.data.take 64) p.poison0 s)) line
      = none := still _ rfl rfl
  have clean : scCopy (writtenBack line p s) line = none := still _ rfl rfl
  simp only [lineClean, dirty, gone, Option.isSome_none, Bool.false_eq_true, if_false]
  exact scClean_uncached clean

theorem memWrite_append (a : Nat) (y : List Byte) : ∀ (x : List Byte) (m : List Host.Cell) (b : Nat), b = a + x.length →
    memWrite (memWrite m a x) b y = memWrite m a (x ++ y) := by
  intro x
  induction x generalizing a with
  | nil => rintro m b rfl; rfl
  | cons v x ih =>
    intro m b place
    exact ih (a + 1) (memPut m a v) b (by rw [place, List.length_cons]; omega)

theorem writtenBack_dramLine {line : Nat} {p : PrivLine} {s : State} (whole : p.data.length = 128) :
    dramLine (writtenBack line p s) line = p.data := by
  have first : 2 * line * 64 = line * 128 := by omega
  have stored : (writtenBack line p s).pool.mem = memWrite s.pool.mem (line * 128) p.data := by
    have both := memWrite_append (line * 128) (p.data.drop 64) (p.data.take 64) s.pool.mem ((2 * line + 1) * 64)
      (by rw [List.length_take, whole]; omega)
    rw [List.take_append_drop] at both
    simpa only [writtenBack, dramWrite, State.onCoh_pool, State.onPool_pool, first] using both
  rw [dramLine, stored, ← whole]
  exact memRead_memWrite ..

section
variable {s : State} {k addr : Nat} {env : CoreEnv}

/-- A core may maintain a pool block that no transaction concerns and no other core's LR holds. -/
structure MayMaintain (s : State) (k addr : Nat) (env : CoreEnv) : Prop where
  pool : regionOf addr = .pool
  free : txnOf s (addr / 128) = none
  unqueued : lineQueued s (addr / 128) = false
  unheld : lrHolds s (544 + k) (addr / 128) = false
  permitted : pmpPermits env 0 (addr / 128 * 128) 128 = true

variable (may : MayMaintain s k addr env)
include may

theorem coreMaint_line (m : Maint) : coreMaint m k addr env s = lineMaint m (addr / 128) s := by
  have unheld := may.unheld
  simp [coreMaint, may.pool, may.permitted, coreCache, unheld]

theorem coreMaint_clean : coreMaint .clean k addr env s = lineClean (addr / 128) s := by
  rw [coreMaint_line may]
  simp [lineMaint, may.free, may.unqueued]

theorem coreMaint_invalidate : coreMaint .invalidate k addr env s = lineInvalidate (addr / 128) s := by
  rw [coreMaint_line may, lineMaint_invalidate may.free may.unqueued]

theorem coreMaint_both : coreMaint .both k addr env s = lineInvalidate (addr / 128) (lineClean (addr / 128) s) := by
  rw [coreMaint_line may]
  simp [lineMaint, may.free, may.unqueued]

end

theorem dramLine_ofPool {s t : State} (same : t.pool = s.pool) (line : Nat) : dramLine t line = dramLine s line := by
  simp only [dramLine, same]

theorem dirEntry_ofDir {s t : State} (same : t.coh.dir = s.coh.dir) (line : Nat) : dirEntry t line = dirEntry s line := by
  simp only [dirEntry, dirFind, same]

/-! ### The commands -/

section
variable {s : State} {k addr : Nat} {env : CoreEnv} (ready : CoreReady s k (writeAfter addr))
include ready

/-- The illegal instruction's exception alone remains of an instruction that envcfg disallows. -/
theorem cboIssue_illegal (u : Bool) (f : State → State) : ∃ t, cboIssue k ⟨addr, env, u⟩ false f s = .next t
    ∧ (t.core k).exception = some 2 ∧ t.pool = (coreRuns k env s).pool ∧ t.coh.priv = (coreRuns k env s).coh.priv := by
  obtain ⟨pool, priv, -, -⟩ := (issueEnds_only k (fenceWaits s k) (coreFault k 2 0 (coreRuns k env s))).fields
  obtain ⟨exception, -⟩ := retired_fields (fenceWaits s k) ((coreFault k 2 0 (coreRuns k env s)).core k)
  refine ⟨_, coreIssue_runs ready env _, ?_, pool, priv⟩
  rw [issueEnds_core]
  refine exception.trans ?_
  simp [coreFault]

theorem cboIssue_runs (u : Bool) (f : State → State) : cboIssue k ⟨addr, env, u⟩ true f s
    = .next (issueEnds k (fenceWaits s k) (f (coreRuns k env s))) := coreIssue_runs ready env _

end

theorem exec_cboClean (s : State) (k addr : Nat) (env : CoreEnv) (u : Bool) : exec (.cboClean k ⟨addr, env, u⟩) s
    = cboIssue k ⟨addr, env, u⟩ (envcfgAll env (bit · 6)) (coreMaint .clean k addr env) s := rfl

theorem exec_cboFlush (s : State) (k addr : Nat) (env : CoreEnv) (u : Bool) : exec (.cboFlush k ⟨addr, env, u⟩) s
    = cboIssue k ⟨addr, env, u⟩ (envcfgAll env (bit · 6)) (coreMaint .both k addr env) s := rfl

theorem exec_cboInval (s : State) (k addr : Nat) (env : CoreEnv) : exec (.cboInval k addr env) s
    = cboIssue k ⟨addr, env, false⟩ (!cbieOff env) (coreMaint (if cbieFlush env then .both else .invalidate) k addr env) s := rfl

section
variable {s : State} {k addr : Nat} {env : CoreEnv} (ready : CoreReady s k (writeAfter addr))
  (may : MayMaintain (coreRuns k env s) k addr env)
include ready may

theorem cboClean_cleans {p : PrivLine} (u : Bool) (allowed : envcfgAll env (bit · 6) = true)
    (dirty : dirtyCopy (coreRuns k env s) (addr / 128) = some p) (whole : p.data.length = 128)
    (uncached : scCopy (coreRuns k env s) (addr / 128) = none) :
    ∃ t, exec (.cboClean k ⟨addr, env, u⟩) s = .next t ∧ dramLine t (addr / 128) = p.data
      ∧ ∀ q ∈ t.coh.priv, q.line = addr / 128 → q.st ≠ .m := by
  rw [exec_cboClean, allowed, cboIssue_runs ready, coreMaint_clean may, lineClean_dirty dirty uncached]
  obtain ⟨pool, priv, -, -⟩ := (issueEnds_only k (fenceWaits s k) (writtenBack (addr / 128) p (coreRuns k env s))).fields
  refine ⟨_, rfl, (dramLine_ofPool pool _).trans (writtenBack_dramLine whole), fun q held => ?_⟩
  rw [priv] at held
  obtain ⟨q, -, rfl⟩ := List.mem_map.1 held
  exact cleaned_clean

theorem cboFlush_flushes {p : PrivLine} (u : Bool) (allowed : envcfgAll env (bit · 6) = true)
    (dirty : dirtyCopy (coreRuns k env s) (addr / 128) = some p) (whole : p.data.length = 128)
    (uncached : scCopy (coreRuns k env s) (addr / 128) = none) :
    ∃ t, exec (.cboFlush k ⟨addr, env, u⟩) s = .next t ∧ dramLine t (addr / 128) = p.data ∧ ∀ q ∈ t.coh.priv, q.line ≠ addr / 128 := by
  rw [exec_cboFlush, allowed, cboIssue_runs ready, coreMaint_both may, lineClean_dirty dirty uncached]
  obtain ⟨left, held, -, -, -⟩ := lineInvalidate_invalidated (addr / 128) (writtenBack (addr / 128) p (coreRuns k env s))
  obtain ⟨pool, priv, -, -⟩ := (issueEnds_only k (fenceWaits s k)
    (lineInvalidate (addr / 128) (writtenBack (addr / 128) p (coreRuns k env s)))).fields
  refine ⟨_, rfl, (dramLine_ofPool (pool.trans left) _).trans (writtenBack_dramLine whole), fun q mem => ?_⟩
  rw [priv, held] at mem
  exact bne_iff_ne.1 (List.mem_filter.1 mem).2

theorem cboInval_invalidates (once : OnceInDir (coreRuns k env s) (addr / 128)) (allowed : cbieOff env = false)
    (discards : cbieFlush env = false) : ∃ t, exec (.cboInval k addr env) s = .next t ∧ t.pool = (coreRuns k env s).pool
      ∧ (∀ q ∈ t.coh.priv, q.line ≠ addr / 128) ∧ (∀ q ∈ t.coh.wbuf, q.line ≠ addr / 128) ∧ dirEntry t (addr / 128) = none := by
  rw [exec_cboInval, allowed, discards]
  simp only [Bool.not_false, Bool.false_eq_true, if_false]
  rw [cboIssue_runs ready, coreMaint_invalidate may]
  obtain ⟨left, held, buffered, unlisted, -⟩ := lineInvalidate_invalidated (addr / 128) (coreRuns k env s)
  obtain ⟨pool, priv, wbuf, dir⟩ := (issueEnds_only k (fenceWaits s k) (lineInvalidate (addr / 128) (coreRuns k env s))).fields
  refine ⟨_, rfl, pool.trans left, fun q mem => ?_, fun q mem => ?_, (dirEntry_ofDir dir _).trans (unlisted once)⟩
  · rw [priv, held] at mem
    exact bne_iff_ne.1 (List.mem_filter.1 mem).2
  · rw [wbuf, buffered] at mem
    exact bne_iff_ne.1 (List.mem_filter.1 mem).2

end

/-! ### FENCE (R198, R216) -/

section
variable {s : State} {k : Nat} {f : FenceSets} (serves : coreServes s k = true)
include serves

theorem exec_coreFence_order (orders : f.fencei = false) (free : fenced s k (fun _ => true) = false) :
    exec (.coreFence k f) s = .next (issueEnds k false (coreFence k f (coreRuns k (s.core k).env s))) := by
  have unfenced : fenced s k (fun _ => !f.fencei) = false := by simpa [orders] using free
  have none_waits : fenceWaits s k = false := by simpa [fenced, fenceWaits] using free
  have runs := coreIssue_runs ⟨serves, unfenced⟩ (s.core k).env (coreFence k f)
  rw [none_waits] at runs
  exact runs

theorem exec_coreFence_instructions (fetches : f.fencei = true) : exec (.coreFence k f) s
    = .next (issueEnds k (fenceWaits s k) (coreFence k f (coreRuns k (s.core k).env s))) :=
  coreIssue_runs ⟨serves, by simp [fenced, fetches]⟩ (s.core k).env (coreFence k f)

end

theorem coreRuns_waitsFence (k : Nat) (env : CoreEnv) (s : State) : ((coreRuns k env s).core k).waitsFence = false := by
  simp [coreRuns]

/-- A FENCE that orders accesses waits where it has O among its predecessors and a store to the fabric is not acknowledged. -/
theorem coreFence_waits {s : State} {k : Nat} {f : FenceSets} (orders : f.fencei = false) (outwards : f.predO = true)
    (stores : coreStores s k = true) : coreFence k f s = s.onCore k fun c => { c with waitsFence := true, fence := f } := by
  simp [coreFence, orders, outwards, stores]

theorem coreFence_passes {s : State} {k : Nat} {f : FenceSets} (orders : f.fencei = false)
    (none_waits : ¬ (f.predO = true ∧ coreStores s k = true)) : coreFence k f s = s := by
  simp only [coreFence, orders, Bool.false_eq_true, if_false]
  exact if_neg (by simpa using none_waits)

theorem coreFence_only (k : Nat) (f : FenceSets) (s : State) : CoresOnly s (coreFence k f s) := by
  unfold coreFence
  split
  · rfl
  · split <;> rfl

/-! ### WFI (R384) -/

/-- The core comes to rest. -/
def coreRests (k : Nat) (s : State) : State := s.onCore k fun c => { c with wfi := true, wfiSince := s.hTicks.toNat }

theorem exec_coreWfi {s : State} {k : Nat} (serves : coreServes s k = true) (busy : (s.core k).wfi = false) :
    exec (.coreWfi k) s = .next (issueEnds k (fenceWaits s k) (coreRests k (coreRuns k (s.core k).env s))) := by
  have runs := coreIssue_runs (after := fun _ => false) ⟨serves, by simp [fenced]⟩ (s.core k).env (coreRests k)
  have issued : exec (.coreWfi k) s = coreIssue k (s.core k).env (fun _ => false) (coreRests k) s := if_neg (by simp [busy])
  exact issued.trans runs

/-- An issue turn is counted, and no instruction has retired yet. -/
theorem coreRuns_counts (k : Nat) (env : CoreEnv) (s : State) : ((coreRuns k env s).core k).cycle = (s.core k).cycle + 1
    ∧ ((coreRuns k env s).core k).instret = (s.core k).instret := by
  have stirred : lasting (if s.pickle.entries.isEmpty then stir s else s) = lasting s := by simp [lasting_stir]
  obtain ⟨cycle, instret⟩ := lasting_core stirred k
  simp only [coreRuns, State.core_onCore_same]
  exact ⟨congrArg (· + 1) cycle, instret⟩

theorem coreRests_only (k : Nat) (s : State) : CoresOnly s (coreRests k s) := rfl

theorem coreRests_core (k : Nat) (s : State) :
    (coreRests k s).core k = { s.core k with wfi := true, wfiSince := s.hTicks.toNat } := by
  simp [coreRests]

/-- A core that runs an instruction waits for nothing and has taken no exception. -/
theorem coreRuns_fresh (k : Nat) (env : CoreEnv) (s : State) :
    coreStays ((coreRuns k env s).core k) = false ∧ ((coreRuns k env s).core k).exception = none := by
  simp [coreRuns, coreStays]

/-! ### The statement -/

/-- Settles O20: maintenance by what a clean and an invalidation of its line leave, the end of the instruction leaving all but the
cores; FENCE by whether it waits; WFI by the counts of its core, which the leaving of rung 1 keeps. -/
theorem coreMaintenanceFencesAndWfi : Obligations.CoreMaintenanceFencesAndWfi := by
  unfold Obligations.CoreMaintenanceFencesAndWfi
  refine ⟨fun s k addr u env p ready => ⟨fun pool free unqueued once unheld permitted => ?_, fun disallowed => ?_, fun disallowed => ?_⟩,
    fun s k f serves => ⟨fun orders unfenced => ?_, fun fetches => ?_, fun rests => ?_, fun busy => ?_⟩⟩
  · have may : MayMaintain (coreRuns k env s) k addr env := ⟨pool, free, unqueued, unheld, permitted⟩
    exact ⟨fun allowed dirty whole uncached => ⟨cboClean_cleans ready may u allowed dirty whole uncached,
      cboFlush_flushes ready may u allowed dirty whole uncached⟩, cboInval_invalidates ready may once⟩
  · dsimp only
    rw [exec_cboClean, exec_cboFlush, disallowed]
    exact ⟨cboIssue_illegal ready u _, cboIssue_illegal ready u _⟩
  · dsimp only
    rw [exec_cboInval, disallowed]
    exact cboIssue_illegal ready false _
  · have left := (coreFence_only k f (coreRuns k (s.core k).env s)).trans (issueEnds_only k false _)
    obtain ⟨pool, priv, -, -⟩ := left.fields
    refine ⟨_, exec_coreFence_order serves orders unfenced, pool, fab_ofCores left, priv, ?_, fun outwards stores after => ?_⟩
    · rw [issueEnds_core, retired_waitsFence, ← coreStores_iff]
      by_cases waits : f.predO = true ∧ coreStores (coreRuns k (s.core k).env s) k = true
      · rw [coreFence_waits orders waits.1 waits.2, State.core_onCore_same]
        exact iff_of_true rfl waits
      · rw [coreFence_passes orders waits, coreRuns_waitsFence]
        exact iff_of_false nofun waits
    · obtain ⟨-, -, -, -, sets⟩ := retired_fields false ((coreFence k f (coreRuns k (s.core k).env s)).core k)
      have stored : coreStores (issueEnds k false (coreFence k f (coreRuns k (s.core k).env s))) k = true := by
        rw [coreStores_iff, fab_ofCores left]
        exact stores
      simp only [fenced, stored, issueEnds_core, retired_waitsFence, sets]
      rw [coreFence_waits orders outwards (coreStores_iff.2 stores), State.core_onCore_same]
      rfl
  · have left := (coreFence_only k f (coreRuns k (s.core k).env s)).trans (issueEnds_only k (fenceWaits s k) _)
    obtain ⟨pool, priv, -, -⟩ := left.fields
    obtain ⟨-, -, -, lines, -⟩ := retired_fields (fenceWaits s k) ((coreFence k f (coreRuns k (s.core k).env s)).core k)
    refine ⟨_, exec_coreFence_instructions serves fetches, ?_, pool, priv⟩
    rw [issueEnds_core]
    refine lines.trans ?_
    simp [coreFence, fetches]
  · exact if_pos rests
  · obtain ⟨cycles, instructions⟩ := coreRuns_counts k (s.core k).env s
    obtain ⟨goes, unexcepted⟩ := coreRuns_fresh k (s.core k).env s
    obtain ⟨-, rests, cycle, -, -⟩ := retired_fields (fenceWaits s k) ((coreRests k (coreRuns k (s.core k).env s)).core k)
    refine ⟨_, exec_coreWfi serves busy, ?_, ?_, ?_, fun j other => ?_, ?_⟩
    · rw [issueEnds_core, rests, coreRests_core]
    · rw [issueEnds_core, cycle, coreRests_core, cycles]
    · rw [issueEnds_core, retired_instret _ (by rw [coreRests_core]; exact goes) (by rw [coreRests_core]; exact unexcepted),
        coreRests_core, instructions]
    · exact (issueEnds_other _ _ other).trans (State.core_onCore_other _ _ other)
    · have left := (coreRests_only k (coreRuns k (s.core k).env s)).trans (issueEnds_only k (fenceWaits s k) _)
      exact ⟨left.fields.1, rings_ofCores left, engines_ofCores left⟩

end Sys2Proof.Proofs.CoreInstructions
end

section
/-! SUPPORT. The move of a pair to its spare (R394): a chain on the pair whose waiting credits (R109) place more records than the
module holds. -/

namespace Sys2Proof.Proofs.PairMoves

open Sys2Proof.Machine Sys2Proof.Safety Sys2Proof.Claims

/-- A chain that runs on array 0 and owes 256 credits. -/
def owedChain : ChainRun := {
  d := { product := true, creditAddr := 64 }, admitted := true, arrays := [0], credits := List.replicate 256 (0, 0, 0) }

/-- The retirement of pair 0 of compute die 1 is decided and pair 1 is its spare; the page of the credits of the chain on pair 0 is
translated to an unbacked address. -/
def owing : State := {
  rings := [(0, { op := some (.chain owedChain) })]
  arrays := [(0, { ring := some 0 })]
  xlt := { l2 := [(0, { va := 0, log2 := 12, pa := 2 ^ 60, flags := 0xFF, pbmt := 0 })] }
  rep := { map := [(repKey 1 1 0, { cause := 1 }), (repKey 1 1 1, { state := 1 })] } }

/-- Each credit faults with a record 0x12 (R179), and the 256 of them leave no room for record 0x71. -/
theorem owing_result : ∃ t, exec (.pairSubstitute 1 0) owing = .next t ∧ ∀ o ∈ t.evt.held, o.cls ≠ 0x71 :=
  ⟨_, rfl, by decide +kernel⟩

/-- Refutes O50: a pair with a decided retirement and a free spare may move without its record 0x71 among those held. The move
publishes the openings of the chain's buffers anew, which writes the credits that wait; where 256 of these go to an unbacked address,
their records 0x12 fill the module, and the record of the move is counted as lost. -/
theorem not_errorsCountAndUnitsMove : ¬ Obligations.ErrorsCountAndUnitsMove := by
  unfold Obligations.ErrorsCountAndUnitsMove
  rintro ⟨-, pairs, -⟩
  obtain ⟨toSpare, -⟩ := pairs owing 1 0 1 (by decide) (by decide) (by decide) (by decide) (by decide)
  obtain ⟨t, moved, -, -, -, -, -, -, -, -, -, recorded⟩ := toSpare (by decide +kernel)
  obtain ⟨t', moved', unrecorded⟩ := owing_result
  cases moved.symm.trans moved'
  obtain ⟨o, held, cls, -⟩ := recorded (by decide) (by decide)
  exact unrecorded o held cls

end Sys2Proof.Proofs.PairMoves
end

section
/-! SUPPORT. Requests (R201, R202): what a read of a line brings where the fill displaces a long entry of the victim cache. -/

namespace Sys2Proof.Proofs.Requests

open Sys2Proof.Machine Sys2Proof.Safety Sys2Proof.Claims Sys2Proof.Proofs.CoreLoads

theorem longVictim_idle_at_rest : IdleLine longVictim 1 where
  free := by decide
  unqueued := by decide
  room := by decide +kernel
  shared := by decide +kernel
  backed := by decide +kernel
  unheld := by decide +kernel
  quiet := by decide
  whole := by decide +kernel
  placed := by
    intro i l held line
    rw [longVictim_victim] at held
    split at held
    · cases List.eq_of_mem_replicate held
      cases line
    · cases held

/-- The first byte of the data that RDS on line 1 is granted: one of the 192 bytes that the fill has written from line 0 on. -/
theorem longVictim_granted : ∃ t, exec (.rds 0 1) longVictim = .next t ∧ (txnOf t 1).map (fun x => nth 0 x.data 0) = some 1 :=
  ⟨_, rfl, by decide +kernel⟩

/-- The line's own first byte. -/
theorem longVictim_before : nth 0 (homeLine longVictim 1).1 0 = 0 := by decide +kernel

/-- Refutes O14: a RDS on a line that no cache holds need not be granted with the home's value of the line at its start. The fill of the
line displaces an entry of the victim cache, whose write-back stores all the data that the entry keeps; an entry of 192 bytes, which the
statement allows for another line, changes the memory of the line that is about to be read. -/
theorem not_requestsAreGrantedOrSnoop : ¬ Obligations.RequestsAreGrantedOrSnoop := by
  unfold Obligations.RequestsAreGrantedOrSnoop
  rintro ⟨unheld, -⟩
  obtain ⟨asks, -⟩ := unheld longVictim 0 1 0 longVictim_idle_at_rest (fun w waits => nomatch waits) (.inl (by decide))
  obtain ⟨⟨t, step, ⟨x, here, -, -, -, data⟩, -⟩, -⟩ := asks (by decide) (by decide)
  obtain ⟨u, step', granted⟩ := longVictim_granted
  cases step.symm.trans step'
  have unchanged : x.data = (homeLine longVictim 1).1 := congrArg (·.1) data
  rw [here, Option.map_some, unchanged, longVictim_before] at granted
  cases granted

end Sys2Proof.Proofs.Requests
end

section
/-! SUPPORT. Atomics of the cores (R209): what one leaves of a line where its write at the home displaces a long entry of the victim
cache. -/

namespace Sys2Proof.Proofs.CoreAtomics

open Sys2Proof.Machine Sys2Proof.Safety Sys2Proof.Claims Sys2Proof.Proofs.CoreLoads

/-- An addition of 1 to the first word of line 1. -/
def addOne : CoreAmoReq := ⟨{ size := 4 }, { kind := .add, size := 4, operand := 1, compare := 0 }⟩

/-- The byte after the word, once the addition is done: one of the 192 bytes that the write has displaced from the victim cache. -/
theorem longVictim_added : ∃ t, exec (.coreAmo 0 128 addOne) longVictim = .next t ∧ nth 0 (homeLine t 1).1 4 = 1 :=
  ⟨_, rfl, by decide +kernel⟩

/-- Refutes O19: an atomic of a core on a line that no cache holds need not leave the other bytes of the line's image as they were. Its
write at the home displaces an entry of the victim cache, whose write-back stores all the data that the entry keeps; an entry of 192
bytes, which the statement allows for another line, changes the memory from which the rest of the line is then filled. -/
theorem not_coreAtomicsAndReservations : ¬ Obligations.CoreAtomicsAndReservations := by
  unfold Obligations.CoreAtomicsAndReservations
  rintro ⟨atomics, -⟩
  obtain ⟨aligned, -⟩ := atomics longVictim 0 128 addOne.acc addOne.atom (by decide) ⟨by decide, by decide⟩
  obtain ⟨t, step, -, -, image⟩ := aligned (by decide) rfl (by decide) (by decide) (by decide) longVictim_idle (.inl (by decide)) (by decide)
    (by decide +kernel) (by decide) (by decide)
  obtain ⟨u, step', after⟩ := longVictim_added
  cases step.symm.trans step'
  rw [image] at after
  exact absurd after (by decide +kernel)

end Sys2Proof.Proofs.CoreAtomics
end

section
/-! SUPPORT. Exact adds (R213, R214): a slot that lies where the event ring writes its records. -/

namespace Sys2Proof.Proofs.ExactSlots

open Sys2Proof.Machine Sys2Proof.Safety Sys2Proof.Claims

/-- The event ring, of one entry, stands in device memory at the first page of tier 2, and a record waits for it. -/
def recordWaiting : State := {
  evt := { cfg := 1, base := 0x10000000000, held := [{ cls := 0x22, reason := 0, addr := 0, param := 0, ticks := 0 }] } }

/-- The slot at the place of the ring's entry, after an exact add of 0, begins with the class of the record. -/
theorem recordWaiting_slot : ∃ t, exec (.exactAdd 0x10000000000 false [0]) recordWaiting = .next t
    ∧ nth 0 (slotNow t 0x10000000000 false) 0 = 0x22 :=
  ⟨_, rfl, by decide +kernel⟩

/-- The status of the slot that the addition should leave: a term of positive zero. -/
theorem recordWaiting_sum : nth 0 ([0].foldl (fun b v => slotAdd false b v) (slotNow recordWaiting 0x10000000000 false)) 0 = 16 := by
  decide +kernel

/-- Refutes O9: the slot need not hold the sum after an exact add. The access to tier 2 lets the event ring take a record that waits
(R248, R334), and the ring, whose place the statement leaves free, may stand on the slot. -/
theorem not_exactSlotsAddAndConvertOnce : ¬ Obligations.ExactSlotsAddAndConvertOnce := by
  unfold Obligations.ExactSlotsAddAndConvertOnce
  rintro ⟨-, -, adds⟩
  obtain ⟨-, aligned⟩ := adds recordWaiting 0x10000000000 false [0]
  obtain ⟨t, step, sum, -⟩ := aligned (by decide) (by decide) ⟨rfl, rfl, rfl, rfl, rfl, rfl, rfl, rfl, rfl, rfl⟩
  obtain ⟨u, step', record⟩ := recordWaiting_slot
  cases step.symm.trans step'
  rw [sum, recordWaiting_sum] at record
  cases record

end Sys2Proof.Proofs.ExactSlots
end

section
/-! SUPPORT. What the operations of the home leave as it was: the messages in the switch, the system cache, the lines of the private
caches and the directory each change on their own, and none of them touches the transactions, snoops, responses and loans. -/

namespace Sys2Proof.Proofs.HomeFrames

open Sys2Proof.Machine Sys2Proof.Claims Sys2Proof.Proofs.Maintenance

/-! ### Messages in the switch -/

/-- The second state differs from the first in what waits in the switch and in the counters of ports and slices alone. -/
def Traffic (s t : State) : Prop := ∃ outs rx ctr, t = s.onCoh fun c => { c with outs := outs, rx := rx, ctr := ctr }

namespace Traffic

theorem same (s : State) : Traffic s s := ⟨_, _, _, rfl⟩

theorem trans {s t u : State} (h : Traffic s t) (k : Traffic t u) : Traffic s u := by
  obtain ⟨_, _, _, rfl⟩ := h
  obtain ⟨_, _, _, rfl⟩ := k
  exact ⟨_, _, _, rfl⟩

theorem ite {s t u : State} {c : Prop} [Decidable c] (h : Traffic s t) (k : Traffic s u) : Traffic s (if c then t else u) := by
  split
  · exact h
  · exact k

theorem foldl {β : Type} {f : State → β → State} (h : ∀ s b, Traffic s (f s b)) : ∀ (l : List β) (s : State), Traffic s (l.foldl f s)
  | [], s => same s
  | b :: l, s => (h s b).trans (foldl h l (f s b))

theorem onSlice (i : Nat) (f : SliceCtr → SliceCtr) (s : State) : Traffic s (s.onSlice i f) := ⟨_, _, _, rfl⟩

end Traffic

theorem switchIn_traffic (input output cls lane : Nat) (data : Bool) (s : State) : Traffic s (switchIn input output cls lane data s) :=
  ⟨_, _, _, rfl⟩

theorem fromAgent_traffic (agent line cls : Nat) (data : Bool) (s : State) : Traffic s (fromAgent agent line cls data s) := by
  unfold fromAgent
  split
  · exact .ite (switchIn_traffic ..) ⟨_, _, _, rfl⟩
  · exact .same s

theorem toAgent_traffic (agent line cls : Nat) (data : Bool) (s : State) : Traffic s (toAgent agent line cls data s) := by
  unfold toAgent
  split
  · exact switchIn_traffic ..
  · exact .same s

theorem betweenAgents_traffic (a b line cls : Nat) (data : Bool) (s : State) : Traffic s (betweenAgents a b line cls data s) := by
  unfold betweenAgents
  split
  · exact .ite (.same s) ⟨_, _, _, rfl⟩
  · exact fromAgent_traffic ..

theorem sendResponse_traffic (r : SnoopResp) (s : State) : Traffic s (sendResponse r s) := by
  unfold sendResponse
  split
  · exact fromAgent_traffic ..
  · next t _ =>
    extract_lets back s1
    have dirty : Traffic s s1 := .ite (fromAgent_traffic ..) (.same s)
    have answered : ∀ b, Traffic s (if b = true then s1 else fromAgent r.cache r.line 3 false s1) :=
      fun _ => .ite dirty (dirty.trans (fromAgent_traffic ..))
    split
    · exact answered _
    · exact answered _
    · exact answered _
    · exact .ite (dirty.trans (betweenAgents_traffic ..)) (dirty.trans (betweenAgents_traffic ..))

theorem sendRequest_traffic (req : HomeReq) (agent line : Nat) (s : State) : Traffic s (sendRequest req agent line s) := by
  have withData : Traffic s (fromAgent agent line 4 true (fromAgent agent line 1 false s)) :=
    (fromAgent_traffic ..).trans (fromAgent_traffic ..)
  unfold sendRequest
  split
  · exact withData
  · exact withData
  · exact withData
  · exact .same s
  · exact fromAgent_traffic ..

theorem recallCopies_traffic (d : DirEntry) (s : State) : Traffic s (recallCopies d s) :=
  .foldl (fun s c => (toAgent_traffic c d.line 2 false s).trans (fromAgent_traffic ..)) _ s

/-! ### The system cache -/

/-- The second state differs from the first in the system cache, its victim caches and the pool's contents alone. -/
def Stored (s t : State) : Prop := ∃ sc plru victim mem poison,
  t = (s.onPool fun p => { p with mem := mem, poison := poison }).onCoh fun c => { c with sc := sc, scPlru := plru, victim := victim }

namespace Stored

theorem same (s : State) : Stored s s := ⟨_, _, _, _, _, rfl⟩

theorem trans {s t u : State} (h : Stored s t) (k : Stored t u) : Stored s u := by
  obtain ⟨_, _, _, _, _, rfl⟩ := h
  obtain ⟨_, _, _, _, _, rfl⟩ := k
  exact ⟨_, _, _, _, _, rfl⟩

theorem ite {s t u : State} {c : Prop} [Decidable c] (h : Stored s t) (k : Stored s u) : Stored s (if c then t else u) := by
  split
  · exact h
  · exact k

end Stored

theorem dramWrite_stored (sec : Nat) (b : List Byte) (ep : Bool) (s : State) : Stored s (dramWrite sec b ep s) :=
  ⟨_, _, _, memWrite s.pool.mem (sec * 64) b, if ep then setAdd s.pool.poison sec else without s.pool.poison sec, rfl⟩
theorem scSet_stored (k : Nat) (l : ScLine) (s : State) : Stored s (scSet k l s) := ⟨_, _, _, _, _, rfl⟩
theorem scTouch_stored (k : Nat) (s : State) : Stored s (scTouch k s) := ⟨_, _, _, _, _, rfl⟩
theorem victimDrop_stored (line : Nat) (s : State) : Stored s (victimDrop line s) := ⟨_, _, _, _, _, rfl⟩

theorem scWriteBack_stored (l : ScLine) (s : State) : Stored s (scWriteBack l s) := by
  unfold scWriteBack
  extract_lets s1
  have first : Stored s s1 := .ite (dramWrite_stored ..) (.same s)
  exact .ite (first.trans (dramWrite_stored ..)) first

theorem victimPush_stored (l : ScLine) (s : State) : Stored s (victimPush l s) := by
  have puts (v : List ScLine) (s : State) : Stored s (s.onCoh fun c => { c with victim := tput [] c.victim (sliceOf l.line) v }) :=
    ⟨_, _, _, _, _, rfl⟩
  unfold victimPush
  dsimp only
  split
  · exact .ite ((scWriteBack_stored ..).trans (puts ..)) (puts ..)
  · exact .same s

theorem scFreeWay_stored (line : Nat) (s : State) : Stored s (scFreeWay line s).2 := by
  unfold scFreeWay
  split
  · exact .same s
  · extract_lets k
    split
    · exact Stored.trans (t := s.onCoh _) ⟨_, _, _, _, _, rfl⟩ (victimPush_stored ..)
    · exact .same s

theorem scAlloc_stored (line : Nat) (s : State) : Stored s (scAlloc line s).2 := by
  unfold scAlloc
  split
  · exact scTouch_stored ..
  · exact (((victimDrop_stored ..).trans (scFreeWay_stored ..)).trans (scSet_stored ..)).trans (scTouch_stored ..)

theorem scFillSector_stored (k sec : Nat) (s : State) : Stored s (scFillSector k sec s) := by
  unfold scFillSector
  split
  · exact .same s
  · extract_lets bytes ep
    exact .ite (.ite (.same s) (scSet_stored ..)) (.ite (.same s) (scSet_stored ..))

/-- A sector that a read or a write needs is filled. -/
theorem fillIf_stored (c : Bool) (k sec : Nat) (s : State) : Stored s (if c then scFillSector k sec s else s) :=
  .ite (scFillSector_stored ..) (.same s)

theorem scWrite_stored (line off : Nat) (b : List Byte) (ep : Bool) (s : State) : Stored s (scWrite line off b ep s) := by
  unfold scWrite
  dsimp only
  split
  · exact (scAlloc_stored ..).trans ((fillIf_stored ..).trans (fillIf_stored ..))
  · exact (scAlloc_stored ..).trans ((fillIf_stored ..).trans ((fillIf_stored ..).trans (scSet_stored ..)))

theorem scTake_stored (line : Nat) (d : List Byte) (p0 p1 : Bool) (s : State) : Stored s (scTake line d p0 p1 s) :=
  (scWrite_stored ..).trans (scWrite_stored ..)

theorem scClean_stored (line : Nat) (s : State) : Stored s (scClean line s) := by
  unfold scClean
  split
  · split
    · exact (scWriteBack_stored ..).trans (scSet_stored ..)
    · exact .same s
  · split
    · extract_lets clean
      exact (scWriteBack_stored ..).trans ⟨_, _, _, _, _, rfl⟩
    · exact .same s

theorem scDrop_stored (line : Nat) (s : State) : Stored s (scDrop line s) := by
  obtain ⟨sc, v, dropped⟩ := scDrop_coh line s
  rw [dropped]
  exact ⟨_, _, _, _, _, rfl⟩

/-! ### Transactions, snoops, responses and loans -/

/-- What stands between the home and the caches: the transactions, the snoops and responses on their way, and the loans. -/
@[irreducible] def underway (s : State) : List Txn × List Snoop × List SnoopResp × List Nat :=
  (s.coh.txns, s.coh.snoops, s.coh.resps, s.coh.loans)

theorem txns_of_underway {s t : State} (same : underway t = underway s) : t.coh.txns = s.coh.txns := by
  unfold underway at same
  exact congrArg (·.1) same

theorem resps_of_underway {s t : State} (same : underway t = underway s) : t.coh.resps = s.coh.resps := by
  unfold underway at same
  exact congrArg (·.2.2.1) same

theorem loans_of_underway {s t : State} (same : underway t = underway s) : t.coh.loans = s.coh.loans := by
  unfold underway at same
  exact congrArg (·.2.2.2) same

theorem txnOf_of_underway {s t : State} (same : underway t = underway s) (line : Nat) : txnOf t line = txnOf s line := by
  unfold txnOf
  rw [txns_of_underway same]

@[simp] theorem underway_ite {s t : State} {c : Prop} [Decidable c] :
    underway (if c then s else t) = if c then underway s else underway t := apply_ite ..

theorem underway_foldl {β : Type} {f : State → β → State} (h : ∀ s b, underway (f s b) = underway s) :
    ∀ (l : List β) (s : State), underway (l.foldl f s) = underway s
  | [], _ => rfl
  | b :: l, s => (underway_foldl h l (f s b)).trans (h s b)

@[simp] theorem underway_onCoh {s : State} {f : Coh → Coh} (same : ((f s.coh).txns, (f s.coh).snoops, (f s.coh).resps, (f s.coh).loans)
    = (s.coh.txns, s.coh.snoops, s.coh.resps, s.coh.loans)) : underway (s.onCoh f) = underway s := by
  unfold underway
  exact same

theorem underway_traffic {s t : State} (h : Traffic s t) : underway t = underway s := by
  obtain ⟨_, _, _, rfl⟩ := h
  exact underway_onCoh rfl

theorem underway_stored {s t : State} (h : Stored s t) : underway t = underway s := by
  obtain ⟨_, _, _, _, _, rfl⟩ := h
  unfold underway
  rfl

theorem underway_cores {s t : State} (h : CoresOnly s t) : underway t = underway s := by
  have kept := congrArg underway h
  unfold underway at kept ⊢
  exact kept

@[simp] theorem underway_onSlice (i : Nat) (f : SliceCtr → SliceCtr) (s : State) : underway (s.onSlice i f) = underway s :=
  underway_traffic (.onSlice ..)
@[simp] theorem underway_fromAgent (agent line cls : Nat) (data : Bool) (s : State) :
    underway (fromAgent agent line cls data s) = underway s := underway_traffic (fromAgent_traffic ..)
@[simp] theorem underway_toAgent (agent line cls : Nat) (data : Bool) (s : State) :
    underway (toAgent agent line cls data s) = underway s := underway_traffic (toAgent_traffic ..)
@[simp] theorem underway_sendRequest (req : HomeReq) (agent line : Nat) (s : State) :
    underway (sendRequest req agent line s) = underway s := underway_traffic (sendRequest_traffic ..)
@[simp] theorem underway_recallCopies (d : DirEntry) (s : State) : underway (recallCopies d s) = underway s :=
  underway_traffic (recallCopies_traffic ..)
@[simp] theorem underway_dramWrite (sec : Nat) (b : List Byte) (ep : Bool) (s : State) : underway (dramWrite sec b ep s) = underway s :=
  underway_stored (dramWrite_stored ..)
@[simp] theorem underway_scTake (line : Nat) (d : List Byte) (p0 p1 : Bool) (s : State) :
    underway (scTake line d p0 p1 s) = underway s := underway_stored (scTake_stored ..)
@[simp] theorem underway_scClean (line : Nat) (s : State) : underway (scClean line s) = underway s := underway_stored (scClean_stored ..)
@[simp] theorem underway_scDrop (line : Nat) (s : State) : underway (scDrop line s) = underway s := underway_stored (scDrop_stored ..)
@[simp] theorem underway_loseReservation (cache line : Nat) (s : State) : underway (loseReservation cache line s) = underway s :=
  underway_cores (loseReservation_coresOnly ..)
@[simp] theorem underway_privDrop (cache line : Nat) (s : State) : underway (privDrop cache line s) = underway s := underway_onCoh rfl
@[simp] theorem underway_privSet (p : PrivLine) (s : State) : underway (privSet p s) = underway s :=
  (underway_onCoh rfl).trans (underway_privDrop ..)
@[simp] theorem underway_wbufDrop (cache line : Nat) (s : State) : underway (wbufDrop cache line s) = underway s := underway_onCoh rfl
@[simp] theorem underway_dirTouch (k : Nat) (s : State) : underway (dirTouch k s) = underway s := underway_onCoh rfl

@[simp] theorem underway_reservationsLost (line : Nat) (l : List Nat) (s : State) :
    underway (l.foldl (fun s c => loseReservation c line s) s) = underway s := underway_foldl (fun s c => underway_loseReservation c line s) l s

@[simp] theorem underway_backInvalidate (d : DirEntry) (s : State) : underway (backInvalidate d s) = underway s := by
  unfold backInvalidate
  dsimp only
  split <;> simp

@[simp] theorem underway_dirFreeWay (line : Nat) (s : State) : underway (dirFreeWay line s).2 = underway s := by
  unfold dirFreeWay
  split
  · rfl
  · dsimp only
    split <;> simp

@[simp] theorem underway_dirSet (d : DirEntry) (s : State) : underway (dirSet d s) = underway s := by
  unfold dirSet
  dsimp only
  split <;> simp

@[simp] theorem underway_dirClear (line : Nat) (s : State) : underway (dirClear line s) = underway s := underway_dirSet ..

/-- A line's dirty copy comes to the home, where there is one. -/
theorem underway_dirtyTaken (line : Nat) (c : Option PrivLine) (s : State) : underway (match c with
    | some p => scTake line p.data p.poison0 p.poison1 s
    | none => s) = underway s := by
  cases c <;> simp

@[simp] theorem underway_homeClean (line : Nat) (s : State) : underway (homeClean line s) = underway s := by
  unfold homeClean
  extract_lets s1 s2 s3
  have recalled : underway s1 = underway s := by
    unfold s1
    split <;> simp
  have taken : underway s2 = underway s1 := underway_dirtyTaken ..
  simp [s3, taken, recalled]

@[simp] theorem underway_homeWb (agent line : Nat) (s : State) : underway (homeWb agent line s) = underway s := by
  unfold homeWb
  dsimp only
  split
  · split <;> simp
  · simp

@[simp] theorem underway_homeEv (agent line : Nat) (s : State) : underway (homeEv agent line s) = underway s := by
  unfold homeEv
  split <;> simp

@[simp] theorem underway_homeNotice (wb : Bool) (agent line : Nat) (s : State) :
    underway (homeNotice wb agent line s) = underway s := by
  simp [homeNotice]

@[simp] theorem underway_privLeave (p : PrivLine) (s : State) : underway (Machine.privLeave p s) = underway s := by
  unfold Machine.privLeave dramLineWrite
  dsimp only
  split
  · simp
  · split <;> simp

@[simp] theorem underway_privFill (p : PrivLine) (s : State) : underway (privFill p s) = underway s := by
  unfold privFill
  split
  · simp
  · split <;> simp

end Sys2Proof.Proofs.HomeFrames
end

section
/-! SUPPORT. Lines, transactions and directory entries at their places: what a look-up finds after one is set or taken out (R199, R200,
R204). -/

namespace Sys2Proof.Proofs.LinesAndTransactions

open Sys2Proof.Machine Sys2Proof.Claims Sys2Proof.Proofs.Maintenance Sys2Proof.Proofs.HomeFrames

/-- What is taken out by two of its numbers stands there no more. -/
theorem not_here {α : Type} {f g : α → Nat} {a b : Nat} {x : α} {l : List α} (mem : x ∈ l.filter fun x => !(f x == a && g x == b)) :
    ¬ (f x = a ∧ g x = b) := fun both => by simp [both.1, both.2] at mem

/-! ### Private caches -/

theorem privOf_of_priv {s t : State} (same : t.coh.priv = s.coh.priv) (cache line : Nat) : privOf t cache line = privOf s cache line := by
  rw [privOf, same, privOf]

theorem privOf_place {s : State} {cache line : Nat} {p : PrivLine} (h : privOf s cache line = some p) : p.cache = cache ∧ p.line = line := by
  simpa using List.find?_some h

/-- No line of the list is the cache's copy of a line once those are taken out. -/
theorem find_dropped (cache line : Nat) (l : List PrivLine) : (l.filter fun p => !(p.cache == cache && p.line == line)).find?
    (fun p => p.cache == cache && p.line == line) = none := by
  refine List.find?_eq_none.2 fun p mem here => ?_
  simpa [here] using (List.mem_filter.1 mem).2

@[simp] theorem privOf_privDrop (cache line : Nat) (s : State) : privOf (privDrop cache line s) cache line = none :=
  find_dropped cache line s.coh.priv

@[simp] theorem wbufOf_wbufDrop (cache line : Nat) (s : State) : wbufOf (wbufDrop cache line s) cache line = none :=
  find_dropped cache line s.coh.wbuf

theorem privOf_privSet (p : PrivLine) (s : State) : privOf (privSet p s) p.cache p.line = some p := by
  simp only [privOf, privSet, privDrop, State.onCoh_coh, List.find?_append, find_dropped, Option.none_or]
  simp

/-! ### Transactions -/

theorem txnOf_line {s : State} {line : Nat} {x : Txn} (h : txnOf s line = some x) : x.line = line := by
  simpa using List.find?_some h

/-- A transaction as it stands once that of a line is set to t. -/
def replaced (t x : Txn) : Txn := if x.line = t.line then t else x

@[simp] theorem replaced_line (t x : Txn) : (replaced t x).line = x.line := by
  unfold replaced
  split
  · exact Eq.symm ‹_›
  · rfl

theorem txnOf_txnSet_eq (t : Txn) (s : State) (line : Nat) : txnOf (txnSet t s) line = (txnOf s line).map (replaced t) := by
  have place : (fun y : Txn => y.line == line) ∘ replaced t = fun y => y.line == line := funext fun y => by simp
  exact List.find?_map.trans (congrArg (fun p => (s.coh.txns.find? p).map (replaced t)) place)

/-- A transaction that stands for its line is found as it is set. -/
theorem txnOf_txnSet {s : State} {x : Txn} (t : Txn) (h : txnOf s t.line = some x) : txnOf (txnSet t s) t.line = some t := by
  rw [txnOf_txnSet_eq, h, Option.map_some, replaced, if_pos (txnOf_line h)]

theorem txnOf_txnSet_other {t : Txn} {line : Nat} (s : State) (other : line ≠ t.line) : txnOf (txnSet t s) line = txnOf s line := by
  rw [txnOf_txnSet_eq]
  cases h : txnOf s line with
  | none => rfl
  | some x => rw [Option.map_some, replaced, if_neg (txnOf_line h ▸ other)]

theorem sliceLoad_txnSet (t : Txn) (s : State) (slice : Nat) : sliceLoad (txnSet t s) slice = sliceLoad s slice := by
  have place : (fun y : Txn => sliceOf y.line == slice) ∘ replaced t = fun y => sliceOf y.line == slice := funext fun y => by simp
  have counted : ((s.coh.txns.map (replaced t)).filter fun y => sliceOf y.line == slice).length = sliceLoad s slice := by
    rw [List.filter_map, List.length_map, place, sliceLoad]
  exact counted

theorem txnOf_txnDrop (line : Nat) (s : State) : txnOf (txnDrop line s) line = none := by
  refine List.find?_eq_none.2 fun t mem here => absurd here ?_
  simpa using (List.mem_filter.1 mem).2

theorem txnOf_txnDrop_other {line k : Nat} (s : State) (other : k ≠ line) : txnOf (txnDrop line s) k = txnOf s k := by
  unfold txnOf txnDrop
  simp only [State.onCoh_coh, List.find?_filter]
  congr 1
  funext t
  by_cases same : t.line = k
  · simp [same, other]
  · simp [same]

/-! ### The directory -/

theorem dirFind_of_entry {s : State} {line : Nat} {d : DirEntry} (h : dirEntry s line = some d) :
    ∃ k, dirFind s line = some k ∧ tfind s.coh.dir k = some d := by
  unfold dirEntry at h
  split at h
  · exact ⟨_, ‹_›, h⟩
  · cases h

theorem dirFind_of_unlisted {s : State} {line : Nat} (h : dirEntry s line = none) : dirFind s line = none := by
  cases found : dirFind s line with
  | none => rfl
  | some k =>
    obtain ⟨i, d, -, -, here, -⟩ := dirFind_place found
    simp [dirEntry, found, here] at h

theorem dirEntry_line {s : State} {line : Nat} {d : DirEntry} (h : dirEntry s line = some d) : d.line = line := by
  obtain ⟨k, found, here⟩ := dirFind_of_entry h
  obtain ⟨i, e, -, -, there, line_e⟩ := dirFind_place found
  rw [here] at there
  cases there
  exact line_e

/-- An entry with holders takes the place of its line's entry, and nothing else of the coherence state changes but the directory's
order of use. -/
theorem dirSet_listed {s : State} {d e : DirEntry} (listed : dirEntry s d.line = some e) (holders : d.ids ≠ [] ∨ d.doms ≠ []) :
    ∃ dir plru, dirSet d s = s.onCoh (fun c => { c with dir := dir, dirPlru := plru }) ∧ dirEntry (dirSet d s) d.line = some d := by
  obtain ⟨k, found, here⟩ := dirFind_of_entry listed
  have kept : (d.ids.isEmpty && d.doms.isEmpty) = false := by
    rcases holders with ids | doms
    · simp [List.isEmpty_eq_false_iff.2 ids]
    · simp [List.isEmpty_eq_false_iff.2 doms]
  have set : dirSet d s = dirTouch k (s.onCoh fun c => { c with dir := tins c.dir k d }) := by
    simp only [dirSet, found, kept, Bool.false_eq_true, if_false]
  refine ⟨tins s.coh.dir k d, _, set, ?_⟩
  have line_e : e.line = d.line := dirEntry_line listed
  have still : dirFind (dirSet d s) d.line = some k := by
    rw [set, ← found, dirFind, dirFind]
    congr 2
    funext w
    simp only [dirTouch, State.onCoh_coh]
    by_cases place : dirBase d.line + w = k
    · rw [place, tfind_tins_same, here]
      simp [line_e]
    · rw [tfind_tins_other _ _ place]
  rw [dirEntry, still]
  simp only [set, dirTouch, State.onCoh_coh]
  exact tfind_tins_same ..

/-- The entry of a line that has no holders is not listed anew. -/
theorem dirClear_unlisted {s : State} {line : Nat} (h : dirEntry s line = none) : dirClear line s = s := by
  rw [dirClear_eq, dirFind_of_unlisted h]

end Sys2Proof.Proofs.LinesAndTransactions
end

section
/-! SUPPORT. A slot lock on an idle line (R213), and a cache's answer to a snoop (R202, R206, R212). -/

namespace Sys2Proof.Proofs.SnoopAnswers

open Sys2Proof.Machine Sys2Proof.Claims Sys2Proof.Proofs.Maintenance Sys2Proof.Proofs.HomeFrames Sys2Proof.Proofs.LinesAndTransactions

/-! ### A slot lock (R213) -/

/-- While every request in the queue waits, none is accepted. -/
theorem unblock_waits {s : State} (waits : QueueWaits s) : ∀ n : Nat, unblock n s = s
  | 0 => rfl
  | n + 1 => by
    have none_ready : (s.coh.queue.find? fun w => decide (sliceLoad s (sliceOf w.line) < 256) && (txnOf s w.line).isNone) = none := by
      refine List.find?_eq_none.2 fun w mem ready => ?_
      simp only [Bool.and_eq_true, decide_eq_true_eq, Option.isNone_iff_eq_none] at ready
      rcases waits w mem with blocked | full
      · simp [ready.2] at blocked
      · omega
    simp only [unblock, none_ready]

/-- A slot lock as it begins, and as it is granted and acknowledged at once, H being its requester. -/
def lockTxn (slot line : Nat) (done : Bool) : Txn :=
  { line := line, req := .lock slot, agent := agentHub, granted := done, acked := done }

/-- The home with a slot lock on a line under way. -/
def lockBegun (slot line : Nat) (s : State) : State := s.onCoh fun c => { c with txns := c.txns ++ [lockTxn slot line false] }

theorem homeFinish_lock {s : State} {line : Nat} (slot : Nat) (unheld : dirEntry s line = none) :
    homeFinish (lockTxn slot line false) s = txnSet (lockTxn slot line true) s :=
  congrArg (txnSet (lockTxn slot line true)) (dirClear_unlisted unheld)

/-- A slot lock is accepted on an idle line: it is granted as it begins, and no snoop is sent. -/
theorem homeAccept_lock {s : State} {line : Nat} (slot : Nat) (idle : IdleLine s line) :
    ∃ u, Traffic (lockBegun slot line s) u ∧ homeAccept (.lock slot) agentHub line false s = txnSet (lockTxn slot line true) u := by
  have loan : loanFor agentHub line s = s := by simp [loanFor, idle.shared]
  have snoops : snoopsFor s (.lock slot) agentHub line = [] := by simp [snoopsFor, idle.unheld]
  have accepted : asAccepted s (.lock slot) agentHub line = .lock slot := rfl
  simp only [homeAccept, loan, accepted, snoops, List.map_nil, List.append_nil, List.foldl_nil, List.isEmpty_nil, if_true]
  exact ⟨_, .onSlice .., homeFinish_lock slot idle.unheld⟩

theorem txnOf_lockBegun {s : State} {line : Nat} (slot : Nat) (free : txnOf s line = none) :
    txnOf (lockBegun slot line s) line = some (lockTxn slot line false) := by
  unfold txnOf at free ⊢
  simp [lockBegun, List.find?_append, free, lockTxn]

theorem txnOf_lockBegun_other {s : State} {line k : Nat} (slot : Nat) (other : k ≠ line) :
    txnOf (lockBegun slot line s) k = txnOf s k := by
  simp [txnOf, lockBegun, List.find?_append, lockTxn, Ne.symm other]

/-- A slot lock on an idle line stands on it, granted and acknowledged, until its final acknowledgement; no other line is touched. -/
theorem slotLock_locks {s : State} {line : Nat} (slot : Nat) (idle : IdleLine s line) (waits : QueueWaits s) :
    ∃ t, homeRequest (.lock slot) agentHub line s = t ∧ txnOf t line = some (lockTxn slot line true)
      ∧ ∀ c k, txnOf s k = none → k ≠ line → txnOf t k = none ∧ privOf t c k = privOf s c k := by
  obtain ⟨u, traffic, accepts⟩ := homeAccept_lock slot idle
  have begun : txnOf u line = some (lockTxn slot line false) := by
    obtain ⟨_, _, _, rfl⟩ := traffic
    exact txnOf_lockBegun slot idle.free
  have kept : ∀ c k, k ≠ line → txnOf u k = txnOf s k ∧ privOf u c k = privOf s c k := by
    obtain ⟨_, _, _, rfl⟩ := traffic
    exact fun c k other => ⟨txnOf_lockBegun_other slot other, rfl⟩
  have queue : u.coh.queue = s.coh.queue := by
    obtain ⟨_, _, _, rfl⟩ := traffic
    rfl
  have load : ∀ slice, sliceLoad s slice ≤ sliceLoad u slice := by
    obtain ⟨_, _, _, rfl⟩ := traffic
    exact fun slice => (List.Sublist.filter _ (List.sublist_append_left ..)).length_le
  have still : QueueWaits (txnSet (lockTxn slot line true) u) := by
    intro w mem
    have mem : w ∈ s.coh.queue := queue ▸ mem
    have other : w.line ≠ line := fun same => by
      have unqueued := List.any_eq_false.1 idle.unqueued w mem
      simp [same] at unqueued
    rw [txnOf_txnSet_other _ other, (kept 0 _ other).1, sliceLoad_txnSet]
    exact (waits w mem).imp_right fun full => full.trans (load _)
  refine ⟨txnSet (lockTxn slot line true) u, ?_, txnOf_txnSet (lockTxn slot line true) begun, fun c k free other => ?_⟩
  · have unblocked : (txnOf s line).isSome = false := by rw [idle.free]; rfl
    have room : ¬ sliceLoad s (sliceOf line) ≥ 256 := Nat.not_le.2 idle.room
    simp [homeRequest, sendRequest, unblocked, idle.unqueued, room, accepts, unblock_waits still]
  · rw [txnOf_txnSet_other _ other, (kept c k other).1]
    exact ⟨free, (kept c k other).2⟩

/-! ### The answer to a snoop -/

/-- A snoop has left the way to its cache. -/
def snoopTaken (n : Snoop) (s : State) : State :=
  s.onCoh fun c => { c with snoops := c.snoops.filter fun x => !(x.line == n.line && x.cache == n.cache) }

/-- A response is on its way. -/
def replied (r : SnoopResp) (s : State) : State := (sendResponse r s).onCoh fun c => { c with resps := c.resps ++ [r] }

theorem replied_traffic (r : SnoopResp) (s : State) : Traffic (s.onCoh fun c => { c with resps := c.resps ++ [r] }) (replied r s) := by
  obtain ⟨_, _, _, sent⟩ := sendResponse_traffic r s
  rw [replied, sent]
  exact ⟨_, _, _, rfl⟩

/-- The answer of a cache that holds the line: the line's data, dirty where it is in M. -/
def hitResp (n : Snoop) (p : PrivLine) : SnoopResp :=
  { line := n.line, cache := n.cache, hit := true, dirty := p.st == .m, data := p.data, poison0 := p.poison0, poison1 := p.poison1 }

/-- What a snoop does to the copy of a cache that holds the line (Table 3 of chapter 08). -/
def snooped (n : Snoop) (p : PrivLine) (s : State) : State :=
  match n.kind with
  | .share => privSet { p with st := .s } s
  | .forward => privSet { p with st := .s } s
  | .clean => if p.st == .m then privSet { p with st := .e } s else s
  | .unique => loseReservation n.cache n.line (privDrop n.cache n.line s)
  | .invalidate => loseReservation n.cache n.line (privDrop n.cache n.line s)

theorem snoopAnswer_hit {s : State} {n : Snoop} {p : PrivLine} (held : privOf s n.cache n.line = some p) :
    snoopAnswer n s = replied (hitResp n p) (snooped n p (snoopTaken n s)) := by
  have here : privOf (snoopTaken n s) n.cache n.line = some p := held
  unfold snoopTaken at here
  simp only [snoopAnswer, here, snooped]
  cases n.kind <;> rfl

/-- The second state differs from the first in the lines of the private caches and in the cores alone. -/
def CopiesOnly (s t : State) : Prop := ∃ priv cores, t = s.onCoh fun c => { c with priv := priv, cores := cores }

theorem CopiesOnly.trans {s t u : State} (h : CopiesOnly s t) (k : CopiesOnly t u) : CopiesOnly s u := by
  obtain ⟨_, _, rfl⟩ := h
  obtain ⟨_, _, rfl⟩ := k
  exact ⟨_, _, rfl⟩

theorem loseReservation_copies (cache line : Nat) (s : State) : CopiesOnly s (loseReservation cache line s) := by
  have only := loseReservation_coresOnly cache line s
  generalize loseReservation cache line s = t at only
  cases t
  rw [← only]
  exact ⟨_, _, rfl⟩

theorem snooped_copies (n : Snoop) (p : PrivLine) (s : State) : CopiesOnly s (snooped n p s) := by
  have set (q : PrivLine) : CopiesOnly s (privSet q s) := ⟨_, _, rfl⟩
  have gone : CopiesOnly s (loseReservation n.cache n.line (privDrop n.cache n.line s)) :=
    CopiesOnly.trans ⟨_, _, rfl⟩ (loseReservation_copies ..)
  unfold snooped
  split
  · exact set _
  · exact set _
  · split
    · exact set _
    · exact ⟨_, _, rfl⟩
  · exact gone
  · exact gone

section
variable {s : State} {n : Snoop} {p : PrivLine} (held : privOf s n.cache n.line = some p)
include held

theorem privOf_set (st : LineState) : privOf (privSet { p with st := st } s) n.cache n.line = some { p with st := st } := by
  obtain ⟨cache, line⟩ := privOf_place held
  rw [← cache, ← line]
  exact privOf_privSet { p with st := st } s

theorem snooped_shares (kind : n.kind = .share ∨ n.kind = .forward) :
    privOf (snooped n p s) n.cache n.line = some { p with st := .s } := by
  rcases kind with kind | kind <;> simp only [snooped, kind, privOf_set held]

theorem snooped_cleans (kind : n.kind = .clean) :
    privOf (snooped n p s) n.cache n.line = some { p with st := if p.st = .m then .e else p.st } := by
  simp only [snooped, kind]
  by_cases dirty : p.st = .m
  · simp only [dirty, beq_self_eq_true, if_true, privOf_set held]
  · simp only [beq_false_of_ne dirty, dirty, Bool.false_eq_true, if_false, held]

omit held in
theorem snooped_invalidates (kind : n.kind = .unique ∨ n.kind = .invalidate) : privOf (snooped n p s) n.cache n.line = none := by
  have gone : privOf (loseReservation n.cache n.line (privDrop n.cache n.line s)) n.cache n.line = none := by
    rw [privOf_of_priv (loseReservation_coresOnly ..).fields.2.1, privOf_privDrop]
  rcases kind with kind | kind <;> simp only [snooped, kind, gone]

end

/-- A core whose cache loses a line has no reservation on it. -/
theorem loseReservation_unreserved {k : Nat} (core : k < 152) (line : Nat) (s : State) :
    ((loseReservation (544 + k) line s).core k).reservation ≠ some line := by
  have cache : coreOfCache (544 + k) = some k := by
    rw [coreOfCache, if_pos ⟨by omega, by omega⟩, Nat.add_sub_cancel_left]
  simp only [loseReservation, cache]
  by_cases reserved : (s.core k).reservation = some line
  · simp [reserved]
  · rw [if_neg reserved]
    split
    · simpa using reserved
    · exact reserved

theorem snooped_unreserved {n : Snoop} {k : Nat} (p : PrivLine) (s : State) (kind : n.kind = .unique ∨ n.kind = .invalidate)
    (cache : n.cache = 544 + k) (core : k < 152) : ((snooped n p s).core k).reservation ≠ some n.line := by
  have lost := loseReservation_unreserved core n.line (privDrop n.cache n.line s)
  rcases kind with kind | kind <;> simpa only [snooped, kind, cache] using lost

/-! ### The statement -/

theorem exec_snoopReceive {s : State} {n : Snoop} (first : s.coh.snoops.find? (fun x => x.line == n.line && x.cache == n.cache) = some n)
    (free : snoopDelayed s n = false) : exec (.snoopReceive n.cache n.line) s = .next (snoopAnswer n s) := by
  simp [exec, execSnoopReceive, first, free]

/-- A snoop that its core delays is marked, and stays on its way. -/
def delayed (line cache : Nat) (x : Snoop) : Snoop := if x.line = line ∧ x.cache = cache then { x with delayed := true } else x

theorem exec_snoopReceive_delayed {s : State} {n : Snoop}
    (first : s.coh.snoops.find? (fun x => x.line == n.line && x.cache == n.cache) = some n) (held : snoopDelayed s n = true) :
    exec (.snoopReceive n.cache n.line) s
      = .next (s.onCoh fun c => { c with snoops := c.snoops.map (delayed n.line n.cache) }) := by
  simp only [exec, execSnoopReceive, first, held, if_true]
  rfl

/-- A lock's line lies in the slot whose first line is backed where it is itself. -/
theorem slot_backed {line : Nat} (backed : poolBacked (line * 128) = true) : poolBacked (line / 4 * 4 * 128) = true := by
  simp only [poolBacked, Bool.or_eq_true, Bool.and_eq_true, decide_eq_true_eq] at backed ⊢
  omega

theorem exec_slotLock {s : State} {line : Nat} (inner : line % 4 ≠ 0) (backed : poolBacked (line * 128) = true) :
    exec (.slotLock (line / 4 * 4) line) s = .next (homeRequest (.lock (line / 4 * 4)) agentHub line s) := by
  have after : line / 4 * 4 < line := by omega
  have before : line < line / 4 * 4 + 4 := by omega
  simp [exec, execSlotLock, after, before, slot_backed backed]

/-- Settles O15: a slot lock by its acceptance on an idle line, a snoop by what its kind does to the cache's copy and by the response
that leaves. -/
theorem snoopsAreAnsweredAndSlotsLock : Obligations.SnoopsAreAnsweredAndSlotsLock := by
  unfold Obligations.SnoopsAreAnsweredAndSlotsLock
  refine ⟨fun s line idle waits inner => ?_, fun s n p first held => ⟨fun free => ?_, fun holds => ?_⟩⟩
  · obtain ⟨t, accepts, stands, others⟩ := slotLock_locks (line / 4 * 4) idle waits
    exact ⟨t, _, accepts ▸ exec_slotLock inner idle.backed, stands, rfl, rfl, others⟩
  · obtain ⟨outs, rx, ctr, answered⟩ := replied_traffic (hitResp n p) (snooped n p (snoopTaken n s))
    have step := exec_snoopReceive first free
    rw [snoopAnswer_hit held, answered] at step
    have here : privOf (snoopTaken n s) n.cache n.line = some p := held
    obtain ⟨priv, cores, copies⟩ := snooped_copies n p (snoopTaken n s)
    refine ⟨_, step, ?_, ⟨hitResp n p, ?_, rfl, rfl, rfl, beq_iff_eq, rfl, rfl, rfl⟩, fun x mem => ?_, snooped_shares here,
      snooped_cleans here, fun kind => ⟨snooped_invalidates kind, fun k => snooped_unreserved p _ kind⟩⟩
    · rw [copies]
      rfl
    · simp
    · rw [copies] at mem
      exact not_here mem
  · refine ⟨_, exec_snoopReceive_delayed first holds, rfl, rfl, rfl, ?_⟩
    have mem := List.mem_map_of_mem (f := delayed n.line n.cache) (List.mem_of_find?_eq_some first)
    rwa [delayed, if_pos ⟨rfl, rfl⟩] at mem

end Sys2Proof.Proofs.SnoopAnswers
end

section
/-! SUPPORT. What a response brings the home, a grant its requester and the final acknowledgement its line (R202, R204). -/

namespace Sys2Proof.Proofs.GrantedLines

open Sys2Proof.Machine Sys2Proof.Claims Sys2Proof.Proofs.Maintenance Sys2Proof.Proofs.HomeFrames Sys2Proof.Proofs.LinesAndTransactions

/-! ### Responses -/

/-- A response has reached the home. -/
def responseTaken (r : SnoopResp) (s : State) : State :=
  s.onCoh fun c => { c with resps := c.resps.filter fun x => !(x.line == r.line && x.cache == r.cache) }

/-- The transaction of a RdS once a response has brought it data. -/
def supplied (x : Txn) (r : SnoopResp) : Txn := { x with
  waitFor := x.waitFor.filter fun c => c != r.cache, data := r.data, poison0 := r.poison0, poison1 := r.poison1 }

section
variable {s : State} {r : SnoopResp} {x : Txn} (stands : txnOf s r.line = some x) (hit : r.hit = true) (empty : x.data = [])
  (rds : x.req = .rds)
include stands hit empty rds

/-- The response of a holder gives a RdS its data; dirty data go to the home beside. -/
theorem homeResponse_supplies : ∃ u, underway u = underway (responseTaken r s) ∧ homeResponse r s =
    if (supplied x r).waitFor.isEmpty then homeFinish (supplied x r) (txnSet (supplied x r) u) else txnSet (supplied x r) u := by
  have here : txnOf (responseTaken r s) r.line = some x := stands
  unfold responseTaken at here
  refine ⟨if returnsDirty x r then scTake r.line r.data r.poison0 r.poison1 (responseTaken r s) else responseTaken r s, by simp, ?_⟩
  simp only [homeResponse, here]
  simp only [supplies, hit, rds, empty, Bool.and_self, List.isEmpty_nil, if_true, supplied, responseTaken]

end

/-- A RdS whose data a cache has supplied is granted with them. -/
theorem homeFinish_supplied {t : Txn} {s : State} (rds : t.req = .rds) (data : t.data ≠ []) :
    ∃ u, underway u = underway s ∧ homeFinish t s = txnSet { t with granted := true } u := by
  have full : t.data.isEmpty = false := List.isEmpty_eq_false_iff.2 data
  simp only [homeFinish, sendGrant, rds, full, Bool.false_eq_true, if_false]
  exact ⟨_, by simp, rfl⟩

theorem resps_txnSet (t : Txn) (s : State) : (txnSet t s).coh.resps = s.coh.resps := rfl

section
variable {s : State} {r : SnoopResp} {x : Txn} (first : s.coh.resps.find? (fun y => y.line == r.line && y.cache == r.cache) = some r)
  (stands : txnOf s r.line = some x) (hit : r.hit = true) (empty : x.data = []) (rds : x.req = .rds)

theorem exec_snoopResponseReceive (first : s.coh.resps.find? (fun y => y.line == r.line && y.cache == r.cache) = some r) :
    exec (.snoopResponseReceive r.line r.cache) s = .next (homeResponse r s) := by
  simp [exec, execSnoopResponseReceive, first]

theorem response_gone {t : State} (resps : t.coh.resps = (responseTaken r s).coh.resps) :
    ∀ y ∈ t.coh.resps, ¬ (y.line = r.line ∧ y.cache = r.cache) := by
  intro y mem
  rw [resps] at mem
  exact not_here mem

include stands hit empty rds

/-- The last response grants the transaction with its data. -/
theorem homeResponse_grants (whole : r.data ≠ []) (open_ : x.acked = false) (last : x.waitFor = [r.cache]) :
    Granted (homeResponse r s) r.line x.agent (r.data, r.poison0, r.poison1)
      ∧ ∀ y ∈ (homeResponse r s).coh.resps, ¬ (y.line = r.line ∧ y.cache = r.cache) := by
  obtain ⟨u, same, answered⟩ := homeResponse_supplies stands hit empty rds
  have none_left : (supplied x r).waitFor.isEmpty = true := by simp [supplied, last]
  rw [if_pos none_left] at answered
  obtain ⟨v, same', finished⟩ := homeFinish_supplied (t := supplied x r) (s := txnSet (supplied x r) u) rds whole
  have line : x.line = r.line := txnOf_line stands
  have before : txnOf u (supplied x r).line = some x := by
    rw [txnOf_of_underway same]
    exact line ▸ stands
  have set : txnOf v (supplied x r).line = some (supplied x r) := (txnOf_of_underway same' _).trans (txnOf_txnSet _ before)
  rw [answered, finished]
  refine ⟨⟨{ supplied x r with granted := true }, line ▸ txnOf_txnSet { supplied x r with granted := true } set, rfl, open_, rfl, rfl⟩, ?_⟩
  exact response_gone ((resps_of_underway same').trans ((resps_txnSet ..).trans (resps_of_underway same)))

/-- A response that others are still awaited with leaves the transaction waiting, with the data it has brought. -/
theorem homeResponse_awaits (more : (supplied x r).waitFor ≠ []) : txnOf (homeResponse r s) r.line = some (supplied x r) := by
  obtain ⟨u, same, answered⟩ := homeResponse_supplies stands hit empty rds
  rw [if_neg (by simpa using more)] at answered
  have line : x.line = r.line := txnOf_line stands
  have before : txnOf u (supplied x r).line = some x := by
    rw [txnOf_of_underway same]
    exact line ▸ stands
  rw [answered]
  exact line ▸ txnOf_txnSet (supplied x r) before

end

/-! ### The requester -/

/-- Where a cache may hold anything of a set, one of the set's lines stands in each way that is not free. -/
theorem privVictim_of_full {s : State} {cache line : Nat} (full : privFreeWay s cache line = none) (ways : 0 < privWays s cache) :
    ∃ v, privVictim s cache line = some v := by
  have taken := List.find?_eq_none.1 full 0 (List.mem_range.2 ways)
  simp only [Bool.not_eq_true, Bool.not_eq_false', List.any_eq_true, Bool.and_eq_true, beq_iff_eq] at taken
  obtain ⟨p, mem, set, way⟩ := taken
  refine Option.isSome_iff_exists.1 (List.find?_isSome.2 ⟨p, mem, ?_⟩)
  simp [set, way, ways]

/-- A line comes into a cache that has ways, in one of them. -/
theorem privOf_privFill {s : State} (p : PrivLine) (ways : 0 < privWays s p.cache) :
    ∃ w, privOf (privFill p s) p.cache p.line = some { p with way := w } := by
  unfold privFill
  cases free : privFreeWay s p.cache p.line with
  | some w => exact ⟨w, privOf_privSet { p with way := w } s⟩
  | none =>
    obtain ⟨v, victim⟩ := privVictim_of_full free ways
    simp only [victim]
    exact ⟨v.way, privOf_privSet { p with way := v.way } _⟩

theorem privFill_pool {s : State} {p : PrivLine} (free : privFreeWay s p.cache p.line ≠ none) : (privFill p s).pool = s.pool := by
  unfold privFill
  split
  · rfl
  · exact absurd ‹_› free

/-- The requester takes the line with the transaction's data, where the directory still shows it as a holder. -/
def takeLine (x : Txn) (st : LineState) (s : State) : State :=
  if dirShows s x.agent x.line then
    privFill { cache := x.agent, line := x.line, st := st, data := x.data, poison0 := x.poison0, poison1 := x.poison1 } s
  else s

/-- What the requester does to its own cache as the data reach it. -/
def taken (x : Txn) (s : State) : State := match x.req with
  | .rds => match dirEntry s x.line with
    | some d => takeLine x (if d.excl then .e else .f) s
    | none => s
  | .rdu => takeLine x .m s
  | .upg => match privOf s x.agent x.line with
    | some p => privSet { p with st := .m } s
    | none =>
      let (d, p0, p1) := homeLine s x.line
      if dirShows s x.agent x.line then
        privFill { cache := x.agent, line := x.line, st := .m, data := d, poison0 := p0, poison1 := p1 } s
      else s
  | _ => s

theorem underway_takeLine (x : Txn) (st : LineState) (s : State) : underway (takeLine x st s) = underway s := by
  simp [takeLine]

theorem underway_taken (x : Txn) (s : State) : underway (taken x s) = underway s := by
  unfold taken
  split
  · split
    · exact underway_takeLine ..
    · rfl
  · exact underway_takeLine ..
  · split
    · exact underway_privSet ..
    · simp
  · rfl

/-- A requester takes what is granted and sends its final acknowledgement. -/
theorem requesterReceive_acknowledges (x : Txn) (s : State) :
    ∃ v, Traffic (taken x s) v ∧ requesterReceive x s = txnSet { x with acked := true } v := by
  have sent : Traffic (taken x s) (match x.req with
      | .lock _ => taken x s
      | _ => fromAgent x.agent x.line 5 false (taken x s)) := by
    split
    · exact .same _
    · exact fromAgent_traffic ..
  exact ⟨_, sent, rfl⟩

theorem takeLine_has {x : Txn} {s : State} (st : LineState) (shows : dirShows s x.agent x.line = true) (ways : 0 < privWays s x.agent) :
    ∃ w, privOf (takeLine x st s) x.agent x.line = some
      { cache := x.agent, line := x.line, st := st, data := x.data, poison0 := x.poison0, poison1 := x.poison1, way := w } := by
  unfold takeLine
  rw [if_pos shows]
  exact privOf_privFill _ ways

theorem takeLine_unshown {x : Txn} {s : State} (st : LineState) (shows : dirShows s x.agent x.line = false) : takeLine x st s = s := by
  simp [takeLine, shows]

theorem takeLine_pool {x : Txn} {s : State} (st : LineState) (free : privFreeWay s x.agent x.line ≠ none) :
    (takeLine x st s).pool = s.pool := by
  unfold takeLine
  split
  · exact privFill_pool free
  · rfl

theorem taken_pool {x : Txn} {s : State} (free : privFreeWay s x.agent x.line ≠ none) : (taken x s).pool = s.pool := by
  unfold taken
  split
  · split
    · exact takeLine_pool _ free
    · rfl
  · exact takeLine_pool _ free
  · split
    · rfl
    · dsimp only
      split
      · exact privFill_pool free
      · rfl
  · rfl

theorem taken_rds {x : Txn} {s : State} {d : DirEntry} (req : x.req = .rds) (entry : dirEntry s x.line = some d) :
    taken x s = takeLine x (if d.excl then .e else .f) s := by
  simp only [taken, req, entry]

theorem taken_rdu {x : Txn} {s : State} (req : x.req = .rdu) : taken x s = takeLine x .m s := by
  simp only [taken, req]

theorem taken_rdonce {x : Txn} {s : State} {off n : Nat} (req : x.req = .rdonce off n) : taken x s = s := by
  simp only [taken, req]

/-- A requester of Upg that still has its copy owns it as it stands. -/
theorem taken_upg_owns {x : Txn} {s : State} {p : PrivLine} (req : x.req = .upg) (copy : privOf s x.agent x.line = some p) :
    privOf (taken x s) x.agent x.line = some { p with st := .m } ∧ (taken x s).pool = s.pool := by
  have kept : taken x s = privSet { p with st := .m } s := by simp only [taken, req, copy]
  obtain ⟨cache, line⟩ := privOf_place copy
  rw [kept, ← cache, ← line]
  exact ⟨privOf_privSet { p with st := .m } s, rfl⟩

theorem exec_coherenceDataReceive {s : State} {line : Nat} {x : Txn} (stands : txnOf s line = some x) (granted : x.granted = true)
    (open_ : x.acked = false) : exec (.coherenceDataReceive line) s = .next (requesterReceive x s) := by
  simp [exec, execCoherenceDataReceive, stands, granted, open_]

/-- The final acknowledgement drops the transaction, and nothing waits behind it. -/
theorem exec_finalAckReceive {s : State} {line : Nat} {x : Txn} (stands : txnOf s line = some x) (acked : x.acked = true)
    (idle : s.coh.queue = []) : exec (.finalAckReceive line) s = .next (txnDrop line s) := by
  have none_waits : (txnDrop line s).coh.queue = [] := idle
  simp [exec, execFinalAckReceive, stands, acked, homeAck, unblock, none_waits]

/-- Settles O16: a response brings a transaction its data, and with the last awaited one it is granted; the requester takes the line as
its request and the directory say, and its acknowledgement unblocks the line. -/
theorem grantsReachTheirRequester : Obligations.GrantsReachTheirRequester := by
  unfold Obligations.GrantsReachTheirRequester
  constructor
  · intro s r x first stands hit whole empty rds waits open_
    refine ⟨fun last => ⟨_, exec_snoopResponseReceive first, ?_⟩, fun o two other => ⟨_, supplied x r, exec_snoopResponseReceive first, ?_⟩⟩
    · exact homeResponse_grants stands hit empty rds (by rintro none; simp [none] at whole) open_ last
    · have left : (supplied x r).waitFor = [o] := by simp [supplied, two, other]
      exact ⟨homeResponse_awaits stands hit empty rds (by simp [left]), waits, left, rfl⟩
  · intro s line x stands has room
    obtain rfl := txnOf_line stands
    constructor
    · intro granted open_
      obtain ⟨v, sent, received⟩ := requesterReceive_acknowledges x s
      have still : txnOf v x.line = some x :=
        (txnOf_of_underway ((underway_traffic sent).trans (underway_taken x s)) _).trans stands
      obtain ⟨_, _, _, rfl⟩ := sent
      refine ⟨_, _, exec_coherenceDataReceive stands granted open_, received ▸ txnOf_txnSet { x with acked := true } still, rfl, ?_⟩
      rw [received]
      refine ⟨taken_pool, ?_, ?_, ?_, ?_, ?_⟩
      · intro req ⟨shows, ways⟩
        exact taken_rdu req ▸ takeLine_has .m shows ways
      · intro off n req
        have kept := taken_rdonce (s := s) req
        exact ⟨congrArg (·.coh.priv) kept, congrArg (·.pool) kept⟩
      · intro req unshown
        exact congrArg (·.coh.priv) ((taken_rdu req).trans (takeLine_unshown .m unshown))
      · exact fun p req copy => taken_upg_owns req copy
      · intro d req ⟨shows, ways⟩ entry
        exact taken_rds req entry ▸ takeLine_has _ shows ways
    · intro acked idle
      exact ⟨_, exec_finalAckReceive stands acked idle, txnOf_txnDrop .., rfl, rfl, fun k other => txnOf_txnDrop_other s other⟩

end Sys2Proof.Proofs.GrantedLines
end

section
/-! SUPPORT. The system cache: a line that is written has a place of its set, and a whole dirty line that is taken is the line's image
from then on (R184, R185, R202). -/

namespace Sys2Proof.Proofs.SystemCache

open Sys2Proof.Machine Sys2Proof.Claims Sys2Proof.Proofs.HomeFrames

/-- The place that the system cache finds for a line is one of the sixteen of its set, and holds the line. -/
theorem scFind_place {s : State} {line k : Nat} (found : scFind s line = some k) :
    ∃ i l, i < 16 ∧ k = scBase line + i ∧ tfind s.coh.sc k = some l ∧ l.line = line := by
  obtain ⟨i, first, rfl⟩ := Option.map_eq_some_iff.1 found
  have held := List.find?_some first
  have inside := List.mem_of_find?_eq_some first
  split at held
  · next l here => exact ⟨i, l, List.mem_range.1 inside, rfl, here, eq_of_beq held⟩
  · cases held

/-- A line has the place k of the system cache, and stands there as l. -/
def Placed (s : State) (line k : Nat) (l : ScLine) : Prop := scFind s line = some k ∧ tfind s.coh.sc k = some l

namespace Placed

variable {s : State} {line k : Nat} {l m : ScLine}

theorem line_eq (h : Placed s line k l) : l.line = line := by
  obtain ⟨found, here⟩ := h
  obtain ⟨i, e, -, -, there, line_e⟩ := scFind_place found
  cases here.symm.trans there
  exact line_e

theorem scCopy (h : Placed s line k l) : scCopy s line = some l := by
  obtain ⟨found, here⟩ := h
  simp only [Machine.scCopy, found, here]

theorem ofSc {t : State} (h : Placed s line k l) (same : t.coh.sc = s.coh.sc) : Placed t line k l := by
  unfold Placed scFind
  rw [same]
  exact h

/-- A line is written at its place. -/
theorem scSet (h : Placed s line k l) (of : m.line = line) : Placed (scSet k m s) line k m := by
  have line_l := h.line_eq
  obtain ⟨found, here⟩ := h
  refine ⟨?_, tfind_tins_same ..⟩
  rw [← found, scFind, scFind]
  congr 2
  funext w
  simp only [Machine.scSet, State.onCoh_coh]
  by_cases place : scBase line + w = k
  · rw [place, tfind_tins_same, here]
    simp [of, line_l]
  · rw [tfind_tins_other _ _ place]

end Placed

/-! ### A place for a line (R185) -/

theorem plruVictim_below (t : Nat) : plruVictim t < 16 := by
  have one_le (b : Bool) : one b ≤ 1 := by cases b <;> decide
  simp only [plruVictim]
  have first := one_le (bit t 1)
  generalize one (bit t 1) = a at first ⊢
  have second := one_le (bit t (2 * 1 + a))
  generalize one (bit t (2 * 1 + a)) = b at second ⊢
  have third := one_le (bit t (2 * (2 * 1 + a) + b))
  generalize one (bit t (2 * (2 * 1 + a) + b)) = c at third ⊢
  have fourth := one_le (bit t (2 * (2 * (2 * 1 + a) + b) + c))
  omega

theorem scWriteBack_coh (l : ScLine) (s : State) : (scWriteBack l s).coh = s.coh := by
  unfold scWriteBack
  dsimp only
  split <;> split <;> rfl

theorem victimPush_sc (l : ScLine) (s : State) : (victimPush l s).coh.sc = s.coh.sc := by
  unfold victimPush
  dsimp only
  split
  · split
    · exact congrArg (·.sc) (scWriteBack_coh ..)
    · rfl
  · rfl

/-- The way that is freed is one of the line's set, and no line comes into the system cache. -/
theorem scFreeWay_place (line : Nat) (s : State) : (∃ i, i < 16 ∧ (scFreeWay line s).1 = scBase line + i)
    ∧ ∀ k l, tfind (scFreeWay line s).2.coh.sc k = some l → tfind s.coh.sc k = some l := by
  unfold scFreeWay
  split
  · next w free => exact ⟨⟨w, List.mem_range.1 (List.mem_of_find?_eq_some free), rfl⟩, fun _ _ => id⟩
  · extract_lets k
    split
    · refine ⟨⟨_, plruVictim_below _, rfl⟩, fun j l here => ?_⟩
      rw [victimPush_sc] at here
      by_cases same : j = k
      · cases (tfind_tdel_same ..).symm.trans (same ▸ here)
      · exact (tfind_tdel_other _ same).symm.trans here
    · exact ⟨⟨_, plruVictim_below _, rfl⟩, fun _ _ => id⟩

/-- A line that no way of its set holds is found in the way where it is set. -/
theorem scSet_placed {s : State} {line i : Nat} {m : ScLine} (inside : i < 16) (of : m.line = line)
    (absent : ∀ j l, j < 16 → tfind s.coh.sc (scBase line + j) = some l → l.line ≠ line) :
    Placed (scSet (scBase line + i) m s) line (scBase line + i) m := by
  have here : tfind (scSet (scBase line + i) m s).coh.sc (scBase line + i) = some m := tfind_tins_same ..
  refine ⟨?_, here⟩
  cases found : scFind (scSet (scBase line + i) m s) line with
  | none =>
    have missed := List.find?_eq_none.1 (Option.map_eq_none_iff.1 found) i (List.mem_range.2 inside)
    rw [here] at missed
    exact absurd (beq_iff_eq.2 of) missed
  | some k =>
    obtain ⟨j, l, below, rfl, there, line_l⟩ := scFind_place found
    by_cases same : j = i
    · rw [same]
    · have before : tfind s.coh.sc (scBase line + j) = some l := (tfind_tins_other _ _ (by omega)).symm.trans there
      exact absurd line_l (absent j l below before)

theorem scFind_absent {s : State} {line : Nat} (absent : scFind s line = none) (j : Nat) (l : ScLine) (inside : j < 16)
    (here : tfind s.coh.sc (scBase line + j) = some l) : l.line ≠ line := by
  have missed := List.find?_eq_none.1 (Option.map_eq_none_iff.1 absent) j (List.mem_range.2 inside)
  rw [here] at missed
  exact fun same => missed (beq_iff_eq.2 same)

/-- A line as the system cache or its victim cache holds it, or new. -/
def heldOrNew (s : State) (line : Nat) : ScLine := (scCopy s line).getD { line := line, data := zeroLine }

/-- A line that a write needs has a place. -/
theorem scAlloc_placed (line : Nat) (s : State) : Placed (scAlloc line s).2 line (scAlloc line s).1 (heldOrNew s line) := by
  unfold scAlloc
  cases found : scFind s line with
  | some k =>
    obtain ⟨i, l, -, -, here, -⟩ := scFind_place found
    have placed : Placed s line k l := ⟨found, here⟩
    rw [heldOrNew, placed.scCopy]
    exact placed.ofSc rfl
  | none =>
    have old : heldOrNew s line = (victimFind s line).getD { line := line, data := zeroLine } := by
      rw [heldOrNew, scCopy, found]
    have of : (heldOrNew s line).line = line := by
      rw [old]
      cases victim : victimFind s line with
      | none => rfl
      | some l => simpa using List.find?_some victim
    obtain ⟨⟨i, inside, way⟩, fewer⟩ := scFreeWay_place line (victimDrop line s)
    have placed := scSet_placed (s := (scFreeWay line (victimDrop line s)).2) inside of fun j l below here =>
      scFind_absent found j l below (fewer _ l here)
    rw [← way, old] at placed
    rw [old]
    exact placed.ofSc rfl

/-! ### A whole line is taken -/

/-- A copy with both sectors valid is the line's image. -/
theorem homeLine_of_copy {s : State} {line : Nat} {l : ScLine} (copy : scCopy s line = some l) (first : l.valid0 = true)
    (second : l.valid1 = true) : (homeLine s line).1 = l.data := by
  simp [homeLine, copy, first, second]

/-- A sector that is written whole is not filled. -/
theorem not_filled {off : Nat} (sector : off = 0 ∨ off = 64) :
    (touches 0 off 64 && !coversSector 0 off 64) = false ∧ (touches 1 off 64 && !coversSector 1 off 64) = false := by
  rcases sector with rfl | rfl <;> decide

/-- A sector that is written whole is valid, and the rest of its line stays as it was. -/
theorem scWrite_sector (line : Nat) {off : Nat} {b : List Byte} (ep : Bool) (s : State) (sector : off = 0 ∨ off = 64)
    (whole : b.length = 64) : ∃ k l, Placed (scWrite line off b ep s) line k l ∧ l.valid0 = ((heldOrNew s line).valid0 || touches 0 off 64)
      ∧ l.valid1 = ((heldOrNew s line).valid1 || touches 1 off 64) ∧ l.data = patch (heldOrNew s line).data off b := by
  have placed := scAlloc_placed line s
  obtain ⟨first, second⟩ := not_filled sector
  simp only [scWrite, whole, first, second, Bool.false_eq_true, if_false, placed.2]
  exact ⟨_, _, placed.scSet placed.line_eq, rfl, rfl, rfl⟩

/-- A line of 128 bytes that both its halves replace is those halves. -/
theorem patch_halves {old data : List Byte} (short : old.length ≤ 128) (whole : data.length = 128) :
    patch (patch old 0 (data.take 64)) 64 (data.drop 64) = data := by
  have low : (data.take 64).length = 64 := by simp [whole]
  have high : (data.drop 64).length = 64 := by simp [whole]
  have first : (patch old 0 (data.take 64)).take 64 = data.take 64 := by simp [patch, low]
  have rest : (patch old 0 (data.take 64)).drop 128 = [] := by
    simp [patch, whole]
    omega
  rw [patch, first, high, rest, List.append_nil, List.take_append_drop]

/-- A whole dirty line that the system cache takes is its copy of the line, both sectors valid. -/
theorem scTake_copy {s : State} {line : Nat} {data : List Byte} (p0 p1 : Bool) (whole : data.length = 128)
    (lines : ∀ l, scCopy s line = some l → l.data.length = 128) :
    ∃ l, scCopy (scTake line data p0 p1 s) line = some l ∧ l.valid0 = true ∧ l.valid1 = true ∧ l.data = data := by
  obtain ⟨k, l, first, valid0, -, low⟩ := scWrite_sector line (b := data.take 64) p0 s (.inl rfl) (by simp [whole])
  obtain ⟨j, m, second, kept0, valid1, high⟩ :=
    scWrite_sector line (b := data.drop 64) p1 (scWrite line 0 (data.take 64) p0 s) (.inr rfl) (by simp [whole])
  have after : heldOrNew (scWrite line 0 (data.take 64) p0 s) line = l := by rw [heldOrNew, first.scCopy, Option.getD_some]
  have short : (heldOrNew s line).data.length ≤ 128 := by
    cases copy : scCopy s line with
    | none => simp [heldOrNew, copy, zeroLine]
    | some x => simp [heldOrNew, copy, lines x copy]
  rw [after] at kept0 high
  refine ⟨m, second.scCopy, ?_, ?_, by rw [high, low, patch_halves short whole]⟩
  · simp [kept0, valid0, touches]
  · simp [valid1, touches]

end Sys2Proof.Proofs.SystemCache
end

section
/-! SUPPORT. Lines that leave their caches for the home, loans that end, and the snoops that an LR has delayed (R202, R205, R208, R212). -/

namespace Sys2Proof.Proofs.LeavingLines

open Sys2Proof.Machine Sys2Proof.Claims Sys2Proof.Proofs.HomeFrames Sys2Proof.Proofs.LinesAndTransactions
  Sys2Proof.Proofs.SnoopAnswers Sys2Proof.Proofs.SystemCache
open Sys2Proof.Proofs.GrantSpaces (mem_without)
open Sys2Proof.Proofs.Admission (foldl_establishes)
open Sys2Proof.Proofs.Maintenance (dirEntry_dirClear dirClear_coh loseReservation_coresOnly)

/-! ### The home -/

/-- The second state differs from the first in the private caches, their cores, their write-back buffers and the messages of the switch
alone: what the home knows is the same. -/
def HomeSame (s t : State) : Prop := ∃ outs rx priv wbuf wbAcks cores ctr, t = s.onCoh fun c => { c with
  outs := outs, rx := rx, priv := priv, wbuf := wbuf, wbAcks := wbAcks, cores := cores, ctr := ctr }

namespace HomeSame

variable {s t u : State}

theorem trans (h : HomeSame s t) (k : HomeSame t u) : HomeSame s u := by
  obtain ⟨_, _, _, _, _, _, _, rfl⟩ := h
  obtain ⟨_, _, _, _, _, _, _, rfl⟩ := k
  exact ⟨_, _, _, _, _, _, _, rfl⟩

theorem of_traffic (h : Traffic s t) : HomeSame s t := by
  obtain ⟨_, _, _, rfl⟩ := h
  exact ⟨_, _, _, _, _, _, _, rfl⟩

theorem of_copies (h : CopiesOnly s t) : HomeSame s t := by
  obtain ⟨_, _, rfl⟩ := h
  exact ⟨_, _, _, _, _, _, _, rfl⟩

variable (h : HomeSame s t)
include h

theorem pool : t.pool = s.pool := by
  obtain ⟨_, _, _, _, _, _, _, rfl⟩ := h
  rfl

theorem direct (c line : Nat) : direct t c line = direct s c line := by
  obtain ⟨_, _, _, _, _, _, _, rfl⟩ := h
  rfl

theorem txnOf (line : Nat) : txnOf t line = txnOf s line := by
  obtain ⟨_, _, _, _, _, _, _, rfl⟩ := h
  rfl

theorem lineQueued (line : Nat) : lineQueued t line = lineQueued s line := by
  obtain ⟨_, _, _, _, _, _, _, rfl⟩ := h
  rfl

theorem dirEntry (line : Nat) : dirEntry t line = dirEntry s line := by
  obtain ⟨_, _, _, _, _, _, _, rfl⟩ := h
  rfl

theorem ownerOf (line : Nat) : ownerOf t line = ownerOf s line := by
  unfold Machine.ownerOf
  rw [h.dirEntry]

theorem onceInDir {line : Nat} (once : OnceInDir s line) : OnceInDir t line := by
  obtain ⟨_, _, _, _, _, _, _, rfl⟩ := h
  exact once

theorem scCopy (line : Nat) : scCopy t line = scCopy s line := by
  obtain ⟨_, _, _, _, _, _, _, rfl⟩ := h
  rfl

end HomeSame

theorem privOf_of_traffic {s t : State} (h : Traffic s t) (c line : Nat) : privOf t c line = privOf s c line := by
  obtain ⟨_, _, _, rfl⟩ := h
  rfl

theorem wbufOf_of_traffic {s t : State} (h : Traffic s t) (c line : Nat) : wbufOf t c line = wbufOf s c line := by
  obtain ⟨_, _, _, rfl⟩ := h
  rfl

theorem wbufOf_of_wbuf {s t : State} (same : t.coh.wbuf = s.coh.wbuf) (c line : Nat) : wbufOf t c line = wbufOf s c line := by
  rw [wbufOf, same, wbufOf]

/-- The home has acknowledged a write-back. -/
def acking (c line : Nat) (s : State) : State := s.onCoh fun k => { k with wbAcks := k.wbAcks ++ [(c, line)] }

theorem acking_same (c line : Nat) (s : State) : HomeSame s (acking c line s) := ⟨_, _, _, _, _, _, _, rfl⟩

/-- The home takes a line from its owner. -/
def takenBack (line : Nat) (p : PrivLine) (s : State) : State := dirClear line (scTake line p.data p.poison0 p.poison1 s)

theorem takenBack_caches (line : Nat) (p : PrivLine) (s : State) : (takenBack line p s).coh.priv = s.coh.priv
    ∧ (takenBack line p s).coh.wbuf = s.coh.wbuf := by
  obtain ⟨_, cleared⟩ := dirClear_coh line (scTake line p.data p.poison0 p.poison1 s)
  obtain ⟨_, _, _, _, _, stored⟩ := scTake_stored line p.data p.poison0 p.poison1 s
  rw [takenBack, cleared, stored]
  exact ⟨rfl, rfl⟩

theorem takenBack_unlisted {s : State} {line : Nat} (p : PrivLine) (once : OnceInDir s line) :
    dirEntry (takenBack line p s) line = none := by
  obtain ⟨_, _, _, _, _, stored⟩ := scTake_stored line p.data p.poison0 p.poison1 s
  exact dirEntry_dirClear (by rw [stored]; exact once)

theorem takenBack_copy {s : State} {line : Nat} {p : PrivLine} (whole : p.data.length = 128)
    (lines : ∀ l, scCopy s line = some l → l.data.length = 128) :
    ∃ l, scCopy (takenBack line p s) line = some l ∧ l.valid0 = true ∧ l.valid1 = true ∧ l.data = p.data := by
  obtain ⟨_, cleared⟩ := dirClear_coh line (scTake line p.data p.poison0 p.poison1 s)
  have copy := scTake_copy p.poison0 p.poison1 whole lines
  rw [takenBack, cleared]
  exact copy

/-- The home knows the cache that writes a line back as its holder: it takes the data, lists the line no more, and acknowledges. -/
theorem homeWb_takes {s : State} {c line : Nat} {p : PrivLine} (owner : ownerOf s line = some c) (buffered : wbufOf s c line = some p)
    (once : OnceInDir s line) (whole : p.data.length = 128) (lines : ∀ l, scCopy s line = some l → l.data.length = 128) :
    (homeWb c line s).coh.priv = s.coh.priv ∧ (homeWb c line s).coh.wbuf = s.coh.wbuf ∧ (c, line) ∈ (homeWb c line s).coh.wbAcks
      ∧ dirEntry (homeWb c line s) line = none ∧ (homeLine (homeWb c line s) line).1 = p.data := by
  have acked := toAgent_traffic c line 5 false s
  have same := HomeSame.of_traffic acked
  have buffer := wbufOf_of_traffic acked c line
  have caches : (toAgent c line 5 false s).coh.priv = s.coh.priv ∧ (toAgent c line 5 false s).coh.wbuf = s.coh.wbuf := by
    obtain ⟨_, _, _, acked⟩ := acked
    rw [acked]
    exact ⟨rfl, rfl⟩
  generalize sent : toAgent c line 5 false s = u at same buffer caches
  have answer : homeWb c line s = acking c line (takenBack line p u) := by
    simp only [homeWb, sent, same.ownerOf, owner, buffer, buffered, if_true, acking, takenBack]
  have acks := acking_same c line (takenBack line p u)
  have taken := takenBack_caches line p u
  have unlisted := takenBack_unlisted p (same.onceInDir once)
  obtain ⟨l, copy, first, second, data⟩ := takenBack_copy whole (same.scCopy line ▸ lines)
  rw [answer]
  generalize takenBack line p u = v at acks taken unlisted copy
  rw [← acks.scCopy] at copy
  exact ⟨taken.1.trans caches.1, taken.2.trans caches.2, by simp [acking], (acks.dirEntry line).trans unlisted,
    (homeLine_of_copy copy first second).trans data⟩

/-- A notice of a line that no transaction blocks reaches the home. -/
theorem homeNotice_reaches {s : State} {line : Nat} (wb : Bool) (c : Nat) (free : txnOf s line = none)
    (unqueued : lineQueued s line = false) :
    ∃ u, Traffic s u ∧ homeNotice wb c line s = if wb then homeWb c line u else homeEv c line u := by
  have sent := sendRequest_traffic (if wb then .wb else .ev) c line s
  refine ⟨_, sent, ?_⟩
  have still : txnOf (sendRequest (if wb then .wb else .ev) c line s) line = none
      ∧ lineQueued (sendRequest (if wb then .wb else .ev) c line s) line = false := by
    obtain ⟨_, _, _, same⟩ := sent
    rw [same]
    exact ⟨free, unqueued⟩
  simp [homeNotice, still]

/-! ### A line leaves its cache -/

/-- A cache without the line, and without a reservation on it. -/
def left (p : PrivLine) (s : State) : State := loseReservation p.cache p.line (privDrop p.cache p.line s)

theorem left_copies (p : PrivLine) (s : State) : CopiesOnly s (left p s) :=
  CopiesOnly.trans (t := privDrop p.cache p.line s) ⟨_, s.coh.cores, rfl⟩ (loseReservation_copies ..)

theorem privOf_left (p : PrivLine) (s : State) : privOf (left p s) p.cache p.line = none := by
  rw [left, privOf_of_priv (loseReservation_coresOnly ..).fields.2.1, privOf_privDrop]

/-- A dirty line waits in the write-back buffer, and an older acknowledgement of it is not its own. -/
def buffering (p : PrivLine) (s : State) : State := (wbufDrop p.cache p.line s).onCoh fun c => { c with
  wbuf := c.wbuf ++ [p], wbAcks := c.wbAcks.erase (p.cache, p.line) }

theorem buffering_same (p : PrivLine) (s : State) : HomeSame s (buffering p s) := ⟨_, _, _, _, _, _, _, rfl⟩

theorem wbufOf_buffering (p : PrivLine) (s : State) : wbufOf (buffering p s) p.cache p.line = some p := by
  simp only [wbufOf, buffering, wbufDrop, State.onCoh_coh, List.find?_append, find_dropped, Option.none_or]
  simp

section
variable {s : State} {p : PrivLine} (home : direct s p.cache p.line = false)
include home

theorem direct_left : direct (left p s) p.cache p.line = false := by
  obtain ⟨_, _, copies⟩ := left_copies p s
  rw [copies]
  exact home

theorem privLeave_dirty (dirty : p.st = .m) : privLeave p s = homeNotice true p.cache p.line (buffering p (left p s)) := by
  have home := direct_left home
  unfold left at home
  simp only [privLeave, home, Bool.false_eq_true, if_false, dirty]
  rfl

theorem privLeave_clean (clean : p.st = .e ∨ p.st = .f) : privLeave p s = homeNotice false p.cache p.line (left p s) := by
  have home := direct_left home
  unfold left at home
  rcases clean with st | st <;> simp only [privLeave, home, Bool.false_eq_true, if_false, st, left]

end

/-! ### Write-backs and evictions -/

section
variable {s : State} {c line : Nat} {p : PrivLine} (held : privOf s c line = some p)
include held

theorem exec_wb (dirty : p.st = .m) : exec (.wb c line) s = .next (privLeave p s) := by
  simp [exec, execWb, held, dirty]

theorem exec_ev (clean : p.st = .e ∨ p.st = .f) : exec (.ev c line) s = .next (privLeave p s) := by
  simp [exec, execEv, held, clean]

end

theorem exec_wbAckReceive {s : State} {c line : Nat} (acked : (c, line) ∈ s.coh.wbAcks) : exec (.wbAckReceive c line) s
    = .next ((wbufDrop c line s).onCoh fun k => { k with wbAcks := k.wbAcks.erase (c, line) }) := by
  simp [exec, execWbAckReceive, acked]

section
variable {s : State} {p : PrivLine} (home : direct s p.cache p.line = false) (free : txnOf s p.line = none)
  (unqueued : lineQueued s p.line = false)
include home free unqueued

/-- A dirty line that leaves its cache is the home's image of the line. -/
theorem privLeave_writesBack (dirty : p.st = .m) (owner : ownerOf s p.line = some p.cache) (once : OnceInDir s p.line)
    (whole : p.data.length = 128) (lines : ∀ l, scCopy s p.line = some l → l.data.length = 128) :
    privOf (privLeave p s) p.cache p.line = none ∧ wbufOf (privLeave p s) p.cache p.line = some p
      ∧ (p.cache, p.line) ∈ (privLeave p s).coh.wbAcks ∧ dirEntry (privLeave p s) p.line = none
      ∧ (homeLine (privLeave p s) p.line).1 = p.data := by
  have same := (HomeSame.of_copies (left_copies p s)).trans (buffering_same p (left p s))
  have gone : privOf (buffering p (left p s)) p.cache p.line = none := privOf_left p s
  have buffered := wbufOf_buffering p (left p s)
  obtain ⟨u, sent, reached⟩ := homeNotice_reaches true p.cache ((same.txnOf _).trans free) ((same.lineQueued _).trans unqueued)
  rw [privLeave_dirty home dirty, reached, if_pos rfl]
  have knows := same.trans (.of_traffic sent)
  obtain ⟨priv, wbuf, acked, unlisted, image⟩ := homeWb_takes ((knows.ownerOf _).trans owner)
    ((wbufOf_of_traffic sent ..).trans buffered) (knows.onceInDir once) whole (knows.scCopy p.line ▸ lines)
  refine ⟨?_, ?_, acked, unlisted, image⟩
  · rw [privOf_of_priv priv, privOf_of_traffic sent, gone]
  · rw [wbufOf_of_wbuf wbuf, wbufOf_of_traffic sent, buffered]

/-- The home learns that a line has left its cache. -/
theorem privLeave_tells (clean : p.st = .e ∨ p.st = .f) :
    ∃ u, HomeSame s u ∧ privOf u p.cache p.line = none ∧ privLeave p s = homeEv p.cache p.line u := by
  have same := HomeSame.of_copies (left_copies p s)
  obtain ⟨u, sent, reached⟩ := homeNotice_reaches false p.cache ((same.txnOf _).trans free) ((same.lineQueued _).trans unqueued)
  exact ⟨u, same.trans (.of_traffic sent), (privOf_of_traffic sent ..).trans (privOf_left p s), (privLeave_clean home clean).trans reached⟩

end

/-- The home hears of a holder alone in E. -/
theorem homeEv_alone {s : State} {c line : Nat} {d : DirEntry} (entry : dirEntry s line = some d) (alone : d.excl = true)
    (ids : d.ids = [c]) : homeEv c line s = dirClear line s := by
  simp [homeEv, entry, alone, ids]

/-- The home hears of the holder that forwards. -/
theorem homeEv_forwarder {s : State} {c line : Nat} {d : DirEntry} (entry : dirEntry s line = some d) (shared : d.excl = false)
    (forwards : d.fwd = some c) : homeEv c line s = dirSet { d with ids := without d.ids c, fwd := none } s := by
  simp [homeEv, entry, shared, forwards]

/-- A line in E leaves its cache, and the home's directory. -/
theorem privLeave_evicts {s : State} {p : PrivLine} {d : DirEntry} (home : direct s p.cache p.line = false) (free : txnOf s p.line = none)
    (unqueued : lineQueued s p.line = false) (clean : p.st = .e ∨ p.st = .f) (entry : dirEntry s p.line = some d)
    (once : OnceInDir s p.line) (alone : d.excl = true) (ids : d.ids = [p.cache]) :
    privOf (privLeave p s) p.cache p.line = none ∧ dirEntry (privLeave p s) p.line = none ∧ (privLeave p s).pool = s.pool := by
  obtain ⟨u, same, gone, left⟩ := privLeave_tells home free unqueued clean
  obtain ⟨_, cleared⟩ := dirClear_coh p.line u
  have unlisted := dirEntry_dirClear (same.onceInDir once)
  rw [left, homeEv_alone ((same.dirEntry _).trans entry) alone ids]
  rw [cleared] at unlisted ⊢
  exact ⟨gone, unlisted, same.pool⟩

/-- A line in F leaves its cache, and the home's directory shows the other sharers alone. -/
theorem privLeave_unforwards {s : State} {p : PrivLine} {d : DirEntry} (home : direct s p.cache p.line = false)
    (free : txnOf s p.line = none) (unqueued : lineQueued s p.line = false) (clean : p.st = .e ∨ p.st = .f)
    (entry : dirEntry s p.line = some d) (shared : d.excl = false) (forwards : d.fwd = some p.cache) (other : ∃ k ∈ d.ids, k ≠ p.cache) :
    privOf (privLeave p s) p.cache p.line = none ∧ (privLeave p s).pool = s.pool
      ∧ dirEntry (privLeave p s) p.line = some { d with ids := without d.ids p.cache, fwd := none } := by
  obtain ⟨u, same, gone, left⟩ := privLeave_tells home free unqueued clean
  have entry := (same.dirEntry _).trans entry
  have line := dirEntry_line entry
  have holders : without d.ids p.cache ≠ [] := by
    obtain ⟨k, mem, apart⟩ := other
    exact List.ne_nil_of_mem (mem_without.2 ⟨mem, apart⟩)
  obtain ⟨_, _, set, listed⟩ := dirSet_listed (s := u) (d := { d with ids := without d.ids p.cache, fwd := none }) (line ▸ entry) (.inl holders)
  rw [left, homeEv_forwarder entry shared forwards]
  rw [set] at listed ⊢
  exact ⟨gone, same.pool, line ▸ listed⟩

/-! ### Loans (R208) -/

/-- A granule with no line held or on its way outside its die has no transaction. -/
theorem txnOf_of_homebound {s : State} {g l : Nat} (inside : heldOutside s g = false) (mem : l ∈ granuleLines g) : txnOf s l = none := by
  have granule : granuleOf l = g := by
    obtain ⟨i, below, rfl⟩ := List.mem_map.1 mem
    have below := List.mem_range.1 below
    unfold granuleOf
    omega
  simp only [heldOutside, Bool.or_eq_false_iff] at inside
  obtain ⟨⟨-, none_here⟩, -⟩ := inside
  refine List.find?_eq_none.2 fun t there here => ?_
  have away := List.any_eq_false.1 none_here t there
  simp [eq_of_beq here, granule] at away

/-- A granule that returns with nothing on its way ends no other transaction, and no other granule's loan. -/
theorem loanEnd_returns {s : State} {g : Nat} (inside : heldOutside s g = false) : (loanEnd g s).coh.loans = without s.coh.loans g := by
  have cleaned : underway ((granuleLines g).foldl (fun s l => homeClean l (drainLine l s)) s) = underway s := by
    refine List.foldlRecOn (motive := fun t => underway t = underway s) _ _ rfl fun t kept l mem => ?_
    have none_here : txnOf t l = none := (txnOf_of_underway kept l).trans (txnOf_of_homebound inside mem)
    rw [drainLine, none_here]
    exact (underway_homeClean l t).trans kept
  simp only [loanEnd, State.onCoh_coh, loans_of_underway cleaned]

/-! ### Snoops that an LR has delayed (R212) -/

theorem onCore_lrDelay {s : State} {j k : Nat} {f : Core → Core} (ended : (s.core k).lrDelay = false)
    (kept : ∀ c : Core, c.lrDelay = false → (f c).lrDelay = false) : ((s.onCore j f).core k).lrDelay = false := by
  rcases eq_or_ne k j with rfl | other
  · rw [State.core_onCore_same]
    exact kept _ ended
  · rw [State.core_onCore_other _ _ other]
    exact ended

theorem loseReservation_lrDelay {s : State} {k : Nat} (ended : (s.core k).lrDelay = false) (cache line : Nat) :
    ((loseReservation cache line s).core k).lrDelay = false := by
  unfold loseReservation
  split
  · extract_lets c s1
    have erased : (s1.core k).lrDelay = false := by
      unfold s1
      split
      · exact onCore_lrDelay ended fun _ => id
      · exact ended
    split
    · exact onCore_lrDelay erased fun _ _ => rfl
    · exact erased
  · exact ended

theorem snooped_lrDelay {s : State} {k : Nat} (ended : (s.core k).lrDelay = false) (n : Snoop) (p : PrivLine) :
    ((snooped n p s).core k).lrDelay = false := by
  have gone : ((loseReservation n.cache n.line (privDrop n.cache n.line s)).core k).lrDelay = false :=
    loseReservation_lrDelay (s := privDrop n.cache n.line s) ended ..
  unfold snooped
  split
  · exact ended
  · exact ended
  · split
    · exact ended
    · exact ended
  · exact gone
  · exact gone

/-- A cache answers a snoop with one response, whatever it holds; its copy alone changes. -/
theorem snoopAnswer_replies (n : Snoop) (s : State) : ∃ r u, r.line = n.line ∧ r.cache = n.cache ∧ CopiesOnly (snoopTaken n s) u
    ∧ (∀ k, (s.core k).lrDelay = false → (u.core k).lrDelay = false) ∧ snoopAnswer n s = replied r u := by
  cases held : privOf s n.cache n.line with
  | some p =>
    exact ⟨hitResp n p, snooped n p (snoopTaken n s), rfl, rfl, snooped_copies .., fun k ended =>
      snooped_lrDelay (s := snoopTaken n s) ended n p,
      snoopAnswer_hit held⟩
  | none =>
    have nowhere : privOf (snoopTaken n s) n.cache n.line = none := held
    have answers : ∃ r, r.line = n.line ∧ r.cache = n.cache ∧ snoopAnswer n s = replied r (snoopTaken n s) := by
      unfold snoopTaken at nowhere ⊢
      simp only [snoopAnswer, nowhere]
      split
      · split
        · exact ⟨_, rfl, rfl, rfl⟩
        · exact ⟨_, rfl, rfl, rfl⟩
      · exact ⟨_, rfl, rfl, rfl⟩
    obtain ⟨r, line, cache, answer⟩ := answers
    exact ⟨r, _, line, cache, ⟨_, _, rfl⟩, fun k => id, answer⟩

/-- The second state follows the first as snoops are answered: none comes, no response goes, and no delay begins. -/
def Answering (s t : State) : Prop := t.pool = s.pool ∧ (∀ n ∈ t.coh.snoops, n ∈ s.coh.snoops) ∧ (∀ r ∈ s.coh.resps, r ∈ t.coh.resps)
  ∧ ∀ k, (s.core k).lrDelay = false → (t.core k).lrDelay = false

theorem Answering.trans {s t u : State} (h : Answering s t) (k : Answering t u) : Answering s u := by
  obtain ⟨pool, snoops, resps, delay⟩ := h
  obtain ⟨pool', snoops', resps', delay'⟩ := k
  exact ⟨pool'.trans pool, fun n => snoops n ∘ snoops' n, fun r => resps' r ∘ resps r, fun j => delay' j ∘ delay j⟩

/-- A snoop has been answered. -/
def Answered (n : Snoop) (s : State) : Prop := n ∉ s.coh.snoops ∧ ∃ r ∈ s.coh.resps, r.line = n.line ∧ r.cache = n.cache

theorem Answered.kept {n : Snoop} {s t : State} (h : Answered n s) (k : Answering s t) : Answered n t := by
  obtain ⟨gone, r, mem, place⟩ := h
  obtain ⟨-, snoops, resps, -⟩ := k
  exact ⟨fun there => gone (snoops n there), r, resps r mem, place⟩

theorem snoopAnswer_answers (n : Snoop) (s : State) : Answering s (snoopAnswer n s) ∧ Answered n (snoopAnswer n s) := by
  obtain ⟨r, u, line, cache, copies, ended, answer⟩ := snoopAnswer_replies n s
  obtain ⟨_, _, _, sent⟩ := replied_traffic r u
  obtain ⟨_, _, copies⟩ := copies
  have snoops : (snoopAnswer n s).coh.snoops = (snoopTaken n s).coh.snoops := by rw [answer, sent, copies]; rfl
  have resps : (snoopAnswer n s).coh.resps = s.coh.resps ++ [r] := by rw [answer, sent, copies]; rfl
  refine ⟨⟨by rw [answer, sent, copies]; rfl, fun x mem => ?_, fun x mem => ?_, fun k delay => ?_⟩, fun mem => ?_, r, ?_, line, cache⟩
  · rw [snoops] at mem
    exact (List.mem_filter.1 mem).1
  · rw [resps]
    exact List.mem_append_left _ mem
  · rw [answer, sent]
    exact ended k delay
  · rw [snoops] at mem
    exact not_here mem ⟨rfl, rfl⟩
  · simp [resps]

/-- The delay after an LR ends. -/
def undelayed (k : Nat) (s : State) : State := s.onCore k fun c => { c with lrDelay := false }

theorem endDelay_answers (k : Nat) (s : State) : Answering (undelayed k s) (endDelay k s)
    ∧ ∀ n ∈ s.coh.snoops, n.cache = 544 + k → n.delayed = true → Answered n (endDelay k s) := by
  constructor
  · exact List.foldlRecOn (motive := Answering (undelayed k s)) _ _ ⟨rfl, fun _ => id, fun _ => id, fun _ => id⟩
      fun t kept n _ => kept.trans (snoopAnswer_answers n t).1
  · intro n mem cache delayed
    exact foldl_establishes (f := fun s n => snoopAnswer n s) (P := Answered) (fun t n => (snoopAnswer_answers n t).2)
      (fun t n x done => done.kept (snoopAnswer_answers n t).1) _ _ n (List.mem_filter.2 ⟨mem, by simp [cache, delayed]⟩)

/-! ### The statement -/

/-- Settles O17: a line that leaves its cache by its state, a loan by the transactions that none of its lines has, and delayed snoops by
the answer of each. -/
theorem writeBacksEvictionsAndLoansEnd : Obligations.WriteBacksEvictionsAndLoansEnd := by
  unfold Obligations.WriteBacksEvictionsAndLoansEnd
  refine ⟨⟨?_, ?_⟩, ?_, ?_, ?_⟩
  · intro s c line p held dirty home whole free unqueued owner once lines
    obtain ⟨rfl, rfl⟩ := privOf_place held
    exact ⟨_, exec_wb held dirty, privLeave_writesBack home free unqueued dirty owner once whole lines⟩
  · intro s c line acked
    exact ⟨_, exec_wbAckReceive acked, wbufOf_wbufDrop c line s, rfl, rfl, rfl⟩
  · intro s c line p d held home free unqueued entry _ once
    obtain ⟨rfl, rfl⟩ := privOf_place held
    refine ⟨fun st alone ids _ => ⟨_, exec_ev held (.inl st), ?_⟩, fun st shared forwards _ other => ⟨_, exec_ev held (.inr st), ?_⟩⟩
    · exact privLeave_evicts home free unqueued (.inl st) entry once alone ids
    · exact privLeave_unforwards home free unqueued (.inr st) entry shared forwards other
  · intro s g lent inside
    have step : exec (.loanReturn g) s = .next (loanEnd g s) := by simp [exec, execLoanReturn, lent, inside]
    refine ⟨_, step, ?_⟩
    rw [loanEnd_returns inside]
    exact ⟨fun mem => (mem_without.1 mem).2 rfl, fun k other => by simp [mem_without, other]⟩
  · intro s k delay
    have step : exec (.lrSnoopDelayExpire k) s = .next (endDelay k s) := by simp [exec, execLrSnoopDelayExpire, delay]
    obtain ⟨⟨pool, -, -, ended⟩, answered⟩ := endDelay_answers k s
    exact ⟨_, step, ended k (by simp [undelayed]), pool, answered⟩

end Sys2Proof.Proofs.LeavingLines
end

section
/-! SUPPORT. Messages of MSI-X (R331, R332): what a message that is sent or noted leaves, and a write to the table. -/

namespace Sys2Proof.Proofs.Messages

open Sys2Proof.Machine Sys2Proof.Claims Sys2Proof.Proofs.RingsThroughStores
open Sys2Proof.Proofs.Admission (firstBelow_some)
open Sys2Proof.Proofs.GrantSpaces (mem_setAdd)
open Sys2Proof.Proofs.Scope (field_partWrite_whole)
open Sys2Proof.Proofs.LoadsAndStores (toBytes_length)

/-! ### The counter of an access to the host (R248) -/

/-- The way w of a region's set holds a counter of it. -/
def counts (x : Xlt) (region w : Nat) : Bool := match tfind x.hot (region % 4096 * 16 + w) with
  | some h => h.region == region
  | none => false

/-- The way of the lowest count is one of the ways. -/
theorem fewest_inside (count : Nat → Nat) {l : List Nat} {b : Nat} (inside : b < 16) (all : ∀ w ∈ l, w < 16) :
    l.foldl (fun b w => if count w < count b then w else b) b < 16 :=
  List.foldlRecOn (motive := (· < 16)) l _ inside fun b below w mem => by
    split
    · exact all w mem
    · exact below

/-- The counter of a region stands in one of the sixteen ways of its set, and no earlier way holds a counter of it. -/
theorem hotSlot_place (x : Xlt) (region : Nat) : ∃ w h, w < 16 ∧ hotSlot x region = (region % 4096 * 16 + w, h) ∧ h.region = region
    ∧ ∀ m < w, counts x region m = false := by
  unfold hotSlot
  extract_lets base at_ count
  split
  · next w found =>
    obtain ⟨met, inside, before⟩ := List.find?_range_eq_some.1 found
    refine ⟨w, _, List.mem_range.1 inside, rfl, ?_, fun m below => ?_⟩
    · cases here : at_ w with
      | none => rfl
      | some h => simpa [here] using met
    · exact Bool.eq_false_iff.2 fun counted => absurd counted (Bool.eq_false_iff.1 (Bool.not_eq_true' _ ▸ before m below))
  · next w _ missed =>
    have nowhere (m : Nat) (inside : m < 16) : counts x region m = false :=
      Bool.eq_false_iff.2 (List.find?_eq_none.1 missed m (List.mem_range.2 inside))
    have inside : w < 16 := by
      unfold w
      split
      · next free => exact List.mem_range.1 (List.mem_of_find?_eq_some free)
      · exact fewest_inside count (by decide) fun w mem => List.mem_range.1 mem
    exact ⟨w, _, inside, rfl, rfl, fun m below => nowhere m (by omega)⟩

/-- A region's counter is the first that its set holds. -/
theorem hotSlot_first {x : Xlt} {region w : Nat} (first : firstBelow 16 (counts x region) = some w) :
    (hotSlot x region).1 = region % 4096 * 16 + w := by
  unfold hotSlot
  extract_lets base at_ count
  split
  · next k found =>
    cases found.symm.trans first
    rfl
  · next missed => cases missed.symm.trans first

/-- The counter that an access has counted is the one that the region's address finds next. -/
theorem hotKey_hotBump (pa cls n : Nat) (s : State) : ∃ k h, hotKey (hotBump pa cls n s) pa = k
    ∧ tfind (hotBump pa cls n s).xlt.hot k = some h ∧ h.cls = cls := by
  obtain ⟨w, h, inside, slot, region, before⟩ := hotSlot_place s.xlt (pa / 65536)
  have bumped : hotBump pa cls n s = s.onXlt fun x => { x with
      hot := tins x.hot (pa / 65536 % 4096 * 16 + w) { h with cls := cls, count := h.count + n } } := by
    rw [hotBump, slot]
  have here : tfind (hotBump pa cls n s).xlt.hot (pa / 65536 % 4096 * 16 + w) = some { h with cls := cls, count := h.count + n } := by
    rw [bumped]
    exact tfind_tins_same ..
  have first : firstBelow 16 (counts (hotBump pa cls n s).xlt (pa / 65536)) = some w := by
    refine firstBelow_some inside ?_ fun m below => ?_
    · simp [counts, here, region]
    · rw [← before m below, bumped]
      unfold counts
      rw [State.onXlt_xlt, tfind_tins_other _ _ (by omega)]
  exact ⟨_, _, hotSlot_first first, here, rfl⟩

/-- An access to the host places no record while the host window has no threshold. -/
theorem hotHost_evt {s : State} (off : hotThreshold s.xlt 1 = 0) (hio n : Nat) : (hotHost hio n s).evt = s.evt := by
  obtain ⟨k, h, key, here, cls⟩ := hotKey_hotBump (hostBase + hio) 1 (sectorsOf hio n) s
  have still : hotThreshold (hotBump (hostBase + hio) 1 (sectorsOf hio n) s).xlt h.cls = 0 := by rw [cls]; exact off
  simp only [hotHost, key, hotNote, here, still, ne_eq, not_true_eq_false, false_and, if_false]
  rfl

theorem hotHost_link (hio n : Nat) (s : State) : (hotHost hio n s).link = s.link := by
  have kept (k : Nat) (s : State) : (hotNote k s).link = s.link := by
    unfold hotNote
    split
    · rfl
    · dsimp only
      split
      · split <;> rfl
      · rfl
  exact kept ..

/-! ### A message (R331) -/

/-- Where a range does not cross a multiple of g, it is one piece. -/
theorem pieces_one {g f a n : Nat} (some_ : 0 < n) (inside : n ≤ g - a % g) : pieces g (f + 1) a n = [(a, n)] := by
  have rest : pieces g f (a + n) 0 = [] := by cases f <;> simp [pieces]
  simp only [pieces, Nat.ne_of_gt some_, if_false, Nat.min_eq_left inside, Nat.sub_self, rest]

/-- A message to an address that is a multiple of 64 is one write. -/
theorem hostPieces_message {s : State} {a : Nat} (aligned : a % 64 = 0) (payload : 2 ≤ s.link.mpsLog2) : hostPieces s a 4 = [(a, 4)] := by
  have whole : 4 ∣ payloadMax s := by
    unfold payloadMax
    rcases Nat.le_total 512 (2 ^ s.link.mpsLog2) with le | le
    · rw [Nat.min_eq_left le]
      decide
    · rw [Nat.min_eq_right le]
      exact pow_dvd_pow 2 payload
  have positive : 0 < payloadMax s := Nat.lt_min.2 ⟨by decide, Nat.two_pow_pos _⟩
  have below := Nat.mod_lt a positive
  have apart : 4 ∣ payloadMax s - a % payloadMax s :=
    Nat.dvd_sub whole ((Nat.dvd_mod_iff whole).2 (by omega))
  have page : 4 ≤ 4096 - a % 4096 := by omega
  have payload : 4 ≤ payloadMax s - a % payloadMax s := Nat.le_of_dvd (by omega) apart
  rw [hostPieces, pieces_one (by decide) page, List.flatMap_singleton, pieces_one (by decide) payload]

section
variable {s : State} {v : Nat}

theorem sendVector_masked (masked : vectorMasked s v = true) :
    sendVector v s = s.onLink fun l => { l with pba := setAdd l.pba v } := by
  simp [sendVector, masked]

/-- A message that is not masked is one posted write of its data to its address. -/
theorem sendVector_posts (unmasked : vectorMasked s v = false) (aligned : (tget {} s.link.msix v).addr.toNat % 64 = 0)
    (payload : 2 ≤ s.link.mpsLog2) : (sendVector v s).link.posted = s.link.posted ++
      [{ owner := .vector v, hio := (tget {} s.link.msix v).addr.toNat, bytes := toBytes 4 (tget {} s.link.msix v).data.toNat }] := by
  have whole := toBytes_length 4 (tget {} s.link.msix v).data.toNat
  simp only [sendVector, unmasked, Bool.false_eq_true, if_false, postWrite, ownerRing, markHost, noteIssued, whole,
    hostPieces_message aligned payload, State.onLink_link, hotHost_link, List.map_cons, List.map_nil, Nat.sub_self, List.drop_zero]
  rw [List.take_of_length_le whole.le]

/-- A message leaves the event ring as it was while the host window has no threshold. -/
theorem sendVector_evt (off : hotThreshold s.xlt 1 = 0) : (sendVector v s).evt = s.evt := by
  unfold sendVector
  split
  · rfl
  · exact hotHost_evt off ..

end

/-! ### Moderation (R331, R332) -/

section
variable {s : State} (open_ : canSignal s = true)
include open_

/-- The unsignalled records of a ring are covered by one message. -/
theorem exec_moderated_ring {n : Nat} (on : flag (s.ring n).cfg 12 = true) (some_ : 0 < (s.ring n).unsignalled) :
    exec (.msixModerationExpire (some n)) s
      = .next (sendVector (field (s.ring n).cfg 13 11) (s.onRing n fun r => { r with unsignalled := 0 })) := by
  simp only [exec, execMsixModerationExpire, signalRing, on, some_, decide_true, open_, Bool.and_self, if_true]

/-- The unsignalled records of the event ring are covered by one message. -/
theorem exec_moderated_events (on : flag s.evt.cfg 12 = true) (some_ : 0 < s.evt.unsignalled) :
    exec (.msixModerationExpire none) s = .next (sendVector (field s.evt.cfg 13 11) (s.onEvt fun e => { e with unsignalled := 0 })) := by
  simp only [exec, execMsixModerationExpire, signalEvents, on, some_, decide_true, open_, Bool.and_self, if_true]

end

/-! ### The table (R287) -/

theorem sendPending_idle {s : State} (closed : canSignal s = false) : sendPending s = s := by
  simp [sendPending, closed]

theorem partWrite_whole (old val mask : Word) : partWrite old mask .whole val = (old &&& ~~~mask) ||| (val &&& mask) := by
  have all : mask &&& partMask .whole = mask := BitVec.and_allOnes
  rw [partWrite, all, maskWrite, partVal]

theorem partWrite_all (old val : Word) : partWrite old (partMask .whole) .whole val = val := by
  have taken : partMask .whole = BitVec.allOnes 64 := by decide
  rw [partWrite_whole, taken, BitVec.not_allOnes, BitVec.and_zero, BitVec.and_allOnes, BitVec.zero_or]

/-- The low half of an entry's second word is its data. -/
theorem data_partWrite (old val : Word) : (partWrite old 0x1FFFFFFFF .whole val).setWidth 32 = val.setWidth 32 := by
  rw [partWrite_whole, BitVec.setWidth_or, BitVec.setWidth_and, BitVec.setWidth_and]
  have taken : (0x1FFFFFFFF : Word).setWidth 32 = BitVec.allOnes 32 := by decide
  have kept : (~~~0x1FFFFFFFF : Word).setWidth 32 = 0#32 := by decide
  rw [taken, kept, BitVec.and_zero, BitVec.and_allOnes, BitVec.zero_or]

/-- Bit 32 of an entry's second word is its mask. -/
theorem mask_partWrite (old val : Word) : flag (partWrite old 0x1FFFFFFFF .whole val) 32 = flag val 32 :=
  congrArg (· == 1) (field_partWrite_whole old val (lo := 32) (w := 1) (by decide))

section
variable {s : State} {v : Nat} (device : s.endpoint = true) (up : s.link.up = true) (inside : v < 2048)
include device up inside

theorem exec_tableWrite {offset : Nat} (val : Word) (entry : offset / 16 = v) (aligned : offset % 8 = 0) :
    exec (.msixTableWrite offset 8 val) s = .next (msixWrite offset .whole val s) := by
  have below : ¬ 32768 ≤ offset := by omega
  simp [exec, execMsixTableWrite, device, up, below, aligned]

end

/-- An entry of the table is written. -/
def entered (v : Nat) (e : Msix) (s : State) : State := s.onLink fun l => { l with msix := tput {} l.msix v e }

section
variable {s : State} (closed : canSignal s = false) (v : Nat) (val : Word)
include closed

theorem msixWrite_addr : msixWrite (16 * v) .whole val s = entered v { tget {} s.link.msix v with addr := val } s := by
  have entry : 16 * v / 16 = v := by omega
  have first : 16 * v / 8 % 2 = 0 := by omega
  simp only [msixWrite, entry, first, if_true, partWrite_all]
  exact sendPending_idle closed

theorem msixWrite_data : msixWrite (16 * v + 8) .whole val s
    = entered v { tget {} s.link.msix v with data := val.setWidth 32, masked := flag val 32 } s := by
  have entry : (16 * v + 8) / 16 = v := by omega
  have second : (16 * v + 8) / 8 % 2 ≠ 0 := by omega
  simp only [msixWrite, entry, second, if_false, data_partWrite, mask_partWrite]
  exact sendPending_idle closed

end

end Sys2Proof.Proofs.Messages
end

section
/-! SUPPORT. What a store at a virtual address leaves of the host's link: whether the host may be reached, the limit of an episode and
the scrub of an FLR (R298, R300). -/

namespace Sys2Proof.Proofs.HostThroughStores

open Sys2Proof.Machine Sys2Proof.Claims

/-- The time, and what the host's link says of a record that waits (R298, R300). -/
@[irreducible] def hostView (s : State) : Word × Bool × Bool × Bool × Bool × Bool × Bool :=
  (s.hTicks, s.endpoint, s.link.up, s.link.bme, s.link.d3hot, (episodeOf s).limitPassed, s.link.scrubOwed)

theorem hostView_eq {s t : State} (same :
    (t.hTicks, t.endpoint, t.link.up, t.link.bme, t.link.d3hot, (episodeOf t).limitPassed, t.link.scrubOwed)
    = (s.hTicks, s.endpoint, s.link.up, s.link.bme, s.link.d3hot, (episodeOf s).limitPassed, s.link.scrubOwed)) :
    hostView t = hostView s := by
  unfold hostView
  exact same

theorem hostView_ofEvent {s t : State} (h : EventOnly s t) : hostView t = hostView s := by
  have same := congrArg hostView h.frame
  unfold hostView at same ⊢
  exact same

theorem hostView_ofPool {s t : State} (h : PoolOnly s t) : hostView t = hostView s := hostView_ofEvent (.ofPool h)

@[simp] theorem hostView_ite {s t : State} {c : Prop} [Decidable c] :
    hostView (if c then s else t) = if c then hostView s else hostView t := apply_ite ..

theorem hostView_foldl {β : Type} {f : State → β → State} (h : ∀ s b, hostView (f s b) = hostView s) :
    ∀ (l : List β) (s : State), hostView (l.foldl f s) = hostView s
  | [], _ => rfl
  | b :: l, s => (hostView_foldl h l (f s b)).trans (h s b)

/-- What an answer's state has of the host, for the state that a match of the answer names. -/
theorem hostView_ofEq {α : Type} {s s' : State} {r : α × State} {x : α} (h : hostView r.2 = hostView s) (e : r = (x, s')) :
    hostView s' = hostView s := by
  subst e; exact h

/-! ### Changes of parts of the state -/

@[simp] theorem hostView_onXlt (s : State) (f : Xlt → Xlt) : hostView (s.onXlt f) = hostView s := hostView_eq rfl
@[simp] theorem hostView_onFab (s : State) (f : Fabric → Fabric) : hostView (s.onFab f) = hostView s := hostView_eq rfl
@[simp] theorem hostView_onDod (s : State) (f : Dodgem → Dodgem) : hostView (s.onDod f) = hostView s := hostView_eq rfl
@[simp] theorem hostView_onPort (s : State) (p : Nat) (f : FabPort → FabPort) : hostView (s.onPort p f) = hostView s := hostView_eq rfl
@[simp] theorem hostView_onRing (s : State) (n : Nat) (f : Ring → Ring) : hostView (s.onRing n f) = hostView s := hostView_eq rfl
@[simp] theorem hostView_onEngine (s : State) (n : Nat) (f : Engine → Engine) : hostView (s.onEngine n f) = hostView s := hostView_eq rfl
@[simp] theorem hostView_onArray (s : State) (n : Nat) (f : Machine.Array → Machine.Array) : hostView (s.onArray n f) = hostView s :=
  hostView_eq rfl
@[simp] theorem hostView_onRep (s : State) (f : Repair → Repair) : hostView (s.onRep f) = hostView s := hostView_eq rfl
@[simp] theorem hostView_onPwr (s : State) (f : Power → Power) : hostView (s.onPwr f) = hostView s := hostView_eq rfl
@[simp] theorem hostView_onDomain (s : State) (n : Nat) (f : Domain → Domain) : hostView (s.onDomain n f) = hostView s := hostView_eq rfl
@[simp] theorem hostView_onCore (s : State) (n : Nat) (f : Core → Core) : hostView (s.onCore n f) = hostView s := hostView_eq rfl

@[simp] theorem hostView_event (cls reason addr param : Nat) (s : State) : hostView (event cls reason addr param s) = hostView s :=
  hostView_ofEvent (event_only ..)
@[simp] theorem hostView_eventUnit (cls reason addr param die domain kind unit detail count : Nat) (s : State) :
    hostView (eventUnit cls reason addr param die domain kind unit detail count s) = hostView s := hostView_ofEvent (eventUnit_only ..)
@[simp] theorem hostView_poolRead (k : Keep) (agent pa n : Nat) (s : State) : hostView (poolRead k agent pa n s).2 = hostView s :=
  hostView_ofEvent (poolRead_only ..)
@[simp] theorem hostView_poolWrite (k : Keep) (agent pa : Nat) (b : List Byte) (ep : Bool) (s : State) :
    hostView (poolWrite k agent pa b ep s) = hostView s := hostView_ofEvent (poolWrite_only ..)
@[simp] theorem hostView_postWrite (o : Owner) (hio : Nat) (b : List Byte) (ep : Bool) (s : State) :
    hostView (postWrite o hio b ep s) = hostView s := hostView_ofEvent (postWrite_only ..)
@[simp] theorem hostView_hotHost (hio n : Nat) (s : State) : hostView (hotHost hio n s) = hostView s := hostView_ofEvent (hotHost_only ..)
@[simp] theorem hostView_hotPump (s : State) : hostView (hotPump s) = hostView s := hostView_ofEvent (hotPump_only s)

/-! ### Translation -/

@[simp] theorem hostView_l1Fill (agent : Nat) (e : TlbEntry) (s : State) : hostView (l1Fill agent e s) = hostView s := by
  unfold l1Fill
  split
  · exact hostView_eq rfl
  · exact hostView_eq rfl

@[simp] theorem hostView_l2Fill (e : TlbEntry) (s : State) : hostView (l2Fill e s) = hostView s := hostView_eq rfl

@[simp] theorem hostView_l2Touch (k : Nat) (s : State) : hostView (l2Touch k s) = hostView s := hostView_eq rfl

@[simp] theorem hostView_tlbUse (agent va : Nat) (e : TlbEntry) (s : State) : hostView (tlbUse agent va e s) = hostView s := by
  unfold tlbUse
  split <;> simp

@[simp] theorem hostView_pteRead (pa : Nat) (s : State) : hostView (pteRead pa s).2 = hostView s := hostView_poolRead ..

theorem hostView_walkFrom (acc : Access) (va : Nat) : ∀ (ls : List Nat) (ppn : Nat) (s : State),
    hostView (walkFrom acc va ls ppn s).2 = hostView s
  | [], _, _ => rfl
  | level :: rest, ppn, s => by
    have read := hostView_pteRead (ppn * 4096 + bits va (12 + 9 * level) 9 * 8) s
    simp only [walkFrom]
    generalize pteRead (ppn * 4096 + bits va (12 + 9 * level) 9 * 8) s = r at read ⊢
    repeat' split
    all_goals simp only [hostView_walkFrom acc va rest, hostView_onXlt, read]

theorem hostView_walk (acc : Access) (va : Nat) (s : State) : hostView (walk acc va s).2 = hostView s := by
  unfold walk
  split
  · rfl
  · exact hostView_walkFrom ..

@[simp] theorem hostView_walkFill (agent : Nat) (acc : Access) (va : Nat) (s : State) :
    hostView (walkFill agent acc va s).2 = hostView s := by
  have walked := hostView_walk acc va s
  unfold walkFill
  generalize walk acc va s = r at walked ⊢
  obtain ⟨⟨r, e⟩, s1⟩ := r
  dsimp only
  split
  · split <;> simpa using walked
  · exact walked

theorem hostView_translate (agent : Nat) (acc : Access) (va : Nat) (s : State) :
    hostView (Machine.translate agent acc va s).2 = hostView s := by
  unfold Machine.translate
  split
  · rfl
  · split
    · rfl
    · split
      · split
        · exact hostView_walkFill ..
        · dsimp only
          split <;> simp
      · exact hostView_walkFill ..

theorem hostView_place (agent : Nat) (acc : Access) (va : Nat) (s : State) : hostView (place agent acc va s).2 = hostView s := by
  have translated := hostView_translate agent acc va s
  unfold place
  generalize Machine.translate agent acc va s = r at translated ⊢
  obtain ⟨r, s1⟩ := r
  cases r with
  | ok pa pbmt n =>
    dsimp only
    split
    · split <;> exact translated
    · exact translated
    · exact translated
  | fault c =>
    dsimp only
    split
    · exact (hostView_event ..).trans translated
    · exact translated
  | poison => exact translated
  | held => exact translated

/-! ### Packets -/

@[simp] theorem hostView_setDodMode (s : State) (k : Nat) (w : Word) : hostView (s.setDodMode k w) = hostView s := hostView_eq rfl

@[simp] theorem hostView_dodgemAct (k : Nat) (s : State) : hostView (dodgemAct k s).2 = hostView s := by
  unfold dodgemAct
  dsimp only
  split
  · simp
  · split <;> simp

@[simp] theorem hostView_leave (m : Sent) (s : State) : hostView (leave m s) = hostView s := by simp [leave]

@[simp] theorem hostView_leaveAll (ms : List Sent) (s : State) : hostView (leaveAll ms s) = hostView s :=
  hostView_foldl (fun s m => hostView_leave m s) ms s

@[simp] theorem hostView_releaseHeld (p : Nat) (s : State) : hostView (releaseHeld p s) = hostView s :=
  (hostView_foldl (fun s (h : Nat × List Sent) => hostView_leaveAll h.2 s) _ _).trans (hostView_onDod ..)

theorem hostView_leaveRelease (ms : List Sent) (s : State) :
    hostView (ms.foldl (fun s m => releaseHeld m.port s) (leaveAll ms s)) = hostView s :=
  (hostView_foldl (fun s (m : Sent) => hostView_releaseHeld m.port s) ms _).trans (hostView_leaveAll ms s)

@[simp] theorem hostView_frameMode (p : Nat) (s : State) : hostView (frameMode p s) = hostView s := by
  unfold frameMode
  split
  · dsimp only
    split <;> simp
  · rfl

theorem hostView_transmit (m : Sent) (req : Bool) (dst : Nat) (s : State) : hostView (transmit m req dst s) = hostView s := by
  unfold transmit
  cases dodgemSees s m.port req dst with
  | false => simp
  | true =>
    simp only [if_true]
    split
    · exact hostView_dodgemAct ..
    · split
      · simp
      · refine (hostView_leaveRelease ..).trans ?_
        simp

theorem hostView_sendPacket {t : TxPkt} {s s1 : State} (sent : sendPacket t s = some s1) : hostView s1 = hostView s := by
  unfold sendPacket at sent
  split at sent
  · cases sent
    exact hostView_transmit ..
  · cases sent

theorem hostView_originate (t : TxPkt) (s : State) : hostView (originate t s).2 = hostView s := by
  unfold originate
  split
  · rfl
  · split
    · rfl
    · dsimp only
      split
      · exact hostView_event ..
      · next sent => simpa using hostView_sendPacket sent

/-! ### Stores -/

theorem hostView_poolStore (agent pa : Nat) (b : List (Byte × Bool)) (s : State) : hostView (poolStore agent pa b s) = hostView s := by
  unfold poolStore
  split
  · exact hostView_poolWrite ..
  · exact hostView_foldl (fun s (p : Nat × List Byte × Bool) => hostView_poolWrite .once agent p.1 p.2.1 p.2.2 s) _ s

theorem hostView_performHere_put (src off n : Nat) (data : List (Byte × Bool)) (s : State) :
    hostView (performHere src .put off n data s).2 = hostView s := by
  unfold performHere
  split
  · rfl
  · extract_lets pa
    split
    · rfl
    · exact hostView_poolStore ..

theorem hostView_windowFault (src off reason : Nat) (s : State) : hostView (windowFault src off reason s) = hostView s := by
  unfold windowFault
  dsimp only
  split <;> simp

/-- An operation begins to wait: its episode's account tells of it, its limit stands as before. -/
theorem hostView_blockedWait (o : Owner) (s : State) : hostView (blockedWait o s) = hostView s := by
  unfold blockedWait
  split
  · dsimp only
    split <;> exact hostView_eq rfl
  · rfl

theorem hostView_vaWriteOp (k : Keep) (agent : Nat) (o : Owner) (op va : Nat) (bytes : List Byte) (ep : Bool) (s : State) :
    hostView (vaWriteOp k agent o op va bytes ep s).2 = hostView s := by
  have placed := hostView_place agent .write va s
  unfold vaWriteOp
  generalize place agent .write va s = r at placed ⊢
  obtain ⟨p, s1⟩ := r
  cases p with
  | pool pa u => exact (hostView_poolWrite ..).trans placed
  | host hio =>
    dsimp only
    split
    · simpa using placed
    · split
      · exact placed
      · split
        · exact placed
        · exact (hostView_blockedWait ..).trans placed
  | fabric node off =>
    dsimp only
    generalize TxPkt.mk .. = t
    have sent := (hostView_originate t s1).trans placed
    generalize originate t s1 = r at sent ⊢
    obtain ⟨r, s2⟩ := r
    cases r with
    | loopback =>
      have here := (hostView_performHere_put node off bytes.length (allWith ep bytes) s2).trans sent
      dsimp only
      generalize performHere node .put off bytes.length (allWith ep bytes) s2 = q at here ⊢
      obtain ⟨q, s3⟩ := q
      cases q with
      | ok b => exact here
      | error c => exact (hostView_windowFault ..).trans here
    | _ => exact sent
  | fault st c => exact placed
  | held => exact placed

theorem hostView_vaWrites (k : Keep) (agent : Nat) (o : Owner) (op : Nat) :
    ∀ (ps : List (Nat × List Byte × Bool)) (s : State), hostView (vaWrites k agent o op ps s).2 = hostView s
  | [], _ => rfl
  | (va, bytes, ep) :: ps, s => by
    have one := hostView_vaWriteOp k agent o op va bytes ep s
    simp only [vaWrites]
    split
    · next e => exact (hostView_vaWrites k agent o op ps _).trans (hostView_ofEq one e)
    · next e => exact hostView_ofEq one e

/-- A store at a virtual address leaves what the host's link says of a record that waits. -/
theorem hostView_vaStore (k : Keep) (agent : Nat) (o : Owner) (va : Nat) (b : List (Byte × Bool)) (s : State) :
    hostView (vaStore k agent o va b s).2 = hostView s := hostView_vaWrites ..

theorem hostView_noteWaits (s : State) : hostView (noteWaits s) = hostView s := by
  unfold noteWaits
  split
  · rfl
  · extract_lets t
    have cleared : hostView t = hostView s := by
      refine hostView_eq ?_
      simp only [t, episodeOf, State.onLink_link]
      cases s.link.episode <;> rfl
    split
    · exact cleared
    · exact (hostView_foldl (fun s n => hostView_event 0x22 0 0 n s) _ _).trans cleared

/-- A state before an attempt that waits keeps what the host's link says, with what the attempt asked for. -/
theorem hostView_keepAsked {s s1 : State} (same : hostView s1 = hostView s) : hostView (keepAsked s s1) = hostView s := by
  have sent : hostView (sentOnly s s1) = hostView s := by
    have limit : (episodeOf s1).limitPassed = (episodeOf s).limitPassed := by
      unfold hostView at same
      exact congrArg (·.2.2.2.2.2.1) same
    exact hostView_eq (by rw [show episodeOf (sentOnly s s1) = episodeOf s1 from rfl, limit]; rfl)
  refine (hostView_noteWaits _).trans ((hostView_hotPump _).trans ?_)
  exact (hostView_foldl (fun s (r : HostRead) => hostView_hotHost r.hio r.len s) _ _).trans sent

end Sys2Proof.Proofs.HostThroughStores
end

section
/-! SUPPORT. An operation of a ring gives back what it holds (R219, R400): nothing that its record is formed from changes with it. -/

namespace Sys2Proof.Proofs.Releases

open Sys2Proof.Machine Sys2Proof.Claims Sys2Proof.Proofs.HostThroughStores Sys2Proof.Proofs.RingsThroughStores
open Sys2Proof.Proofs.Admission (privEvict_only)
open Sys2Proof.Proofs.MemoryErrors (tfind_map)

/-- A ring but for its operation, and what the host's link says of a record that waits. -/
@[irreducible] def recordView (n : Nat) (s : State) : Ring × Word × Bool × Bool × Bool × Bool × Bool × Bool :=
  ({ s.ring n with op := none }, hostView s)

theorem recordView_eq {n : Nat} {s t : State} (ring : ({ t.ring n with op := none } : Ring) = { s.ring n with op := none })
    (host : hostView t = hostView s) : recordView n t = recordView n s := by
  unfold recordView
  rw [ring, host]

theorem recordView_ofRings {n : Nat} {s t : State} (rings : t.rings = s.rings) (host : hostView t = hostView s) :
    recordView n t = recordView n s := by
  refine recordView_eq ?_ host
  rw [State.ring, rings, State.ring]

theorem recordView_ofHome {n : Nat} {s t : State} (h : HomeOnly s t) : recordView n t = recordView n s :=
  recordView_ofRings (rings_ofHome h) (hostView_ofPool (.ofHome h))

theorem recordView_foldl {β : Type} {n : Nat} {f : State → β → State} (h : ∀ s b, recordView n (f s b) = recordView n s) :
    ∀ (l : List β) (s : State), recordView n (l.foldl f s) = recordView n s
  | [], _ => rfl
  | b :: l, s => (recordView_foldl h l (f s b)).trans (h s b)

section
variable (n : Nat) (s : State)

@[simp] theorem recordView_ite {t : State} {c : Prop} [Decidable c] :
    recordView n (if c then s else t) = if c then recordView n s else recordView n t := apply_ite ..

@[simp] theorem recordView_onXlt (f : Xlt → Xlt) : recordView n (s.onXlt f) = recordView n s := recordView_ofRings rfl (by simp)
@[simp] theorem recordView_onFab (f : Fabric → Fabric) : recordView n (s.onFab f) = recordView n s := recordView_ofRings rfl (by simp)
@[simp] theorem recordView_onEngine (k : Nat) (f : Engine → Engine) : recordView n (s.onEngine k f) = recordView n s :=
  recordView_ofRings rfl (by simp)
@[simp] theorem recordView_onArray (k : Nat) (f : Machine.Array → Machine.Array) : recordView n (s.onArray k f) = recordView n s :=
  recordView_ofRings rfl (by simp)
@[simp] theorem recordView_onCore (k : Nat) (f : Core → Core) : recordView n (s.onCore k f) = recordView n s :=
  recordView_ofRings rfl (by simp)
@[simp] theorem recordView_onRep (f : Repair → Repair) : recordView n (s.onRep f) = recordView n s := recordView_ofRings rfl (by simp)
@[simp] theorem recordView_onPwr (f : Power → Power) : recordView n (s.onPwr f) = recordView n s := recordView_ofRings rfl (by simp)
@[simp] theorem recordView_onDomain (k : Nat) (f : Domain → Domain) : recordView n (s.onDomain k f) = recordView n s :=
  recordView_ofRings rfl (by simp)
@[simp] theorem recordView_onPort (k : Nat) (f : FabPort → FabPort) : recordView n (s.onPort k f) = recordView n s :=
  recordView_ofRings rfl (by simp)
@[simp] theorem recordView_event (cls reason addr param : Nat) : recordView n (event cls reason addr param s) = recordView n s :=
  recordView_ofRings (event_rings ..) (by simp)
@[simp] theorem recordView_eventUnit (cls reason addr param die domain kind unit detail count : Nat) :
    recordView n (eventUnit cls reason addr param die domain kind unit detail count s) = recordView n s :=
  recordView_ofRings (by simp [eventUnit, placeOnion]; split <;> simp) (by simp)

end

/-! ### Credits -/

theorem recordView_setChain (n m : Nat) (c : ChainRun) (s : State) : recordView n (setChain m c s) = recordView n s := by
  refine recordView_eq ?_ (hostView_onRing ..)
  unfold setChain
  rcases eq_or_ne n m with rfl | other
  · rw [State.ring_onRing_same]
  · rw [State.ring_onRing_other _ _ other]

theorem recordView_stopChain (n m : Nat) (r : Res) (tile : Nat) (s : State) : recordView n (stopChain m r tile s) = recordView n s := by
  unfold stopChain
  split
  · split
    · exact recordView_setChain ..
    · split
      · exact recordView_setChain ..
      · rfl
  · rfl

theorem recordView_writeCredits (n m : Nat) (c : ChainRun) : ∀ (l : List (Nat × Nat × Nat)) (s : State),
    recordView n (writeCredits m c l s) = recordView n s
  | [], s => recordView_setChain ..
  | (j, buf, v) :: rest, s => by
    have next := recordView_writeCredits n m c rest
    unfold writeCredits
    extract_lets off va
    have host := hostView_vaStore .once (nth 0 c.arrays j) (.ring m) va (allWith false (toBytes 8 v)) s
    have rings := vaStore_rings .once (nth 0 c.arrays j) (.ring m) va (allWith false (toBytes 8 v)) s
    generalize vaStore .once (nth 0 c.arrays j) (.ring m) va (allWith false (toBytes 8 v)) s = r at host rings ⊢
    obtain ⟨⟨r, x⟩, s1⟩ := r
    have stored : recordView n s1 = recordView n s := recordView_ofRings rings host
    split
    · next same => cases same; exact (next _).trans ((recordView_stopChain ..).trans stored)
    · next same =>
      cases same
      exact (recordView_setChain ..).trans (recordView_ofRings (keepAsked_rings ..) (hostView_keepAsked host))
    · next same => cases same; exact (next _).trans stored

theorem recordView_publish (n m : Nat) (c : ChainRun) (j buf pass : Nat) (s : State) :
    recordView n (publish m c j buf pass s) = recordView n s := by
  have flushed (s : State) : recordView n (flushCredits m s) = recordView n s := by
    unfold flushCredits
    split
    · split
      · rfl
      · exact recordView_writeCredits ..
    · rfl
  unfold publish
  split
  · rfl
  · split
    · exact (flushed _).trans (recordView_setChain ..)
    · rfl

theorem recordView_reopenArray (n m a : Nat) (s : State) : recordView n (reopenArray m a s) = recordView n s := by
  unfold reopenArray
  split
  · rfl
  · split
    · rfl
    · dsimp only
      split <;> simp [recordView_publish]

/-! ### A unit moves (R394) -/

theorem recordView_renameOwners (n : Nat) (own : Owner → Owner) (s : State) : recordView n (renameOwners own s) = recordView n s :=
  recordView_ofRings rfl (hostView_eq rfl)

/-- A change of every ring that leaves an idle one as it is changes each ring by itself. -/
theorem ring_mapped {f : Ring → Ring} (idle : f {} = {}) (n : Nat) (s : State) :
    State.ring { s with rings := s.rings.map fun r => (r.1, f r.2) } n = f (s.ring n) := by
  rw [State.ring, State.ring, tget, tget, tfind_map]
  cases tfind s.rings n with
  | none => exact idle.symm
  | some q => rfl

theorem recordView_renamePair (n u v : Nat) (s : State) : recordView n (renamePair u v s) = recordView n s := by
  have renamed := ring_mapped (f := fun q => { q with op := q.op.map (movedOp u v) }) rfl n s
  refine (recordView_renameOwners ..).trans (recordView_eq ?_ (hostView_eq rfl))
  rw [renamed]

theorem recordView_privEmpty (n cache : Nat) (s : State) : recordView n (privEmpty cache s) = recordView n s :=
  recordView_foldl (fun s p => recordView_ofHome (privEvict_only p s)) _ s

theorem recordView_enterRecovery (n eng reason : Nat) (s : State) : recordView n (enterRecovery eng reason s) = recordView n s := by
  unfold enterRecovery
  simp

theorem recordView_movePair (n u v : Nat) (s : State) : recordView n (movePair u v s) = recordView n s := by
  unfold movePair
  dsimp only
  rw [recordView_enterRecovery]
  split <;> simp [recordView_reopenArray, recordView_renamePair, recordView_privEmpty]

theorem recordView_moveUnit (n kind die u v : Nat) (s : State) : recordView n (moveUnit kind die u v s) = recordView n s := by
  simp [moveUnit, moveCore, recordView_movePair, recordView_renameOwners, recordView_privEmpty]

/-! ### Power settles (R377, R380) -/

theorem recordView_rateCheck (n : Nat) (stuck : Bool) (d : Nat) (s : State) : recordView n (rateCheck stuck d s) = recordView n s := by
  unfold rateCheck
  split <;> simp

theorem recordView_powerSettle (n : Nat) (s : State) : recordView n (powerSettle s) = recordView n s := by
  have clamped : recordView n (clampDomains s) = recordView n s := recordView_foldl (fun s d => by simp) _ s
  have reasoned (s : State) : recordView n (reasonsUpdate s) = recordView n s := by
    unfold reasonsUpdate
    extract_lets old stuck s1 new count s2
    have formed : recordView n s1 = recordView n s := recordView_foldl (fun s d => by simp) _ s
    exact (recordView_foldl (fun s d => recordView_rateCheck n stuck d s) _ s2).trans ((recordView_onPwr ..).trans formed)
  exact (reasoned _).trans clamped

/-! ### An operation ends -/

theorem recordView_sideReturn (n kind die unit : Nat) (s : State) : recordView n (sideReturn kind die unit s) = recordView n s := by
  unfold sideReturn
  split
  · rfl
  · dsimp only
    split
    · split
      · split <;> simp [setRep, sideDrop]
      · split <;> simp [sideDrop, sideReturn.lanesBack]
    · simp [setRep, sideDrop, recordView_powerSettle, recordView_moveUnit]

theorem recordView_testReturn (n : Nat) (t : TestRun) (s : State) : recordView n (testReturn t s) = recordView n s := by
  unfold testReturn
  split
  · rfl
  · exact (recordView_eventUnit ..).trans (recordView_sideReturn ..)

theorem recordView_onLink_lists (n : Nat) (s : State) (reads : List HostRead) (arrived : List Arrived) :
    recordView n (s.onLink fun l => { l with reads := reads, arrived := arrived }) = recordView n s :=
  recordView_ofRings rfl (hostView_eq rfl)

theorem recordView_releaseChain (n m : Nat) (c : ChainRun) (s : State) : recordView n (releaseChain m c s) = recordView n s :=
  recordView_foldl (fun s a => by simp [endGrant]) _ s

theorem recordView_releaseTransform (n : Nat) (t : TransformRun) (s : State) :
    recordView n (releaseTransform t s) = recordView n s := by
  unfold releaseTransform
  split
  · exact recordView_ofRings rfl (hostView_eq rfl)
  · rfl

theorem recordView_releaseProgram (n m : Nat) (p : ProgramRun) (s : State) : recordView n (releaseProgram m p s) = recordView n s :=
  recordView_foldl (fun _ _ => (recordView_onFab ..).trans ((recordView_onLink_lists ..).trans (recordView_onEngine ..))) _ s

/-- Nothing that the record of a ring is formed from changes as its operation gives back what it holds. -/
theorem recordView_releaseOp (n m : Nat) (o : Op) (s : State) : recordView n (releaseOp m o s) = recordView n s := by
  unfold releaseOp
  extract_lets s1 s2
  have held : recordView n s1 = recordView n s := by
    unfold s1
    split
    · simp [recordView_releaseChain]
    · exact recordView_releaseTransform ..
    · simp [recordView_releaseProgram]
    · exact recordView_testReturn ..
    · exact recordView_onXlt ..
    · rfl
  exact (recordView_onFab ..).trans ((recordView_onLink_lists ..).trans held)

/-! ### The record after what it is formed from has been kept -/

section
variable {n : Nat} {s u : State} (same : recordView n u = recordView n s)
include same

theorem ring_of_recordView : ({ u.ring n with op := none } : Ring) = { s.ring n with op := none } := by
  unfold recordView at same
  exact congrArg (·.1) same

theorem host_of_recordView :
    (u.hTicks, u.endpoint, u.link.up, u.link.bme, u.link.d3hot, (episodeOf u).limitPassed, u.link.scrubOwed)
    = (s.hTicks, s.endpoint, s.link.up, s.link.bme, s.link.d3hot, (episodeOf s).limitPassed, s.link.scrubOwed) := by
  unfold recordView hostView at same
  exact congrArg (·.2) same

/-- A record that goes still goes. -/
theorem recordGoes_kept (goes : RecordGoes s n) : RecordGoes u n := by
  have ring := ring_of_recordView same
  have cq : (u.ring n).cq = (s.ring n).cq := congrArg (·.cq) ring
  have flr : (u.ring n).flr = (s.ring n).flr := congrArg (·.flr) ring
  have host := host_of_recordView same
  simp only [Prod.mk.injEq] at host
  obtain ⟨-, endpoint, up, bme, d3hot, limit, scrub⟩ := host
  have passed : limitPassed u = limitPassed s := by simp only [limitPassed, inEpisode, endpoint, up, bme, d3hot, limit]
  have waits : recordWaits n u = recordWaits n s := by
    simp only [recordWaits, passed, inEpisode, endpoint, up, bme, d3hot, cq, flr]
  exact ⟨waits.trans goes.sends, by rw [cq, flr, passed]; exact goes.limit, scrub.trans goes.unscrubbed⟩

/-- A ring's record is the same record for the state before. -/
theorem writesRecord_kept {t : State} {r : Res} (writes : WritesRecord u t n r) : WritesRecord s t n r := by
  have ring := ring_of_recordView same
  have ticks : u.hTicks = s.hTicks := congrArg (·.1) (host_of_recordView same)
  have head : (u.ring n).head = (s.ring n).head := congrArg (·.head) ring
  have tail : (u.ring n).tail = (s.ring n).tail := congrArg (·.tail) ring
  have completed : (u.ring n).completed = (s.ring n).completed := congrArg (·.completed) ring
  have desc : (u.ring n).desc = (s.ring n).desc := congrArg (·.desc) ring
  have sq : (u.ring n).sq = (s.ring n).sq := congrArg (·.sq) ring
  have index (k : Nat) : ringIndex (u.ring n) k = ringIndex (s.ring n) k := by simp only [ringIndex, ringSize, sq]
  simpa only [WritesRecord, head, tail, completed, desc, sq, index, ticks] using writes

end

end Sys2Proof.Proofs.Releases
end

section
/-! SUPPORT. The end of an operation, and the messages and the table of MSI-X (R219, R331, R332). -/

namespace Sys2Proof.Proofs.EndsAndMessages

open Sys2Proof.Machine Sys2Proof.Claims Sys2Proof.Proofs.Messages Sys2Proof.Proofs.Releases
open Sys2Proof.Proofs.GrantSpaces (mem_setAdd)
open Sys2Proof.Proofs.LoadedOperations (finishRing_stops)
open Sys2Proof.Proofs.RingsThroughReads (complete_writesRecord)
open Sys2Proof.Proofs.RingsThroughStores (sendVector_rings ring_ofRings)

/-! ### The end of an operation -/

section
variable {s : State} {n : Nat} {o : Op} (holds : (s.ring n).op = some o)
include holds

theorem exec_operationComplete (ended : opEnded n s o = true) (settled : hostSettled n (opStop o) s = true)
    (warm : s.pickle.freezing = false) : exec (.operationComplete n) s = .next (endOp n o (opFigures o (opStop o)) s) := by
  simp [exec, execOperationComplete, holds, ended, settled, warm]

theorem exec_operationComplete_early (goesOn : opEnded n s o = false) : exec (.operationComplete n) s = .next s := by
  simp [exec, execOperationComplete, holds, goesOn]

end

/-- An operation that ends gives back what it holds and writes its record. -/
theorem endOp_writesRecord {s : State} {n : Nat} (o : Op) (r : Res) (running : (s.ring n).state ≠ .aborting) (goes : RecordGoes s n) :
    WritesRecord s (endOp n o r s) n r := by
  have released := recordView_releaseOp n n o s
  have goes := recordGoes_kept released goes
  have state : ((releaseOp n o s).ring n).state = (s.ring n).state := congrArg (·.state) (ring_of_recordView released)
  refine writesRecord_kept released ?_
  unfold endOp
  split
  · next lost => exact finishRing_stops goes.unscrubbed (by omega)
  · exact complete_writesRecord (state.trans_ne running) goes

/-! ### The statement -/

/-- One message covers a ring's unsignalled records, and no other ring is touched. -/
theorem ringMessage_signals (s : State) (n v : Nat) :
    let t := sendVector v (s.onRing n fun r => { r with unsignalled := 0 })
    (t.ring n).unsignalled = 0 ∧ OtherRings n s t := by
  have kept (k : Nat) := ring_ofRings (sendVector_rings v (s.onRing n fun r => { r with unsignalled := 0 })) k
  exact ⟨by simp [kept], fun k other => by rw [kept, State.ring_onRing_other _ _ other]⟩

/-- Settles O27: an operation's release keeps what its record is formed from, so that its end writes the record; a message of MSI-X is
one posted write or a pending bit; the table takes a write of 8 bytes at its entry. -/
theorem operationsEndWithRecordsAndMessages : Obligations.OperationsEndWithRecordsAndMessages := by
  unfold Obligations.OperationsEndWithRecordsAndMessages
  refine ⟨fun s n o holds running => ⟨fun ended settled warm goes => ?_, exec_operationComplete_early holds⟩, fun s n open_ payload => ?_,
    fun s v val device up inside closed => ?_⟩
  · exact ⟨_, exec_operationComplete holds ended settled warm, endOp_writesRecord o _ running goes⟩
  · intro v e
    constructor
    · intro on some_
      obtain ⟨signalled, others⟩ := ringMessage_signals s n v
      refine ⟨_, exec_moderated_ring open_ on some_, signalled, others, fun masked => ?_, fun unmasked uncovered aligned => ?_⟩
      · have masked : vectorMasked (s.onRing n fun r => { r with unsignalled := 0 }) v = true := Bool.or_eq_true .. ▸ masked
        rw [sendVector_masked masked]
        exact ⟨mem_setAdd.2 (.inl rfl), rfl⟩
      · have shown : vectorMasked (s.onRing n fun r => { r with unsignalled := 0 }) v = false :=
          Bool.or_eq_false_iff.2 ⟨unmasked, uncovered⟩
        exact sendVector_posts shown aligned payload
    · intro on some_ off
      exact ⟨_, exec_moderated_events open_ on some_, sendVector_evt (s := s.onEvt _) off, sendVector_rings ..⟩
  · intro e
    constructor
    · have step := exec_tableWrite device up inside (offset := 16 * v) val (by omega) (by omega)
      rw [msixWrite_addr closed] at step
      exact ⟨_, step, tget_tput_same .., fun k other => tget_tput_other _ _ _ other⟩
    · have step := exec_tableWrite device up inside (offset := 16 * v + 8) val (by omega) (by omega)
      rw [msixWrite_data closed] at step
      exact ⟨_, step, tget_tput_same ..⟩

end Sys2Proof.Proofs.EndsAndMessages
end

section
/-! SUPPORT. What the record of a ring and the fetch after it leave of the translation state, and what the accesses that waited for a
hold leave of the rings (R249, R317, R319). -/

namespace Sys2Proof.Proofs.TranslationsKept

open Sys2Proof.Machine Sys2Proof.Safety Sys2Proof.Claims Sys2Proof.Proofs.LoadedOperations Sys2Proof.Proofs.RingsThroughStores
open Sys2Proof.Proofs.EngineCopies (wakeEngine_becomes)
open Sys2Proof.Proofs.EngineWrites (enginesOnly_trans)

/-! ### The translation state -/

/-- The translation state is as before, but for the counters of hot pages (R248). -/
def XltKept (s t : State) : Prop := { t.xlt with hot := s.xlt.hot } = s.xlt

namespace XltKept

theorem ofXlt {s t : State} (h : t.xlt = s.xlt) : XltKept s t := by rw [XltKept, h]
theorem ofEvent {s t : State} (h : EventOnly s t) : XltKept s t := by have f := congrArg State.xlt h.frame; exact f

theorem trans {s t u : State} (h : XltKept s t) (k : XltKept t u) : XltKept s u := by
  have first := congrArg (fun x : Xlt => { x with hot := s.xlt.hot }) k
  exact Eq.trans first h

theorem foldl {β : Type} {f : State → β → State} (h : ∀ s b, XltKept s (f s b)) : ∀ (l : List β) (s : State), XltKept s (l.foldl f s)
  | [], _ => ofXlt rfl
  | b :: l, s => (h s b).trans (foldl h l (f s b))

theorem ops {s t : State} (h : XltKept s t) : t.xlt.ops = s.xlt.ops := by rw [← show _ = s.xlt from h]
theorem holds {s t : State} (h : XltKept s t) : t.xlt.holds = s.xlt.holds := by rw [← show _ = s.xlt from h]

end XltKept

open XltKept

/-! ### Records and fetches -/

theorem bmeWait_xlt (n : Nat) (s : State) : XltKept s (bmeWait n s) := by
  unfold bmeWait
  dsimp only
  split
  · exact ofXlt rfl
  · split
    · exact ofXlt rfl
    · exact (ofXlt (t := s.onLink _) rfl).trans (ofEvent (event_only ..))

theorem blockedWait_xlt (o : Owner) (s : State) : (blockedWait o s).xlt = s.xlt := by
  unfold blockedWait
  split
  · dsimp only
    split <;> rfl
  · rfl

theorem hostAsk_xlt (o : Owner) (hio n va : Nat) (s : State) : XltKept s (hostAsk o hio n va s) := by
  unfold hostAsk
  split
  · exact ofXlt rfl
  · split
    · exact ofXlt (blockedWait_xlt ..)
    · exact (ofEvent (markHost_only ..)).trans (ofXlt rfl)

theorem noteWaits_xlt (s : State) : XltKept s (noteWaits s) := by
  unfold noteWaits
  split
  · exact ofXlt rfl
  · extract_lets t
    have cleared : XltKept s t := ofXlt rfl
    split
    · exact cleared
    · exact cleared.trans (foldl (fun s n => ofEvent (event_only 0x22 0 0 n s)) _ t)

theorem countAsked_xlt (s0 s : State) : XltKept s (countAsked s0 s) :=
  (foldl (fun s (r : HostRead) => ofEvent (hotHost_only r.hio r.len s)) _ s).trans ((ofEvent (hotPump_only _)).trans (noteWaits_xlt _))

theorem stopRing_xlt (n : Nat) (sdesc : Bool) (s : State) : (stopRing n sdesc s).xlt = s.xlt := rfl

theorem failFetch_xlt (n : Nat) (r : Res) (s : State) : XltKept s (failFetch n r s) := by
  unfold failFetch
  extract_lets s1
  have cancelled : XltKept s s1 := ofXlt rfl
  refine cancelled.trans ?_
  split
  · exact (ofXlt (t := s1.onRing n _) rfl).trans (bmeWait_xlt ..)
  · split
    · exact (bmeWait_xlt ..).trans ((ofEvent (writeRecord_only ..)).trans (ofXlt (stopRing_xlt ..)))
    · exact (ofEvent (writeRecord_only ..)).trans (ofXlt (stopRing_xlt ..))

theorem issueRead_xlt (n : Nat) (s : State) : XltKept s (issueRead n s) := by
  unfold issueRead
  dsimp only
  split
  · exact ofXlt rfl
  · split
    · exact failFetch_xlt ..
    · split
      · exact (bmeWait_xlt ..).trans (failFetch_xlt ..)
      · split
        · exact (ofXlt (t := s.onRing n _) rfl).trans (bmeWait_xlt ..)
        · split
          · exact ofXlt rfl
          · exact (hostAsk_xlt ..).trans ((countAsked_xlt ..).trans (ofXlt rfl))

theorem startFetch_xlt (n : Nat) (s : State) : XltKept s (startFetch n s) := by
  unfold startFetch
  split
  · exact (ofXlt (t := s.onRing n _) rfl).trans (issueRead_xlt ..)
  · exact ofXlt rfl

/-- An operation that ends with its record, no scrub being owed, leaves the translation state. -/
theorem finishRing_xlt {s : State} (n : Nat) (r : Res) (unscrubbed : s.link.scrubOwed = false) : XltKept s (finishRing n r s) := by
  unfold finishRing
  extract_lets q d written final s1
  have recorded : XltKept s s1 := (ofEvent (writeRecord_only n q.completed.toNat r (descTag d) (descIrq d) s)).trans (ofXlt rfl)
  have unowed : s1.link.scrubOwed = false := by
    simp only [s1, State.onRing_link, written, clearHost_scrubOwed, writeRecord_scrubOwed, unscrubbed]
  rw [scrubCheck_unowed unowed]
  exact recorded.trans (startFetch_xlt n s1)

theorem complete_xlt {s : State} {n : Nat} (r : Res) (goes : RecordGoes s n) : XltKept s (complete n r s) := by
  rw [complete_goes goes]
  exact finishRing_xlt n r goes.unscrubbed

/-! ### The end of a hold (R249) -/

theorem wakeEach_only : ∀ (l : Sparse Engine) (s : State), EnginesOnly s (l.foldl (fun s x => wakeEngine x.1 s) s)
  | [], _ => rfl
  | x :: l, s => by
    obtain ⟨slots, woken⟩ := wakeEngine_becomes x.1 s
    exact enginesOnly_trans woken.engines (wakeEach_only l _)

theorem wakeEngines_only (s : State) : EnginesOnly s (wakeEngines s) := wakeEach_only ..

theorem wakeEngines_rings (s : State) : (wakeEngines s).rings = s.rings := by
  have same := congrArg State.rings (wakeEngines_only s)
  exact same

theorem hostPlaces_rings (acc : Access) : ∀ (ps : List (Nat × Nat)) (s : State), (hostPlaces acc ps s).2.rings = s.rings
  | [], _ => rfl
  | (va, n) :: ps, s => by
    have translated := translate_rings agentPcie acc va s
    unfold hostPlaces
    generalize translate agentPcie acc va s = r at translated ⊢
    obtain ⟨r, s1⟩ := r
    cases r with
    | ok pa pbmt log2 =>
      have rest := (hostPlaces_rings acc ps s1).trans translated
      dsimp only
      generalize hostPlaces acc ps s1 = q at rest ⊢
      obtain ⟨q, s2⟩ := q
      cases q <;> exact rest
    | fault c => exact translated
    | poison => exact translated
    | held => exact translated

/-- A thread of states beside what it gathers leaves the rings where each of its steps does. -/
theorem foldl_snd_rings {α β : Type} {f : α × State → β → α × State} (h : ∀ p b, (f p b).2.rings = p.2.rings) :
    ∀ (l : List β) (p : α × State), (l.foldl f p).2.rings = p.2.rings
  | [], _ => rfl
  | b :: l, p => (foldl_snd_rings h l (f p b)).trans (h p b)

theorem hostRead_rings (va n : Nat) (s : State) : (hostRead va n s).rings = s.rings := by
  have placed := hostPlaces_rings .read (hostPieces4k va n) s
  unfold hostRead
  generalize hostPlaces .read (hostPieces4k va n) s = r at placed ⊢
  obtain ⟨r, s1⟩ := r
  cases r with
  | ok ps =>
    refine Eq.trans ?_ placed
    show State.rings (List.foldl _ ([], s1) ps).2 = s1.rings
    refine foldl_snd_rings (fun p b => ?_) ps _
    exact poolRead_rings ..
  | fault a c => exact (event_rings ..).trans placed
  | held => exact placed

theorem hostWrite_rings (va : Nat) (b : List Byte) (ep : Bool) (s : State) : (hostWrite va b ep s).rings = s.rings := by
  have placed := hostPlaces_rings .write (hostPieces4k va b.length) s
  unfold hostWrite
  generalize hostPlaces .write (hostPieces4k va b.length) s = r at placed ⊢
  obtain ⟨r, s1⟩ := r
  cases r with
  | ok ps =>
    refine Eq.trans ?_ placed
    show State.rings (List.foldl _ (b, s1) ps).2 = s1.rings
    refine foldl_snd_rings (fun p b => ?_) ps _
    exact poolWrite_rings ..
  | fault a c => exact (event_rings ..).trans placed
  | held => exact placed

theorem heldAgain_rings (h : HeldAccess) (s : State) : (heldAgain h s).rings = s.rings := by
  unfold heldAgain
  extract_lets again
  have accessed : again.rings = s.rings := by
    unfold again
    split
    · exact hostWrite_rings ..
    · exact hostRead_rings ..
  split
  · exact accessed
  · exact accessed

/-- The accesses that waited for a hold leave every ring as it was. -/
theorem afterHold_rings (s : State) : (afterHold s).rings = s.rings :=
  (wakeEngines_rings _).trans (foldl_rings (fun s h => heldAgain_rings h s) _ _)

/-- Where no access of the host waited, the end of a hold wakes engines, and the account of the accesses is empty. -/
theorem afterHold_unawaited {s : State} (unawaited : s.link.heldAccesses = []) :
    EnginesOnly (s.onLink fun l => { l with heldAccesses := [], heldAnswers := [] }) (afterHold s) := by
  unfold afterHold
  rw [unawaited]
  exact wakeEngines_only _

theorem afterHold_xlt {s : State} (unawaited : s.link.heldAccesses = []) : (afterHold s).xlt = s.xlt := by
  have same := congrArg State.xlt (afterHold_unawaited unawaited)
  exact same

theorem afterHold_evt {s : State} (unawaited : s.link.heldAccesses = []) : (afterHold s).evt = s.evt := by
  have same := congrArg State.evt (afterHold_unawaited unawaited)
  exact same

end Sys2Proof.Proofs.TranslationsKept
end

section
/-! SUPPORT. Translation operations (R240, R241, R249) and page walks (R228, R229): the descriptor under its command, what the acceptance
of an operation leaves of the translations, how a hold begins and ends, and what a walk fills. -/

namespace Sys2Proof.Proofs.TranslationOperations

open Sys2Proof.Machine Sys2Proof.Claims Sys2Proof.Proofs.TranslationsKept Sys2Proof.Proofs.RingsThroughStores
open Sys2Proof.Proofs.Admission (awaiting waitsAdmission_ofAwaiting)
open Sys2Proof.Proofs.HeldRecords (event_notes)
open Sys2Proof.Proofs.LoadedOperations (complete_goes finishRing_stops)
open Sys2Proof.Proofs.Releases (recordView recordView_onXlt recordGoes_kept writesRecord_kept)
open Sys2Proof.Proofs.RingsThroughReads (complete_writesRecord)

/-! ### The descriptor (R240) -/

/-- The command of each translation operation. -/
inductive Commands (n : Nat) : Nat → Instr → Prop where
  | invalidateRange : Commands n 1 (.invalidateRange n)
  | invalidateAll : Commands n 2 (.invalidateAll n)
  | setRoot : Commands n 3 (.setRoot n)
  | hold : Commands n 4 (.hold n)
  | release : Commands n 5 (.release n)

section
variable {s s1 : State} {n k : Nat} {i : Instr} {y : List Byte} (admitted : admitsXlt s = true) (reads : ReadsStructure s s1 n 0x05 y)
  (command : Commands n k i)
include admitted reads command

theorem exec_read : exec i s = .next (if xltBad y (parseXlt y) s1 then refuse n 0x13 s1
    else if (parseXlt y).op = k then admitXlt n (parseXlt y) s1 else s1) := by
  have runs : exec i s = .next (xltDesc k n (fun x s => admitXlt n x s) s) := by cases command <;> rfl
  obtain ⟨d, b, desc, aligned, read, sound, plain⟩ := reads.ok
  rw [runs]
  simp only [xltDesc, desc, admitted, aligned, withStruct, read, sound, plain]
  rfl

theorem exec_refused (bad : xltBad y (parseXlt y) s1 = true) : exec i s = .next (refuse n 0x13 s1) := by
  rw [exec_read admitted reads command, if_pos bad]

theorem exec_admitted (good : xltBad y (parseXlt y) s1 = false) (op : (parseXlt y).op = k) :
    exec i s = .next (admitXlt n (parseXlt y) s1) := by
  rw [exec_read admitted reads command, if_neg (by simp [good]), if_pos op]

end

/-- A refused translation descriptor writes a record of its status and the epoch (R328). -/
theorem refuse_writesEpoch {s : State} {n status : Nat} (goes : RecordGoes s n) (kind : (s.ring n).kind = 5) (fails : 1 < status) :
    WritesRecord s (refuse n status s) n { status := status, second := s.xlt.epoch.toNat } := by
  have res : plainRes n status s = { status := status, second := s.xlt.epoch.toNat } := by simp [plainRes, kind]
  rw [refuse, res, complete_goes goes]
  exact finishRing_stops goes.unscrubbed fails

theorem admitXlt_full {n : Nat} {x : XltRun} {s : State} (full : xltFits x s = false) :
    admitXlt n x s = awaiting s n (.xlt x) := by
  rw [admitXlt, full]
  rfl

theorem admitXlt_starts {n : Nat} {x : XltRun} {s : State} (fits : xltFits x s = true) (other : x.op ≠ 5) :
    admitXlt n x s = startXlt n x s := by
  simp [admitXlt, fits, other]

/-! ### An operation is accepted (R241) -/

/-- The page of a cached translation does not intersect a range. -/
def Outside (start length : Nat) (e : TlbEntry) : Prop := e.va + 2 ^ e.log2 ≤ start ∨ start + length ≤ e.va

/-- The translations that an operation affects are in no TLB. -/
structure Removed (x : XltRun) (l1 : Sparse (List TlbEntry)) (l2 : Sparse TlbEntry) : Prop where
  ranged : x.op = 1 ∨ x.op = 4 → (∀ p ∈ l2, Outside x.start x.length p.2) ∧ ∀ p ∈ l1, ∀ e ∈ p.2, Outside x.start x.length e
  whole : ¬ (x.op = 1 ∨ x.op = 4) → l1 = [] ∧ l2 = []

theorem tlbsRemove_outside (start length : Nat) (s : State) :
    (∀ p ∈ (tlbsRemove start length s).xlt.l2, Outside start length p.2)
    ∧ ∀ p ∈ (tlbsRemove start length s).xlt.l1, ∀ e ∈ p.2, Outside start length e := by
  constructor
  · intro p kept
    have outside := (List.mem_filter.1 kept).2
    simpa [Outside] using outside
  · intro p kept e held
    obtain ⟨q, -, rfl⟩ := List.mem_map.1 (List.mem_filter.1 kept).1
    have outside := (List.mem_filter.1 held).2
    simpa [Outside] using outside

/-- The translation state once an operation of ring n is accepted, with what is left in the TLBs. -/
def acceptedXlt (n : Nat) (x : XltRun) (l1 : Sparse (List TlbEntry)) (l2 : Sparse TlbEntry) (plru : Sparse Nat) (t : Xlt) : Xlt :=
  { t with
    epoch := t.epoch + 1, ops := t.ops ++ [n], walkCache := [], l1 := l1, l2 := l2, l2Plru := plru
    root := if x.op = 3 then BitVec.ofNat 64 x.root else t.root }

/-- An operation that is accepted changes the translation state and its ring alone. -/
theorem startXlt_accepts (n : Nat) (x : XltRun) (s : State) : ∃ l1 l2 plru, Removed x l1 l2
    ∧ startXlt n x s = beginOp n (.xlt { x with epochAfter := s.xlt.epoch + 1, started := true })
        (s.onXlt (acceptedXlt n x l1 l2 plru)) := by
  let counted := s.onXlt fun t => { t with epoch := t.epoch + 1, ops := t.ops ++ [n] }
  by_cases ranged : x.op = 1 ∨ x.op = 4
  · let removed := tlbsRemove x.start x.length counted
    have rootless : x.op ≠ 3 := by omega
    refine ⟨removed.xlt.l1, removed.xlt.l2, removed.xlt.l2Plru, ⟨fun _ => tlbsRemove_outside .., fun whole => absurd ranged whole⟩, ?_⟩
    simp only [startXlt, State.onXlt, acceptedXlt, if_pos ranged, if_neg rootless]
    rfl
  · refine ⟨[], [], [], ⟨fun range => absurd range ranged, fun _ => ⟨rfl, rfl⟩⟩, ?_⟩
    by_cases rooted : x.op = 3
    · simp only [startXlt, State.onXlt, acceptedXlt, if_neg ranged, if_pos rooted]
      rfl
    · simp only [startXlt, State.onXlt, acceptedXlt, if_neg ranged, if_neg rooted]
      rfl

/-! ### RELEASE (R249) -/

/-- The RELEASE of ring n runs, and its range is held no more. -/
def holdEnded (n : Nat) (x : XltRun) (s : State) : State :=
  (s.onRing n fun q => { q with state := .running, startTicks := s.hTicks }).onXlt fun t =>
    { t with holds := t.holds.filter fun h => !(h.start == x.start && h.length == x.length) }

/-- The RELEASE of ring n has ended the hold of its range, and the accesses that waited are made. -/
def released (n : Nat) (x : XltRun) (s : State) : State := afterHold (holdEnded n x s)

theorem released_state (n : Nat) (x : XltRun) (s : State) : ((released n x s).ring n).state = .running := by
  have begun := State.ring_onRing_same s n fun q => { q with state := .running, startTicks := s.hTicks }
  rw [released, ring_ofRings (afterHold_rings _) n]
  exact congrArg Ring.state begun

theorem released_holds {x : XltRun} {s : State} (n : Nat) (unawaited : s.link.heldAccesses = []) :
    ∀ h ∈ (released n x s).xlt.holds, ¬ (h.start = x.start ∧ h.length = x.length) := by
  rintro h held ⟨start, length⟩
  rw [released, afterHold_xlt (s := holdEnded n x s) unawaited] at held
  simpa [start, length] using (List.mem_filter.1 held).2

/-- A RELEASE that is not refused names a range that is held. -/
theorem holdOf_of_release {y : List Byte} {x : XltRun} {s : State} (good : xltBad y x s = false) (release : x.op = 5) :
    (holdOf s x.start x.length).isNone = false := by
  simp only [xltBad, Bool.or_eq_false_iff] at good
  obtain ⟨-, held⟩ := good
  simpa [release] using held

theorem admitXlt_release {n : Nat} {y : List Byte} {x : XltRun} {s : State} (good : xltBad y x s = false) (release : x.op = 5)
    (fits : xltFits x s = true) : admitXlt n x s = complete n { second := (released n x s).xlt.epoch.toNat } (released n x s) := by
  have held := holdOf_of_release good release
  simp only [admitXlt, fits, release, releaseHold, held]
  rfl

/-! ### An operation has drained (R241, R249) -/

/-- An operation of ring n is in progress no more, and a HOLD holds its range, for 10 ms where it names no limit. -/
def drained (n : Nat) (x : XltRun) (s : State) : State :=
  s.onXlt fun t => { t with
    ops := without t.ops n
    holds := if x.op = 4 then
        t.holds ++ [⟨freeHoldSlot s, x.start, x.length, if x.holdMs = 0 then 10 else x.holdMs, s.hTicks.toNat⟩]
      else t.holds }

theorem exec_xltOpDrained {s : State} {n : Nat} {x : XltRun} (op : (s.ring n).op = some (.xlt x)) (started : x.started = true)
    (done : xltDrained x s = true) :
    exec (.xltOpDrained n) s = .next (complete n { second := s.xlt.epoch.toNat } (drained n x s)) := by
  simp only [exec, execXltOpDrained, op, started, done, Bool.and_self, if_true]
  by_cases hold : x.op = 4
  · simp only [drained, if_pos hold]
    rfl
  · simp only [drained, if_neg hold]
    rfl

/-- What has drained completes with DONE and the epoch, and the record leaves what is in progress and held. -/
theorem drained_completes {s : State} {n : Nat} (x : XltRun) (running : (s.ring n).state ≠ .aborting) (goes : RecordGoes s n) :
    let t := complete n { second := s.xlt.epoch.toNat } (drained n x s)
    WritesRecord s t n { second := s.xlt.epoch.toNat } ∧ XltKept (drained n x s) t := by
  have kept : recordView n (drained n x s) = recordView n s := recordView_onXlt ..
  have goes := recordGoes_kept kept goes
  exact ⟨writesRecord_kept kept (complete_writesRecord running goes), complete_xlt _ goes⟩

/-! ### The limit of a hold (R249) -/

/-- The hold h has reached its limit: it is removed, and record 0x31 names its range. -/
def expired (h : HoldRange) (s : State) : State :=
  event 0x31 0 h.start h.length (s.onXlt fun t => { t with holds := t.holds.filter fun k => k.slot != h.slot })

theorem exec_holdLimitExpire {s : State} {h : HoldRange} (found : s.xlt.holds.find? (fun k => k.start == h.start) = some h) :
    exec (.holdLimitExpire h.start) s = .next (afterHold (expired h s)) := by
  simp only [exec, execHoldLimitExpire, found]
  rfl

theorem expired_only (h : HoldRange) (s : State) :
    EventOnly (s.onXlt fun t => { t with holds := t.holds.filter fun k => k.slot != h.slot }) (expired h s) := event_only ..

theorem expired_unawaited {s : State} (h : HoldRange) (unawaited : s.link.heldAccesses = []) :
    (expired h s).link.heldAccesses = [] := by
  have same := congrArg (fun t : State => t.link.heldAccesses) (expired_only h s).frame
  exact Eq.trans same unawaited

/-! ### Page walks (R228, R229) -/

theorem l2Fill_filled (e : TlbEntry) (s : State) : ∃ key, tfind (l2Fill e s).xlt.l2 key = some e := ⟨_, tfind_tins_same ..⟩

/-- An agent's own TLB takes an entry as its most recent one. -/
theorem l1Fill_filled {agent : Nat} (own : hasL1 agent = true) (e : TlbEntry) (s : State) :
    e ∈ tget [] (l1Fill agent e s).xlt.l1 agent := by
  simp [l1Fill, own]

/-- Filling an agent's own TLB changes nothing else. -/
theorem l1Fill_only (agent : Nat) (e : TlbEntry) (s : State) : ∃ l1, l1Fill agent e s = s.onXlt fun x => { x with l1 := l1 } := by
  unfold l1Fill
  split
  · exact ⟨_, rfl⟩
  · exact ⟨s.xlt.l1, rfl⟩

theorem walkFill_passes {s s1 : State} {agent va pa mt k : Nat} {acc : Access} {e : TlbEntry}
    (walked : walk acc va s = ((.ok pa mt k, some e), s1)) (backed : regionFault s1 agent pa = none) :
    walkFill agent acc va s = (.ok pa mt k, l1Fill agent e (l2Fill e s1)) := by
  simp [walkFill, walked, backed]

section
variable {s : State} {va : Nat} (unheld : isHeld s va = false) (canon : canonical va = true) (agent : Nat) (acc : Access)
include unheld canon

theorem exec_pageWalkDone : exec (.pageWalkDone agent va acc s.xlt.epoch) s = .next (walkFill agent acc va s).2 := by
  simp [exec, execPageWalkDone, unheld, canon]

/-- A walk that an operation has overtaken leaves the counters of hot pages of the translation state alone changed. -/
theorem exec_pageWalkDone_overtaken {began : BitVec 32} (overtaken : began ≠ s.xlt.epoch) :
    exec (.pageWalkDone agent va acc began) s
      = .next { (walk acc va s).2 with xlt := { s.xlt with hot := (walk acc va s).2.xlt.hot } } := by
  simp [exec, execPageWalkDone, unheld, canon, overtaken]

end

/-! ### The statement -/

/-- Settles O33: an accepted operation by what it leaves of the translations, one that waits as any operation that is not admitted; a
RELEASE, and an operation that has drained, by the record that its ring writes; the limit of a hold by its record; a walk by the entry
that it fills, or by the epoch that has passed it. -/
theorem translationOperationsAct : Obligations.TranslationOperationsAct := by
  unfold Obligations.TranslationOperationsAct
  refine ⟨fun s s1 n y k i admitted reads command => ?_, fun s n x op started done state goes => ?_, fun s h found unawaited => ?_,
    fun s s1 agent va acc began unheld canon => ⟨fun pa mt k e current walked backed => ?_, fun overtaken => ?_⟩⟩
  · have command : Commands n k i := by
      rcases command with ⟨rfl, rfl⟩ | ⟨rfl, rfl⟩ | ⟨rfl, rfl⟩ | ⟨rfl, rfl⟩ | ⟨rfl, rfl⟩ <;> constructor
    intro x
    refine ⟨fun bad kind goes => ?_, fun good op => ⟨fun other fits => ?_, fun full => ?_⟩, fun good op release fits => ?_⟩
    · exact ⟨_, exec_refused admitted reads command bad, refuse_writesEpoch goes kind (by decide)⟩
    · have step := exec_admitted admitted reads command good op
      rw [admitXlt_starts fits (op.trans_ne other)] at step
      obtain ⟨l1, l2, plru, ⟨ranged, whole⟩, accepts⟩ := startXlt_accepts n x s1
      rw [accepts] at step
      refine ⟨_, step, rfl, rfl, rfl, rfl, fun range => ranged (op ▸ range), fun all => whole (by omega), ?_, ?_, ?_⟩
      · exact congrArg (fun j => if j = 3 then BitVec.ofNat 64 x.root else s1.xlt.root) op
      · exact congrArg Ring.op (State.ring_onRing_same ..)
      · exact congrArg Ring.state (State.ring_onRing_same ..)
    · have step := exec_admitted admitted reads command good op
      rw [admitXlt_full full] at step
      exact waitsAdmission_ofAwaiting step
    · have step := exec_admitted admitted reads command good op
      rw [admitXlt_release good (op.trans release) fits] at step
      refine ⟨fun goes => ⟨_, step, ?_⟩, released_holds n⟩
      exact complete_writesRecord ((released_state n x s1).trans_ne (by nofun)) goes
  · obtain ⟨written, kept⟩ := drained_completes x (by rw [state]; nofun) goes
    exact ⟨_, exec_xltOpDrained op started done, written, kept.ops, kept.holds⟩
  · have unawaited := expired_unawaited h unawaited
    refine ⟨_, exec_holdLimitExpire found, ?_, fun off room => ?_⟩
    · rw [afterHold_xlt unawaited]
      exact (XltKept.ofEvent (expired_only h s)).holds
    · rw [afterHold_evt unawaited]
      exact event_notes 0x31 0 h.start h.length (s.onXlt _) off room
  · subst current
    obtain ⟨l1, filled⟩ := l1Fill_only agent e (l2Fill e s1)
    have step := exec_pageWalkDone unheld canon agent acc
    rw [walkFill_passes walked backed] at step
    refine ⟨_, step, ?_, fun own => l1Fill_filled own e _, ?_, ?_⟩ <;> rw [filled]
    · exact l2Fill_filled e s1
    · rfl
    · rfl
  · exact ⟨_, exec_pageWalkDone_overtaken unheld canon agent acc overtaken, rfl, rfl, rfl⟩

end Sys2Proof.Proofs.TranslationOperations
end

section
/-! SUPPORT. Sending a message on a port (R255, R265, R401): what it changes, and what it queues while the Dodgem unit is off and holds
nothing; the states of the fabric between which the choice of a port and the order of service are the same. -/

namespace Sys2Proof.Proofs.Transmission

open Sys2Proof.Machine Sys2Proof.Claims

/-! ### The order of service (R255) -/

theorem roundRobin_perm : ∀ (n : Nat) (turn : Bool) (fwd own : List Sent), (roundRobin turn n fwd own).Perm (fwd ++ own)
  | 0, _, _, _ => .refl _
  | _ + 1, _, [], _ => .refl _
  | _ + 1, _, f :: fs, [] => by rw [List.append_nil]; exact .refl _
  | n + 1, true, f :: fs, o :: os => (roundRobin_perm n false fs (o :: os)).cons f
  | n + 1, false, f :: fs, o :: os => ((roundRobin_perm n true (f :: fs) os).cons o).trans List.perm_middle.symm

/-- What waits once a message has come is what waited and the message. -/
theorem serve_perm (m : Sent) (s : State) : (serve m s).Perm (s.fab.out ++ [m]) := by
  unfold serve
  extract_lets mine
  have kinds : (mine.filter (fun x => isTransit x) ++ mine.filter fun x => !isTransit x).Perm mine := List.filter_append_perm ..
  have ports : ((s.fab.out.filter fun x => x.port != m.port) ++ s.fab.out.filter fun x => x.port == m.port).Perm s.fab.out :=
    List.perm_append_comm.trans (List.filter_append_perm (fun x : Sent => x.port == m.port) s.fab.out)
  refine (((roundRobin_perm ..).trans kinds).append_left _).trans ?_
  rw [← List.append_assoc]
  exact ports.append_right [m]

/-! ### What sending changes -/

/-- The second state differs from the first in the ports, in what waits at them and in the Dodgem unit alone. -/
def TrafficOnly (s t : State) : Prop :=
  ∃ ports out dod, t = { s with fab := { s.fab with ports := ports, out := out }, dod := dod }

namespace TrafficOnly

theorem same (s : State) : TrafficOnly s s := ⟨_, _, _, rfl⟩

theorem trans {s t u : State} (h : TrafficOnly s t) (k : TrafficOnly t u) : TrafficOnly s u := by
  obtain ⟨_, _, _, rfl⟩ := h
  obtain ⟨_, _, _, rfl⟩ := k
  exact ⟨_, _, _, rfl⟩

theorem foldl {β : Type} {f : State → β → State} (h : ∀ s b, TrafficOnly s (f s b)) : ∀ (l : List β) (s : State), TrafficOnly s (l.foldl f s)
  | [], s => same s
  | b :: l, s => (h s b).trans (foldl h l (f s b))

theorem onDod (f : Dodgem → Dodgem) (s : State) : TrafficOnly s (s.onDod f) := ⟨_, _, _, rfl⟩
theorem onPort (p : Nat) (f : FabPort → FabPort) (s : State) : TrafficOnly s (s.onPort p f) := ⟨_, _, _, rfl⟩

end TrafficOnly

theorem leave_trafficOnly (m : Sent) (s : State) : TrafficOnly s (leave m s) := ⟨_, _, _, rfl⟩

theorem leaveAll_trafficOnly (ms : List Sent) (s : State) : TrafficOnly s (leaveAll ms s) :=
  .foldl (fun s m => leave_trafficOnly m s) ms s

theorem releaseHeld_trafficOnly (p : Nat) (s : State) : TrafficOnly s (releaseHeld p s) :=
  (TrafficOnly.onDod _ s).trans (.foldl (fun s (h : Nat × List Sent) => leaveAll_trafficOnly h.2 s) _ _)

theorem dodgemAct_trafficOnly (k : Nat) (s : State) : TrafficOnly s (dodgemAct k s).2 := by
  unfold dodgemAct
  dsimp only
  split
  · exact ⟨_, _, _, rfl⟩
  · split <;> exact ⟨_, _, _, rfl⟩

theorem frameMode_trafficOnly (p : Nat) (s : State) : TrafficOnly s (frameMode p s) := by
  have acted := dodgemAct_trafficOnly 0 s
  unfold frameMode
  dsimp only
  split
  · split
    · exact acted.trans (.onPort ..)
    · exact acted
  · exact .same s

/-- A packet seen by the unit that mode 1 has not dropped: modes 3, 2 and 4 apply to it. -/
theorem modes_trafficOnly (s : State) : TrafficOnly s (dodgemAct 4 (dodgemAct 2 (dodgemAct 3 s).2).2).2 :=
  ((dodgemAct_trafficOnly 3 s).trans (dodgemAct_trafficOnly 2 _)).trans (dodgemAct_trafficOnly 4 _)

theorem transmit_trafficOnly (m : Sent) (req : Bool) (dst : Nat) (s : State) : TrafficOnly s (transmit m req dst s) := by
  unfold transmit
  cases dodgemSees s m.port req dst with
  | false =>
    simp only [Bool.false_eq_true, if_false]
    exact (frameMode_trafficOnly m.port s).trans ((leave_trafficOnly m _).trans (releaseHeld_trafficOnly m.port _))
  | true =>
    simp only [if_true]
    have first := dodgemAct_trafficOnly 1 s
    generalize dodgemAct 1 s = drop at first ⊢
    split
    · exact first
    · have acted := (first.trans (frameMode_trafficOnly m.port drop.2)).trans (modes_trafficOnly _)
      split
      · exact acted.trans (.onDod ..)
      · exact acted.trans ((leaveAll_trafficOnly ..).trans (.foldl (fun s (m : Sent) => releaseHeld_trafficOnly m.port s) _ _))

theorem answer_trafficOnly (peer len : Nat) (msg : FabMsg) (s : State) : TrafficOnly s (answer peer len msg s) := by
  unfold answer
  split
  · exact transmit_trafficOnly ..
  · exact .same s

/-! ### States with the same traffic -/

/-- In both states the same messages wait, under the same routes, at ports that are the same but for what they have received, and the
Dodgem unit is the same. -/
structure SameTraffic (s u : State) : Prop where
  out : u.fab.out = s.fab.out
  dod : u.dod = s.dod
  routes : u.fab.routes = s.fab.routes
  active : u.fab.active = s.fab.active
  port : ∀ p, { u.port p with rxPackets := (s.port p).rxPackets, rxBytes := (s.port p).rxBytes } = s.port p

namespace SameTraffic

theorem ofFab {s u : State} (fab : u.fab = s.fab) (dod : u.dod = s.dod) : SameTraffic s u := by
  constructor <;> simp [fab, dod, State.port]

theorem ofPorts {s u : State} (out : u.fab.out = s.fab.out) (dod : u.dod = s.dod) (routes : u.fab.routes = s.fab.routes)
    (active : u.fab.active = s.fab.active) (ports : u.fab.ports = s.fab.ports) : SameTraffic s u :=
  ⟨out, dod, routes, active, fun p => by simp [State.port, ports]⟩

theorem trans {s t u : State} (h : SameTraffic s t) (k : SameTraffic t u) : SameTraffic s u where
  out := k.out.trans h.out
  dod := k.dod.trans h.dod
  routes := k.routes.trans h.routes
  active := k.active.trans h.active
  port p := by
    have first := congrArg (fun x : FabPort => { x with rxPackets := (s.port p).rxPackets, rxBytes := (s.port p).rxBytes }) (k.port p)
    exact Eq.trans first (h.port p)

/-- A port has received more. -/
theorem received (s : State) (p : Nat) (n b : FabPort → Word) :
    SameTraffic s (s.onPort p fun x => { x with rxPackets := n x, rxBytes := b x }) := by
  refine ⟨rfl, rfl, rfl, rfl, fun q => ?_⟩
  rcases eq_or_ne q p with rfl | other
  · rw [State.port_onPort_same]
  · rw [State.port_onPort_other _ _ other]

variable {s u : State} (h : SameTraffic s u)
include h

theorem state (p : Nat) : (u.port p).state = (s.port p).state := by have f := congrArg FabPort.state (h.port p); exact f
theorem queued (p : Nat) : (u.port p).queued = (s.port p).queued := by have f := congrArg FabPort.queued (h.port p); exact f
theorem lastFwd (p : Nat) : (u.port p).lastFwd = (s.port p).lastFwd := by have f := congrArg FabPort.lastFwd (h.port p); exact f
theorem transit (p : Nat) : (u.port p).transit = (s.port p).transit := by have f := congrArg FabPort.transit (h.port p); exact f

theorem portUp (p : Nat) : portUp u p = portUp s p := by simp only [Machine.portUp, h.state]

theorem pickPort (bank : Bool) (node : Nat) : pickPort u bank node = pickPort s bank node := by
  simp only [Machine.pickPort, routeOf, h.routes, h.portUp, h.queued]

theorem serve (m : Sent) : serve m u = serve m s := by
  simp only [Machine.serve, h.out, h.lastFwd]

end SameTraffic

/-! ### The Dodgem unit is off -/

section
variable {s : State} (off : flag s.dod.ctl 62 = false) (empty : s.dod.heldPkts = [])

include off in
theorem frameMode_off (p : Nat) : frameMode p s = s := by simp [frameMode, off]

include empty in
theorem releaseHeld_empty (p : Nat) : releaseHeld p s = s := by
  have kept : { s.dod with heldPkts := [] } = s.dod := by rw [← empty]
  simp only [releaseHeld, empty, List.map_nil, List.filter_nil, List.foldl_nil, State.onDod, kept]

include off empty

/-- With the unit off a message just leaves. -/
theorem transmit_off (m : Sent) (req : Bool) (dst : Nat) : transmit m req dst s = leave m s := by
  have unseen : dodgemSees s m.port req dst = false := by simp [dodgemSees, off]
  have released : releaseHeld m.port (leave m s) = leave m s := releaseHeld_empty (s := leave m s) empty m.port
  simp only [transmit, unseen, frameMode_off off, Bool.false_eq_true, if_false, released]

end

theorem leave_out (m : Sent) (s : State) : (leave m s).fab.out = serve m s := by
  have turn : ((s.onPort m.port fun p => { p with
      queued := p.queued + 12 + m.len, txPackets := advance p.txPackets 1, txBytes := advance p.txBytes m.len
      transit := advance p.transit (one (isTransit m)) }).port m.port).lastFwd = (s.port m.port).lastFwd := by
    rw [State.port_onPort_same]
  simp only [leave, State.onFab_fab, serve, turn]
  rfl

theorem leave_transit (m : Sent) (s : State) :
    ((leave m s).port m.port).transit = advance (s.port m.port).transit (one (isTransit m)) := by
  have left := State.port_onPort_same s m.port fun p => { p with
    queued := p.queued + 12 + m.len, txPackets := advance p.txPackets 1, txBytes := advance p.txBytes m.len
    transit := advance p.transit (one (isTransit m)) }
  exact congrArg FabPort.transit left

/-- What is sent from a state with the same traffic is queued in its order of service (R255). -/
theorem sendsOut_transmit {s u : State} (h : SameTraffic s u) (m : Sent) (req : Bool) (dst : Nat) : SendsOut s (transmit m req dst u) m := by
  intro off empty
  rw [transmit_off (h.dod ▸ off) (h.dod ▸ empty), leave_out, h.serve]
  exact ⟨rfl, serve_perm m s⟩

/-- An answer goes out on the port that its route picks. -/
theorem answersOut_answer {s u : State} (h : SameTraffic s u) (peer len : Nat) (msg : FabMsg) {q : Nat}
    (route : pickPort s s.fab.active peer = some q) : AnswersOut s (answer peer len msg u) q len msg := by
  have picked : pickPort u u.fab.active peer = some q := by rw [h.pickPort, h.active, route]
  rw [AnswersOut, ← h.active]
  simp only [answer, picked]
  exact sendsOut_transmit h _ _ _

theorem countIn_same (p len : Nat) (s : State) : SameTraffic s (countIn p len s) := by
  unfold countIn
  split
  · exact .received ..
  · exact .ofFab rfl rfl

/-! ### What is sent is kept (R278) -/

namespace TrafficOnly

variable {s t : State} (h : TrafficOnly s t)
include h

theorem rings : t.rings = s.rings := by obtain ⟨_, _, _, rfl⟩ := h; rfl
theorem tx : t.fab.tx = s.fab.tx := by obtain ⟨_, _, _, rfl⟩ := h; rfl
theorem broken : t.fab.broken = s.fab.broken := by obtain ⟨_, _, _, rfl⟩ := h; rfl
theorem nextSeq : t.fab.nextSeq = s.fab.nextSeq := by obtain ⟨_, _, _, rfl⟩ := h; rfl
theorem retransmits : t.fab.retransmits = s.fab.retransmits := by obtain ⟨_, _, _, rfl⟩ := h; rfl

end TrafficOnly

end Sys2Proof.Proofs.Transmission
end

section
/-! SUPPORT. What the settling of the power domains leaves alone (R361, R377, R380): all but the points and reasons of the domains, the
figures of throttling, and what their records change. -/

namespace Sys2Proof.Proofs.PowerSettles

open Sys2Proof.Machine Sys2Proof.Proofs.RingsThroughStores
open Sys2Proof.Proofs.Scope (PortsOnly portsSettle_portsOnly)

/-- The second state differs from the first in what records change, in the translations, and of the power manager in the domains and in
the figures of throttling alone. -/
def SettleOnly (s t : State) : Prop :=
  { t with
    coh := s.coh, pool := s.pool, xlt := s.xlt, evt := s.evt, rings := s.rings, link := s.link
    pwr := { t.pwr with domains := s.pwr.domains, throttle := s.pwr.throttle, rnh := s.pwr.rnh } } = s

namespace SettleOnly

theorem same (s : State) : SettleOnly s s := rfl

theorem trans {s t u : State} (h : SettleOnly s t) (k : SettleOnly t u) : SettleOnly s u := by
  have first := congrArg (fun x : State => { x with
    coh := s.coh, pool := s.pool, xlt := s.xlt, evt := s.evt, rings := s.rings, link := s.link
    pwr := { x.pwr with domains := s.pwr.domains, throttle := s.pwr.throttle, rnh := s.pwr.rnh } }) k
  exact Eq.trans first h

theorem foldl {β : Type} {f : State → β → State} (h : ∀ s b, SettleOnly s (f s b)) : ∀ (l : List β) (s : State), SettleOnly s (l.foldl f s)
  | [], s => same s
  | b :: l, s => (h s b).trans (foldl h l (f s b))

theorem ofEvent {s t : State} (h : EventOnly s t) : SettleOnly s t := by
  have first := congrArg (fun x : State => { x with
    pool := s.pool, xlt := s.xlt, link := s.link
    pwr := { x.pwr with domains := s.pwr.domains, throttle := s.pwr.throttle, rnh := s.pwr.rnh } }) h.frame
  exact first

theorem onDomain (d : Nat) (f : Domain → Domain) (s : State) : SettleOnly s (s.onDomain d f) := rfl
theorem counted (f : Power → Throttle) (s : State) : SettleOnly s (s.onPwr fun p => { p with rnh := f p }) := rfl
theorem entered (f : Power → Sparse Throttle) (s : State) : SettleOnly s (s.onPwr fun p => { p with throttle := f p }) := rfl

variable {s t : State} (h : SettleOnly s t)
include h

theorem fab : t.fab = s.fab := by have f := congrArg State.fab h; exact f
theorem dod : t.dod = s.dod := by have f := congrArg State.dod h; exact f
theorem boot : t.boot = s.boot := by have f := congrArg State.boot h; exact f
theorem rung : t.pwr.rung = s.pwr.rung := by have f := congrArg (fun x : State => x.pwr.rung) h; exact f
theorem dieOff : t.pwr.dieOff = s.pwr.dieOff := by have f := congrArg (fun x : State => x.pwr.dieOff) h; exact f
theorem memInit : t.pwr.memInit = s.pwr.memInit := by have f := congrArg (fun x : State => x.pwr.memInit) h; exact f
theorem setup : t.setup = s.setup := by have f := congrArg State.setup h; exact f

end SettleOnly

theorem rateCheck_settleOnly (stuck : Bool) (d : Nat) (s : State) : SettleOnly s (rateCheck stuck d s) := by
  unfold rateCheck
  split
  · split
    · exact ((SettleOnly.onDomain d _ s).trans (.counted _ _)).trans (.ofEvent (event_only ..))
    · exact .same s
  · split
    · exact .same s
    · exact .trans (.onDomain d _ s) (.ofEvent (event_only ..))

theorem reasonsUpdate_settleOnly (s : State) : SettleOnly s (reasonsUpdate s) := by
  unfold reasonsUpdate
  extract_lets old stuck s1 new count s2
  have formed : SettleOnly s s1 := .foldl (fun s d => .onDomain d _ s) allDomains s
  have counted : SettleOnly s1 s2 := .entered _ s1
  exact (formed.trans counted).trans (.foldl (fun s d => rateCheck_settleOnly stuck d s) _ s2)

theorem clampDomains_settleOnly (s : State) : SettleOnly s (clampDomains s) := by
  refine .foldl (fun s d => ?_) _ s
  extract_lets top
  split
  · exact .same s
  · exact .onDomain d _ s

theorem powerSettle_settleOnly (s : State) : SettleOnly s (powerSettle s) := (clampDomains_settleOnly s).trans (reasonsUpdate_settleOnly _)

/-- A packet wakes the module from rung 1 (R385): the fabric and the Dodgem unit are as before. -/
theorem stir_fab (s : State) : (stir s).fab = s.fab := by
  unfold stir
  split
  · exact (reasonsUpdate_settleOnly _).fab
  · rfl

theorem stir_dod (s : State) : (stir s).dod = s.dod := by
  unfold stir
  split
  · exact (reasonsUpdate_settleOnly _).dod
  · rfl

end Sys2Proof.Proofs.PowerSettles
end

section
/-! SUPPORT. The states of a port (R254, R282), the frames of a link (R277) and the packets of other nodes (R255, R266), and the statement
on them. -/

namespace Sys2Proof.Proofs.PortStates

open Sys2Proof.Machine Sys2Proof.Claims Sys2Proof.Proofs.Transmission Sys2Proof.Proofs.PowerSettles
open Sys2Proof.Proofs.Messages (partWrite_all)
open Sys2Proof.Proofs.Scope (PortsOnly portsSettle_portsOnly portLeave_portsOnly onPort_portsOnly)

/-! ### The ports settle (R254, R441) -/

/-- One port takes the state that the module's own state gives it. -/
def settlePort (s : State) (p : Nat) : State :=
  let st := (s.port p).state
  let idle := portIdle s p
  let live := st == 2 || st == 6 || portUp s p
  if live then (if idle = 7 ∨ !portEn s p ∨ (st = 2 ∧ idle = 0) then portLeave p idle s else s)
  else if st = idle then s else s.onPort p fun x => { x with state := idle }

theorem portsSettle_eq (s : State) : portsSettle s = (List.range 64).foldl settlePort s := rfl

theorem settlePort_portsOnly (s : State) (p : Nat) : PortsOnly s (settlePort s p) := by
  unfold settlePort
  extract_lets st idle live
  split
  · split
    · exact portLeave_portsOnly ..
    · exact .same s
  · split
    · exact .same s
    · exact onPort_portsOnly ..

theorem port_portLeave_same (p st : Nat) (s : State) : (portLeave p st s).port p = { s.port p with
    state := st, queued := 0, nbrNode := 0, nbrPort := 0 } := by
  have left := State.port_onPort_same s p fun x => { x with state := st, queued := 0, nbrNode := 0, nbrPort := 0 }
  exact left

theorem port_portLeave_other (st : Nat) (s : State) {p q : Nat} (other : q ≠ p) : (portLeave p st s).port q = s.port q := by
  have kept := State.port_onPort_other s (fun x => { x with state := st, queued := 0, nbrNode := 0, nbrPort := 0 }) other
  exact kept

theorem settlePort_other (s : State) {p q : Nat} (other : q ≠ p) : (settlePort s p).port q = s.port q := by
  unfold settlePort
  extract_lets st idle live
  split
  · split
    · exact port_portLeave_other _ _ other
    · rfl
  · split
    · rfl
    · exact State.port_onPort_other _ _ other

/-- The module's own state keeps a port down: its enable bit is clear, or the rung is 2 or deeper (R254). -/
def KeptDown (s : State) (p : Nat) : Prop := portEn s p = false ∨ 2 ≤ s.pwr.rung

theorem KeptDown.ofPortsOnly {s t : State} {p : Nat} (h : PortsOnly s t) (down : KeptDown s p) : KeptDown t p := by
  obtain ⟨_, _, _, _, rfl⟩ := h
  exact down

theorem portIdle_keptDown {s : State} {p : Nat} (down : KeptDown s p) : portIdle s p = 7 ∨ portIdle s p = 0 ∧ portEn s p = false := by
  unfold portIdle
  split
  · exact .inl rfl
  · next shallow =>
    rcases down with off | deep
    · exact .inr ⟨by simp [off], off⟩
    · exact absurd deep shallow

theorem portUp_of_state {s : State} {p : Nat} (h : (s.port p).state = 7 ∨ (s.port p).state = 0) : portUp s p = false := by
  rcases h with h | h <;> simp [portUp, h]

theorem settlePort_down {s : State} {p : Nat} (down : KeptDown s p) : portUp (settlePort s p) p = false := by
  have cases := portIdle_keptDown down
  have low : portIdle s p = 7 ∨ portIdle s p = 0 := cases.imp_right And.left
  unfold settlePort
  extract_lets st idle live
  split
  · have leaves : idle = 7 ∨ (!portEn s p) = true ∨ (st = 2 ∧ idle = 0) := by
      rcases cases with seven | ⟨-, off⟩
      · exact .inl seven
      · exact .inr (.inl (by simp [off]))
    rw [if_pos leaves]
    exact portUp_of_state (by rw [port_portLeave_same]; exact low)
  · next dead =>
    split
    · simp only [live, Bool.or_eq_true, not_or] at dead
      simpa using dead.2
    · exact portUp_of_state (by rw [State.port_onPort_same]; exact low)

/-- A port that is kept down stays down, or goes down when its turn comes. -/
theorem settlePorts_down {p : Nat} : ∀ (l : List Nat) (s : State), KeptDown s p → (p ∈ l ∨ portUp s p = false) →
    portUp (l.foldl settlePort s) p = false
  | [], _, _, h => h.resolve_left List.not_mem_nil
  | q :: l, s, down, h => by
    refine settlePorts_down l (settlePort s q) (down.ofPortsOnly (settlePort_portsOnly s q)) ?_
    rcases eq_or_ne p q with rfl | other
    · exact .inr (settlePort_down down)
    · refine h.imp (fun here => (List.mem_cons.1 here).resolve_left other) fun below => ?_
      simpa [portUp, settlePort_other s other] using below

theorem portsSettle_down {s : State} {p : Nat} (port : p < 64) (down : KeptDown s p) : portUp (portsSettle s) p = false := by
  rw [portsSettle_eq]
  exact settlePorts_down _ s down (.inl (List.mem_range.2 port))

/-! ### Training and going down -/

theorem portOnly_onPort (p : Nat) (f : FabPort → FabPort) (s : State) : PortOnly s (s.onPort p f) p (f (s.port p)) :=
  ⟨rfl, State.port_onPort_same .., fun _ other => State.port_onPort_other _ _ other⟩

section
variable {s : State} {p : Nat}

theorem portPartnerDetect_trains (may : portsTrain s = true) (enabled : portEn s p = true) (waits : (s.port p).state = 1) :
    ∃ t, exec (.portPartnerDetect p) s = .next t ∧ PortOnly s t p { s.port p with state := 2 } := by
  refine ⟨s.onPort p fun x => { x with state := 2 }, ?_, portOnly_onPort ..⟩
  simp [exec, execPortPartnerDetect, may, enabled, waits]

theorem portTrainDone_stays (h : portsTrain s = false ∨ portEn s p = false) (r : TrainResult) :
    exec (.portTrainDone p r) s = .next s := by
  rcases h with h | h <;> simp [exec, execPortTrainDone, h]

section
variable (trains : (s.port p).state = 2) (may : portsTrain s = true) (enabled : portEn s p = true)
include trains may enabled

theorem portTrainDone_fails : ∃ t, exec (.portTrainDone p .failed) s = .next t ∧ PortOnly s t p { s.port p with state := 1 } := by
  refine ⟨s.onPort p fun x => { x with state := 1 }, ?_, portOnly_onPort ..⟩
  simp [exec, execPortTrainDone, trains, may, enabled]

/-- The state of a port after its training, by its neighbour and the lanes that it keeps. -/
def trainedState (s : State) (node : Nat) (lanes : BitVec 2) : Nat :=
  if node = nodeId s then 6 else if lanes = 3 then 3 else if lanes = 1 then 4 else if lanes = 2 then 5 else 1

theorem exec_portTrainDone (trained : BitVec 2) (node : BitVec 14) (nbr : BitVec 6) :
    let st := trainedState s node.toNat (lanesKept s p trained)
    exec (.portTrainDone p (.up trained node nbr)) s = .next (s.onPort p fun x => { x with
      state := st, nbrNode := if st = 1 then 0 else node.toNat, nbrPort := if st = 1 then 0 else nbr.toNat }) := by
  simp [exec, execPortTrainDone, trains, may, enabled, trainedState]

theorem portTrainDone_up {trained : BitVec 2} {node : BitVec 14} {nbr : BitVec 6} (lanes : lanesKept s p trained ≠ 0) :
    ∃ t, exec (.portTrainDone p (.up trained node nbr)) s = .next t ∧ PortOnly s t p { s.port p with
      state := if node.toNat = nodeId s then 6 else if lanesKept s p trained = 3 then 3 else if lanesKept s p trained = 1 then 4 else 5
      nbrNode := node.toNat, nbrPort := nbr.toNat } := by
  have state : trainedState s node.toNat (lanesKept s p trained) =
      if node.toNat = nodeId s then 6 else if lanesKept s p trained = 3 then 3 else if lanesKept s p trained = 1 then 4 else 5 := by
    unfold trainedState
    generalize lanesKept s p trained = l at lanes
    split
    · rfl
    · revert l
      decide
  have up : trainedState s node.toNat (lanesKept s p trained) ≠ 1 := by
    rw [state]
    repeat' split
    all_goals decide
  refine ⟨_, exec_portTrainDone trains may enabled trained node nbr, ?_⟩
  rw [← state]
  have only := portOnly_onPort p (fun x => { x with
    state := trainedState s node.toNat (lanesKept s p trained), nbrNode := node.toNat, nbrPort := nbr.toNat }) s
  simpa only [if_neg up] using only

theorem portTrainDone_noLanes {trained : BitVec 2} {node : BitVec 14} {nbr : BitVec 6} (lanes : lanesKept s p trained = 0)
    (other : node.toNat ≠ nodeId s) : ∃ t, exec (.portTrainDone p (.up trained node nbr)) s = .next t
      ∧ PortOnly s t p { s.port p with state := 1, nbrNode := 0, nbrPort := 0 } := by
  have state : trainedState s node.toNat (lanesKept s p trained) = 1 := by simp [trainedState, other, lanes]
  have ran := exec_portTrainDone trains may enabled trained node nbr
  simp only [state] at ran
  exact ⟨_, ran, portOnly_onPort ..⟩

end

theorem lanesKept_unretired (whole : (repEntry s 8 (portDie p) p).state ≠ 4) (trained : BitVec 2) : lanesKept s p trained = trained := by
  simp [lanesKept, whole]

theorem portDown_leaves (up : portUp s p = true) : ∃ t, exec (.portDown p .linkFailure) s = .next t ∧ (t.port p).state = portIdle s p
    ∧ (t.port p).queued = 0 ∧ (∀ m ∈ t.fab.out, m.port ≠ p) ∧ (∀ m ∈ s.fab.out, m.port ≠ p → m ∈ t.fab.out)
    ∧ (∀ q, q ≠ p → t.port q = s.port q) ∧ t.fab.tx = s.fab.tx := by
  refine ⟨portLeave p (portIdle s p) s, by simp [exec, execPortDown, up], ?_, ?_, fun m left => ?_, fun m waits other => ?_,
    fun q other => port_portLeave_other _ _ other, rfl⟩
  · rw [port_portLeave_same]
  · rw [port_portLeave_same]
  · simpa using (List.mem_filter.1 left).2
  · exact List.mem_filter.2 ⟨waits, by simpa using other⟩

theorem fabPortEnWrite_disables (ready : s.boot.ready = true) (val : Word) : ∃ t, exec (.fabPortEnWrite .whole val) s = .next t
    ∧ t.fab.portEn = val ∧ (∀ q, q < 64 → flag val q = false → portUp t q = false) ∧ t.fab.tx = s.fab.tx ∧ t.pool = s.pool := by
  refine ⟨portsSettle (s.onFab fun f => { f with portEn := val }), ?_, ?_⟩
  · simp [exec, execFabPortEnWrite, whenReady, ready, portEnWrite, partWrite_all]
  · have settled := portsSettle_portsOnly (s.onFab fun f => { f with portEn := val })
    refine ⟨?_, fun q port clear => portsSettle_down port (.inl clear), ?_, settled.pool⟩
    · obtain ⟨_, _, _, _, h⟩ := settled; rw [h]; rfl
    · obtain ⟨_, _, _, _, h⟩ := settled; rw [h]; rfl

/-! ### Frames (R277) -/

theorem frameReceive_retry (up : portUp s p = true) :
    let again := s.fab.retryBuf.filter fun m => m.port == p
    ∃ t, exec (.frameReceive p true .retry) s = .next t ∧ t.fab.out = again ++ s.fab.out
      ∧ (t.port p).retries = advance (s.port p).retries again.length ∧ (∀ m ∈ t.fab.retryBuf, m.port ≠ p) ∧ t.fab.tx = s.fab.tx := by
  intro again
  refine ⟨linkResend p s, by simp [exec, execFrameReceive, up], rfl, ?_, fun m kept => ?_, rfl⟩
  · have counted := State.port_onPort_same s p fun x => { x with retries := advance x.retries again.length }
    exact congrArg FabPort.retries counted
  · simpa using (List.mem_filter.1 kept).2

/-! ### Packets of other nodes (R255, R266) -/

end

theorem crossHub_same (a b n : Nat) (s : State) : SameTraffic s (crossHub a b n s) := by
  have crossed : HomeOnly s (crossHub a b n s) := by
    unfold crossHub
    split
    · exact .rfl
    · exact .foldl (fun s _ => switchIn_only ..) _ s
  have fab := congrArg State.fab crossed.frame
  have dod := congrArg State.dod crossed.frame
  exact .ofFab fab dod

/-- A packet arrives: the module leaves rung 1, and the packet is counted at its port. -/
theorem countRx_stir_same (k : Packet) (s : State) : SameTraffic s (countRx k (stir s)) :=
  (SameTraffic.ofFab (stir_fab s) (stir_dod s)).trans (countIn_same ..)

theorem countRx_stir_fab (k : Packet) (s : State) : ∃ ports, (countRx k (stir s)).fab = { s.fab with ports := ports } := by
  unfold countRx countIn
  split
  · exact ⟨_, by rw [State.onPort, State.onFab_fab, stir_fab]⟩
  · exact ⟨_, by rw [stir_fab]⟩

theorem countRx_stir_rxPackets {k : Packet} {s : State} (up : portUp s k.port = true) :
    ((countRx k (stir s)).port k.port).rxPackets = advance (s.port k.port).rxPackets 1 := by
  have same : (stir s).port k.port = s.port k.port := by simp only [State.port, stir_fab]
  have up' : portUp (stir s) k.port = true := by simpa only [portUp, same] using up
  rw [countRx, countIn, if_pos up', State.port_onPort_same, same]

section
variable {s : State} {p : Nat} {k : Packet} (up : portUp s p = true) (other : k.dst ≠ nodeId s)
include up other

theorem packetForward_dropped (far : 8 ≤ k.hops) : ∃ t, exec (.packetForward p k) s = .next t
    ∧ t.fab.hopDrops = advance s.fab.hopDrops 1 ∧ t.fab.out = s.fab.out ∧ (t.port p).rxPackets = advance (s.port p).rxPackets 1 := by
  obtain ⟨ports, fab⟩ := countRx_stir_fab { k with port := p } s
  refine ⟨(countRx { k with port := p } (stir s)).onFab fun f => { f with hopDrops := advance f.hopDrops 1 }, ?_, ?_, ?_, ?_⟩
  · simp [exec, execPacketForward, up, other, far]
  · rw [State.onFab_fab, fab]
  · rw [State.onFab_fab, fab]
  · exact countRx_stir_rxPackets (k := { k with port := p }) up

section
variable (near : k.hops < 8)
include near

theorem packetForward_unrouted (unrouted : pickPort s k.bank k.dst = none) : ∃ t, exec (.packetForward p k) s = .next t
    ∧ t.fab.noRoute = advance s.fab.noRoute 1 ∧ t.fab.out = s.fab.out := by
  obtain ⟨ports, fab⟩ := countRx_stir_fab { k with port := p } s
  have picked := (countRx_stir_same { k with port := p } s).pickPort k.bank k.dst
  refine ⟨(countRx { k with port := p } (stir s)).onFab fun f => { f with noRoute := advance f.noRoute 1 }, ?_, ?_, ?_⟩
  · simp [exec, execPacketForward, up, other, Nat.not_le.2 near, picked, unrouted]
  · rw [State.onFab_fab, fab]
  · rw [State.onFab_fab, fab]

/-- The packet as it leaves on the next link. -/
def forwarded (k : Packet) (q : Nat) : Sent :=
  { port := q, msg := .transit { k with port := q, hops := k.hops + 1 }, len := k.data.length, response := k.response, hops := k.hops + 1, bank := k.bank }

theorem packetForward_sends {q : Nat} (route : pickPort s k.bank k.dst = some q) : ∃ t, exec (.packetForward p k) s = .next t
    ∧ (flag s.dod.ctl 62 = false → s.dod.heldPkts = [] → (t.port q).transit = advance (s.port q).transit 1)
    ∧ SendsOut s t (forwarded k q) := by
  have arrives := countRx_stir_same { k with port := p } s
  have picked := arrives.pickPort k.bank k.dst
  have crossed := arrives.trans (crossHub_same p q k.data.length _)
  refine ⟨transmit (forwarded k q) (!k.response) k.dst (crossHub p q k.data.length (countRx { k with port := p } (stir s))), ?_,
    fun off empty => ?_, sendsOut_transmit crossed _ _ _⟩
  · simp [exec, execPacketForward, up, other, Nat.not_le.2 near, picked, route, forwarded]
  · rw [transmit_off (crossed.dod ▸ off) (crossed.dod ▸ empty), ← crossed.transit]
    exact leave_transit (forwarded k q) _

end

end

/-! ### The statement -/

/-- Settles O42: each state of a port by what its command leaves it in, the enable register through the settling of every port, and a
packet of another node through the traffic that its arrival leaves as it was. -/
theorem portsTrainAndForward : Obligations.PortsTrainAndForward := by
  intro s p
  refine ⟨portPartnerDetect_trains, fun _ stays r => portTrainDone_stays stays r, fun trains may enabled => ⟨portTrainDone_fails trains may enabled,
    fun trained node nbr => ⟨portTrainDone_up trains may enabled, portTrainDone_noLanes trains may enabled,
      fun whole => lanesKept_unretired whole trained⟩⟩, portDown_leaves, fabPortEnWrite_disables, fun k up => ?_, ?_, frameReceive_retry,
    fun k up other => ⟨packetForward_dropped up other, packetForward_unrouted up other, fun q near => packetForward_sends up other near⟩⟩
  · simp [FabricBecomes, exec, execFrameReceive, up, State.onFab]
  · simp [exec, execFrameReceive]

end Sys2Proof.Proofs.PortStates
end

section
/-! SUPPORT. The record of a change of DODGEM_CTL.EN tells the die of the unit's port (R405): the counterexample to the statement on
windows, routing banks and the fault injection unit. -/

namespace Sys2Proof.Proofs.DodgemRecords

open Sys2Proof.Machine Sys2Proof.Claims

/-- A module at device-ready whose set-up is not committed, the event ring off and the Dodgem unit as reset. -/
def uncommitted : State := { State.reset with boot := { State.reset.boot with ready := true } }

/-- DODGEM_CTL with ALLOW and EN set: packets of either class of port 0. -/
def allowAndEnable : Word := 0xC000000000000000

/-- The record that the write leaves tells a die: it has the die layer. -/
theorem dodgemCtlWrite_tellsDie : ∃ t, exec (.dodgemCtlWrite .whole allowAndEnable) uncommitted = .next t
    ∧ ∃ o ∈ t.evt.held, o.die = some 7 :=
  ⟨_, rfl, by decide +kernel⟩

/-- Refutes O43: the record 0x78 of a write that sets EN is not one with the package layer only. The unit's record carries the die layer,
with the die of its port (R405): for port 0 that is X0, die code 7. -/
theorem not_windowsRoutesAndDodgemUnit : ¬ Obligations.WindowsRoutesAndDodgemUnit := by
  intro h
  obtain ⟨t, wrote, o, held, die⟩ := dodgemCtlWrite_tellsDie
  obtain ⟨-, -, -, -, -, enables, -⟩ := h uncommitted allowAndEnable rfl
  obtain ⟨u, wrote', -, -, -, noted⟩ := enables rfl (by decide) (by decide) (by decide)
  have same : t = u := by simpa using wrote.symm.trans wrote'
  obtain ⟨-, record⟩ := noted (by decide)
  have only := record (by decide) (by decide)
  rw [same, only] at held
  have layer := List.mem_singleton.1 held
  rw [layer] at die
  cases die

end Sys2Proof.Proofs.DodgemRecords
end

section
/-! SUPPORT. What a translated access can do (R228, R237, R249): it changes the pool, the translations, the records, the rings' counts and
what is asked of the host alone. -/

namespace Sys2Proof.Proofs.AccessFrames

open Sys2Proof.Machine

/-- The second state differs from the first in the coherence state, the pool, the translations, the event ring, the rings and the host
link alone. -/
def AccessOnly (s t : State) : Prop :=
  { t with coh := s.coh, pool := s.pool, xlt := s.xlt, evt := s.evt, rings := s.rings, link := s.link } = s

namespace AccessOnly

theorem same (s : State) : AccessOnly s s := rfl

theorem trans {s t u : State} (h : AccessOnly s t) (k : AccessOnly t u) : AccessOnly s u := by
  have first := congrArg (fun x : State => { x with
    coh := s.coh, pool := s.pool, xlt := s.xlt, evt := s.evt, rings := s.rings, link := s.link }) k
  exact Eq.trans first h

theorem foldl {β : Type} {f : State → β → State} (h : ∀ s b, AccessOnly s (f s b)) : ∀ (l : List β) (s : State), AccessOnly s (l.foldl f s)
  | [], s => same s
  | b :: l, s => (h s b).trans (foldl h l (f s b))

theorem ofEvent {s t : State} (h : EventOnly s t) : AccessOnly s t := by
  have first := congrArg (fun x : State => { x with pool := s.pool, xlt := s.xlt, link := s.link }) h.frame
  exact first

theorem onXlt (f : Xlt → Xlt) (s : State) : AccessOnly s (s.onXlt f) := rfl
theorem onLink (f : Link → Link) (s : State) : AccessOnly s (s.onLink f) := rfl

variable {s t : State} (h : AccessOnly s t)
include h

theorem fab : t.fab = s.fab := by have f := congrArg State.fab h; exact f
theorem dod : t.dod = s.dod := by have f := congrArg State.dod h; exact f
theorem pwr : t.pwr = s.pwr := by have f := congrArg State.pwr h; exact f

end AccessOnly

open AccessOnly

/-! ### Translation -/

theorem l1Fill_accessOnly (agent : Nat) (e : TlbEntry) (s : State) : AccessOnly s (l1Fill agent e s) := by
  unfold l1Fill
  split
  · exact onXlt ..
  · exact same s

theorem tlbUse_accessOnly (agent va : Nat) (e : TlbEntry) (s : State) : AccessOnly s (tlbUse agent va e s) := by
  unfold tlbUse
  split
  · exact (onXlt _ s).trans (l1Fill_accessOnly ..)
  · exact l1Fill_accessOnly ..

theorem pteRead_accessOnly (pa : Nat) (s : State) : AccessOnly s (pteRead pa s).2 := ofEvent (poolRead_only ..)

theorem walkFrom_accessOnly (acc : Access) (va : Nat) : ∀ (ls : List Nat) (ppn : Nat) (s : State),
    AccessOnly s (walkFrom acc va ls ppn s).2
  | [], _, s => same s
  | level :: rest, ppn, s => by
    have go := walkFrom_accessOnly acc va rest
    have read := pteRead_accessOnly (ppn * 4096 + bits va (12 + 9 * level) 9 * 8) s
    simp only [walkFrom]
    generalize pteRead (ppn * 4096 + bits va (12 + 9 * level) 9 * 8) s = r at read ⊢
    split
    · exact go _ s
    · split
      · exact same s
      · repeat' split
        all_goals first
          | exact read
          | exact read.trans (go _ _)
          | exact (read.trans (onXlt _ r.2)).trans (go _ _)

theorem walkFill_accessOnly (agent : Nat) (acc : Access) (va : Nat) (s : State) : AccessOnly s (walkFill agent acc va s).2 := by
  have walked : AccessOnly s (walk acc va s).2 := by
    unfold walk
    split
    · exact same s
    · exact walkFrom_accessOnly ..
  unfold walkFill
  generalize walk acc va s = r at walked ⊢
  obtain ⟨⟨r, e⟩, s1⟩ := r
  dsimp only
  split
  · split
    · exact walked
    · have filled (x : TlbEntry) : AccessOnly s1 (l2Fill x s1) := rfl
      exact walked.trans ((filled _).trans (l1Fill_accessOnly ..))
  · exact walked

theorem translate_accessOnly (agent : Nat) (acc : Access) (va : Nat) (s : State) : AccessOnly s (Machine.translate agent acc va s).2 := by
  unfold Machine.translate
  split
  · exact same s
  · split
    · exact same s
    · split
      · split
        · exact walkFill_accessOnly ..
        · dsimp only
          split
          · exact same s
          · exact tlbUse_accessOnly ..
      · exact walkFill_accessOnly ..

theorem place_accessOnly (agent : Nat) (acc : Access) (va : Nat) (s : State) : AccessOnly s (place agent acc va s).2 := by
  have translated := translate_accessOnly agent acc va s
  unfold place
  generalize Machine.translate agent acc va s = r at translated ⊢
  obtain ⟨r, s1⟩ := r
  cases r with
  | ok pa pbmt n =>
    dsimp only
    split
    · split <;> exact translated
    · exact translated
    · exact translated
  | fault c =>
    dsimp only
    split
    · exact translated.trans (ofEvent (event_only ..))
    · exact translated
  | poison => exact translated
  | held => exact translated

/-! ### Accesses of the host -/

theorem hostPlaces_accessOnly (acc : Access) : ∀ (ps : List (Nat × Nat)) (s : State), AccessOnly s (hostPlaces acc ps s).2
  | [], s => same s
  | (va, n) :: ps, s => by
    have translated := translate_accessOnly agentPcie acc va s
    unfold hostPlaces
    generalize Machine.translate agentPcie acc va s = r at translated ⊢
    obtain ⟨r, s1⟩ := r
    cases r with
    | ok pa pbmt log2 =>
      have rest := translated.trans (hostPlaces_accessOnly acc ps s1)
      dsimp only
      generalize hostPlaces acc ps s1 = q at rest ⊢
      obtain ⟨q, s2⟩ := q
      cases q <;> exact rest
    | fault c => exact translated
    | poison => exact translated
    | held => exact translated

/-- A thread of states beside what it gathers. -/
theorem foldl_snd_accessOnly {α β : Type} {f : α × State → β → α × State} (h : ∀ p b, AccessOnly p.2 (f p b).2) :
    ∀ (l : List β) (p : α × State), AccessOnly p.2 (l.foldl f p).2
  | [], p => same p.2
  | b :: l, p => (h p b).trans (foldl_snd_accessOnly h l (f p b))

theorem hostRead_accessOnly (va n : Nat) (s : State) : AccessOnly s (hostRead va n s) := by
  have placed := hostPlaces_accessOnly .read (hostPieces4k va n) s
  unfold hostRead
  generalize hostPlaces .read (hostPieces4k va n) s = r at placed ⊢
  obtain ⟨r, s1⟩ := r
  cases r with
  | ok ps =>
    refine placed.trans (AccessOnly.trans (foldl_snd_accessOnly (fun p b => ?_) ps ([], s1)) (onLink ..))
    exact ofEvent (poolRead_only ..)
  | fault a c => exact placed.trans ((ofEvent (event_only ..)).trans (onLink ..))
  | held => exact placed.trans (onLink ..)

theorem hostWrite_accessOnly (va : Nat) (b : List Byte) (ep : Bool) (s : State) : AccessOnly s (hostWrite va b ep s) := by
  have placed := hostPlaces_accessOnly .write (hostPieces4k va b.length) s
  unfold hostWrite
  generalize hostPlaces .write (hostPieces4k va b.length) s = r at placed ⊢
  obtain ⟨r, s1⟩ := r
  cases r with
  | ok ps =>
    refine placed.trans (AccessOnly.trans ?_ (onLink ..))
    exact foldl_snd_accessOnly (fun p _ => ofEvent (poolWrite_only ..)) ps (b, s1)
  | fault a c => exact placed.trans ((ofEvent (event_only ..)).trans (onLink ..))
  | held => exact placed.trans (onLink ..)

theorem heldAgain_accessOnly (h : HeldAccess) (s : State) : AccessOnly s (heldAgain h s) := by
  unfold heldAgain
  extract_lets again
  have accessed : AccessOnly s again := by
    unfold again
    split
    · exact hostWrite_accessOnly ..
    · exact hostRead_accessOnly ..
  split
  · exact accessed
  · exact accessed.trans (onLink ..)

end Sys2Proof.Proofs.AccessFrames
end

section
/-! SUPPORT. The rungs (R383 to R386): the points of the domains once they are held at OP0, what powering the dies off and on leaves of the
power manager, the boot after rung 5, and the statement on them. -/

namespace Sys2Proof.Proofs.RungLadder

open Sys2Proof.Machine Sys2Proof.Claims Sys2Proof.Proofs.PowerSettles Sys2Proof.Proofs.AccessFrames
open Sys2Proof.Proofs.RingsThroughStores (foldl_rings event_rings)
open Sys2Proof.Proofs.Scope (PortsOnly portsSettle_portsOnly)
open Sys2Proof.Proofs.PortStates (portsSettle_down)
open Sys2Proof.Proofs.TranslationsKept (wakeEngines_only)
open Sys2Proof.Proofs.Maintenance (lineMaint_only lineMaints_rings)

/-! ### The rings (R377, R380) -/

theorem rateCheck_rings (stuck : Bool) (d : Nat) (s : State) : (rateCheck stuck d s).rings = s.rings := by
  unfold rateCheck
  split
  · split
    · exact event_rings ..
    · rfl
  · split
    · rfl
    · exact event_rings ..

theorem reasonsUpdate_rings (s : State) : (reasonsUpdate s).rings = s.rings := by
  unfold reasonsUpdate
  extract_lets old stuck s1 new count s2
  have formed : s1.rings = s.rings := foldl_rings (fun s d => State.onDomain_rings s d _) allDomains s
  clear_value s1
  have counted : s2.rings = s1.rings := State.onPwr_rings ..
  exact (foldl_rings (fun s d => rateCheck_rings stuck d s) _ s2).trans (counted.trans formed)

theorem clampDomains_rings (s : State) : (clampDomains s).rings = s.rings := by
  refine foldl_rings (fun s d => ?_) _ s
  extract_lets top
  split <;> rfl

theorem powerSettle_rings (s : State) : (powerSettle s).rings = s.rings := (reasonsUpdate_rings _).trans (clampDomains_rings s)

/-! ### Points held at OP0 (R361, R383) -/

/-- Every domain has the point in force that it had. -/
def PointsKept (s t : State) : Prop := ∀ d, (t.domain d).inForce = (s.domain d).inForce

namespace PointsKept

theorem same (s : State) : PointsKept s s := fun _ => rfl
theorem trans {s t u : State} (h : PointsKept s t) (k : PointsKept t u) : PointsKept s u := fun d => (k d).trans (h d)
theorem ofPwr {s t : State} (h : t.pwr = s.pwr) : PointsKept s t := fun d => by simp only [State.domain, h]
theorem onPwr {s : State} {f : Power → Power} (h : (f s.pwr).domains = s.pwr.domains) : PointsKept s (s.onPwr f) := fun d => by
  simp only [State.domain, State.onPwr_pwr, h]

theorem onDomain {s : State} {d : Nat} {f : Domain → Domain} (h : (f (s.domain d)).inForce = (s.domain d).inForce) :
    PointsKept s (s.onDomain d f) := by
  intro k
  rcases eq_or_ne k d with rfl | other
  · rw [State.domain_onDomain_same, h]
  · rw [State.domain_onDomain_other _ _ other]

theorem foldl {β : Type} {f : State → β → State} (h : ∀ s b, PointsKept s (f s b)) : ∀ (l : List β) (s : State), PointsKept s (l.foldl f s)
  | [], s => same s
  | b :: l, s => (h s b).trans (foldl h l (f s b))

end PointsKept

theorem event_pwr (cls reason addr param : Nat) (s : State) : (event cls reason addr param s).pwr = s.pwr :=
  (AccessOnly.ofEvent (event_only ..)).pwr

theorem rateCheck_points (stuck : Bool) (d : Nat) (s : State) : PointsKept s (rateCheck stuck d s) := by
  unfold rateCheck
  split
  · split
    · exact ((PointsKept.onDomain rfl).trans (.onPwr rfl)).trans (.ofPwr (event_pwr ..))
    · exact .same s
  · split
    · exact .same s
    · exact (PointsKept.onDomain rfl).trans (.ofPwr (event_pwr ..))

theorem reasonsUpdate_points (s : State) : PointsKept s (reasonsUpdate s) := by
  unfold reasonsUpdate
  extract_lets old stuck s1 new count s2
  have formed : PointsKept s s1 := .foldl (fun s d => .onDomain rfl) allDomains s
  clear_value s1
  have counted : PointsKept s1 s2 := .onPwr rfl
  exact (formed.trans counted).trans (.foldl (fun s d => rateCheck_points stuck d s) _ s2)

/-- One domain's point falls to its target, or to OP0 where it is held there. -/
def clampDomain (s : State) (d : Nat) : State :=
  let top := if heldAtZero s d then 0 else if dieFrozen s (domainDie d) then (s.domain d).inForce else targetOp s d
  if (s.domain d).inForce ≤ top then s else s.onDomain d fun x => { x with inForce := top }

theorem clampDomains_eq (s : State) :
    clampDomains s = (allDomains.filter fun d => decide (0 < (s.domain d).inForce)).foldl clampDomain s := rfl

theorem clampDomain_rung (s : State) (d : Nat) : (clampDomain s d).pwr.rung = s.pwr.rung := by
  unfold clampDomain
  extract_lets top
  split <;> rfl

theorem clampDomain_same {s : State} (low : s.pwr.rung ≠ 0) (d : Nat) : ((clampDomain s d).domain d).inForce = 0 := by
  have held : heldAtZero s d = true := by simp [heldAtZero, low]
  unfold clampDomain
  extract_lets top
  have zero : top = 0 := if_pos held
  split
  · next below => omega
  · rw [State.domain_onDomain_same, zero]

theorem clampDomain_other {s : State} {d k : Nat} (other : k ≠ d) : (clampDomain s d).domain k = s.domain k := by
  unfold clampDomain
  extract_lets top
  split
  · rfl
  · exact State.domain_onDomain_other _ _ other

theorem clampEach_zero {k : Nat} : ∀ (l : List Nat) (s : State), s.pwr.rung ≠ 0 → (k ∈ l ∨ (s.domain k).inForce = 0) →
    ((l.foldl clampDomain s).domain k).inForce = 0
  | [], _, _, h => h.resolve_left List.not_mem_nil
  | d :: l, s, low, h => by
    refine clampEach_zero l (clampDomain s d) (by rwa [clampDomain_rung]) ?_
    rcases eq_or_ne k d with rfl | other
    · exact .inr (clampDomain_same low k)
    · rw [clampDomain_other other]
      exact h.imp_left fun here => (List.mem_cons.1 here).resolve_left other

/-- Below rung 0 every domain is at OP0. -/
theorem powerSettle_zero {s : State} (low : s.pwr.rung ≠ 0) {d : Nat} (domain : d < 43) : ((powerSettle s).domain d).inForce = 0 := by
  rw [powerSettle, reasonsUpdate_points, clampDomains_eq]
  refine clampEach_zero _ s low ?_
  rcases Nat.eq_zero_or_pos (s.domain d).inForce with zero | above
  · exact .inr zero
  · exact .inl (List.mem_filter.2 ⟨List.mem_range.2 domain, decide_eq_true above⟩)

/-! ### Frames of the ports and of the carry-over record -/

theorem portsSettle_pwr (s : State) : (portsSettle s).pwr = s.pwr := by obtain ⟨_, _, _, _, h⟩ := portsSettle_portsOnly s; rw [h]
theorem portsSettle_wins (s : State) : (portsSettle s).fab.wins = s.fab.wins := by obtain ⟨_, _, _, _, h⟩ := portsSettle_portsOnly s; rw [h]

theorem noteRung_eq (s : State) : ∃ k, noteRung s = { s with pickle := k } := by
  unfold noteRung
  split
  · exact ⟨_, rfl⟩
  · exact ⟨_, rfl⟩

theorem noteRung_pwr (s : State) : (noteRung s).pwr = s.pwr := by obtain ⟨_, h⟩ := noteRung_eq s; rw [h]
theorem noteRung_fab (s : State) : (noteRung s).fab = s.fab := by obtain ⟨_, h⟩ := noteRung_eq s; rw [h]

theorem setRung_rung (r : Nat) (s : State) : (setRung r s).pwr.rung = r := rfl

/-- The rung that is entered, once power and ports have settled. -/
theorem settled_rung (r : Nat) (s : State) : (portsSettle (powerSettle (setRung r s))).pwr.rung = r := by
  rw [portsSettle_pwr, (powerSettle_settleOnly _).rung, setRung_rung]

theorem settled_rings (r : Nat) (s : State) : (portsSettle (powerSettle (setRung r s))).rings = s.rings := by
  rw [(portsSettle_portsOnly _).rings, powerSettle_rings]
  rfl

/-! ### Descent (R384) -/

section
variable {s : State}

theorem rung1Enter_descends (awake : s.pwr.rung = 0) (idle : moduleIdle s = true) (thawed : s.pickle.freezing = false) :
    ∃ t, exec .rung1Enter s = .next t ∧ t.pwr.rung = 1 ∧ Points t (fun _ => True) (fun _ => 0) := by
  refine ⟨enterRung1 s, by simp [exec, execRung1Enter, awake, idle, thawed], ?_⟩
  unfold enterRung1
  extract_lets u
  refine ⟨?_, fun d domain _ => ?_⟩
  · rw [noteRung_pwr, settled_rung]
  · have low : (setRung 1 u).pwr.rung ≠ 0 := Nat.one_ne_zero
    rw [State.domain, noteRung_pwr, portsSettle_pwr]
    exact powerSettle_zero low domain

theorem rung2Enter_descends (may : mayDescend 1 2 s = true) :
    ∃ t, exec .rung2Enter s = .next t ∧ t.pwr.rung = 2 ∧ ∀ p, p < 64 → portUp t p = false := by
  refine ⟨enterRung2 s, by simp [exec, execRung2Enter, may], ?_⟩
  have deep : 2 ≤ (powerSettle (setRung 2 s)).pwr.rung := by rw [(powerSettle_settleOnly _).rung, setRung_rung]
  refine ⟨?_, fun p port => ?_⟩
  · rw [enterRung2, noteRung_pwr, settled_rung]
  · have down := portsSettle_down port (.inr deep)
    rwa [portUp, State.port, enterRung2, noteRung_fab]

theorem rung3Enter_descends (may : mayDescend 2 3 s = true) (quiet : linkQuiet s = true ∨ s.endpoint = false) :
    ∃ t, exec .rung3Enter s = .next t ∧ t.pwr.rung = 3 ∧ t.pwr.dieOff = [1, 2, 3, 4, 5, 6] ∧ t.engines = [] ∧ t.arrays = []
      ∧ t.coh.priv = [] ∧ t.xlt.l1 = [] ∧ t.rings = s.rings := by
  have lets : (linkQuiet s || !s.endpoint) = true := by simpa using quiet
  refine ⟨enterRung3 s, by simp [exec, execRung3Enter, may, lets], ?_⟩
  unfold enterRung3
  extract_lets cleaned
  have rings : cleaned.rings = s.rings := lineMaints_rings ..
  obtain ⟨k, noted⟩ := noteRung_eq (diesOff [1, 2, 3, 4, 5, 6] (portsSettle (powerSettle (setRung 3 cleaned))))
  have rung := settled_rung 3 cleaned
  have kept := settled_rings 3 cleaned
  rw [noted]
  generalize portsSettle (powerSettle (setRung 3 cleaned)) = settled at rung kept ⊢
  exact ⟨rung, rfl, rfl, rfl, rfl, rfl, kept.trans rings⟩

/-! ### Wakes (R385, R386) -/

theorem dlAgain_dl (p : Nat) (s : State) : ∃ dl, dlAgain p s = { s with dl := dl } := by
  unfold dlAgain
  split
  · exact ⟨_, rfl⟩
  · split
    · exact ⟨_, rfl⟩
    · exact ⟨_, rfl⟩

theorem dlAgains_dl : ∀ (l : List Nat) (s : State), ∃ dl, l.foldl (fun s p => dlAgain p s) s = { s with dl := dl }
  | [], _ => ⟨_, rfl⟩
  | p :: l, s => by
    obtain ⟨_, first⟩ := dlAgain_dl p s
    obtain ⟨dl, rest⟩ := dlAgains_dl l (dlAgain p s)
    exact ⟨dl, by rw [List.foldl_cons, rest, first]⟩

/-- The dies are powered again; of the power manager only that changes. -/
theorem diesOn_pwr (s : State) : (diesOn s).pwr = { s.pwr with dieOff := [] } := by
  obtain ⟨dl, on⟩ := dlAgains_dl (List.range 8) (diesPowered s)
  rw [diesOn, on]
  rfl

theorem endHolds_pwr (s : State) : (endHolds s).pwr = s.pwr := by
  unfold endHolds
  split
  · rfl
  · unfold afterHold
    extract_lets waiting u
    have woken := congrArg State.pwr (wakeEngines_only (waiting.foldl (fun s h => heldAgain h s) u))
    refine Eq.trans woken ?_
    exact (AccessOnly.foldl (fun s h => heldAgain_accessOnly h s) waiting u).pwr

theorem leaveRung4_pwr (s : State) : (leaveRung4 s).pwr = { s.pwr with dieOff := [], memInit := true } := by
  refine (endHolds_pwr _).trans ?_
  rw [tlbsEmpty, State.onXlt_pwr, State.onPwr_pwr, diesOn_pwr]

/-- The dies on as the module wakes from rung 2 or 3. -/
def wokenDies (s : State) : State := if s.pwr.dieOff.isEmpty || !s.boot.ready then s else diesOn s

theorem wokenDies_dieOff (ready : s.boot.ready = true) : (wokenDies s).pwr.dieOff = [] := by
  unfold wokenDies
  split
  · next h => simpa [ready] using h
  · rw [diesOn_pwr]

/-- The module enters rung 0: every power domain and every port settles. -/
def enterRung0 (s : State) : State := portsSettle (reasonsUpdate (setRung 0 s))

theorem enterRung0_pwr (s : State) : (enterRung0 s).pwr.rung = 0 ∧ (enterRung0 s).pwr.dieOff = s.pwr.dieOff
    ∧ (enterRung0 s).pwr.memInit = s.pwr.memInit := by
  have settled := reasonsUpdate_settleOnly (setRung 0 s)
  rw [enterRung0, portsSettle_pwr, settled.rung, settled.dieOff, settled.memInit]
  exact ⟨rfl, rfl, rfl⟩

theorem wakeUp_sleeping (w : Wake) (deep : s.pwr.rung = 2 ∨ s.pwr.rung = 3) (other : w ≠ .fabricPacket) :
    wakeUp w s = enterRung0 (wokenDies s) := by
  rcases deep with h | h <;> simp [wakeUp, h, other, enterRung0, wokenDies]

theorem wakeUp_fabricPacket (deep : s.pwr.rung = 2 ∨ s.pwr.rung = 3) : wakeUp .fabricPacket s = s := by
  rcases deep with h | h <;> simp [wakeUp, h]

theorem wakeUp_rung4 (w : Wake) (h : s.pwr.rung = 4) (other : w ≠ .fabricPacket) : wakeUp w s = enterRung0 (leaveRung4 s) := by
  simp [wakeUp, h, other, enterRung0]

/-! ### The boot after rung 5 (R386) -/

/-- The kind of the boot, its readiness and H's counter are as before. -/
def BootKept (s t : State) : Prop := t.boot.kind = s.boot.kind ∧ t.boot.ready = s.boot.ready ∧ t.hTicks = s.hTicks

namespace BootKept

theorem same (s : State) : BootKept s s := ⟨rfl, rfl, rfl⟩

theorem trans {s t u : State} (h : BootKept s t) (k : BootKept t u) : BootKept s u :=
  ⟨k.1.trans h.1, k.2.1.trans h.2.1, k.2.2.trans h.2.2⟩

theorem ofEvent {s t : State} (h : EventOnly s t) : BootKept s t := by
  have boot := congrArg State.boot h.frame
  have ticks := congrArg State.hTicks h.frame
  exact ⟨congrArg Boot.kind boot, congrArg Boot.ready boot, ticks⟩

theorem foldl {β : Type} {f : State → β → State} (h : ∀ s b, BootKept s (f s b)) : ∀ (l : List β) (s : State), BootKept s (l.foldl f s)
  | [], s => same s
  | b :: l, s => (h s b).trans (foldl h l (f s b))

end BootKept

theorem verifyComponent_boot (exhausted : Nat) (s : State) (comp : Nat) : BootKept s (verifyComponent exhausted s comp) := by
  unfold verifyComponent
  split
  · exact .same s
  · dsimp only
    split
    · exact ⟨rfl, rfl, rfl⟩
    · split
      · exact .trans (t := s.onBoot _) ⟨rfl, rfl, rfl⟩ (.ofEvent (event_only ..))
      · exact ⟨rfl, rfl, rfl⟩

theorem revertActivation_boot (s : State) : BootKept s (revertActivation s) := by
  unfold revertActivation
  extract_lets a u
  have cleared : BootKept s u := ⟨rfl, rfl, rfl⟩
  refine cleared.trans (.foldl (fun s c => ?_) _ u)
  split
  · exact .ofEvent (event_only ..)
  · exact .same s

theorem verifyAll_boot (exhausted : Nat) (l : List Nat) (s : State) : BootKept s (l.foldl (verifyComponent exhausted) s) :=
  .foldl (fun s c => verifyComponent_boot exhausted s c) l s

theorem bootFrom_boot (kind : Nat) (s : State) : (bootFrom kind s).boot.kind = kind ∧ (bootFrom kind s).boot.ready = s.boot.ready
    ∧ (bootFrom kind s).hTicks = s.hTicks := by
  unfold bootFrom
  extract_lets s1 revert exhausted s2 s3
  have started : s1.boot.kind = kind ∧ s1.boot.ready = s.boot.ready ∧ s1.hTicks = s.hTicks := ⟨rfl, rfl, rfl⟩
  have reverted : BootKept s1 s2 := by
    unfold s2
    clear_value s1
    split
    · exact revertActivation_boot s1
    · split
      · exact ⟨rfl, rfl, rfl⟩
      · exact .same s1
  have verified : BootKept s2 s3 := verifyAll_boot exhausted (List.range 5) s2
  clear_value s3 s2 s1
  obtain ⟨kindIs, readyIs, ticksAre⟩ := started
  obtain ⟨kinds, readies, ticks⟩ := reverted.trans verified
  split
  · exact ⟨kinds.trans kindIs, readies.trans readyIs, ticks.trans ticksAre⟩
  · exact ⟨kinds.trans kindIs, readies.trans readyIs, ticks.trans ticksAre⟩

theorem coldState_ready (s : State) : (coldState s).boot.ready = false := by unfold coldState; rfl

theorem leaveRung5_boot (s : State) : (leaveRung5 s).boot.kind = 3 ∧ (leaveRung5 s).boot.ready = false ∧ (leaveRung5 s).hTicks = s.hTicks := by
  have ready : (keepIsland s (coldState s)).boot.ready = false := coldState_ready s
  have ticks : (keepIsland s (coldState s)).hTicks = s.hTicks := rfl
  unfold leaveRung5
  generalize keepIsland s (coldState s) = u at ready ticks
  obtain ⟨kinds, readies, kept⟩ := bootFrom_boot 3 u
  exact ⟨kinds, readies.trans ready, kept.trans ticks⟩

section
variable (island : s.boot.island = true) (lid : s.boot.lidFault = false) (w : Wake)
include island lid

theorem exec_rungWake : exec (.rungWake w) s = .next (wakeUp w s) := by simp [exec, execRungWake, island, lid]

theorem rungWake_rung1 (h : s.pwr.rung = 1) : ∃ t, exec (.rungWake w) s = .next t ∧ t.pwr.rung = 0 ∧ t.rings = s.rings := by
  refine ⟨reasonsUpdate (setRung 0 s), ?_, (reasonsUpdate_settleOnly _).rung, reasonsUpdate_rings _⟩
  simp [exec_rungWake island lid, wakeUp, h]

theorem rungWake_sleeping (deep : s.pwr.rung = 2 ∨ s.pwr.rung = 3) (other : w ≠ .fabricPacket) :
    ∃ t, exec (.rungWake w) s = .next t ∧ t.pwr.rung = 0 ∧ (s.boot.ready = true → t.pwr.dieOff = []) := by
  obtain ⟨rung, dieOff, -⟩ := enterRung0_pwr (wokenDies s)
  exact ⟨_, by rw [exec_rungWake island lid, wakeUp_sleeping w deep other], rung, fun ready => dieOff.trans (wokenDies_dieOff ready)⟩

theorem rungWake_rung4 (h : s.pwr.rung = 4) (other : w ≠ .fabricPacket) :
    ∃ t, exec (.rungWake w) s = .next t ∧ t.pwr.rung = 0 ∧ t.pwr.memInit = true ∧ t.pwr.dieOff = [] := by
  obtain ⟨rung, dieOff, memInit⟩ := enterRung0_pwr (leaveRung4 s)
  rw [leaveRung4_pwr] at dieOff memInit
  exact ⟨_, by rw [exec_rungWake island lid, wakeUp_rung4 w h other], rung, memInit, dieOff⟩

theorem rungWake_rung5 (h : s.pwr.rung = 5) (wakes : w = .managementBus ∨ w = .perst) :
    ∃ t, exec (.rungWake w) s = .next t ∧ t.boot.kind = 3 ∧ t.boot.ready = false ∧ t.hTicks = s.hTicks :=
  ⟨leaveRung5 s, by simp [exec_rungWake island lid, wakeUp, h, wakes], leaveRung5_boot s⟩

end

/-! ### Rungs 4 and 5 by command (R386) -/

section
variable (ready : s.boot.ready = true)
include ready

theorem enterRung4_refused (refused : enterRefused s = true) : PowerBecomes .enterRung4 s { s.pwr with rungErr := true } := by
  simp [PowerBecomes, exec, execEnterRung4, whenReady, ready, enterRequest, refused, State.onPwr]

theorem enterRung5_refused (refused : enterRefused s = true) : PowerBecomes .enterRung5 s { s.pwr with rungErr := true } := by
  simp [PowerBecomes, exec, execEnterRung5, whenReady, ready, enterRequest, refused, State.onPwr]

variable (granted : enterRefused s = false)
include granted

theorem enterRung4_loses (above : s.pwr.rung < 4) : ∃ t, exec .enterRung4 s = .next t ∧ t.pwr.rung = 4 ∧ t.pool.mem = []
    ∧ t.pool.poison = [] ∧ t.coh.sc = [] ∧ t.rings = s.rings ∧ t.setup = s.setup ∧ t.fab.wins = s.fab.wins := by
  refine ⟨Machine.enterRung4 s, ?_, ?_⟩
  · simp [exec, execEnterRung4, whenReady, ready, enterRequest, granted, Nat.not_le.2 above]
  · have rung := settled_rung 4 s
    have rings := settled_rings 4 s
    have setup : (portsSettle (powerSettle (setRung 4 s))).setup = s.setup := by
      rw [(portsSettle_portsOnly _).setup, (powerSettle_settleOnly _).setup]
      rfl
    have wins : (portsSettle (powerSettle (setRung 4 s))).fab.wins = s.fab.wins := by
      rw [portsSettle_wins, (powerSettle_settleOnly _).fab]
      rfl
    unfold Machine.enterRung4
    generalize portsSettle (powerSettle (setRung 4 s)) = settled at rung rings setup wins ⊢
    exact ⟨rung, rfl, rfl, rfl, rings, setup, wins⟩

theorem enterRung5_loses (above : s.pwr.rung < 5) : ∃ t, exec .enterRung5 s = .next t ∧ t.pwr.rung = 5 ∧ t.pool.mem = []
    ∧ t.rings = [] ∧ t.hTicks = s.hTicks ∧ t.pwr.throttle = s.pwr.throttle := by
  refine ⟨Machine.enterRung5 s, ?_, rfl, rfl, rfl, rfl, rfl⟩
  simp [exec, execEnterRung5, whenReady, ready, enterRequest, granted, Nat.not_le.2 above]

end

end

/-! ### The statement -/

/-- Settles O49: a descent by what its settling leaves of rung, points and ports, a wake by the rung that it leaves, and rungs 4 and 5 by
what the loss of the pool keeps. -/
theorem rungsAreEnteredAndLeft : Obligations.RungsAreEnteredAndLeft := by
  intro s
  refine ⟨rung1Enter_descends, rung2Enter_descends, rung3Enter_descends, fun island lid w => ⟨fun awake => ?_, rungWake_rung1 island lid w,
    fun deep packet => ?_, rungWake_sleeping island lid w, rungWake_rung4 island lid w, rungWake_rung5 island lid w, fun off bus perst => ?_⟩,
    fun ready => ⟨fun refused => ⟨enterRung4_refused ready refused, enterRung5_refused ready refused⟩, enterRung4_loses ready,
      enterRung5_loses ready⟩, rfl⟩
  · simp [exec_rungWake island lid, wakeUp, awake]
  · rw [exec_rungWake island lid, packet, wakeUp_fabricPacket deep]
  · simp [exec_rungWake island lid, wakeUp, off, bus, perst]

end Sys2Proof.Proofs.RungLadder
end

section
/-! SUPPORT. A packet for this module in its turn (R260, R261, R278 to R280): what the receiver's context becomes, what performing the
packet leaves of the fabric's state, and the answer that goes out. -/

namespace Sys2Proof.Proofs.PacketsPerformed

open Sys2Proof.Machine Sys2Proof.Claims Sys2Proof.Proofs.Transmission Sys2Proof.Proofs.PortStates Sys2Proof.Proofs.AccessFrames

/-! ### A table's entry given twice -/

theorem tdel_tins {α : Type} (t : Sparse α) (n : Nat) (v : α) : tdel (tins t n v) n = tdel t n := by
  induction t with
  | nil => simp [tins, tdel]
  | cons p t ih =>
    simp only [tins]
    split
    · next same => simp [tdel, same]
    · next other =>
      split
      · simp [tdel, other]
      · simp [tdel, other, ih]

theorem tins_tins {α : Type} (t : Sparse α) (n : Nat) (v w : α) : tins (tins t n v) n w = tins t n w := by
  induction t with
  | nil => simp [tins]
  | cons p t ih =>
    simp only [tins]
    split
    · simp [tins]
    · next other =>
      split
      · simp [tins]
      · next later => simp [tins, other, later, ih]

/-- The later of two values of a number is the one listed. -/
theorem tput_tput {α : Type} [DecidableEq α] {d v : α} (t : Sparse α) (n : Nat) (w : α) (listed : v ≠ d) :
    tput d (tput d t n v) n w = tput d t n w := by
  have first : tput d t n v = tins t n v := if_neg listed
  rw [first]
  unfold tput
  split
  · exact tdel_tins t n v
  · exact tins_tins t n v w

/-! ### The receiver's context -/

theorem rxOf_onRx (peer : Nat) (f : RxCtx → RxCtx) (s : State) : rxOf (onRx peer f s) peer = f (rxOf s peer) := tget_tput_same ..

/-- A context that holds a packet, and then another one. -/
theorem onRx_onRx (peer : Nat) (f : RxCtx → RxCtx) {r : RxCtx} (s : State) (holds : r.held ≠ []) :
    onRx peer f (onRx peer (fun _ => r) s) = onRx peer (fun _ => f r) s := by
  have listed : r ≠ {} := fun h => holds (by rw [h])
  have twice := tput_tput s.fab.rx peer (f r) listed
  simp only [onRx, State.onFab, tget_tput_same, twice]

theorem onRx_same (peer : Nat) (f : RxCtx → RxCtx) (s : State) : SameTraffic s (onRx peer f s) := .ofPorts rfl rfl rfl rfl rfl

theorem seqAhead_next {b : Nat} (h : b < 2 ^ 24) : seqAhead ((b + 1) % 2 ^ 24) b = 2 ^ 24 - 1 := by
  unfold seqAhead
  omega

theorem seqAhead_self (b : Nat) : seqAhead b b = 0 := by
  unfold seqAhead
  omega

/-- A packet in its turn moves the base past itself (R278). -/
theorem rxAdvance_turn {r : RxCtx} {b : Nat} (turn : b = r.base) (seen : r.seen = []) :
    rxAdvance (r.seen.length + 2) { r with seen := setAdd r.seen b } = { r with base := (b + 1) % 2 ^ 24 } := by
  obtain ⟨base, seenList, held, atomics, faulted, refused⟩ := r
  simp only at turn seen
  subst turn seen
  simp [rxAdvance, setAdd, without]

/-- With the base missing nothing moves (R279). -/
theorem rxAdvance_missing {r : RxCtx} (k : Nat) (missing : r.base ∉ r.seen) : rxAdvance k r = r := by
  cases k with
  | zero => rfl
  | succ k => simp [rxAdvance, missing]

/-- A context that holds nothing has nothing to perform (R279). -/
theorem rxDrain_empty {peer : Nat} {s : State} (empty : (rxOf s peer).held = []) (k : Nat) : rxDrain peer k s = s := by
  cases k with
  | zero => rfl
  | succ k => simp [rxDrain, empty]

/-! ### What performing a packet leaves of the fabric's state (R261) -/

theorem homeRun_fab (req : HomeReq) (agent line : Nat) (ep : Bool) (s : State) : (homeRun req agent line ep s).fab = s.fab := by
  have f := congrArg State.fab (homeRun_only req agent line ep s).frame
  exact f

theorem homeWait_fab (line : Nat) (s : State) : (homeWait line s).fab = s.fab := by
  have f := congrArg State.fab (homeWait_only line s).frame
  exact f

theorem hotPool_fab (pa n : Nat) (s : State) : (hotPool pa n s).fab = s.fab := (AccessOnly.ofEvent (.ofPool (hotPool_only pa n s))).fab

theorem hotAfter_fab (pa : Nat) (s : State) : (hotAfter pa s).fab = s.fab := (AccessOnly.ofEvent (hotAfter_only pa s)).fab

theorem foldl_fab {β : Type} {f : State → β → State} (h : ∀ s b, (f s b).fab = s.fab) : ∀ (l : List β) (s : State), (l.foldl f s).fab = s.fab
  | [], _ => rfl
  | b :: l, s => (foldl_fab h l (f s b)).trans (h s b)

theorem slotLocks_fab (agent pa n : Nat) (s : State) : (slotLocks agent pa n s).fab = s.fab :=
  (foldl_fab (fun s (p : Nat × Nat) => homeRun_fab (.lock (pa / 128)) agent (p.1 / 128) false s) _ _).trans (homeWait_fab ..)

theorem slotWrite_fab (agent : Nat) : ∀ (ps : List (Nat × Nat)) (b : List Byte) (s : State), (slotWrite agent ps b s).fab = s.fab
  | [], _, _ => rfl
  | (_, _) :: ps, _, _ => (slotWrite_fab agent ps _ _).trans ((hotPool_fab ..).trans (homeRun_fab ..))

theorem slotAddAll_fab (agent pa : Nat) (fp64 : Bool) (vs : List Nat) (s : State) : (slotAddAll agent pa fp64 vs s).fab = s.fab := by
  unfold slotAddAll
  extract_lets n s1 s2
  have locked : s1.fab = s.fab := slotLocks_fab ..
  have written : s2.fab = s1.fab := (hotAfter_fab ..).trans ((hotAfter_fab ..).trans (slotWrite_fab ..))
  exact written.trans locked

theorem poolStore_fab (agent pa : Nat) (b : List (Byte × Bool)) (s : State) : (poolStore agent pa b s).fab = s.fab := by
  have written (pa : Nat) (b : List Byte) (bad : Bool) (s : State) : (poolWrite .once agent pa b bad s).fab = s.fab :=
    (AccessOnly.ofEvent (poolWrite_only ..)).fab
  unfold poolStore
  split
  · exact written ..
  · exact foldl_fab (fun s (p : Nat × List Byte × Bool) => written p.1 p.2.1 p.2.2 s) _ s

theorem performPool_fab (k : PktKind) (pa n : Nat) (data : List (Byte × Bool)) (s : State) : (performPool k pa n data s).2.fab = s.fab := by
  cases k with
  | get => exact (AccessOnly.ofEvent (poolRead_only .once agentFabric pa n s)).fab
  | put => exact poolStore_fab ..
  | flag => exact poolStore_fab ..
  | deliver => exact poolStore_fab ..
  | atomic r =>
    have old := (AccessOnly.ofEvent (poolAtom_only .once agentFabric pa r s)).fab
    simp only [performPool]
    split
    · exact slotAddAll_fab ..
    · split
      · rfl
      · exact old

theorem performHere_fab (src : Nat) (k : PktKind) (off n : Nat) (data : List (Byte × Bool)) (s : State) :
    (performHere src k off n data s).2.fab = s.fab := by
  unfold performHere
  split
  · rfl
  · extract_lets pa
    split
    · rfl
    · exact performPool_fab ..

theorem landReceive_fab (c : ChainRun) (off : Nat) (b : List (Byte × Bool)) (s : State) : (landReceive c off b s).fab = s.fab := by
  unfold landReceive
  split <;> rfl

theorem deliverTo_fab (w : FabWin) (off : Nat) (data : List (Byte × Bool)) (s : State) : (deliverTo w off data s).2.fab = s.fab := by
  unfold deliverTo
  split
  · rfl
  · extract_lets o at_ b
    split
    · rfl
    · split
      · rfl
      · split
        · split
          · rfl
          · exact landReceive_fab ..
        · split
          · rfl
          · split
            · rfl
            · split <;> rfl

/-- Performing a packet leaves the fabric's own state (R261, R262). -/
theorem performAny_fab (src : Nat) (k : PktKind) (off n : Nat) (data : List (Byte × Bool)) (s : State) :
    (performAny src k off n data s).2.fab = s.fab := by
  unfold performAny
  split
  · split
    · rfl
    · next w _ =>
      have delivered := deliverTo_fab w off data s
      split <;> simp_all
  · exact performHere_fab ..

/-! ### The answer of a packet that is performed or refused (R260, R278) -/

/-- The pool, the coherence state, the arrays and the engines are as before, and the fabric's state but for its ports and what waits at
them. -/
theorem answer_keeps (peer len : Nat) (msg : FabMsg) (s : State) :
    let t := answer peer len msg s
    t.pool = s.pool ∧ t.coh = s.coh ∧ t.arrays = s.arrays ∧ t.engines = s.engines ∧ t.fab.rx = s.fab.rx ∧ t.fab.winFaults = s.fab.winFaults := by
  obtain ⟨_, _, _, h⟩ := answer_trafficOnly peer len msg s
  simp only [h, and_self]

theorem answer_rxOf (peer len : Nat) (msg : FabMsg) (s : State) (n : Nat) : rxOf (answer peer len msg s) n = rxOf s n := by
  obtain ⟨-, -, -, -, rx, -⟩ := answer_keeps peer len msg s
  simp only [rxOf, rx]

/-- The second state differs from the first in the receivers' contexts alone. -/
def RxOnly (s t : State) : Prop := ∃ rx, t = { s with fab := { s.fab with rx := rx } }

namespace RxOnly

theorem onRx (peer : Nat) (f : RxCtx → RxCtx) (s : State) : RxOnly s (onRx peer f s) := ⟨_, rfl⟩

theorem trans {s t u : State} (h : RxOnly s t) (k : RxOnly t u) : RxOnly s u := by
  obtain ⟨_, rfl⟩ := h
  obtain ⟨_, rfl⟩ := k
  exact ⟨_, rfl⟩

theorem traffic {s t : State} (h : RxOnly s t) : SameTraffic s t := by
  obtain ⟨_, rfl⟩ := h
  exact .ofPorts rfl rfl rfl rfl rfl

variable {s t : State} (h : RxOnly s t)
include h

theorem pool : t.pool = s.pool := by obtain ⟨_, rfl⟩ := h; rfl
theorem coh : t.coh = s.coh := by obtain ⟨_, rfl⟩ := h; rfl
theorem arrays : t.arrays = s.arrays := by obtain ⟨_, rfl⟩ := h; rfl
theorem engines : t.engines = s.engines := by obtain ⟨_, rfl⟩ := h; rfl

end RxOnly

/-- The order of a context and what it holds (R278, R279). -/
def SameOrder (r r' : RxCtx) : Prop := r'.base = r.base ∧ r'.held = r.held

theorem event_fab (cls reason addr param : Nat) (s : State) : (event cls reason addr param s).fab = s.fab :=
  (AccessOnly.ofEvent (event_only ..)).fab

theorem event_dod (cls reason addr param : Nat) (s : State) : (event cls reason addr param s).dod = s.dod :=
  (AccessOnly.ofEvent (event_only ..)).dod

theorem event_same (cls reason addr param : Nat) (s : State) : SameTraffic s (event cls reason addr param s) :=
  .ofFab (event_fab ..) (event_dod ..)

/-- A fault of a window is counted and recorded (R260). -/
theorem windowFault_keeps (src off reason : Nat) (s : State) : SameTraffic s (windowFault src off reason s)
    ∧ (windowFault src off reason s).fab.rx = s.fab.rx ∧ (windowFault src off reason s).fab.winFaults = advance s.fab.winFaults 1 := by
  unfold windowFault
  dsimp only
  split
  · rw [event_fab]
    refine ⟨SameTraffic.trans ?_ (event_same ..), rfl, rfl⟩
    exact .ofPorts rfl rfl rfl rfl rfl
  · exact ⟨.ofPorts rfl rfl rfl rfl rfl, rfl, rfl⟩

/-- The context with a refusal noted (R280). -/
def withRefusal (p : Packet) (reason : Nat) (r : RxCtx) : RxCtx :=
  { r with refused := ((p.seq, reason) :: r.refused.filter fun x => x.1 != p.seq).take 1024 }

/-- The context with a failed operation noted (R260). -/
def withFault (p : Packet) (reason : Nat) (r : RxCtx) : RxCtx := { r with faulted := ((p.op, reason) :: r.faulted).take 1024 }

section
variable (p : Packet) (reason : Nat)

theorem refusePacket_eq (s : State) :
    refusePacket p reason s = answer p.src 0 (.nak p.src p.seq reason) (onRx p.src (withRefusal p reason) s) := rfl

theorem operationFaults_eq (s : State) : operationFaults p reason s =
    if (rxOf s p.src).faulted.any fun x => x.1 == p.op then s
    else windowFault p.src p.offset reason (onRx p.src (withFault p reason) s) := rfl

theorem rxOf_refusePacket (s : State) : rxOf (refusePacket p reason s) p.src = withRefusal p reason (rxOf s p.src) := by
  rw [refusePacket_eq, answer_rxOf, rxOf_onRx]

theorem mem_withRefusal (r : RxCtx) : (p.seq, reason) ∈ (withRefusal p reason r).refused := by
  rw [withRefusal, List.take_succ_cons]
  exact List.mem_cons_self

theorem mem_withFault (r : RxCtx) : (p.op, reason) ∈ (withFault p reason r).faulted := by
  rw [withFault, List.take_succ_cons]
  exact List.mem_cons_self

theorem refusePacket_keeps (s : State) : (refusePacket p reason s).pool = s.pool ∧ (refusePacket p reason s).coh = s.coh
    ∧ (refusePacket p reason s).fab.winFaults = s.fab.winFaults := by
  obtain ⟨pool, coh, -, -, -, faults⟩ := answer_keeps p.src 0 (.nak p.src p.seq reason) (onRx p.src (withRefusal p reason) s)
  exact ⟨pool, coh, faults⟩

theorem refusePacket_answers {s u : State} (same : SameTraffic s u) {q : Nat} (route : pickPort s s.fab.active p.src = some q) :
    AnswersOut s (refusePacket p reason u) q 0 (.nak p.src p.seq reason) :=
  answersOut_answer (same.trans (onRx_same ..)) p.src 0 _ route

theorem rxOf_windowFault (off : Nat) (s : State) (n : Nat) : rxOf (windowFault p.src off reason s) n = rxOf s n := by
  obtain ⟨-, rx, -⟩ := windowFault_keeps p.src off reason s
  simp only [rxOf, rx]

/-- The first packet of an operation that fails a check is counted (R260). -/
theorem operationFaults_first {s : State} (first : (rxOf s p.src).faulted = []) :
    operationFaults p reason s = windowFault p.src p.offset reason (onRx p.src (withFault p reason) s) := by
  simp [operationFaults_eq, first]

theorem rxOf_operationFaults (s : State) : SameOrder (rxOf s p.src) (rxOf (operationFaults p reason s) p.src) := by
  rw [operationFaults_eq]
  split
  · exact ⟨rfl, rfl⟩
  · rw [rxOf_windowFault, rxOf_onRx]
    exact ⟨rfl, rfl⟩

end

/-! ### A packet performed or refused (R260, R276) -/

/-- The context of a packet that is performed: it is refused no more, and an atomic's result is remembered (R280). -/
def performedRx (p : Packet) (b : List (Byte × Bool)) (s : State) : State :=
  let s := onRx p.src (fun r => { r with refused := r.refused.filter fun x => x.1 != p.seq }) s
  match p.kind with
  | .atomic _ => rememberAtomic p.src p.seq (ofBytes (plain b) + (if anyPoison b then 2 ^ 256 else 0)) s
  | _ => s

theorem performedRx_rxOnly (p : Packet) (b : List (Byte × Bool)) (s : State) : RxOnly s (performedRx p b s) := by
  unfold performedRx
  split
  · exact (RxOnly.onRx ..).trans (.onRx ..)
  · exact .onRx ..

theorem performedRx_order (p : Packet) (b : List (Byte × Bool)) (s : State) :
    SameOrder (rxOf s p.src) (rxOf (performedRx p b s) p.src) := by
  unfold performedRx
  split
  · simp only [rememberAtomic, rxOf_onRx]
    exact ⟨rfl, rfl⟩
  · rw [rxOf_onRx]
    exact ⟨rfl, rfl⟩

section
variable {p : Packet} {s s2 : State}

/-- A later packet of an ordered operation that has failed (R260). -/
theorem performPacket_failed {x : Nat × Nat} (failed : (rxOf s p.src).faulted.find? (fun x => p.ordered && x.1 == p.op) = some x) :
    performPacket p s = refusePacket p x.2 s := by simp only [performPacket, failed]

variable (clear : (rxOf s p.src).faulted.find? (fun x => p.ordered && x.1 == p.op) = none)
include clear

theorem performPacket_ok {b : List (Byte × Bool)} (ok : performAny p.src p.kind p.offset p.length (pktBytes p) s = (.ok b, s2)) :
    performPacket p s = answerData p b (performedRx p b s2) := by
  simp only [performPacket, clear, ok]
  rfl

theorem performPacket_error {reason : Nat} (error : performAny p.src p.kind p.offset p.length (pktBytes p) s = (.error reason, s2)) :
    performPacket p s = refusePacket p reason (operationFaults p reason s2) := by simp only [performPacket, clear, error]

end

theorem performAny_rxOf {src : Nat} {k : PktKind} {off n : Nat} {data : List (Byte × Bool)} {s s2 : State}
    {r : Except Nat (List (Byte × Bool))} (performed : performAny src k off n data s = (r, s2)) (peer : Nat) : rxOf s2 peer = rxOf s peer := by
  have fab : s2.fab = s.fab := by rw [← performAny_fab src k off n data s, performed]
  simp only [rxOf, fab]

/-- Performing a packet leaves the base of its source's context and what it holds. -/
theorem performPacket_order (p : Packet) (s : State) : SameOrder (rxOf s p.src) (rxOf (performPacket p s) p.src) := by
  cases failed : (rxOf s p.src).faulted.find? (fun x => p.ordered && x.1 == p.op) with
  | some x =>
    rw [performPacket_failed failed, rxOf_refusePacket]
    exact ⟨rfl, rfl⟩
  | none =>
    rcases performed : performAny p.src p.kind p.offset p.length (pktBytes p) s with ⟨r, s2⟩
    rw [← performAny_rxOf performed p.src]
    cases r with
    | error reason =>
      rw [performPacket_error failed performed, rxOf_refusePacket]
      exact rxOf_operationFaults p reason s2
    | ok b =>
      rw [performPacket_ok failed performed, answerData, answer_rxOf]
      exact performedRx_order p b s2

/-! ### The arrival of a packet (R278, R279) -/

/-- The state when a packet has come: the module is awake and the port has counted it (R255, R385). -/
def arrived (p : Packet) (s : State) : State := countRx p (stir s)

theorem arrived_fab (p : Packet) (s : State) : ∃ ports, (arrived p s).fab = { s.fab with ports := ports } := countRx_stir_fab p s

theorem rxOf_arrived (p : Packet) (s : State) (n : Nat) : rxOf (arrived p s) n = rxOf s n := by
  obtain ⟨_, fab⟩ := arrived_fab p s
  simp only [rxOf, fab]

/-- The context when a packet has come (R278). -/
def arrivalRx (p : Packet) (r : RxCtx) : RxCtx := rxAdvance (r.seen.length + 2) { r with seen := setAdd r.seen p.seq }

/-- What `packetArrives` does with a packet that has not come before, given the context with it. -/
def takeFresh (p : Packet) (r2 : RxCtx) (s : State) : State :=
  if p.kind == .deliver && deliveryWaits p.offset s then
    answer p.src 0 (.busy p.src p.seq) (s.onFab fun f => { f with busyNacks := advance f.busyNacks 1 })
  else
  let ready := !mustWait p || decide (2 ^ 23 ≤ seqAhead r2.base p.seq)
  if !ready && decide (reorderBytes s (portDie p.port) + 12 + p.data.length > 4194304) then
    answer p.src 0 (.busy p.src p.seq) (s.onFab fun f => { f with busyNacks := advance f.busyNacks 1 })
  else if !ready then
    answer p.src 0 (.recvAck p.src p.seq) (onRx p.src (fun _ => { r2 with held := r2.held ++ [p] }) s)
  else if mustWait p then
    rxDrain p.src (r2.held.length + 2) (onRx p.src (fun _ => { r2 with held := r2.held ++ [p] }) s)
  else rxDrain p.src (r2.held.length + 1) (performPacket p (onRx p.src (fun _ => r2) s))

section
variable {s : State} {p : Packet} {isKind : PktKind → Bool} (kind : isKind p.kind = true) (up : portUp s p.port = true) (here : p.dst = nodeId s)
include kind up here

theorem packetArrives_crc (bad : p.crcOk = false) :
    packetArrives isKind p s = (arrived p s).onFab fun f => { f with crcDrops := advance f.crcDrops 1 } := by
  simp [packetArrives, kind, up, here, bad, arrived]

variable (good : p.crcOk = true)
include good

theorem packetArrives_again (seen : seqSeen (rxOf s p.src) p.seq = true) : packetArrives isKind p s = duplicate p (arrived p s) := by
  rw [← rxOf_arrived p s] at seen
  unfold arrived at seen ⊢
  simp [packetArrives, kind, up, here, good, seen]

theorem packetArrives_fresh (fresh : seqSeen (rxOf s p.src) p.seq = false) :
    packetArrives isKind p s = takeFresh p (arrivalRx p (rxOf s p.src)) (arrived p s) := by
  rw [← rxOf_arrived p s] at fresh ⊢
  unfold arrived at fresh ⊢
  simp only [packetArrives, up, here, kind, good, fresh, Bool.not_true, bne_self_eq_false, Bool.or_self, Bool.false_eq_true, if_false]
  rfl

end

theorem takeFresh_busy {p : Packet} {r : RxCtx} {s : State} (deliver : p.kind = .deliver) (waits : deliveryWaits p.offset s = true) :
    takeFresh p r s = answer p.src 0 (.busy p.src p.seq) (s.onFab fun f => { f with busyNacks := advance f.busyNacks 1 }) := by
  simp [takeFresh, deliver, waits]

section
variable {p : Packet} {s : State} (accepted : p.kind = .deliver → deliveryWaits p.offset s = false)
include accepted

theorem delivery_accepted : (p.kind == .deliver && deliveryWaits p.offset s) = false := by
  cases deliver : p.kind == .deliver with
  | false => rfl
  | true => simp [accepted (by simpa using deliver)]

/-- A packet ahead of its turn is held (R279). -/
theorem takeFresh_early {r : RxCtx} (waits : mustWait p = true) (near : seqAhead r.base p.seq < 2 ^ 23)
    (room : reorderBytes s (portDie p.port) + 12 + p.data.length ≤ 4194304) : takeFresh p r s =
      answer p.src 0 (.recvAck p.src p.seq) (onRx p.src (fun _ => { r with held := r.held ++ [p] }) s) := by
  have unready : decide (2 ^ 23 ≤ seqAhead r.base p.seq) = false := decide_eq_false (Nat.not_le.2 near)
  have fits : decide (reorderBytes s (portDie p.port) + 12 + p.data.length > 4194304) = false := decide_eq_false (Nat.not_lt.2 room)
  simp only [takeFresh, delivery_accepted accepted, waits, unready, fits, Bool.not_true, Bool.or_self, Bool.not_false, Bool.and_false,
    Bool.false_eq_true, if_false, if_true]

/-- A packet in its turn is performed, and with nothing held no other one is (R278). -/
theorem takeFresh_turn {r : RxCtx} (passed : 2 ^ 23 ≤ seqAhead r.base p.seq) (held : r.held = []) :
    takeFresh p r s = performPacket p (onRx p.src (fun _ => r) s) := by
  have performed (k : Nat) : rxDrain p.src k (performPacket p (onRx p.src (fun _ => r) s)) = performPacket p (onRx p.src (fun _ => r) s) := by
    obtain ⟨-, kept⟩ := performPacket_order p (onRx p.src (fun _ => r) s)
    refine rxDrain_empty (kept.trans ?_) k
    rw [rxOf_onRx, held]
  have ready : decide (2 ^ 23 ≤ seqAhead r.base p.seq) = true := decide_eq_true passed
  cases waits : mustWait p with
  | false =>
    simp only [takeFresh, delivery_accepted accepted, waits, Bool.not_false, Bool.true_or, Bool.not_true, Bool.false_and, Bool.false_eq_true,
      if_false, performed]
  | true =>
    have alone : { r with held := r.held ++ [p] } = ({ r with held := [p] } : RxCtx) := by rw [held]; rfl
    have out : ({ r with held := [] } : RxCtx) = r := by rw [← held]
    have taken := onRx_onRx p.src (fun r => { r with held := r.held.filter fun q => q.seq != p.seq }) (r := { r with held := [p] }) s
      (List.cons_ne_nil _ _)
    have dropped : [p].filter (fun q : Packet => q.seq != p.seq) = [] := by simp
    simp only [dropped, out] at taken
    have drained : rxDrain p.src (r.held.length + 2) (onRx p.src (fun _ => { r with held := [p] }) s)
        = rxDrain p.src (r.held.length + 1) (performPacket p (onRx p.src (fun _ => r) s)) := by
      have next : [p].filter (fun q : Packet => decide (2 ^ 23 ≤ seqAhead r.base q.seq)) = [p] := List.filter_cons_of_pos ready
      simp only [rxDrain, rxOf_onRx, next, List.foldl_cons, List.foldl_nil, taken]
    simp only [takeFresh, delivery_accepted accepted, waits, Bool.not_true, Bool.false_or, ready, Bool.false_and, Bool.false_eq_true,
      if_false, if_true, alone, drained, performed]

end

/-- The context once a packet in its turn has come (R278). -/
def nextRx (p : Packet) (r : RxCtx) : RxCtx := { r with base := (p.seq + 1) % 2 ^ 24 }

/-- The state in which a packet in its turn is performed. -/
def turnState (p : Packet) (s : State) : State := onRx p.src (fun _ => nextRx p (rxOf s p.src)) (arrived p s)

theorem rxOf_turnState (p : Packet) (s : State) : rxOf (turnState p s) p.src = nextRx p (rxOf s p.src) := rxOf_onRx ..

theorem arrivalRx_turn {p : Packet} {r : RxCtx} (turn : p.seq = r.base) (seen : r.seen = []) :
    arrivalRx p r = nextRx p r := rxAdvance_turn turn seen

/-- A packet ahead of a missing one leaves the base (R279). -/
theorem arrivalRx_early {p : Packet} {r : RxCtx} (early : 0 < seqAhead r.base p.seq) (missing : r.base ∉ r.seen) :
    arrivalRx p r = { r with seen := setAdd r.seen p.seq } := by
  have later : r.base ≠ p.seq := fun h => by
    rw [← h, seqAhead_self] at early
    exact Nat.lt_irrefl 0 early
  exact rxAdvance_missing (r := { r with seen := setAdd r.seen p.seq }) _ fun h => (GrantSpaces.mem_setAdd.1 h).elim later missing

theorem seqSeen_of_passed {r : RxCtx} {n : Nat} (base : r.base = (n + 1) % 2 ^ 24) (low : n < 2 ^ 24) : seqSeen r n = true := by
  have ahead : 2 ^ 23 ≤ seqAhead r.base n := by
    rw [base, seqAhead_next low]
    decide
  simp only [seqSeen, decide_eq_true ahead, Bool.true_or]

theorem seqSeen_turn {r : RxCtx} (seen : r.seen = []) : seqSeen r r.base = false := by simp [seqSeen, seqAhead_self, seen]

theorem reorderBytes_arrived (p : Packet) (s : State) (die : Nat) : reorderBytes (arrived p s) die = reorderBytes s die := by
  obtain ⟨_, fab⟩ := arrived_fab p s
  simp only [reorderBytes, fab]

/-- A packet that comes again is counted. -/
def countDuplicate (s : State) : State := s.onFab fun f => { f with duplicates := advance f.duplicates 1 }

/-- A busy notice is counted. -/
def countBusy (s : State) : State := s.onFab fun f => { f with busyNacks := advance f.busyNacks 1 }

/-- The context with a packet held ahead of its turn (R279). -/
def heldRx (p : Packet) (r : RxCtx) : RxCtx := { r with seen := setAdd r.seen p.seq, held := r.held ++ [p] }

/-- The answer to a put that comes again: that of its first time (R280). -/
def answerAgain (p : Packet) (r : RxCtx) : FabMsg :=
  match r.refused.find? fun x => x.1 == p.seq with
  | some x => .nak p.src p.seq x.2
  | none => .perfAck p.src p.seq [] 0

theorem duplicate_put {p : Packet} {s : State} (put : p.kind = .put) (free : ((rxOf s p.src).held.any fun q => q.seq == p.seq) = false) :
    duplicate p s = answer p.src 0 (answerAgain p (rxOf s p.src)) (countDuplicate s) := by
  have context : rxOf (s.onFab fun f => { f with duplicates := advance f.duplicates 1 }) p.src = rxOf s p.src := rfl
  unfold duplicate answerAgain
  simp only [put, context, free, Bool.false_eq_true, if_false]
  cases (rxOf s p.src).refused.find? fun x => x.1 == p.seq <;> rfl

/-! ### The commands by which a packet arrives (R255) -/

/-- The command of a packet's kind. -/
def Arrives (p : Packet) (i : Instr) : Prop :=
  (p.kind = .get ∧ i = .fabricGetReceive p) ∨ (p.kind = .put ∧ i = .fabricPutReceive p) ∨ (p.kind = .flag ∧ i = .fabricFlagReceive p)
    ∨ ((∃ a, p.kind = .atomic a) ∧ i = .fabricAtomicReceive p) ∨ (p.kind = .deliver ∧ i = .deliveryReceive p)

theorem exec_arrives {p : Packet} {i : Instr} (arrives : Arrives p i) (s : State) :
    ∃ isKind, isKind p.kind = true ∧ exec i s = .next (packetArrives isKind p s) := by
  rcases arrives with ⟨kind, rfl⟩ | ⟨kind, rfl⟩ | ⟨kind, rfl⟩ | ⟨⟨a, kind⟩, rfl⟩ | ⟨kind, rfl⟩
  · exact ⟨_, by simp [kind], rfl⟩
  · exact ⟨_, by simp [kind], rfl⟩
  · exact ⟨_, by simp [kind], rfl⟩
  · exact ⟨_, by simp [kind], rfl⟩
  · exact ⟨_, by simp [kind], rfl⟩

section
variable {s : State} {p : Packet} {i : Instr} (arrives : Arrives p i) (up : portUp s p.port = true) (here : p.dst = nodeId s)
include arrives up here

theorem receive_crc (bad : p.crcOk = false) : ∃ t, exec i s = .next t ∧ t.fab.crcDrops = advance s.fab.crcDrops 1
    ∧ t.pool = (arrived p s).pool ∧ t.fab.rx = s.fab.rx := by
  obtain ⟨isKind, kind, execs⟩ := exec_arrives arrives s
  obtain ⟨_, fab⟩ := arrived_fab p s
  refine ⟨(arrived p s).onFab fun f => { f with crcDrops := advance f.crcDrops 1 }, ?_, ?_, rfl, ?_⟩
  · rw [execs, packetArrives_crc kind up here bad]
  · rw [State.onFab_fab, fab]
  · rw [State.onFab_fab, fab]

variable (good : p.crcOk = true)
include good

theorem receive_turn (turn : p.seq = (rxOf s p.src).base) (low : (rxOf s p.src).base < 2 ^ 24) (seen : (rxOf s p.src).seen = [])
    (held : (rxOf s p.src).held = []) (accepted : p.kind = .deliver → deliveryWaits p.offset (arrived p s) = false) :
    exec i s = .next (performPacket p (turnState p s)) := by
  obtain ⟨isKind, kind, execs⟩ := exec_arrives arrives s
  have fresh : seqSeen (rxOf s p.src) p.seq = false := by rw [turn, seqSeen_turn seen]
  have passed : 2 ^ 23 ≤ seqAhead (nextRx p (rxOf s p.src)).base p.seq := by
    rw [nextRx, seqAhead_next (turn ▸ low)]
    decide
  rw [execs, packetArrives_fresh kind up here good fresh, arrivalRx_turn turn seen, takeFresh_turn accepted passed held]
  rfl

theorem receive_again (put : p.kind = .put) (seen : seqSeen (rxOf s p.src) p.seq = true)
    (free : ((rxOf s p.src).held.any fun q => q.seq == p.seq) = false) :
    exec i s = .next (answer p.src 0 (answerAgain p (rxOf s p.src)) (countDuplicate (arrived p s))) := by
  obtain ⟨isKind, kind, execs⟩ := exec_arrives arrives s
  rw [← rxOf_arrived p s p.src] at free ⊢
  rw [execs, packetArrives_again kind up here good seen, duplicate_put put free]

theorem receive_busy (deliver : p.kind = .deliver) (waits : deliveryWaits p.offset (arrived p s) = true)
    (fresh : seqSeen (rxOf s p.src) p.seq = false) : exec i s = .next (answer p.src 0 (.busy p.src p.seq) (countBusy (arrived p s))) := by
  obtain ⟨isKind, kind, execs⟩ := exec_arrives arrives s
  rw [execs, packetArrives_fresh kind up here good fresh, takeFresh_busy deliver waits]
  rfl

theorem receive_early (waits : mustWait p = true) (early : 0 < seqAhead (rxOf s p.src).base p.seq)
    (near : seqAhead (rxOf s p.src).base p.seq < 2 ^ 23) (missing : (rxOf s p.src).base ∉ (rxOf s p.src).seen)
    (new : p.seq ∉ (rxOf s p.src).seen) (room : reorderBytes s (portDie p.port) + 12 + p.data.length ≤ 4194304)
    (accepted : p.kind = .deliver → deliveryWaits p.offset (arrived p s) = false) :
    exec i s = .next (answer p.src 0 (.recvAck p.src p.seq) (onRx p.src (fun _ => heldRx p (rxOf s p.src)) (arrived p s))) := by
  obtain ⟨isKind, kind, execs⟩ := exec_arrives arrives s
  have fresh : seqSeen (rxOf s p.src) p.seq = false := by
    simp only [seqSeen, decide_eq_false (Nat.not_le.2 near), List.contains_eq_mem, decide_eq_false new, Bool.or_self]
  rw [← reorderBytes_arrived p s] at room
  have held := takeFresh_early (r := { rxOf s p.src with seen := setAdd (rxOf s p.src).seen p.seq }) accepted waits near room
  rw [execs, packetArrives_fresh kind up here good fresh, arrivalRx_early early missing, held]
  rfl

end

/-! ### The cases of the statement -/

section
variable {s : State} {p : Packet} {i : Instr} (runs : exec i s = .next (performPacket p (turnState p s)))
include runs

/-- The packet is performed and acknowledged with what it returns (R261, R278). -/
theorem turn_performed (low : p.seq < 2 ^ 24) (faulted : (rxOf s p.src).faulted = []) {b : List (Byte × Bool)} {s2 : State}
    (ok : performAny p.src p.kind p.offset p.length (pktBytes p) (turnState p s) = (.ok b, s2)) :
    ∃ t, exec i s = .next t ∧ t.pool = s2.pool ∧ t.coh = s2.coh ∧ t.arrays = s2.arrays ∧ t.engines = s2.engines
      ∧ (rxOf t p.src).base = (nextRx p (rxOf s p.src)).base ∧ seqSeen (rxOf t p.src) p.seq = true
      ∧ ∀ q, pickPort s2 s2.fab.active p.src = some q → AnswersOut s2 t q b.length (.perfAck p.src p.seq (plain b) (sectorMask p.offset b)) := by
  have clear : (rxOf (turnState p s) p.src).faulted.find? (fun x => p.ordered && x.1 == p.op) = none := by
    rw [rxOf_turnState, nextRx, faulted]
    rfl
  have performed := performPacket_ok clear ok
  obtain ⟨base, -⟩ := performPacket_order p (turnState p s)
  have order : (rxOf (performPacket p (turnState p s)) p.src).base = (nextRx p (rxOf s p.src)).base := by rw [base, rxOf_turnState]
  have rxOnly := performedRx_rxOnly p b s2
  obtain ⟨pool, coh, arrays, engines, -⟩ :=
    answer_keeps p.src b.length (.perfAck p.src p.seq (plain b) (sectorMask p.offset b)) (performedRx p b s2)
  rw [performed] at runs order
  refine ⟨_, runs, ?_, ?_, ?_, ?_, order, seqSeen_of_passed order low, fun q route => answersOut_answer rxOnly.traffic p.src _ _ route⟩
  · rw [answerData, pool, rxOnly.pool]
  · rw [answerData, coh, rxOnly.coh]
  · rw [answerData, arrays, rxOnly.arrays]
  · rw [answerData, engines, rxOnly.engines]

/-- The packet is refused with its reason, and its operation has failed (R260). -/
theorem turn_refused (faulted : (rxOf s p.src).faulted = []) {reason : Nat} {s2 : State}
    (error : performAny p.src p.kind p.offset p.length (pktBytes p) (turnState p s) = (.error reason, s2)) :
    ∃ t, exec i s = .next t ∧ t.fab.winFaults = advance s2.fab.winFaults 1
      ∧ (rxOf t p.src).base = (nextRx p (rxOf s p.src)).base ∧ (p.seq, reason) ∈ (rxOf t p.src).refused
      ∧ (p.op, reason) ∈ (rxOf t p.src).faulted
      ∧ ∀ q, pickPort s2 s2.fab.active p.src = some q → AnswersOut s2 t q 0 (.nak p.src p.seq reason) := by
  have none_failed : (rxOf (turnState p s) p.src).faulted = [] := by rw [rxOf_turnState, nextRx, faulted]
  have clear : (rxOf (turnState p s) p.src).faulted.find? (fun x => p.ordered && x.1 == p.op) = none := by
    rw [none_failed]
    rfl
  obtain ⟨base, -⟩ := performPacket_order p (turnState p s)
  have order : (rxOf (performPacket p (turnState p s)) p.src).base = (nextRx p (rxOf s p.src)).base := by rw [base, rxOf_turnState]
  have first : (rxOf s2 p.src).faulted = [] := by rw [performAny_rxOf error, none_failed]
  rw [performPacket_error clear error, operationFaults_first p reason first] at runs order
  obtain ⟨same, -, faults⟩ := windowFault_keeps p.src p.offset reason (onRx p.src (withFault p reason) s2)
  obtain ⟨-, -, kept⟩ := refusePacket_keeps p reason (windowFault p.src p.offset reason (onRx p.src (withFault p reason) s2))
  refine ⟨_, runs, kept.trans faults, order, ?_, ?_, fun q route => refusePacket_answers p reason ((onRx_same ..).trans same) route⟩
  · rw [rxOf_refusePacket]
    exact mem_withRefusal ..
  · rw [rxOf_refusePacket, rxOf_windowFault, rxOf_onRx]
    exact mem_withFault ..

/-- A later packet of an ordered operation that has failed is refused like the first one (R260). -/
theorem turn_failed (ordered : p.ordered = true) {reason : Nat}
    (failed : (rxOf s p.src).faulted.find? (fun x => x.1 == p.op) = some (p.op, reason)) :
    ∃ t, exec i s = .next t ∧ t.pool = (arrived p s).pool ∧ t.coh = (arrived p s).coh ∧ t.fab.winFaults = s.fab.winFaults
      ∧ (p.seq, reason) ∈ (rxOf t p.src).refused := by
  have found : (rxOf (turnState p s) p.src).faulted.find? (fun x => p.ordered && x.1 == p.op) = some (p.op, reason) := by
    simp only [rxOf_turnState, nextRx, ordered, Bool.true_and, failed]
  obtain ⟨_, fab⟩ := arrived_fab p s
  obtain ⟨pool, coh, faults⟩ := refusePacket_keeps p reason (turnState p s)
  rw [performPacket_failed found] at runs
  refine ⟨_, runs, pool, coh, faults.trans ?_, ?_⟩
  · simp only [turnState, onRx, State.onFab_fab, fab]
  · rw [rxOf_refusePacket]
    exact mem_withRefusal ..

end

section
variable {s : State} {p : Packet} {i : Instr}

/-- A packet that comes again is not performed again (R280). -/
theorem again_answered (runs : exec i s = .next (answer p.src 0 (answerAgain p (rxOf s p.src)) (countDuplicate (arrived p s)))) :
    ∃ t, exec i s = .next t ∧ t.pool = (arrived p s).pool ∧ t.coh = (arrived p s).coh
      ∧ t.fab.duplicates = advance s.fab.duplicates 1 ∧ t.fab.rx = s.fab.rx
      ∧ ∀ q, pickPort (arrived p s) (arrived p s).fab.active p.src = some q →
        ((rxOf s p.src).refused.find? (fun x => x.1 == p.seq) = none → AnswersOut (arrived p s) t q 0 (.perfAck p.src p.seq [] 0))
        ∧ ∀ reason, (rxOf s p.src).refused.find? (fun x => x.1 == p.seq) = some (p.seq, reason) →
          AnswersOut (arrived p s) t q 0 (.nak p.src p.seq reason) := by
  obtain ⟨_, fab⟩ := arrived_fab p s
  have counted : SameTraffic (arrived p s) (countDuplicate (arrived p s)) := .ofPorts rfl rfl rfl rfl rfl
  obtain ⟨_, _, _, sent⟩ := answer_trafficOnly p.src 0 (answerAgain p (rxOf s p.src)) (countDuplicate (arrived p s))
  refine ⟨_, runs, ?_, ?_, ?_, ?_, fun q route => ?_⟩
  · rw [sent]
    rfl
  · rw [sent]
    rfl
  · rw [sent]
    simp only [countDuplicate, State.onFab_fab, fab]
  · rw [sent]
    simp only [countDuplicate, State.onFab_fab, fab]
  · have out := answersOut_answer counted p.src 0 (answerAgain p (rxOf s p.src)) route
    refine ⟨fun fresh => ?_, fun reason refused => ?_⟩
    · simpa only [answerAgain, fresh] using out
    · simpa only [answerAgain, refused] using out

/-- A delivery before the first credits is told that its target is busy (R109). -/
theorem busy_answered (runs : exec i s = .next (answer p.src 0 (.busy p.src p.seq) (countBusy (arrived p s)))) :
    ∃ t, exec i s = .next t ∧ t.pool = (arrived p s).pool ∧ t.fab.rx = s.fab.rx ∧ t.fab.busyNacks = advance s.fab.busyNacks 1
      ∧ ∀ q, pickPort (arrived p s) (arrived p s).fab.active p.src = some q → AnswersOut (arrived p s) t q 0 (.busy p.src p.seq) := by
  obtain ⟨_, fab⟩ := arrived_fab p s
  have counted : SameTraffic (arrived p s) (countBusy (arrived p s)) := .ofPorts rfl rfl rfl rfl rfl
  obtain ⟨_, _, _, sent⟩ := answer_trafficOnly p.src 0 (.busy p.src p.seq) (countBusy (arrived p s))
  refine ⟨_, runs, ?_, ?_, ?_, fun q route => answersOut_answer counted p.src 0 _ route⟩
  · rw [sent]
    rfl
  · rw [sent]
    simp only [countBusy, State.onFab_fab, fab]
  · rw [sent]
    simp only [countBusy, State.onFab_fab, fab]

/-- A packet ahead of its turn waits (R279). -/
theorem early_held (runs : exec i s = .next (answer p.src 0 (.recvAck p.src p.seq)
      (onRx p.src (fun _ => heldRx p (rxOf s p.src)) (arrived p s)))) :
    ∃ t, exec i s = .next t ∧ t.pool = (arrived p s).pool ∧ t.coh = (arrived p s).coh
      ∧ (rxOf t p.src).held = (rxOf s p.src).held ++ [p] ∧ (rxOf t p.src).base = (rxOf s p.src).base := by
  obtain ⟨pool, coh, -⟩ := answer_keeps p.src 0 (.recvAck p.src p.seq) (onRx p.src (fun _ => heldRx p (rxOf s p.src)) (arrived p s))
  refine ⟨_, runs, pool, coh, ?_, ?_⟩
  · rw [answer_rxOf, rxOf_onRx]
    rfl
  · rw [answer_rxOf, rxOf_onRx]
    rfl

end

/-! ### Performing at a pool window (R261) -/

/-- Bytes with one poison are stored at once (R193). -/
theorem poolStore_uniform (agent pa : Nat) {data : List (Byte × Bool)} {bad : Bool} (some_ : data ≠ []) (same : ∀ x ∈ data, x.2 = bad)
    (s : State) : poolStore agent pa data s = poolWrite .once agent pa (plain data) bad s := by
  have any : (data.any (·.2)) = bad := by
    cases bad with
    | false => simpa using same
    | true =>
      obtain ⟨x, mem⟩ := List.exists_mem_of_ne_nil data some_
      exact List.any_eq_true.2 ⟨x, mem, same x mem⟩
  have grain : storeGrain data = 128 := by
    unfold storeGrain
    rw [any]
    cases bad with
    | false => rfl
    | true =>
      have all : (data.all (·.2)) = true := List.all_eq_true.2 same
      rw [all]
      rfl
  simp only [poolStore, grain, if_true, any]
  rfl

section
variable {s : State} {src off n : Nat} {k : PktKind} {data : List (Byte × Bool)} {w : FabWin}
  (checked : windowCheck s src k off = .ok w) (other : k ≠ .deliver)
include checked other

theorem performAny_outside (outside : poolBacked (poolTarget w off) = false) : performAny src k off n data s = (.error 5, s) := by
  cases k with
  | deliver => exact absurd rfl other
  | _ => simp [performAny, performHere, checked, outside]

variable (backed : poolBacked (poolTarget w off) = true)
include backed

theorem performAny_store (store : k = .put ∨ k = .flag) :
    performAny src k off n data s = (.ok [], poolStore agentFabric (poolTarget w off) data s) := by
  rcases store with rfl | rfl
  · simp [performAny, performHere, checked, backed, performPool]
  · simp [performAny, performHere, checked, backed, performPool]

theorem performAny_get {b : List (Byte × Bool)} {s1 : State} (get : k = .get)
    (read : poolRead .once agentFabric (poolTarget w off) n s = (b, s1)) : performAny src k off n data s = (.ok b, s1) := by
  subst get
  simp [performAny, performHere, checked, backed, performPool, read]

end

/-! ### The statement -/

theorem gapNoticeSend_sends {s : State} {peer seq : Nat} (unseen : seqSeen (rxOf s peer) seq = false)
    (later : ((rxOf s peer).held.any fun p => decide (seqAhead (rxOf s peer).base seq < seqAhead (rxOf s peer).base p.seq)) = true) :
    ∃ t, exec (.gapNoticeSend peer seq) s = .next t ∧ t.fab.gapNotices = advance s.fab.gapNotices 1 ∧ t.pool = s.pool
      ∧ ∀ q, pickPort s s.fab.active peer = some q → AnswersOut s t q 0 (.gap peer seq) := by
  have counted : SameTraffic s (s.onFab fun f => { f with gapNotices := advance f.gapNotices 1 }) := .ofPorts rfl rfl rfl rfl rfl
  obtain ⟨_, _, _, sent⟩ := answer_trafficOnly peer 0 (.gap peer seq) (s.onFab fun f => { f with gapNotices := advance f.gapNotices 1 })
  refine ⟨answer peer 0 (.gap peer seq) (s.onFab fun f => { f with gapNotices := advance f.gapNotices 1 }), ?_, ?_, ?_,
    fun q route => answersOut_answer counted peer 0 _ route⟩
  · simp only [exec, execGapNoticeSend, unseen, later, Bool.not_false, Bool.true_and, if_true]
  · simp only [sent, State.onFab_fab]
  · rw [sent]
    rfl

/-- Settles O44: the packet whose turn it is is performed in the state that its arrival leaves, and nothing that was held follows it. -/
theorem packetsArePerformedOnceInOrder : Obligations.PacketsArePerformedOnceInOrder := by
  refine ⟨fun s p i arrives up here => ⟨receive_crc arrives up here, fun good turn low seen held faulted accepted => ?_,
    fun good turn low seen held ordered accepted reason failed => ?_, fun good put seen free => ?_,
    fun good waits early near missing new _ _ room accepted => ?_, fun good deliver waits fresh => ?_⟩,
    fun s src off n k data w checked other => ⟨performAny_outside checked other, fun backed store => ⟨performAny_store checked other backed store,
      fun bad some_ same => poolStore_uniform _ _ some_ same s⟩, fun b s1 backed get read => performAny_get checked other backed get read⟩,
    fun s peer seq unseen later => gapNoticeSend_sends unseen later⟩
  · have runs := receive_turn arrives up here good turn low seen held accepted
    exact ⟨fun b s2 ok => turn_performed runs (turn ▸ low) faulted ok, fun reason s2 error => turn_refused runs faulted error⟩
  · exact turn_failed (receive_turn arrives up here good turn low seen held accepted) ordered failed
  · exact again_answered (receive_again arrives up here good put seen free)
  · exact early_held (receive_early arrives up here good waits early near missing new room accepted)
  · exact busy_answered (receive_busy arrives up here good deliver waits fresh)

end Sys2Proof.Proofs.PacketsPerformed
end

section
/-! SUPPORT. Fabric operations at the module that sends (R252, R267, R269 to R274): a packet that may leave takes the next sequence number,
and a descriptor that is read begins its operation. -/

namespace Sys2Proof.Proofs.FabricOperations

open Sys2Proof.Machine Sys2Proof.Claims Sys2Proof.Proofs.Transmission
open Sys2Proof.Proofs.RingsThroughStores (rings_ofEq ring_ofRings)
open Sys2Proof.Proofs.RingsThroughReads (readStruct_rings)
open Sys2Proof.Proofs.LoadedOperations (kind_of_descOf refuse_writesRecord)

/-! ### Origination (R252, R278) -/

/-- A packet as it leaves: with the next sequence number to its peer, the page of its address, FAB_E2E and its operation. -/
def stamped (t : TxPkt) (s : State) : TxPkt :=
  { t with seq := tget 0 s.fab.nextSeq t.peer, page := pageLog2 s t.va, e2e := s.fab.e2e, op := if t.op = 0 then s.fab.nextOp + 1 else t.op }

theorem sendWaits_mayLeave {s : State} {peer : Nat} (whole : peer ∉ s.fab.broken) (room : unacked s peer < 1024) : sendWaits peer s = false := by
  simp [sendWaits, whole, room]

/-- A packet that may leave is sent, and waits for its acknowledgements (R278). -/
theorem originate_sends {s : State} {t : TxPkt} (may : MayLeave s t.peer) : ∃ u, originate t s = (.sent, u) ∧ u.fab.broken = s.fab.broken
    ∧ u.fab.tx = s.fab.tx ++ [stamped t s] ∧ tget 0 u.fab.nextSeq t.peer = (tget 0 s.fab.nextSeq t.peer + 1) % 2 ^ 24 := by
  obtain ⟨other, whole, room, route⟩ := may
  obtain ⟨q, picked⟩ := Option.ne_none_iff_exists'.1 route
  have free := sendWaits_mayLeave whole room
  obtain ⟨ports, out, dod, sent⟩ := transmit_trafficOnly
    { port := q, msg := .request (stamped t s), len := reqPayload (stamped t s), bank := s.fab.active } true t.peer s
  have goes : sendPacket (stamped t s) s = some { s with fab := { s.fab with ports := ports, out := out }, dod := dod } := by
    rw [← sent]
    simp only [sendPacket, stamped, picked]
  refine ⟨{ s with
      fab := { s.fab with
        ports := ports, out := out, tx := s.fab.tx ++ [stamped t s]
        nextSeq := tput 0 s.fab.nextSeq t.peer ((tget 0 s.fab.nextSeq t.peer + 1) % 2 ^ 24), nextOp := max s.fab.nextOp (stamped t s).op }
      dod := dod }, ?_, rfl, rfl, tget_tput_same ..⟩
  unfold stamped at goes ⊢
  simp only [originate, other, free, goes, if_false, Bool.false_eq_true]
  rfl

/-! ### A piece of an operation (R252, R270) -/

theorem fabricOf_eq {s : State} {n : Nat} {f : FabricRun} (op : (s.ring n).op = some (.fabric f)) : fabricOf s n = some f := by
  simp only [fabricOf, op]

theorem fabricOf_none {s : State} {n : Nat} (op : (s.ring n).op = none) : fabricOf s n = none := by simp only [fabricOf, op]

theorem setFabric_op (n : Nat) (f : FabricRun) (s : State) : ((setFabric n f s).ring n).op = some (.fabric f) := by
  rw [setFabric, State.ring_onRing_same]

/-- The packet of a piece. -/
def piecePacket (n : Nat) (f : FabricRun) (k : PktKind) (off len : Nat) (data : List (Byte × Bool)) (isFlag : Bool) (s : State) : TxPkt :=
  { peer := f.node, seq := 0, kind := k, ordered := !f.unordered && f.op != 2, offset := off, length := len
    data := plain data, poisoned := sectorMask off data, owner := .ring n, localOff := f.sent
    va := (f.localVa + f.sent) % 2 ^ 64, epoch := s.xlt.epoch, isFlag := isFlag, op := f.opNo
    xlt := k == .put || k == .deliver }

/-- A piece that may leave goes out as one packet. -/
theorem sendPiece_sends (n : Nat) {f : FabricRun} (k : PktKind) (off len : Nat) (data : List (Byte × Bool)) (isFlag : Bool) {s : State}
    (may : MayLeave s f.node) : ∃ u, sendPiece n f k off len data isFlag s = (true, u)
      ∧ (u.ring n).op = some (.fabric (if isFlag then { f with flagSent := true } else { f with sent := f.sent + len }))
      ∧ u.fab.tx = s.fab.tx ++ [stamped (piecePacket n f k off len data isFlag s) s]
      ∧ tget 0 u.fab.nextSeq f.node = (tget 0 s.fab.nextSeq f.node + 1) % 2 ^ 24 := by
  obtain ⟨u, sent, -, tx, next⟩ := originate_sends (t := piecePacket n f k off len data isFlag s) may
  refine ⟨setFabric n (if isFlag then { f with flagSent := true } else { f with sent := f.sent + len }) u, ?_, setFabric_op .., tx, next⟩
  unfold piecePacket at sent
  simp only [sendPiece, sent]

/-- One packet of a piece is what an operation sends. -/
theorem sends_piece {i : Instr} {s s1 t : State} {n : Nat} {f f' : FabricRun} {k : PktKind} {off len : Nat} {data : List (Byte × Bool)}
    {isFlag : Bool} {P : TxPkt → Prop} (runs : exec i s = .next t) (op : (t.ring n).op = some (.fabric f'))
    (tx : t.fab.tx = s1.fab.tx ++ [stamped (piecePacket n f k off len data isFlag s1) s1])
    (next : tget 0 t.fab.nextSeq f.node = (tget 0 s1.fab.nextSeq f.node + 1) % 2 ^ 24)
    (packet : P (stamped (piecePacket n f k off len data isFlag s1) s1)) : Sends i s s1 n f' P :=
  ⟨t, _, runs, op, tx, packet, rfl, rfl, next⟩

/-! ### A transfer within one block (R252, R270, R271) -/

/-- An operation that has sent its length sends nothing more. -/
theorem fabricSend_whole {n : Nat} {s : State} {f : FabricRun} (op : (s.ring n).op = some (.fabric f)) (whole : f.length ≤ f.sent) (k : Nat) :
    fabricSend n k s = s := by
  cases k with
  | zero => rfl
  | succ k => simp [fabricSend, fabricOf_eq op, whole]

section
variable {n : Nat} {s : State} {f : FabricRun} (op : (s.ring n).op = some (.fabric f)) (start : f.sent = 0) (goes : f.stop = none)
  (some_ : f.length ≠ 0) (block : f.offset % 256 + f.length ≤ 256) (transfer : isTransfer f = true) (free : sendWaits f.node s = false)
include op start goes some_ block transfer free

theorem fabricSend_get (k : Nat) (get : f.op = 2) (may : MayLeave s f.node) : ∃ u, fabricSend n (k + 1) s = u
    ∧ (u.ring n).op = some (.fabric { f with sent := f.length })
    ∧ u.fab.tx = s.fab.tx ++ [stamped (piecePacket n f .get f.offset f.length [] false s) s]
    ∧ tget 0 u.fab.nextSeq f.node = (tget 0 s.fab.nextSeq f.node + 1) % 2 ^ 24 := by
  obtain ⟨u, sent, op', tx, next⟩ := sendPiece_sends n .get f.offset f.length [] false may
  have len : min f.length (256 - f.offset % 256) = f.length := by omega
  simp only [Bool.false_eq_true, if_false, start, Nat.zero_add] at op'
  have whole := fabricSend_whole op' (Nat.le_refl _) k
  refine ⟨u, ?_, op', tx, next⟩
  simp [fabricSend, fabricOf_eq op, start, goes, some_, transfer, free, get, len, sent, whole]

theorem fabricSend_put (k : Nat) (put : f.op ≠ 2) {b : List (Byte × Bool)} {s3 : State}
    (read : sourceRead n (f.localVa % 2 ^ 64) f.length s = (.data b, s3)) (may : MayLeave s3 f.node) : ∃ u, fabricSend n (k + 1) s = u
    ∧ (u.ring n).op = some (.fabric { f with sent := f.length })
    ∧ u.fab.tx = s3.fab.tx ++ [stamped (piecePacket n f (fabricKind f) f.offset f.length b false s3) s3]
    ∧ tget 0 u.fab.nextSeq f.node = (tget 0 s3.fab.nextSeq f.node + 1) % 2 ^ 24 := by
  obtain ⟨u, sent, op', tx, next⟩ := sendPiece_sends n (fabricKind f) f.offset f.length b false may
  have len : min f.length (256 - f.offset % 256) = f.length := by omega
  simp only [Bool.false_eq_true, if_false, start, Nat.zero_add] at op'
  have whole := fabricSend_whole op' (Nat.le_refl _) k
  refine ⟨u, ?_, op', tx, next⟩
  simp only [Nat.reducePow] at read
  simp [fabricSend, fabricOf_eq op, start, goes, some_, transfer, free, put, len, read, sent, whole]

end

/-! ### The descriptor (R269) -/

/-- The command of each fabric operation. -/
def Commands (n k : Nat) (i : Instr) : Prop :=
  (k = 1 ∧ i = .fabricPut n) ∨ (k = 2 ∧ i = .fabricGet n) ∨ (k = 3 ∧ i = .deliver n) ∨ (k = 4 ∧ i = .fabricAtomic n)
    ∨ (k = 5 ∧ i = .fabricFence n) ∨ (k = 6 ∧ i = .routeLoad n)

/-- What an operation's command does as it begins. -/
def starts (n k : Nat) (f : FabricRun) (s : State) : State :=
  match k with
  | 4 => if f.sent = 0 ∧ f.stop.isNone then (sendPiece n f (fabricKind f) f.offset 8 (allWith false (toBytes 8 f.value)) false s).2 else s
  | 5 => setFabric n { f with fenceSeqs := (s.fab.tx.filter fun t => f.all || t.peer == f.node).map fun t => (t.peer, t.seq) } s
  | 6 => routeLoad n (f.length / 8 + 1) s
  | _ => fabricGo n s

theorem exec_fabricDesc {n k : Nat} {i : Instr} (command : Commands n k i) {s : State} (op : (s.ring n).op = none) :
    exec i s = .next (fabricDesc k n (starts n k) s) := by
  have idle := fabricOf_none op
  rcases command with ⟨rfl, rfl⟩ | ⟨rfl, rfl⟩ | ⟨rfl, rfl⟩ | ⟨rfl, rfl⟩ | ⟨rfl, rfl⟩ | ⟨rfl, rfl⟩
  · rfl
  · rfl
  · rfl
  · simp only [exec, execFabricAtomic, idle]
    rfl
  · rfl
  · simp only [exec, execRouteLoad, idle]
    rfl

/-- The operation that a descriptor begins, after a state. -/
def begun (y : List Byte) (s1 : State) : FabricRun := { parseFabric y with opNo := s1.fab.nextOp + 1 }

/-- The state in which it begins. -/
def begunState (n : Nat) (y : List Byte) (s1 : State) : State :=
  beginOp n (.fabric (begun y s1)) (s1.onFab fun b => { b with nextOp := (begun y s1).opNo })

theorem begunState_op (n : Nat) (y : List Byte) (s1 : State) : ((begunState n y s1).ring n).op = some (.fabric (begun y s1)) := by
  rw [begunState, beginOp, State.ring_onRing_same]

section
variable {s s1 : State} {n k : Nat} {i : Instr} {y : List Byte} (admitted : admits s = true) (op : (s.ring n).op = none)
  (reads : ReadsStructure s s1 n 0x06 y) (command : Commands n k i)
include admitted op reads command

theorem exec_read : exec i s = .next (if fabricBad y (parseFabric y) then refuse n 0x13 s1
    else if (parseFabric y).op = k then starts n k (begun y s1) (begunState n y s1) else s1) := by
  obtain ⟨d, b, desc, aligned, read, sound, plain⟩ := reads.ok
  rw [exec_fabricDesc command op]
  simp only [fabricDesc, fabricOf_none op, onDesc, desc, admitted, aligned, withStruct, read, sound, plain]
  rfl

theorem exec_refused (bad : fabricBad y (begun y s1) = true) : FinishesFrom i s s1 n { status := 0x13 } := by
  intro goes
  have kind : (s1.ring n).kind ≠ 5 := by
    obtain ⟨d, b, desc, aligned, read, -⟩ := reads.ok
    rw [ring_ofRings (rings_ofEq (readStruct_rings ..) read) n, kind_of_descOf desc]
    decide
  have bad' : fabricBad y (parseFabric y) = true := bad
  exact ⟨_, (exec_read admitted op reads command).trans (by rw [if_pos bad']), refuse_writesRecord goes kind (by decide)⟩

theorem exec_begun (good : fabricBad y (begun y s1) = false) (kind : (begun y s1).op = k) :
    exec i s = .next (starts n k (begun y s1) (begunState n y s1)) := by
  have good' : fabricBad y (parseFabric y) = false := good
  have kind' : (parseFabric y).op = k := kind
  rw [exec_read admitted op reads command, good', if_pos kind']
  rfl

end

/-- An accepted transfer has a length; an accepted operation of another kind is ordered, and a routing load stays in its bank (R269). -/
theorem accepted_fields {y : List Byte} {f : FabricRun} (good : fabricBad y f = false) :
    (isTransfer f = true → f.length ≠ 0) ∧ (isTransfer f = false → f.unordered = false)
      ∧ (f.op = 6 → f.offset + f.length / 8 ≤ 16384) := by
  simp only [fabricBad, Bool.or_eq_false_iff, and_assoc] at good
  obtain ⟨-, -, -, -, -, -, -, -, -, lengths, -, -, loads, ordered, -⟩ := good
  refine ⟨fun transfer => ?_, fun other => by simpa [other] using ordered, fun load => ?_⟩
  · simp only [transfer, Bool.true_and, Bool.or_eq_false_iff, beq_eq_false_iff_ne] at lengths
    exact lengths.1
  · simp only [load, beq_self_eq_true, Bool.true_and, Bool.or_eq_false_iff, decide_eq_false_iff_not, Nat.not_lt] at loads
    exact loads.2

/-! ### The operations as they begin -/

theorem storeWaiting_zero (n : Nat) (s : State) : storeWaiting n 0 s = s := rfl

/-- A transfer sends what it may as it begins: nothing that came back waits yet. -/
theorem fabricGo_begun (n : Nat) (y : List Byte) (s1 : State) :
    fabricGo n (begunState n y s1) = fabricSend n ((begun y s1).length / 128 + 1 + 1) (begunState n y s1) := by
  rw [fabricGo, fabricOf_eq (begunState_op n y s1)]
  rfl

/-- The entry of the shadow bank is written, and no entry of the active one (R267). -/
theorem shadowWrite_routes {s : State} {index : Nat} {w : Word} (loose : s.fab.held = false) (low : index < 16384) :
    routeOf (shadowWrite index w s) (!s.fab.active) index = w
      ∧ ∀ v, v < 16384 → routeOf (shadowWrite index w s) s.fab.active v = routeOf s s.fab.active v := by
  have written : shadowWrite index w s =
      s.onFab fun f => { f with routes := tput 0 f.routes (one (!f.active) * 16384 + index) w } := by
    rw [shadowWrite, loose]
    rfl
  rw [written]
  refine ⟨tget_tput_same .., fun v small => tget_tput_other _ _ _ ?_⟩
  cases s.fab.active
  · simp [one]
    omega
  · simp [one]
    omega

/-- A routing load that has loaded its length loads nothing more. -/
theorem routeLoad_whole {n : Nat} {s : State} {f : FabricRun} (op : (s.ring n).op = some (.fabric f)) (whole : f.length / 8 ≤ f.sent) (k : Nat) :
    routeLoad n k s = s := by
  cases k with
  | zero => rfl
  | succ k => simp [routeLoad, fabricOf_eq op, whole]

theorem routeLoad_entry {n : Nat} {s s3 : State} {f : FabricRun} (op : (s.ring n).op = some (.fabric f)) (kind : f.op = 6)
    (length : f.length = 8) (start : f.sent = 0) (goes : f.stop = none) {b : List (Byte × Bool)}
    (read : sourceRead n (f.localVa % 2 ^ 64) 8 s = (.data b, s3)) (sound : anyPoison b = false) (k : Nat) :
    routeLoad n (k + 1) s = setFabric n { f with sent := 1 } (shadowWrite f.offset (BitVec.ofNat 64 (ofBytes (plain b))) s3) := by
  have whole := routeLoad_whole (setFabric_op n { f with sent := 1 } (shadowWrite f.offset (BitVec.ofNat 64 (ofBytes (plain b))) s3))
    (by simp [length]) k
  simp only [Nat.reducePow] at read
  simpa [routeLoad, fabricOf_eq op, kind, length, start, goes, read, sound] using whole


theorem plain_allWith (bad : Bool) (b : List Byte) : plain (allWith bad b) = b := by
  simp [plain, allWith, Function.comp_def]

theorem stamped_op (n : Nat) (y : List Byte) (s1 : State) (k : PktKind) (off len : Nat) (data : List (Byte × Bool)) (u : State) :
    (stamped (piecePacket n (begun y s1) k off len data false u) u).op = (begun y s1).opNo := by
  simp [stamped, piecePacket, begun]

section
variable {s s1 : State} {n k : Nat} {i : Instr} {y : List Byte}
  (runs : exec i s = .next (starts n k (begun y s1) (begunState n y s1))) (good : fabricBad y (begun y s1) = false) (kind : (begun y s1).op = k)
include runs

include good kind

theorem get_sends (get : k = 2) (block : (begun y s1).offset % 256 + (begun y s1).length ≤ 256)
    (may : MayLeave (begunState n y s1) (begun y s1).node) :
    Sends i s (begunState n y s1) n { begun y s1 with sent := (begun y s1).length } fun p => p.peer = (begun y s1).node ∧ p.kind = .get
      ∧ p.ordered = false ∧ p.offset = (begun y s1).offset ∧ p.length = (begun y s1).length ∧ p.va = (begun y s1).localVa % 2 ^ 64
      ∧ p.op = (begun y s1).opNo := by
  subst get
  have transfer : isTransfer (begun y s1) = true := by simp [isTransfer, kind]
  have some_ := (accepted_fields good).1 transfer
  obtain ⟨u, sent, op, tx, next⟩ := fabricSend_get (begunState_op n y s1) rfl rfl some_ block transfer
    (sendWaits_mayLeave may.whole may.room) ((begun y s1).length / 128 + 1) kind may
  have runs' : exec i s = .next u := runs.trans (congrArg _ ((fabricGo_begun n y s1).trans sent))
  refine sends_piece runs' op tx next ⟨rfl, rfl, ?_, rfl, rfl, rfl, stamped_op ..⟩
  simp [stamped, piecePacket, kind]

theorem put_sends (put : k = 1 ∨ k = 3) (block : (begun y s1).offset % 256 + (begun y s1).length ≤ 256)
    (room : unacked (begunState n y s1) (begun y s1).node < 1024) (whole : (begun y s1).node ∉ (begunState n y s1).fab.broken)
    (near : hostSource (begunState n y s1) ((begun y s1).localVa % 2 ^ 64) (begun y s1).length = none) {b : List (Byte × Bool)} {s3 : State}
    (read : vaRead .once agentHub (.ring n) .read ((begun y s1).localVa % 2 ^ 64) (begun y s1).length (begunState n y s1) = (.data b, s3))
    (may : MayLeave s3 (begun y s1).node) :
    Sends i s s3 n { begun y s1 with sent := (begun y s1).length } fun p => p.peer = (begun y s1).node
      ∧ p.kind = (if k = 3 then .deliver else .put) ∧ p.ordered = !(begun y s1).unordered ∧ p.offset = (begun y s1).offset
      ∧ p.length = (begun y s1).length ∧ p.data = plain b ∧ p.poisoned = sectorMask (begun y s1).offset b ∧ p.op = (begun y s1).opNo := by
  have transfer : isTransfer (begun y s1) = true := by rcases put with rfl | rfl <;> simp [isTransfer, kind]
  have other : (begun y s1).op ≠ 2 := by omega
  have some_ := (accepted_fields good).1 transfer
  have source : sourceRead n ((begun y s1).localVa % 2 ^ 64) (begun y s1).length (begunState n y s1) = (.data b, s3) := by
    simp only [sourceRead, near, read]
  obtain ⟨u, sent, op, tx, next⟩ := fabricSend_put (begunState_op n y s1) rfl rfl some_ block transfer
    (sendWaits_mayLeave whole room) ((begun y s1).length / 128 + 1) other source may
  have runs' : exec i s = .next u := by
    rw [runs, ← sent, ← fabricGo_begun]
    rcases put with rfl | rfl <;> rfl
  refine sends_piece runs' op tx next ⟨rfl, ?_, ?_, rfl, rfl, rfl, rfl, stamped_op ..⟩
  · rcases put with rfl | rfl <;> simp [stamped, piecePacket, fabricKind, kind]
  · simp [stamped, piecePacket, other]

theorem atomic_sends (atomic : k = 4) (may : MayLeave (begunState n y s1) (begun y s1).node) :
    Sends i s (begunState n y s1) n { begun y s1 with sent := 8 } fun p => p.peer = (begun y s1).node ∧ p.kind = fabricKind (begun y s1)
      ∧ p.ordered = true ∧ p.offset = (begun y s1).offset ∧ p.data = toBytes 8 (begun y s1).value := by
  subst atomic
  have ordered := (accepted_fields good).2.1 (by simp [isTransfer, kind])
  obtain ⟨u, sent, op, tx, next⟩ := sendPiece_sends n (fabricKind (begun y s1)) (begun y s1).offset 8
    (allWith false (toBytes 8 (begun y s1).value)) false may
  have runs' : exec i s = .next u := by
    have first : (begun y s1).sent = 0 ∧ (begun y s1).stop.isNone := ⟨rfl, rfl⟩
    simp only [runs, starts, first, sent, and_self, if_true]
  refine sends_piece runs' op tx next ⟨rfl, rfl, ?_, rfl, ?_⟩
  · simp [stamped, piecePacket, kind, ordered]
  · exact plain_allWith ..

omit good kind in
theorem fence_notes (fence : k = 5) : ∃ t, exec i s = .next t ∧ (t.ring n).op = some (.fabric { begun y s1 with
      fenceSeqs := (s1.fab.tx.filter fun p => (begun y s1).all || p.peer == (begun y s1).node).map fun p => (p.peer, p.seq) })
    ∧ (t.ring n).state = .running ∧ OtherRings n s1 t ∧ t.fab = { s1.fab with nextOp := (begun y s1).opNo } := by
  subst fence
  simp only [starts] at runs
  refine ⟨_, runs, setFabric_op .., ?_, fun m other => ?_, rfl⟩
  · rw [setFabric, State.ring_onRing_same, begunState, beginOp, State.ring_onRing_same]
  · rw [setFabric, State.ring_onRing_other _ _ other, begunState, beginOp, State.ring_onRing_other _ _ other]
    rfl

theorem route_loads (load : k = 6) (length : (begun y s1).length = 8)
    (near : hostSource (begunState n y s1) ((begun y s1).localVa % 2 ^ 64) 8 = none) {b : List (Byte × Bool)} {s3 : State}
    (read : vaRead .once agentHub (.ring n) .read ((begun y s1).localVa % 2 ^ 64) 8 (begunState n y s1) = (.data b, s3))
    (sound : anyPoison b = false) (loose : s3.fab.held = false) :
    ∃ t, exec i s = .next t ∧ (t.ring n).op = some (.fabric { begun y s1 with sent := 1 })
      ∧ routeOf t (!s3.fab.active) (begun y s1).offset = BitVec.ofNat 64 (ofBytes (plain b)) ∧ t.fab.active = s3.fab.active
      ∧ ∀ v, v < 16384 → routeOf t s3.fab.active v = routeOf s3 s3.fab.active v := by
  subst load
  have inside := (accepted_fields good).2.2 kind
  rw [length] at inside
  have source : sourceRead n ((begun y s1).localVa % 2 ^ 64) 8 (begunState n y s1) = (.data b, s3) := by simp only [sourceRead, near, read]
  have loaded := routeLoad_entry (begunState_op n y s1) kind length rfl rfl source sound ((begun y s1).length / 8)
  obtain ⟨written, kept⟩ := shadowWrite_routes (w := BitVec.ofNat 64 (ofBytes (plain b))) loose (show (begun y s1).offset < 16384 by omega)
  refine ⟨_, runs.trans (congrArg _ loaded), setFabric_op .., written, ?_, kept⟩
  simp [setFabric, shadowWrite, loose]

end

/-- Once every byte is acknowledged the flag follows (R274). -/
theorem flagSend_sends {s : State} {n : Nat} {f : FabricRun} (runs : fabricOf s n = some f) (flag : f.flag = true) (unsent : f.flagSent = false)
    (goes : f.stop = none) (whole : fabricBytes f = f.length) (other : f.op ≠ 2) (may : MayLeave s f.node) :
    Sends (.flagSend n) s s n { f with unordered := false, flagSent := true } fun p => p.peer = f.node ∧ p.kind = .flag
      ∧ p.ordered = true ∧ p.offset = f.flagOffset ∧ p.length = 8 ∧ p.data = toBytes 8 f.value ∧ p.isFlag = true := by
  obtain ⟨u, sent, op, tx, next⟩ := sendPiece_sends n (f := { f with unordered := false }) .flag f.flagOffset 8
    (allWith false (toBytes 8 f.value)) true may
  have runs' : exec (.flagSend n) s = .next u := by
    have due : (f.flag && !f.flagSent && f.stop.isNone && decide (fabricBytes f = f.length)) = true := by simp [flag, unsent, goes, whole]
    simp only [exec, execFlagSend, runs, due, sent, if_true]
  refine sends_piece runs' op tx next ⟨rfl, rfl, ?_, rfl, rfl, ?_, rfl⟩
  · simp [stamped, piecePacket, other]
  · exact plain_allWith ..

/-! ### The statement -/

/-- Settles O34: a descriptor that is read begins its operation, whose first step sends the one packet that its block takes. -/
theorem fabricOperationsSendPackets : Obligations.FabricOperationsSendPackets := by
  refine ⟨fun s s1 n y k i admitted op reads command => ⟨exec_refused admitted op reads command, fun good kind => ?_⟩,
    fun s n f runs flag unsent goes whole other may => flagSend_sends runs flag unsent goes whole other may⟩
  have runs := exec_begun admitted op reads command good kind
  exact ⟨get_sends runs good kind,
    fun b s3 put block room whole near read _ may => put_sends runs good kind put block room whole near read may,
    atomic_sends runs good kind, fence_notes runs,
    fun b s3 load length near read sound _ loose => route_loads runs good kind load length near read sound loose⟩

end Sys2Proof.Proofs.FabricOperations
end

section
/-! SUPPORT. What an operation that goes on can send (R252, R278): packets to peers whose contexts stand, and none to one that waits for its
handshake. -/

namespace Sys2Proof.Proofs.WholePeers

open Sys2Proof.Machine Sys2Proof.Proofs.AccessFrames Sys2Proof.Proofs.Transmission Sys2Proof.Proofs.PacketsPerformed
open Sys2Proof.Proofs.FabricOperations

/-- The same contexts are broken, and what is unacknowledged was so before or goes to a peer whose context is not (R278). -/
def SendsWhole (s t : State) : Prop :=
  t.fab.broken = s.fab.broken ∧ ∀ y ∈ t.fab.tx, y ∈ s.fab.tx ∨ y.peer ∉ s.fab.broken

namespace SendsWhole

theorem ofFab {s t : State} (h : t.fab = s.fab) : SendsWhole s t := by
  unfold SendsWhole
  rw [h]
  exact ⟨rfl, fun _ mem => .inl mem⟩

theorem same (s : State) : SendsWhole s s := ofFab rfl

theorem trans {s t u : State} (h : SendsWhole s t) (k : SendsWhole t u) : SendsWhole s u := by
  obtain ⟨broken, sent⟩ := h
  obtain ⟨broken', sent'⟩ := k
  refine ⟨broken'.trans broken, fun y mem => ?_⟩
  rcases sent' y mem with before | whole
  · exact sent y before
  · exact .inr (broken ▸ whole)

theorem foldl {β : Type} {f : State → β → State} (h : ∀ s b, SendsWhole s (f s b)) : ∀ (l : List β) (s : State), SendsWhole s (l.foldl f s)
  | [], s => same s
  | b :: l, s => (h s b).trans (foldl h l (f s b))

end SendsWhole

open SendsWhole

/-! ### Packets -/

/-- A packet goes out to a peer whose context stands, for one with a route waits otherwise (R278). -/
theorem originate_sendsWhole (t : TxPkt) (s : State) : SendsWhole s (originate t s).2 := by
  by_cases own : t.peer = nodeId s
  · rw [originate, if_pos own]
    exact same s
  · cases waits : sendWaits t.peer s with
    | true =>
      rw [originate, if_neg own, waits]
      exact same s
    | false =>
      cases picked : pickPort s s.fab.active t.peer with
      | none =>
        simp only [originate, own, waits, sendPacket, picked, if_false, Bool.false_eq_true]
        exact ofFab (event_fab ..)
      | some q =>
        simp only [sendWaits, picked, Option.isSome_some, Bool.true_and, Bool.or_eq_false_iff, List.contains_eq_mem,
          decide_eq_false_iff_not, Nat.not_le] at waits
        obtain ⟨whole, room⟩ := waits
        obtain ⟨u, sent, broken, tx, -⟩ := originate_sends (t := t) ⟨own, whole, room, by simp [picked]⟩
        rw [sent]
        refine ⟨broken, fun y mem => ?_⟩
        rw [tx] at mem
        rcases List.mem_append.1 mem with before | new
        · exact .inl before
        · rw [List.mem_singleton.1 new]
          exact .inr whole

theorem windowFault_sendsWhole (src off reason : Nat) (s : State) : SendsWhole s (windowFault src off reason s) := by
  unfold windowFault
  dsimp only
  split
  · exact SendsWhole.trans (t := s.onFab fun f => { f with winFaults := advance f.winFaults 1, faultAt := _ })
      ⟨rfl, fun _ mem => .inl mem⟩ (ofFab (event_fab ..))
  · exact ⟨rfl, fun _ mem => .inl mem⟩

/-! ### Accesses of the host window (R288, R298) -/

theorem blockedWait_fab (o : Owner) (s : State) : (blockedWait o s).fab = s.fab := by
  unfold blockedWait
  split
  · dsimp only
    split <;> rfl
  · rfl

theorem hostAsk_fab (o : Owner) (hio n va : Nat) (s : State) : (hostAsk o hio n va s).fab = s.fab := by
  unfold hostAsk
  split
  · rfl
  · split
    · exact blockedWait_fab ..
    · exact (AccessOnly.ofEvent (markHost_only ..)).fab

theorem hotPump_fab (s : State) : (hotPump s).fab = s.fab := (AccessOnly.ofEvent (hotPump_only s)).fab

theorem postWrite_fab (o : Owner) (hio : Nat) (b : List Byte) (ep : Bool) (s : State) : (postWrite o hio b ep s).fab = s.fab :=
  (AccessOnly.ofEvent (postWrite_only ..)).fab

theorem noteWaits_fab (s : State) : (noteWaits s).fab = s.fab := by
  unfold noteWaits
  split
  · rfl
  · dsimp only
    split
    · rfl
    · exact foldl_fab (fun s n => event_fab 0x22 0 0 n s) _ _

/-- What a waiting attempt has sent is kept. -/
theorem keepAsked_fab (s s1 : State) : (keepAsked s s1).fab = s1.fab :=
  (noteWaits_fab _).trans <| (hotPump_fab _).trans <|
    foldl_fab (fun s (r : HostRead) => (AccessOnly.ofEvent (hotHost_only r.hio r.len s)).fab) _ _

/-! ### Reads (R275) -/

theorem takeArrived_sendsWhole {o : Owner} {pa n va : Nat} {ask : State → Got × State} {s : State} (asks : SendsWhole s (ask s).2) :
    SendsWhole s (takeArrived o pa n va ask s).2 := by
  unfold takeArrived
  split
  · dsimp only
    split <;> exact ofFab rfl
  · exact asks

theorem readPiece_sendsWhole (k : Keep) (agent : Nat) (o : Owner) (acc : Access) (op va n : Nat) (s : State) :
    SendsWhole s (readPiece k agent o acc op va n s).2 := by
  have placed : SendsWhole s (place agent acc va s).2 := ofFab (place_accessOnly agent acc va s).fab
  unfold readPiece
  generalize place agent acc va s = r at placed ⊢
  obtain ⟨p, s1⟩ := r
  cases p with
  | pool pa u => exact placed.trans (ofFab (AccessOnly.ofEvent (poolRead_only ..)).fab)
  | host hio =>
    refine placed.trans (takeArrived_sendsWhole ?_)
    split
    · exact same s1
    · split
      · exact same s1
      · exact ofFab (hostAsk_fab ..)
  | fabric node off =>
    refine placed.trans (takeArrived_sendsWhole ?_)
    dsimp only
    split
    · exact same s1
    · generalize TxPkt.mk .. = t
      have sent := originate_sendsWhole t s1
      generalize originate t s1 = r at sent ⊢
      obtain ⟨r, s2⟩ := r
      cases r with
      | loopback =>
        have here := sent.trans (ofFab (performHere_fab node .get off n [] s2))
        dsimp only
        generalize performHere node .get off n [] s2 = q at here ⊢
        obtain ⟨q, s3⟩ := q
        cases q with
        | ok b => exact here
        | error c => exact here.trans (windowFault_sendsWhole ..)
      | _ => exact sent
  | fault st c => exact placed
  | held => exact placed

/-- A state with what another one has sent. -/
theorem sentOnly_sendsWhole {s u : State} (r : State) (h : SendsWhole s u) : SendsWhole s (sentOnly r u) := h

theorem readPieces_sendsWhole (k : Keep) (agent : Nat) (o : Owner) (acc : Access) (op : Nat) :
    ∀ (ps : List (Nat × Nat)) (s : State), SendsWhole s (readPieces k agent o acc op ps s).2
  | [], s => same s
  | (va, n) :: ps, s => by
    have piece := readPiece_sendsWhole k agent o acc op va n s
    simp only [readPieces]
    generalize readPiece k agent o acc op va n s = r at piece ⊢
    obtain ⟨r, s1⟩ := r
    have rest := piece.trans (readPieces_sendsWhole k agent o acc op ps s1)
    cases r with
    | data b =>
      dsimp only
      generalize readPieces k agent o acc op ps s1 = q at rest ⊢
      obtain ⟨q, s2⟩ := q
      cases q with
      | wait => exact sentOnly_sendsWhole s rest
      | _ => exact rest
    | wait =>
      dsimp only
      generalize readPieces k agent o acc op ps s1 = q at rest ⊢
      obtain ⟨q, s2⟩ := q
      cases q with
      | fault st c a => exact rest
      | _ => exact sentOnly_sendsWhole s1 rest
    | fault st c a => exact piece

theorem sourceRead_sendsWhole (n va len : Nat) (s : State) : SendsWhole s (sourceRead n va len s).2 := by
  unfold sourceRead
  split
  · exact same s
  · exact readPieces_sendsWhole ..

/-! ### Stores (R275) -/

theorem vaWriteOp_sendsWhole (k : Keep) (agent : Nat) (o : Owner) (op va : Nat) (bytes : List Byte) (ep : Bool) (s : State) :
    SendsWhole s (vaWriteOp k agent o op va bytes ep s).2 := by
  have placed : SendsWhole s (place agent .write va s).2 := ofFab (place_accessOnly agent .write va s).fab
  unfold vaWriteOp
  generalize place agent .write va s = r at placed ⊢
  obtain ⟨p, s1⟩ := r
  cases p with
  | pool pa u => exact placed.trans (ofFab (AccessOnly.ofEvent (poolWrite_only ..)).fab)
  | host hio =>
    dsimp only
    split
    · exact placed.trans (ofFab ((hotPump_fab _).trans (postWrite_fab ..)))
    · split
      · exact placed
      · split
        · exact placed
        · exact placed.trans (ofFab (blockedWait_fab ..))
  | fabric node off =>
    dsimp only
    generalize TxPkt.mk .. = t
    have sent := placed.trans (originate_sendsWhole t s1)
    generalize originate t s1 = r at sent ⊢
    obtain ⟨r, s2⟩ := r
    cases r with
    | loopback =>
      have here := sent.trans (ofFab (performHere_fab node .put off bytes.length (allWith ep bytes) s2))
      dsimp only
      generalize performHere node .put off bytes.length (allWith ep bytes) s2 = q at here ⊢
      obtain ⟨q, s3⟩ := q
      cases q with
      | ok b => exact here
      | error c => exact here.trans (windowFault_sendsWhole ..)
    | _ => exact sent
  | fault st c => exact placed
  | held => exact placed

theorem vaWrites_sendsWhole (k : Keep) (agent : Nat) (o : Owner) (op : Nat) :
    ∀ (ps : List (Nat × List Byte × Bool)) (s : State), SendsWhole s (vaWrites k agent o op ps s).2
  | [], s => same s
  | (va, bytes, ep) :: ps, s => by
    have one := vaWriteOp_sendsWhole k agent o op va bytes ep s
    simp only [vaWrites]
    generalize vaWriteOp k agent o op va bytes ep s = r at one ⊢
    obtain ⟨r, s1⟩ := r
    cases r with
    | done => exact one.trans (vaWrites_sendsWhole k agent o op ps s1)
    | _ => exact one

theorem vaStore_sendsWhole (k : Keep) (agent : Nat) (o : Owner) (va : Nat) (b : List (Byte × Bool)) (s : State) :
    SendsWhole s (vaStore k agent o va b s).2 := vaWrites_sendsWhole ..

/-! ### A fabric operation that goes on (R270, R272) -/

theorem setFabric_sendsWhole (n : Nat) (f : FabricRun) (s : State) : SendsWhole s (setFabric n f s) := ofFab rfl

theorem storeLocal_sendsWhole (n : Nat) (f : FabricRun) (off : Nat) (b : List (Byte × Bool)) (s : State) :
    SendsWhole s (storeLocal n f off b s).2 := by
  have stored := vaStore_sendsWhole .once agentHub (.ring n) ((f.localVa + off) % 2 ^ 64) b s
  unfold storeLocal
  generalize vaStore .once agentHub (.ring n) ((f.localVa + off) % 2 ^ 64) b s = r at stored ⊢
  obtain ⟨⟨r, k⟩, s1⟩ := r
  cases r with
  | wait => exact stored.trans (ofFab (keepAsked_fab s s1))
  | _ => exact stored

theorem takePiece_sendsWhole (n off len : Nat) (b : List (Byte × Bool)) (s : State) : SendsWhole s (takePiece n off len b s).2 := by
  have kept (f : FabricRun) (u : State) (h : SendsWhole s u) : SendsWhole s (setFabric n f u) := h.trans (setFabric_sendsWhole ..)
  unfold takePiece
  split
  · exact same s
  · next f _ =>
    dsimp only
    split
    · have stored := storeLocal_sendsWhole n f off b s
      generalize storeLocal n f off b s = r at stored ⊢
      obtain ⟨r, s1⟩ := r
      rcases r with - | - | x
      · exact stored
      · exact kept _ _ stored
      · exact kept _ _ stored
    · have stored := storeLocal_sendsWhole n f 0 b s
      generalize storeLocal n f 0 b s = r at stored ⊢
      obtain ⟨r, s1⟩ := r
      split
      · exact kept _ _ (same s)
      · split
        · exact kept _ _ (same s)
        · rcases r with - | - | x
          · exact stored
          · exact kept _ _ stored
          · exact kept _ _ stored
    · exact kept _ _ (same s)

theorem pieceDone_sendsWhole (n off len : Nat) (b : List (Byte × Bool)) (s : State) : SendsWhole s (pieceDone n off len b s) := by
  have taken := takePiece_sendsWhole n off len b s
  unfold pieceDone
  generalize takePiece n off len b s = r at taken ⊢
  obtain ⟨r, s1⟩ := r
  cases r with
  | true => exact taken
  | false =>
    dsimp only
    split
    · exact taken.trans (setFabric_sendsWhole ..)
    · exact taken

theorem storeWaiting_sendsWhole (n : Nat) : ∀ (k : Nat) (s : State), SendsWhole s (storeWaiting n k s)
  | 0, s => same s
  | k + 1, s => by
    unfold storeWaiting
    split
    · next f _ =>
      split
      · exact same s
      · next off len b rest _ =>
        have taken := (setFabric_sendsWhole n { f with waiting := rest } s).trans (takePiece_sendsWhole n off len b _)
        generalize takePiece n off len b (setFabric n { f with waiting := rest } s) = r at taken ⊢
        obtain ⟨r, s1⟩ := r
        cases r with
        | true => exact taken.trans (storeWaiting_sendsWhole n k s1)
        | false => exact taken.trans (setFabric_sendsWhole ..)
    · exact same s

theorem sendPiece_sendsWhole (n : Nat) (f : FabricRun) (k : PktKind) (off len : Nat) (data : List (Byte × Bool)) (isFlag : Bool) (s : State) :
    SendsWhole s (sendPiece n f k off len data isFlag s).2 := by
  unfold sendPiece
  dsimp only
  generalize TxPkt.mk .. = t
  have sent := originate_sendsWhole t s
  generalize originate t s = r at sent ⊢
  obtain ⟨r, s1⟩ := r
  cases r with
  | sent => exact sent.trans (setFabric_sendsWhole ..)
  | full => exact sent
  | noRoute => exact sent.trans (setFabric_sendsWhole ..)
  | loopback =>
    dsimp only
    split
    · exact sent
    · have here := sent.trans (ofFab (performAny_fab f.node k off len data s1))
      generalize performAny f.node k off len data s1 = q at here ⊢
      obtain ⟨q, s2⟩ := q
      cases q with
      | error c => exact (here.trans (windowFault_sendsWhole ..)).trans (setFabric_sendsWhole ..)
      | ok b =>
        have kept := here.trans (setFabric_sendsWhole n (if isFlag then { f with flagSent := true } else { f with sent := f.sent + len }) s2)
        dsimp only
        split
        · dsimp only
          split
          · exact kept.trans (setFabric_sendsWhole ..)
          · exact kept
        · exact kept.trans (pieceDone_sendsWhole ..)

theorem fabricSend_sendsWhole (n : Nat) : ∀ (k : Nat) (s : State), SendsWhole s (fabricSend n k s)
  | 0, s => same s
  | k + 1, s => by
    have piece (f : FabricRun) (kind : PktKind) (off len : Nat) (b : List (Byte × Bool)) (u : State) : SendsWhole u
        (match sendPiece n f kind off len b false u with
          | (true, s) => fabricSend n k s
          | (false, s) => s) := by
      have sent := sendPiece_sendsWhole n f kind off len b false u
      generalize sendPiece n f kind off len b false u = r at sent ⊢
      obtain ⟨r, s1⟩ := r
      cases r with
      | true => exact sent.trans (fabricSend_sendsWhole n k s1)
      | false => exact sent
    unfold fabricSend
    split
    · exact same s
    · next f _ =>
      extract_lets off len
      split
      · exact same s
      · split
        · exact piece ..
        · have read := sourceRead_sendsWhole n ((f.localVa + f.sent) % 2 ^ 64) len s
          generalize sourceRead n ((f.localVa + f.sent) % 2 ^ 64) len s = r at read ⊢
          obtain ⟨r, s1⟩ := r
          cases r with
          | data b => exact read.trans (piece ..)
          | fault st c va => exact read.trans (setFabric_sendsWhole ..)
          | wait => exact read.trans (ofFab (keepAsked_fab s s1))

theorem fabricGo_sendsWhole (n : Nat) (s : State) : SendsWhole s (fabricGo n s) := by
  unfold fabricGo
  split
  · exact (storeWaiting_sendsWhole ..).trans (fabricSend_sendsWhole ..)
  · exact same s

/-! ### A census that goes on (R337) -/

theorem censusSend_sendsWhole (n : Nat) : ∀ (k : Nat) (s : State), SendsWhole s (censusSend n k s)
  | 0, s => same s
  | k + 1, s => by
    unfold censusSend
    split
    · next c _ =>
      extract_lets va b
      split
      · exact same s
      · have written : SendsWhole s (vaWrite .once agentHub (.ring n) va b false s).2 := vaWriteOp_sendsWhole ..
        generalize vaWrite .once agentHub (.ring n) va b false s = r at written ⊢
        obtain ⟨r, s1⟩ := r
        have kept (c : CensusRun) : SendsWhole s1 (setCensus n c s1) := ofFab rfl
        cases r with
        | done => exact (written.trans (kept _)).trans (censusSend_sendsWhole n k _)
        | fault st r => exact written.trans (kept _)
        | wait => exact written.trans (ofFab (keepAsked_fab s s1))
    · exact same s

theorem censusGo_sendsWhole (n : Nat) (s : State) : SendsWhole s (censusGo n s) := by
  unfold censusGo
  split
  · exact censusSend_sendsWhole ..
  · exact same s

/-! ### Every operation that waits (R278) -/

theorem wakeEngines_fab (s : State) : (wakeEngines s).fab = s.fab := by
  have only : { wakeEngines s with engines := s.engines } = s := TranslationsKept.wakeEngines_only s
  have f := congrArg State.fab only
  exact f

/-- Operations that go on send nothing to a peer whose context waits for its handshake. -/
theorem fabricRoom_sendsWhole (s : State) : SendsWhole s (fabricRoom s) := by
  have gone : SendsWhole s (s.rings.foldl (fun s r => censusGo r.1 (fabricGo r.1 s)) s) :=
    .foldl (fun s (r : Nat × Ring) => (fabricGo_sendsWhole r.1 s).trans (censusGo_sendsWhole r.1 _)) _ s
  exact gone.trans (ofFab (wakeEngines_fab _))

end Sys2Proof.Proofs.WholePeers
end

section
/-! SUPPORT. What a sender does on an acknowledgement, a notice or a timeout (R260, R276, R278 to R280). -/

namespace Sys2Proof.Proofs.SenderAcknowledgements

open Sys2Proof.Machine Sys2Proof.Claims Sys2Proof.Proofs.Transmission Sys2Proof.Proofs.FabricOperations Sys2Proof.Proofs.WholePeers
open Sys2Proof.Proofs.GrantSpaces (mem_setAdd mem_without)
open Sys2Proof.Proofs.TranslationsKept (wakeEngines_rings)

/-! ### The packet that an acknowledgement names -/

theorem txOf_found {s : State} {peer seq : Nat} {x : TxPkt} (found : txOf s peer seq = some x) :
    x ∈ s.fab.tx ∧ x.peer = peer ∧ x.seq = seq := by
  have named := List.find?_some found
  simp only [Bool.and_eq_true, beq_iff_eq] at named
  exact ⟨List.mem_of_find?_eq_some found, named⟩

/-- The arrival of an answer is counted by its port alone. -/
theorem countIn_eq (p len : Nat) (s : State) : ∃ ports, countIn p len s = { s with fab := { s.fab with ports := ports } } := by
  unfold countIn
  split
  · exact ⟨_, rfl⟩
  · exact ⟨_, rfl⟩

theorem txOf_countIn (p len : Nat) (s : State) (peer seq : Nat) : txOf (countIn p len s) peer seq = txOf s peer seq := by
  obtain ⟨_, counted⟩ := countIn_eq p len s
  rw [counted]
  rfl

theorem countIn_port {s : State} {p : Nat} (up : portUp s p = true) (len : Nat) : (countIn p len s).port p = { s.port p with
    rxPackets := advance (s.port p).rxPackets 1, rxBytes := advance (s.port p).rxBytes len } := by
  rw [countIn, if_pos up, State.port_onPort_same]

/-- A mark of a packet on what a port has counted (R278, R279). -/
theorem marks_packet (p peer seq : Nat) (f : TxPkt → TxPkt) (s : State) : onTx peer seq f (countIn p 0 s)
    = { s with fab := { (countIn p 0 s).fab with tx := s.fab.tx.map fun y => if y.peer = peer ∧ y.seq = seq then f y else y } } := by
  obtain ⟨_, counted⟩ := countIn_eq p 0 s
  rw [counted]
  rfl

/-! ### A packet that is over (R276, R278) -/

/-- A ring's operation when a packet is over: a fence waits for it no more. -/
def freed (t : TxPkt) (lost : Bool) (q : Ring) : Ring :=
  match q.op with
  | some (.fabric f) =>
    if f.fenceSeqs.contains (t.peer, t.seq) then
      { q with op := some (.fabric { f with fenceSeqs := f.fenceSeqs.erase (t.peer, t.seq), timedOut := f.timedOut || lost }) }
    else q
  | _ => q

theorem txEnd_rings (t : TxPkt) (lost : Bool) (s : State) : (txEnd t lost s).rings = s.rings.map fun r => (r.1, freed t lost r.2) := by
  unfold txEnd
  dsimp only
  refine List.map_congr_left fun r _ => ?_
  obtain ⟨k, q⟩ := r
  unfold freed
  dsimp only
  cases op : q.op with
  | none => rfl
  | some o =>
    cases o with
    | fabric f =>
      dsimp only
      split <;> rfl
    | _ => rfl

theorem txEnd_fab (t : TxPkt) (lost : Bool) (s : State) :
    (txEnd t lost s).fab = { s.fab with tx := s.fab.tx.filter fun x => !(x.peer == t.peer && x.seq == t.seq) } := rfl

theorem txEnd_ring (t : TxPkt) (lost : Bool) (s : State) (n : Nat) : (txEnd t lost s).ring n = freed t lost (s.ring n) := by
  simp only [State.ring, tget, txEnd_rings, MemoryErrors.tfind_map]
  cases tfind s.rings n <;> rfl

/-- Where no fence waits, the end of a packet leaves the operation. -/
theorem txEnd_unfenced {t : TxPkt} {lost : Bool} {s : State} {n : Nat} {f : FabricRun} (op : (s.ring n).op = some (.fabric f))
    (unfenced : f.fenceSeqs = []) : (txEnd t lost s).ring n = s.ring n := by
  rw [txEnd_ring]
  simp [freed, op, unfenced]

/-! ### The operations that go on (R278) -/

/-- No ring is listed but one. -/
def Alone (n : Nat) (s : State) : Prop := ∀ r ∈ s.rings.map (·.1), r = n

theorem alone_txEnd {n : Nat} {t : TxPkt} {lost : Bool} {s : State} (h : Alone n s) : Alone n (txEnd t lost s) := by
  have keys : (txEnd t lost s).rings.map (·.1) = s.rings.map (·.1) := by
    rw [txEnd_rings, List.map_map]
    rfl
  rw [Alone, keys]
  exact h

theorem alone_setFabric {n : Nat} {f : FabricRun} {s : State} (h : Alone n s) : Alone n (setFabric n f s) := by
  intro r mem
  obtain ⟨p, listed, rfl⟩ := List.mem_map.1 mem
  rcases Maintenance.mem_tput listed with rfl | before
  · rfl
  · exact h p.1 (List.mem_map_of_mem before)

theorem foldl_same {β : Type} {f : State → β → State} {s : State} : ∀ l : List β, (∀ b ∈ l, f s b = s) → l.foldl f s = s
  | [], _ => rfl
  | b :: l, h => by
    rw [List.foldl_cons, h b List.mem_cons_self]
    exact foldl_same l fun c mem => h c (List.mem_cons_of_mem _ mem)

/-- An operation that has sent its length and waits to store nothing does nothing more. -/
theorem fabricGo_whole {n : Nat} {s : State} {f : FabricRun} (op : (s.ring n).op = some (.fabric f)) (whole : f.length ≤ f.sent)
    (stored : f.waiting = []) : fabricGo n s = s := by
  simp only [fabricGo, fabricOf_eq op, stored, List.length_nil, storeWaiting_zero, fabricSend_whole op whole]

/-- With no operation left to go on the engines alone do. -/
theorem fabricRoom_whole {n : Nat} {s : State} (alone : Alone n s) {f : FabricRun} (op : (s.ring n).op = some (.fabric f))
    (whole : f.length ≤ f.sent) (stored : f.waiting = []) : fabricRoom s = wakeEngines s := by
  have still : s.rings.foldl (fun s r => censusGo r.1 (fabricGo r.1 s)) s = s := by
    refine foldl_same _ fun r mem => ?_
    rw [alone r.1 (List.mem_map_of_mem mem), fabricGo_whole op whole stored]
    simp only [censusGo, op]
  rw [fabricRoom, still]

theorem fabricOf_wakeEngines (s : State) (n : Nat) : fabricOf (wakeEngines s) n = fabricOf s n := by
  simp only [fabricOf, State.ring, wakeEngines_rings]

/-! ### A put that is over (R260, R276) -/

theorem op_of_fabricOf {s : State} {n : Nat} {f : FabricRun} (runs : fabricOf s n = some f) : (s.ring n).op = some (.fabric f) := by
  unfold fabricOf at runs
  split at runs
  · next op => rw [op, Option.some.inj runs]
  · cases runs

/-- An operation that is left with nothing to do when its packet is over. -/
theorem operation_left {n : Nat} {g : FabricRun} {s : State} (alone : Alone n s) (whole : g.length ≤ g.sent) (stored : g.waiting = [])
    (x : TxPkt) : (fabricRoom (setFabric n g (txEnd x false s))).fab.tx = s.fab.tx.filter (fun y => !(y.peer == x.peer && y.seq == x.seq))
      ∧ fabricOf (fabricRoom (setFabric n g (txEnd x false s))) n = some g := by
  rw [fabricRoom_whole (alone_setFabric (alone_txEnd alone)) (setFabric_op ..) whole stored, wakeEngines_fab, fabricOf_wakeEngines,
    fabricOf_eq (setFabric_op ..)]
  exact ⟨rfl, rfl⟩

section
variable {s : State} {n : Nat} {x : TxPkt} {f : FabricRun} (owner : x.owner = .ring n) (runs : fabricOf s n = some f)
include owner runs

theorem txPerformed_flag (flag : x.isFlag = true) (data : List Byte) (bad : BitVec 4) :
    txPerformed x data bad s = fabricRoom (setFabric n { f with flagAcked := true } (txEnd x false s)) := by
  simp only [txPerformed, owner, runs, flag, if_true]

variable (put : f.op = 1) (unfenced : f.fenceSeqs = [])
include put unfenced

omit owner put in
theorem op_txEnd (lost : Bool) : ((txEnd x lost s).ring n).op = some (.fabric f) := by
  rw [txEnd_unfenced (op_of_fabricOf runs) unfenced, op_of_fabricOf runs]

theorem txPerformed_put (unflagged : x.isFlag = false) (data : List Byte) (bad : BitVec 4) :
    txPerformed x data bad s = fabricRoom (setFabric n { f with acked := tins f.acked x.localOff x.length } (txEnd x false s)) := by
  have ended := fabricOf_eq (op_txEnd (x := x) runs unfenced false)
  simp only [txPerformed, owner, runs, unflagged, Bool.false_eq_true, if_false, pieceDone, takePiece, ended, put]

theorem txFails_put (goes : f.stop = none) (status reason : Nat) : txFails x status reason (txEnd x false s)
    = setFabric n { f with stop := some (fabricRes status x.peer x.offset reason 0) } (txEnd x false s) := by
  have other : (if f.op = 4 then (if status = 0x32 then 2 else 3) else 0) = 0 := by simp [put]
  simp only [txFails, owner, op_txEnd (x := x) runs unfenced false, goes, orStop, other]

end

theorem fabricOf_countIn (q len : Nat) (s : State) (n : Nat) : fabricOf (countIn q len s) n = fabricOf s n := by
  obtain ⟨_, counted⟩ := countIn_eq q len s
  rw [counted]
  rfl

/-- The packet is gone and the operation is left as told, where the answer's port has counted it. -/
theorem packet_gone {s : State} {n q len : Nat} {x : TxPkt} {g : FabricRun} {i : Instr} (alone : Alone n s) (whole : g.length ≤ g.sent)
    (stored : g.waiting = []) (ends : exec i s = .next (fabricRoom (setFabric n g (txEnd x false (countIn q len s))))) :
    ∃ t, exec i s = .next t ∧ t.fab.tx = s.fab.tx.filter (fun y => !(y.peer == x.peer && y.seq == x.seq)) ∧ fabricOf t n = some g := by
  obtain ⟨ports, counted⟩ := countIn_eq q len s
  obtain ⟨tx, left⟩ := operation_left (s := countIn q len s) (by rw [counted]; exact alone) whole stored x
  exact ⟨_, ends, tx.trans (by rw [counted]), left⟩

section
variable {s : State} {peer seq n : Nat} {x : TxPkt} {f : FabricRun} (found : txOf s peer seq = some x) (owner : x.owner = .ring n)
  (runs : fabricOf s n = some f) (alone : Alone n s) (put : f.op = 1) (whole : f.length ≤ f.sent) (unfenced : f.fenceSeqs = [])
  (stored : f.waiting = [])
include found owner runs alone whole stored

theorem performedAck_flag (q : Nat) (data : List Byte) (bad : BitVec 4) (flag : x.isFlag = true) :
    ∃ t, exec (.performedAck ⟨peer, q⟩ seq data bad) s = .next t
      ∧ t.fab.tx = s.fab.tx.filter (fun y => !(y.peer == peer && y.seq == seq)) ∧ fabricOf t n = some { f with flagAcked := true } := by
  obtain ⟨-, rfl, rfl⟩ := txOf_found found
  refine packet_gone (q := q) (len := data.length) alone whole stored ?_
  simp only [exec, execPerformedAck, txOf_countIn, found,
    txPerformed_flag owner ((fabricOf_countIn q data.length s n).trans runs) flag data bad]

include put unfenced

theorem performedAck_put (q : Nat) (data : List Byte) (bad : BitVec 4) (unflagged : x.isFlag = false) :
    ∃ t, exec (.performedAck ⟨peer, q⟩ seq data bad) s = .next t ∧ t.fab.tx = s.fab.tx.filter (fun y => !(y.peer == peer && y.seq == seq))
      ∧ fabricOf t n = some { f with acked := tins f.acked x.localOff x.length } := by
  obtain ⟨-, rfl, rfl⟩ := txOf_found found
  refine packet_gone (q := q) (len := data.length) alone whole stored ?_
  simp only [exec, execPerformedAck, txOf_countIn, found,
    txPerformed_put owner ((fabricOf_countIn q data.length s n).trans runs) put unfenced unflagged data bad]

theorem negativeAck_put (q reason : Nat) (goes : f.stop = none) : ∃ t, exec (.negativeAckReceive ⟨peer, q⟩ seq reason) s = .next t
    ∧ t.fab.tx = s.fab.tx.filter (fun y => !(y.peer == peer && y.seq == seq))
    ∧ fabricOf t n = some { f with
      stop := some { status := 0x32, fabricForm := true, node := peer, address := x.offset, reason := reason } } := by
  obtain ⟨-, rfl, rfl⟩ := txOf_found found
  refine packet_gone (q := q) (len := 0) alone whole stored ?_
  simp only [exec, execNegativeAckReceive, txOf_countIn, found,
    txFails_put owner ((fabricOf_countIn q 0 s n).trans runs) put unfenced goes 0x32 reason]
  rfl

end

/-! ### A packet that is sent again (R278, R279) -/

/-- With a route a packet goes out again, and nothing else changes. -/
theorem resend_sends {s u : State} {t : TxPkt} (same : SameTraffic s u) (routed : pickPort s s.fab.active t.peer ≠ none) :
    TrafficOnly u (resend t u) ∧ ∀ r, pickPort s s.fab.active t.peer = some r →
      SendsOut s (resend t u) { port := r, msg := .request t, len := reqPayload t, bank := s.fab.active } := by
  obtain ⟨r, route⟩ := Option.ne_none_iff_exists'.1 routed
  have picked : pickPort u u.fab.active t.peer = some r := by rw [same.pickPort, same.active, route]
  have goes : resend t u = transmit { port := r, msg := .request t, len := reqPayload t, bank := s.fab.active } true t.peer u := by
    simp only [resend, sendPacket, picked]
    rw [same.active]
  rw [goes]
  refine ⟨transmit_trafficOnly .., fun r' route' => ?_⟩
  obtain rfl : r = r' := Option.some.inj (route.symm.trans route')
  exact sendsOut_transmit same _ _ _

/-- What marking packets and counting a retransmission leaves of the traffic. -/
theorem countRetransmit_same (s : State) : SameTraffic s (countRetransmit s) := .ofPorts rfl rfl rfl rfl rfl

theorem onTx_same (peer seq : Nat) (f : TxPkt → TxPkt) (s : State) : SameTraffic s (onTx peer seq f s) := .ofPorts rfl rfl rfl rfl rfl

section
variable {s : State} {peer seq : Nat} {x : TxPkt} (found : txOf s peer seq = some x) (routed : pickPort s s.fab.active peer ≠ none)
include found

theorem rtoExpire_over (ended : x.received = true ∨ field x.e2e 44 4 ≤ x.resends) : exec (.rtoExpire peer seq) s = .next s := by
  rcases ended with ended | ended <;> simp [exec, execRtoExpire, found, ended]

include routed

theorem gapNotice_resends (q : Nat) : ∃ t, exec (.gapNoticeReceive ⟨peer, q⟩ seq) s = .next t
    ∧ t.fab.retransmits = advance s.fab.retransmits 1 ∧ t.fab.tx = s.fab.tx ∧ ∀ r, pickPort s s.fab.active peer = some r →
      SendsOut s t { port := r, msg := .request x, len := reqPayload x, bank := s.fab.active } := by
  obtain ⟨-, rfl, rfl⟩ := txOf_found found
  obtain ⟨ports, counted⟩ := countIn_eq q 0 s
  obtain ⟨only, sent⟩ := resend_sends ((countIn_same q 0 s).trans (countRetransmit_same _)) routed
  refine ⟨_, ?_, ?_, ?_, sent⟩
  · simp only [exec, execGapNoticeReceive, txOf_countIn, found]
  · rw [only.retransmits, counted]
    rfl
  · rw [only.tx, counted]
    rfl

theorem rtoExpire_resends (waits : x.received = false) (again : x.resends < field x.e2e 44 4) : ∃ t, exec (.rtoExpire peer seq) s = .next t
    ∧ t.fab.retransmits = advance s.fab.retransmits 1
    ∧ t.fab.tx = s.fab.tx.map (fun y => if y.peer = peer ∧ y.seq = seq then { y with resends := y.resends + 1 } else y)
    ∧ ∀ r, pickPort s s.fab.active peer = some r →
      SendsOut s t { port := r, msg := .request x, len := reqPayload x, bank := s.fab.active } := by
  obtain ⟨-, rfl, rfl⟩ := txOf_found found
  obtain ⟨only, sent⟩ := resend_sends
    ((onTx_same x.peer x.seq (fun t => { t with resends := t.resends + 1 }) s).trans (countRetransmit_same _)) routed
  have due : (x.received || decide (field x.e2e 44 4 ≤ x.resends)) = false := by simp [waits, again]
  refine ⟨_, ?_, only.retransmits.trans rfl, only.tx.trans rfl, sent⟩
  simp only [exec, execRtoExpire, found, due, Bool.false_eq_true, if_false]

theorem busyResend_resends (busy : x.busy = true) : ∃ t, exec (.busyResend peer seq) s = .next t ∧ t.fab.retransmits = s.fab.retransmits
    ∧ t.fab.tx = s.fab.tx.map (fun y => if y.peer = peer ∧ y.seq = seq then { y with busy := false } else y) := by
  obtain ⟨-, rfl, rfl⟩ := txOf_found found
  obtain ⟨only, -⟩ := resend_sends (t := { x with busy := false }) (onTx_same x.peer x.seq (fun t => { t with busy := false }) s) routed
  refine ⟨_, ?_, only.retransmits.trans rfl, only.tx.trans rfl⟩
  simp only [exec, execBusyResend, found, busy, if_true]

end

/-! ### The timeout of a peer (R278) -/

theorem stopProgram_fab (n : Nat) (r : Res) (s : State) : (stopProgram n r s).fab = s.fab := by
  unfold stopProgram
  split
  · split <;> rfl
  · rfl

theorem stopChain_fab (n : Nat) (r : Res) (tile : Nat) (s : State) : (stopChain n r tile s).fab = s.fab := by
  unfold stopChain
  split
  · split
    · rfl
    · split <;> rfl
  · rfl

theorem engineFails_fab (t : TxPkt) (e k status reason : Nat) (s : State) : (engineFails t e k status reason s).fab = s.fab := by
  unfold engineFails
  split
  · split
    · exact stopProgram_fab ..
    · rfl
  · split
    · exact stopProgram_fab ..
    · rfl

/-- The end of a sender's operation leaves the fabric's own state. -/
theorem txFails_fab (t : TxPkt) (status reason : Nat) (s : State) : (txFails t status reason s).fab = s.fab := by
  unfold txFails
  split
  · split
    · rfl
    · split
      · rfl
      · exact stopChain_fab ..
    · split <;> rfl
    · split <;> rfl
  · split
    · rfl
    · exact engineFails_fab ..
  · split <;> rfl
  · rfl

/-- Packets that fail are unacknowledged no more. -/
theorem failAll_fab : ∀ (l : List TxPkt) (s : State), let t := l.foldl (fun s t => txFails t 0x51 0 (txEnd t true s)) s
    t.fab.broken = s.fab.broken ∧ ∀ y ∈ t.fab.tx, y ∈ s.fab.tx ∧ y ∉ l
  | [], s => ⟨rfl, fun y mem => ⟨mem, List.not_mem_nil⟩⟩
  | x :: l, s => by
    obtain ⟨broken, left⟩ := failAll_fab l (txFails x 0x51 0 (txEnd x true s))
    rw [txFails_fab, txEnd_fab] at broken left
    refine ⟨broken, fun y mem => ?_⟩
    obtain ⟨kept, other⟩ := left y mem
    obtain ⟨before, named⟩ := List.mem_filter.1 kept
    refine ⟨before, fun listed => ?_⟩
    rcases List.mem_cons.1 listed with rfl | later
    · simp at named
    · exact other later

/-- Every packet to the peer is over, its context waits for its handshake, and nothing is sent to it again. -/
theorem e2eTimeout_breaks {s : State} {peer seq : Nat} {x : TxPkt} (found : txOf s peer seq = some x) :
    ∃ t, exec (.e2eTimeout peer) s = .next t ∧ peer ∈ t.fab.broken ∧ ∀ y ∈ t.fab.tx, y.peer ≠ peer := by
  obtain ⟨mem, rfl, rfl⟩ := txOf_found found
  have mine : x ∈ s.fab.tx.filter fun t => t.peer == x.peer := List.mem_filter.2 ⟨mem, beq_self_eq_true _⟩
  have some_ : (s.fab.tx.filter fun t => t.peer == x.peer).isEmpty = false := by
    cases h : s.fab.tx.filter fun t => t.peer == x.peer with
    | nil => rw [h] at mine; cases mine
    | cons => rfl
  obtain ⟨-, left⟩ := failAll_fab (s.fab.tx.filter fun t => t.peer == x.peer) s
  have none_left : ∀ y ∈ ((s.fab.tx.filter fun t => t.peer == x.peer).foldl (fun s t => txFails t 0x51 0 (txEnd t true s)) s).fab.tx,
      y.peer ≠ x.peer := fun y listed same => by
    obtain ⟨before, other⟩ := left y listed
    exact other (List.mem_filter.2 ⟨before, beq_iff_eq.2 same⟩)
  simp only [exec, execE2eTimeout, some_, Bool.false_and, Bool.false_eq_true, if_false]
  generalize (s.fab.tx.filter fun t => t.peer == x.peer).foldl (fun s t => txFails t 0x51 0 (txEnd t true s)) s = u at none_left ⊢
  have shaken := answer_trafficOnly x.peer 0 (.handshake x.peer false) (u.onFab fun f => { f with broken := setAdd f.broken x.peer })
  generalize answer x.peer 0 (.handshake x.peer false) (u.onFab fun f => { f with broken := setAdd f.broken x.peer }) = v at shaken ⊢
  have broken : v.fab.broken = setAdd u.fab.broken x.peer := shaken.broken
  have waits : x.peer ∈ v.fab.broken := by
    rw [broken]
    exact mem_setAdd.2 (.inl rfl)
  obtain ⟨kept, sends⟩ := fabricRoom_sendsWhole v
  refine ⟨_, rfl, kept ▸ waits, fun y listed => ?_⟩
  rcases sends y listed with before | whole
  · rw [shaken.tx] at before
    exact none_left y before
  · exact fun same => whole (same ▸ waits)

/-! ### The handshake (R278) -/

theorem rxOf_forgotten (s : State) (peer : Nat) : rxOf (s.onFab fun f => { f with rx := tdel f.rx peer }) peer = {} := by
  simp only [rxOf, State.onFab_fab, tget, tfind_tdel_same, Option.getD_none]

/-- The peer's own handshake makes this module forget its packets and answer. -/
theorem handshake_forgets (s : State) (peer q : Nat) : ∃ t, exec (.e2eHandshake ⟨peer, q, false⟩) s = .next t ∧ rxOf t peer = {}
    ∧ t.fab.broken = s.fab.broken ∧ t.fab.nextSeq = s.fab.nextSeq
    ∧ ∀ r, pickPort s s.fab.active peer = some r → AnswersOut s t r 0 (.handshake peer true) := by
  obtain ⟨ports, counted⟩ := countIn_eq q 0 s
  have forgot : SameTraffic (countIn q 0 s) ((countIn q 0 s).onFab fun f => { f with rx := tdel f.rx peer }) := .ofPorts rfl rfl rfl rfl rfl
  have only := answer_trafficOnly peer 0 (.handshake peer true) ((countIn q 0 s).onFab fun f => { f with rx := tdel f.rx peer })
  refine ⟨answer peer 0 (.handshake peer true) ((countIn q 0 s).onFab fun f => { f with rx := tdel f.rx peer }), ?_,
    (PacketsPerformed.answer_rxOf ..).trans (rxOf_forgotten ..), only.broken.trans ?_, only.nextSeq.trans ?_,
    fun r route => answersOut_answer ((countIn_same q 0 s).trans forgot) peer 0 _ route⟩
  · simp only [exec, execE2eHandshake, Bool.false_eq_true, if_false]
  · rw [counted]
    rfl
  · rw [counted]
    rfl

/-- The answer lets the context begin again with number 0. -/
theorem handshake_restarts {s : State} {peer : Nat} (q : Nat) (waits : peer ∈ s.fab.broken) :
    ∃ t, exec (.e2eHandshake ⟨peer, q, true⟩) s = .next t ∧ peer ∉ t.fab.broken
      ∧ (s.rings = [] → tget 0 t.fab.nextSeq peer = 0 ∧ t.fab.rx = s.fab.rx) := by
  obtain ⟨ports, counted⟩ := countIn_eq q 0 s
  have broken : (countIn q 0 s).fab.broken.contains peer = true := by
    rw [counted]
    exact List.contains_iff_mem.2 waits
  have runs : exec (.e2eHandshake ⟨peer, q, true⟩) s = .next (fabricRoom ((countIn q 0 s).onFab fun f => { f with
      broken := without f.broken peer, nextSeq := tdel f.nextSeq peer })) := by
    simp only [exec, execE2eHandshake, broken, if_true]
  obtain ⟨kept, -⟩ := fabricRoom_sendsWhole ((countIn q 0 s).onFab fun f => { f with
      broken := without f.broken peer, nextSeq := tdel f.nextSeq peer })
  refine ⟨_, runs, fun still => ?_, fun quiet => ?_⟩
  · rw [kept] at still
    exact (mem_without.1 still).2 rfl
  · have idle : fabricRoom ((countIn q 0 s).onFab fun f => { f with broken := without f.broken peer, nextSeq := tdel f.nextSeq peer })
        = wakeEngines ((countIn q 0 s).onFab fun f => { f with broken := without f.broken peer, nextSeq := tdel f.nextSeq peer }) := by
      simp only [fabricRoom, State.onFab_rings, counted, quiet, List.foldl_nil]
    rw [idle, wakeEngines_fab, State.onFab_fab, counted]
    exact ⟨by simp only [tget, tfind_tdel_same, Option.getD_none], rfl⟩

/-! ### The statement -/

/-- Settles O45: what is sent again goes out as it was first sent, and what goes on after a packet's end sends nothing to a peer whose
context waits for its handshake. -/
theorem sendersFollowTheirAcknowledgements : Obligations.SendersFollowTheirAcknowledgements := by
  intro s peer seq q x found
  refine ⟨fun up => countIn_port up 0, ?_, ?_, fun n f owner runs alone put whole unfenced stored goes => ⟨?_, ?_, ?_⟩,
    fun routed => gapNotice_resends found routed q, rtoExpire_resends found, rtoExpire_over found, busyResend_resends found,
    e2eTimeout_breaks found, handshake_restarts q, handshake_forgets s peer q⟩
  · exact congrArg _ (marks_packet q peer seq _ s)
  · exact congrArg _ (marks_packet q peer seq _ s)
  · exact fun data bad unflagged => performedAck_put found owner runs alone put whole unfenced stored q data bad unflagged
  · exact fun data bad flag => performedAck_flag found owner runs alone whole stored q data bad flag
  · exact fun reason => negativeAck_put found owner runs alone put whole unfenced stored q reason goes

end Sys2Proof.Proofs.SenderAcknowledgements
end
